-- ==== Sys2Proof/Word.lean ====
section
/-! DEFINITION. The word types of the part (R3, R145) and their plainest arithmetic. -/
namespace Sys2Proof

/-- A byte of memory (R3). -/
abbrev Byte := BitVec 8
/-- An operand: a 32-bit word (R145). -/
abbrev W32 := BitVec 32
/-- A 64-bit word: a handler word (R56), a tag (R47), a register of BAR 0 (R26). -/
abbrev W64 := BitVec 64

end Sys2Proof
end

