-- ==== Sys2Proof/Config.lean ====
section
/-! DEFINITION. What an implementation fixes and the values the spec leaves open. Each is an opaque constant without a
body: nothing can be proved of its value, so a claim holds whatever it is. A value that may differ from one use to the
next is applied to the counter `freeCount` of the state. -/
namespace Sys2Proof

/-- A free truth value: whether a signature verifies (R19), whether a stage of a die's bring-up succeeds (R21). -/
opaque Config.freeBool : Nat → Bool

/-- A free number: a sample of a physical counter (R107), a virt access's latency in cycles (R245). -/
opaque Config.freeNat : Nat → Nat

/-- A free entry of a bay's bad-node register, from BIST or fuses (R18, R114). -/
opaque Config.freeBadNode : Nat → BitVec 16

/-- A free byte: the device-defined bytes of a save area (R347). -/
opaque Config.freeByte : Nat → Byte

/-- Size in MiB of the kernel's annex pool (R113). -/
opaque Config.annexPool : Nat

/-- Signatures that the device's LMS tree can make beyond its first (R25). -/
opaque Config.lmsMore : Nat

/-- Signatures that the device's LMS tree can make (R25): a tree has a leaf. -/
def Config.lmsCapacity : Nat := Config.lmsMore + 1

/-- The part's DRAM in 64 KiB chunks (R1): 192 GiB stacked and 512 GiB of LPDDR6, a fourth of each on every compute die. -/
def Config.stackedChunks : Nat := 192 * 16384
@[inherit_doc Config.stackedChunks] def Config.moduleChunks : Nat := 512 * 16384

/-- The place in its die's DRAM, stacked DRAM first, in which a 64 KiB chunk of physical memory begins (R124): a number that counts modulo
the chunks that a die holds. -/
opaque Config.chunkPlace : Nat → Nat

/-- Whether a 64 KiB chunk of physical memory belongs to another device of the load-store domain (R16). -/
opaque Config.remoteChunk : Nat → Bool

/-- A free signature: one of the two of an attestation report (R25). -/
opaque Config.freeSignature : Nat → List Byte

/-- The die on which a 64 KiB chunk of physical memory is homed (R124). -/
opaque Config.homeDie : Nat → Nat

/-- The vault or channel in which the translation unit has placed a chunk (R124, R259): its number before it is taken
modulo 64 or 16. -/
opaque Config.homePort : Nat → Nat

end Sys2Proof
end

