-- ==== Sys2Proof/Syntax.lean ====
section
/-! DEFINITION. The syntax of the part: tags, tokens, cells, destinations, the fields of handler words
(R56, R57) and of Colophon words (R370), and Instr, one constructor per row of the table of steps.
A row with no encoding (an event or a command) carries the name of the unit it happens in. -/
namespace Sys2Proof

/-- Matching mode of a handler, `MODE` (R56, R59). -/
inductive Mode where
  | queue | frame | accord | trigger
deriving DecidableEq, Repr

/-- Tag operation, `TAGOP` (R48, R62). -/
inductive TagOp where
  | keep | next | enter | leave | push | pop | call | ret | zeroIter | flat
deriving DecidableEq, Repr

/-- Operand type, `TYPE` (R63). -/
inductive Ty where
  | i32 | n32 | f32 | bf16x2 | f16x2 | e4m3x4 | e5m2x4 | e2m1x8 | i8x4 | i16x2 | n16x2 | n8x4 | b32
deriving DecidableEq, Repr

/-- A 20-bit destination (R64). -/
inductive Dest where
  | element (index : BitVec 13) (port : BitVec 2) (hnd : BitVec 3)
  | exit (n : BitVec 3)
  | cont (n : BitVec 6)
  | sink
  | park
  | slot (n : BitVec 12)
deriving DecidableEq, Repr

/-- Bits [19:0] of a format D word: a second destination, or the sync queue when `P` or `W` is set (R57, R61). -/
inductive DestOrSq where
  | dest (d : Dest)
  | sq (n : BitVec 4)
deriving DecidableEq, Repr

/-- The fields that every handler word has (R56, R61). -/
structure Hdr where
  mode : Mode
  arity : BitVec 2
  tagop : TagOp
  ty : Ty
  fI : Bool
  fP : Bool
  fW : Bool
  fK : Bool
deriving DecidableEq, Repr

/-- Format D (R57). -/
structure FD where
  d0 : Dest
  d1 : DestOrSq
deriving DecidableEq, Repr

/-- Format I (R57). -/
structure FI where
  d0 : Dest
  imm : BitVec 20
deriving DecidableEq, Repr

/-- "D, or I": format D when flag `I` is 0, format I when it is 1 (R58). -/
inductive FDI where
  | d (b : FD)
  | i (b : FI)
deriving DecidableEq, Repr

/-- Format M (R57). -/
structure FM where
  window : BitVec 6
  own : BitVec 6
  predd : BitVec 3
  succd : BitVec 3
  o : Bool
  ax : Bool
  d0 : Dest
deriving DecidableEq, Repr

/-- Format X (R57). -/
structure FX where
  z : Bool
  k : Bool
  f : Bool
  s : Bool
  dtel : BitVec 13
  dtport : BitVec 2
  shape : BitVec 20
deriving DecidableEq, Repr

/-- Format Y (R57). -/
structure FY where
  scode : BitVec 8
  sarg : BitVec 12
  d0 : Dest
deriving DecidableEq, Repr

/-- A tag (R47): frame, steer history, and the six iteration fields, outermost first. -/
structure Tag where
  frame : BitVec 16
  path : BitVec 6
  it0 : BitVec 7
  it1 : BitVec 7
  it2 : BitVec 7
  it3 : BitVec 7
  it4 : BitVec 7
  it5 : BitVec 7
deriving DecidableEq, Repr

/-- Token and cell kinds (R44). -/
inductive Kind where
  | data | eos | exit | freeze | config | poison | retire | reserved
deriving DecidableEq, Repr

/-- A queue entry (R40): bits [111:0] of a token. `par` is `PAR`, which is right when all 128 bits hold an even number of ones. `prior` is
the model's own: numbers of the deferred stores and frame-slot writes from which it descends along token arcs (R212, R282). -/
structure QEntry where
  hnd : BitVec 3
  ctx : BitVec 2
  pred : Bool
  kind : Kind
  par : Bool
  cont : BitVec 6
  operand : W32
  tag : Tag
  prior : List Nat
deriving DecidableEq, Repr

/-- A token (R42): its destination element, port and reserved bit, and its queue entry. -/
structure Token where
  el : BitVec 13
  port : BitVec 2
  rsvd : Bool
  q : QEntry
deriving DecidableEq, Repr

/-- A cell (R53): the fields of its 32-byte header in their order but for `CPAR`, which stands last, and its payload of 256 bytes. -/
structure Cell where
  tag : Tag
  live : BitVec 64
  voqseq : BitVec 16
  spos : BitVec 32
  win : BitVec 6
  note : BitVec 2
  mc : Bool
  o : Bool
  kind : Kind
  hnd : BitVec 3
  dportDie : BitVec 2
  dport : BitVec 8
  group : BitVec 8
  ctx : BitVec 2
  cont : BitVec 6
  dnodeEl : BitVec 7
  dnodePort : BitVec 2
  accid : BitVec 8
  accn : BitVec 2
  rsvd : BitVec 3
  cpar : BitVec 16
  payload : List Byte
deriving DecidableEq, Repr

/-- A side of an element: the four links (R41), its own output, and arrivals from memory tiles, the Exchange and the hub. -/
inductive Side where
  | north | east | south | west | own | outside
deriving DecidableEq, Repr

/-- Where a token stands before a hop (R127, R128): an output buffer of the element, or the link it came in on. -/
inductive HopSrc where
  | buf (dir : Side)
  | link (side : Side)
deriving DecidableEq, Repr

/-- A change that an element reports to the retire unit (R382): one iteration of one loop and the change of its pending count. -/
structure AckDelta where
  frame : Nat
  its : List Nat
  delta : Int
deriving DecidableEq, Repr

/-- A post on its way to a sync queue (R303): the queue, its context, the posting firing's tag and place, and what its credit descends from
(R305). -/
structure SqPost where
  sq : Nat
  ctx : Nat
  tag : Tag
  index : Nat
  hnd : Nat
  prior : List Nat
deriving DecidableEq, Repr

/-- What the kernel reads through the hub (R114, R363, R366 to R368): a bad-node entry, the counter of a memory tile, and a Colophon's registers
and program. -/
inductive KernelReg where
  | badNode (bay entry : Nat)
  | ecc (bay tile : Nat)
  | colControl (bay : Nat)
  | colStatus (bay : Nat)
  | colRegister (bay reg : Nat)
  | colProgram (bay word : Nat)
deriving DecidableEq, Repr

/-- A register access of the host or the kernel that has no row of its own (R5, R20, R26, R33, R114, R363, R367; bindings R90, R91, R243, R337; R374). -/
inductive RegAccess where
  | barWrite (off size : Nat) (value : W64)
  | barRead (off size : Nat)
  | badNode (bay entry : Nat) (value : BitVec 16)
  | eccClear (bay tile : Nat) (value : W64)
  | colFlagsClear (bay : Nat) (value : W64)
  | colFields (bay : Nat) (value : W64)
  | colProgram (bay : Nat) (words : List W32)
  | colRegister (bay reg : Nat) (value : W32)
  | queueSpace (queue space : Nat)
  | queuePriv (queue : Nat) (grants : Bool)
  | queueDies (queue : Nat) (mask : BitVec 4)
  | spaceRoot (space root : Nat)
  | timelinePages (base : Nat)
  | ackSaveFault (loan : Nat)
  | slipSave (sid : W64)
  | kernelRead (r : KernelReg)
deriving DecidableEq, Repr

/-- What the host, a Curator core or another device does to device memory (R28, R328). -/
inductive AgentOp where
  | read (len : Nat)
  | write (data : List Byte)
  | swap (v : W32)
  | add (v : W32)
  | bitAnd (v : W32)
  | bitOr (v : W32)
  | bitXor (v : W32)
  | minS (v : W32)
  | maxS (v : W32)
  | minU (v : W32)
  | maxU (v : W32)
  /-- An atomic of the fabric of another device (R288): its code, type and operands `b` and `c`. -/
  | atomic (op : BitVec 8) (ty : Ty) (b c : W32)
  | fence
deriving DecidableEq, Repr

/-- An access of an agent outside the fabric; `sc` when it carries aq and rl, or is a full fence (R328). -/
structure AgentAccess where
  op : AgentOp
  addr : Nat
  sc : Bool
deriving DecidableEq, Repr

/-- What arrives on a Thrum port (R16, R328): an access, a cell, the domain token; the answer of another device to an access of this one, with
what its memory held there, or to a commit of deferred stores. -/
inductive ThrumMsg where
  | access (a : AgentAccess)
  | cell (c : Cell)
  | domainToken
  | reply (access : Nat) (bytes : List (Nat × Byte))
  | committed (loan access : Nat)
deriving DecidableEq, Repr

/-- A glaed breakpoint (R396): a handler of a configuration, which its image's address names, and the tag fields that must match. -/
structure BreakSpec where
  cfg : Nat
  index : Nat
  hnd : Nat
  ctx : Option Nat
  frame : Option (BitVec 16)
  path : Option (BitVec 6)
  its : List (Nat × BitVec 7)
deriving DecidableEq, Repr

/-- A source as voser has assembled it (R393, R394): each image with its address, each virt window without `base=` by its image and number,
with its `.data` (R13), each slip with its queue, the words of the other virt windows, the timelines, the pool descriptors, the save areas and the demand pages. -/
structure GlaedSource where
  images : List (Nat × List Byte)
  windows : List (Nat × Nat × List W32)
  links : List (Nat × Nat × Nat)
  slips : List (Nat × List Byte)
  data : List (Nat × List W32)
  timelines : List (Nat × W64)
  pools : List Nat
  templates : List (Nat × List Byte)
  saves : List (Nat × Nat)
  demand : List Nat
deriving DecidableEq, Repr

/-- One step of the part: a row of spec/opcode_table.json each. Steps that only the outside world makes and steps
without operands stand last. -/
inductive Instr where
  /-- KERNEL_PAGE_INVALIDATE (R243): The kernel changes a translation entry and its invalidation completes once every access translated with the old entry has been performed or committed. -/
  | kernelPageInvalidate (space : Nat) (va : Nat) (entryAddr : Nat) (entry : W64)
  /-- MAILBOX_ANSWER (R32): The kernel writes its answer into MBO and sets ANS as a device-scope SC publication. -/
  | mailboxAnswer (words : List (Nat × W64))
  /-- DEMAND_PAGE_MAP (R379): The kernel maps a reserved page to zeroed memory and resumes the frames that faulted on it. -/
  | demandPageMap (space : Nat) (page : Nat)
  /-- WAKE_SEQUENCER_TICK (R22): Every 64 cycles the die's wake sequencer brings the next bay out of power gating, at bring-up in bay order and later in loan-grant order. -/
  | wakeSequencerTick (die : Nat)
  /-- BAY_GATE (R116): After 2^18 cycles with no loaned context, a bay is power-gated and all of its contexts become empty. -/
  | bayGate (bay : Nat)
  /-- HQ_DISABLE (R28): Clearing EN stops the reading of the queue once the slip being read has been accepted or refused. -/
  | hqDisable (queue : Nat)
  /-- FQ_RING_SETUP (R30): A write to FQBASE or FQSIZE sets HEAD and TAIL of the fault ring to 0. -/
  | fqRingSetup (size : Bool) (value : W64)
  /-- FQHEAD_WRITE (R30): The host consumes fault records by advancing FQHEAD, or the write is ignored and sets FQH. -/
  | fqheadWrite (value : W64)
  /-- HOST_TIMELINE_INCREMENT (R31): A host write to the timeline window adds an increment to the timeline as a release, saturating with TL_SATURATE. -/
  | hostTimelineIncrement (timeline : Nat) (value : W64)
  /-- IMAGE_FETCH_DONE (R118): The configuration image has been read through the slip's address space and is validated under R81, or refused with CFG_REJECT. -/
  | imageFetchDone (loan : Nat)
  /-- CONFIG_WRITE_DONE (R118): The handler words and window data have been written; the primes and argument tokens are delivered and the start triggers fire. -/
  | configWriteDone (loan : Nat)
  /-- PREFETCH_DONE (R122): A prefetched image finishes its write and becomes resident, or leaves its context empty when it fails validation. -/
  | prefetchDone (id : Nat)
  /-- EPOCH_END (R124): At the end of each 2^20-cycle epoch the translation unit swaps its hottest LPDDR6 chunks with its coldest stacked-DRAM chunks. -/
  | epochEnd (die : Nat)
  /-- CHUNK_MOVE_DONE (R125): A chunk move completes, and the accesses held at the translation unit proceed in the new tier. -/
  | chunkMoveDone (die : Nat) (chunk : Nat)
  /-- TOKEN_HOP (R128): A token moves one link towards its destination element, checking its parity. -/
  | tokenHop (el : Nat) (src : HopSrc)
  /-- TOKEN_ARRIVE (R41): A token enters its destination queue, or waits on its link while the queue is full. -/
  | tokenArrive (el : Nat) (side : Side)
  /-- FIRING_RESULT_WRITE (R127): After the instruction's latency, the firing's result is written into its reserved output entry. -/
  | firingResultWrite (el : Nat) (id : Nat)
  /-- WEIGHT_RECOMPUTE (R130): Every 1,024 cycles the element recomputes each handler's round-robin weight from its token occupancy. -/
  | weightRecompute (el : Nat)
  /-- MATCH_TOKEN (R135): The match unit takes one frame-mode token and looks up or fills its frame slots. -/
  | matchToken (el : Nat)
  /-- MATCH_DONE (R135): Four cycles after a token is taken, its completed match enters the ready list. -/
  | matchDone (el : Nat)
  /-- FRAME_SLOT_WRITE (R138): A frame-slot destination writes its operand into the slot with P 1 and SW 1. -/
  | frameSlotWrite (el : Nat)
  /-- FRAME_SPILL (R137): After 4,096 cycles with no firing and a CALLF waiting, the least recently touched frame is spilled to the annex. -/
  | frameSpill (loan : Nat)
  /-- FRAME_REFILL (R299): A token for a spilled frame causes the frame to be refilled, spilling others if needed, and then the token is matched. -/
  | frameRefill (loan : Nat) (frame : Nat)
  /-- RAMP_TURN_END (R222): A ramping tile's 16-cycle turn ends, the tile enters matrix mode and its MXCFG outputs are emitted. -/
  | rampTurnEnd (loan : Nat)
  /-- FEED_BEAT (R254): A feeder reads the next line under its layout record and delivers one operand beat, with any scale token ahead of its block. -/
  | feedBeat (loan : Nat) (index : Nat) (isB : Bool)
  /-- MATRIX_STEP (R225): An element performs one step of its run once its beats, scales and forwarding room are present. -/
  | matrixStep (el : Nat) (ctx : Nat)
  /-- RUN_END (R226): After the last step is written, the run drains its accumulators or sends its keep token to the drain target. -/
  | runEnd (el : Nat) (ctx : Nat)
  /-- LAYOUT_RECORD_APPLY (R255): A waiting layout record takes effect once no stream is open, and the beat counter resets to 0. -/
  | layoutRecordApply (bay : Nat) (tile : Nat) (ctx : Nat) (isB : Bool)
  /-- TLB_WALK_DONE (R244): A translation walk completes, filling the TLBs and prefetching translations at the stride of the last misses. -/
  | tlbWalkDone (id : Nat)
  /-- WAVE_ACCESS_ARRIVE (R249): An access arrives at the region's wave buffer and is performed if it is performable, or takes an entry. -/
  | waveAccessArrive (id : Nat)
  /-- ACCESS_PERFORM (R247): A performable access of a wave is performed, setting the wave's L and s. -/
  | accessPerform (id : Nat)
  /-- BANK_ACCESS (R242): Each cycle a bank performs its oldest waiting access, merging any that may merge. -/
  | bankAccess (bay : Nat) (tile : Nat) (bank : Nat)
  /-- AINCB_ROUND_END (R289): At the end of a round, the held AINCB claims to a word are performed in ascending claimant key. -/
  | aincbRoundEnd (place : Nat)
  /-- DECANT_TRIGGER (R257): A trigger reaching an armed template is taken into the bay's fire queue. -/
  | decantTrigger (el : Nat)
  /-- DECANT_BLOCK_DONE (R257): A decanter finishes copying one block, and after the last block sends the completion as a release. -/
  | decantBlockDone (bay : Nat) (decanter : Nat)
  /-- DECANT_ARM_APPLY (R295): A DARM or DCAN reaches the template's TRIG element and changes ARM at the end of that cycle. -/
  | decantArmApply (id : Nat)
  /-- CELL_ENQUEUE (R262): A cell enters its VOQ or multicast queue, taking VOQSEQ, or its producer stalls. -/
  | cellEnqueue (id : Nat)
  /-- EXCHANGE_SLOT (R264): Every 4 cycles each plane runs three request-grant-accept iterations and sends the matched heads. -/
  | exchangeSlot (die : Nat)
  /-- INGRESS_CELL (R270): A bay ingress checks a cell, writes its live payload words and sends its completion token. -/
  | ingressCell (bay : Nat)
  /-- MEMORY_PORT_CELL (R271): A memory port performs the next cell or request cell of a VOQ in VOQSEQ order. -/
  | memoryPortCell (die : Nat) (port : Nat)
  /-- LAG_DROP (R277): A lag-drop member still in a cell's residue 4,096 slots after entry is dropped from that cell. -/
  | lagDrop (die : Nat) (port : Nat) (id : Nat)
  /-- TLWAIT_MET (R104): A registered wait is met by a timeline value and emits its answer as an acquire. -/
  | tlwaitMet (id : Nat)
  /-- LAUNCH_ACCEPT (R105): The launched slip has been read and accepted or refused, and LAUNCH emits its output. -/
  | launchAccept (id : Nat)
  /-- WATCH_SAMPLE (R107): Every 256 cycles a watch samples its counter and releases its management slip when the threshold is crossed. -/
  | watchSample (watch : Nat)
  /-- SQ_CLAIM_ARRIVE (R302): A claim reaches bay 0 and is granted in order when the count is above 0. -/
  | sqClaimArrive (loan : Nat) (index : Nat) (hnd : Nat)
  /-- SQ_GRANT_ARRIVE (R302): A grant reaches its element and sets the handler's credit latch. -/
  | sqGrantArrive (loan : Nat) (index : Nat) (hnd : Nat)
  /-- SQ_POST_ARRIVE (R303): A post reaches bay 0 and adds one credit, saturating with ILLEGAL_HANDLER at 65,535. -/
  | sqPostArrive (loan : Nat) (post : SqPost)
  /-- BARRIER_ARRIVE (R311): An arrival is counted at its barrier record, and the last arrival of an episode releases every waiting party. -/
  | barrierArrive (id : Nat)
  /-- WATCHDOG_EXPIRE (R315): A region with tokens and no firing for 2^20 cycles starts a stocktake. -/
  | watchdogExpire (loan : Nat)
  /-- RETIRE_ACK (R382): A retire acknowledgement token reaches bay 0 and changes an iteration's pending count. -/
  | retireAck (loan : Nat) (deltas : List AckDelta)
  /-- ITERATION_RETIRE (R383): The oldest ready iteration retires, releasing its deferred stores in order and setting its pass bits. -/
  | iterationRetire (loan : Nat)
  /-- EXIT_TAKEN (R384): The exit logic takes the first exit token, stops all firing of the loan and begins the exit drain. -/
  | exitTaken (loan : Nat)
  /-- EXIT_DRAIN_DONE (R385): The drain ends and the exit entry is applied, returning the loan or starting the successor image. -/
  | exitDrainDone (loan : Nat)
  /-- LOAN_RETURN (R386): The loan returns: the completion increment is made, reserves are freed and a return record is written. -/
  | loanReturn (loan : Nat)
  /-- KERNEL_RESUME (R340): The kernel resumes or abandons a parked frame through the hub, as RESUME does. -/
  | kernelResume (loan : Nat) (frame : Nat) (abandon : Bool)
  /-- SWITCH_REQUEST (R346): A full context switch of a loan stops its firing and begins the drain. -/
  | switchRequest (loan : Nat)
  /-- SWITCH_DRAIN_DONE (R346): The switch drain settles and scan-out begins. -/
  | switchDrainDone (loan : Nat)
  /-- SCAN_OUT_DONE (R349): Every save write has been acknowledged; STATE becomes 2 and the contexts are released. -/
  | scanOutDone (loan : Nat)
  /-- RESTORE (R350): A marked switched-out slip is restored on its rectangle: the save is checked, the blocks are written back and the tokens redelivered. -/
  | restore (loan : Nat)
  /-- FREEZE_MARKER_ARRIVE (R352): A freeze marker reaches an element, which stops firing the calling activation. -/
  | freezeMarkerArrive (loan : Nat) (bay : Nat)
  /-- FREEZE_POINT (R352): At the freeze point every element pushes its plane, and the callee's arguments and start triggers enter. -/
  | freezePoint (loan : Nat)
  /-- PLANE_SPILL_DONE (R353): A frozen plane has been spilled to the annex, freeing a plane for the call. -/
  | planeSpillDone (loan : Nat)
  /-- THAW_POP (R356): The caller's plane is popped, and its landed, held and result tokens are re-sent in order. -/
  | thawPop (loan : Nat)
  /-- COLOPHON_RUN (R367): Writing RUN 1 starts the Colophon program at START and clears CLSTAT. -/
  | colophonRun (bay : Nat) (value : W64)
  /-- COLOPHON_HALT (R367): Writing RUN 0 halts the program after the instruction in progress. -/
  | colophonHalt (bay : Nat)
  /-- COLOPHON_CAPTURE (R369): Writing CAP redirects the bay's drains of context CCTX into the result port, or discards the port's words. -/
  | colophonCapture (bay : Nat) (value : W64)
  /-- IADD (R161): Adds the lanes of a and b modulo 2^w. -/
  | iadd (h : Hdr) (b : FDI)
  /-- ISUB (R161): Subtracts the lanes of b from a modulo 2^w. -/
  | isub (h : Hdr) (b : FDI)
  /-- IMUL (R161): Multiplies the lanes modulo 2^w. -/
  | imul (h : Hdr) (b : FDI)
  /-- IMULH (R161): Gives the high half of each lane's exact product. -/
  | imulh (h : Hdr) (b : FDI)
  /-- IMAD (R162): Gives x times y plus z in each lane, modulo 2^w. -/
  | imad (h : Hdr) (b : FD)
  /-- INEG (R163): Negates each lane modulo 2^w. -/
  | ineg (h : Hdr) (b : FD)
  /-- IABS (R163): Gives the absolute value of each lane. -/
  | iabs (h : Hdr) (b : FD)
  /-- IMIN (R161): Gives the smaller of the lanes. -/
  | imin (h : Hdr) (b : FDI)
  /-- IMAX (R161): Gives the larger of the lanes. -/
  | imax (h : Hdr) (b : FDI)
  /-- IADDS (R161): Adds the lanes with saturation to the lane's range. -/
  | iadds (h : Hdr) (b : FDI)
  /-- ISUBS (R161): Subtracts the lanes with saturation to the lane's range. -/
  | isubs (h : Hdr) (b : FDI)
  /-- ICMP (R164): Compares integers under a condition code and gives 0, 1 or a lane-bit word. -/
  | icmp (h : Hdr) (b : FI)
  /-- AND (R165): Bitwise AND of a and b. -/
  | and (h : Hdr) (b : FDI)
  /-- OR (R165): Bitwise OR of a and b. -/
  | or (h : Hdr) (b : FDI)
  /-- XOR (R165): Bitwise XOR of a and b. -/
  | xor (h : Hdr) (b : FDI)
  /-- ANDN (R165): Bitwise a AND NOT b. -/
  | andn (h : Hdr) (b : FDI)
  /-- NOT (R163): Bitwise complement of a. -/
  | not (h : Hdr) (b : FD)
  /-- SHL (R165): Shifts each lane left, filling with zeros. -/
  | shl (h : Hdr) (b : FDI)
  /-- SHR (R165): Shifts each lane right, filling with zeros. -/
  | shr (h : Hdr) (b : FDI)
  /-- SHRA (R165): Shifts each lane right, filling with the sign bit. -/
  | shra (h : Hdr) (b : FDI)
  /-- ROTL (R165): Rotates each lane left. -/
  | rotl (h : Hdr) (b : FDI)
  /-- CLZ (R163): Counts the leading zero bits of each lane. -/
  | clz (h : Hdr) (b : FD)
  /-- POPC (R163): Counts the one bits of each lane. -/
  | popc (h : Hdr) (b : FD)
  /-- BREV (R163): Reverses the bits of each lane. -/
  | brev (h : Hdr) (b : FD)
  /-- BFX (R166): Extracts a bit field, sign-extending it for i32. -/
  | bfx (h : Hdr) (b : FI)
  /-- BFI (R166): Inserts b into a bit field of a. -/
  | bfi (h : Hdr) (b : FI)
  /-- IADDC (R162): Adds with carry, sending the sum to DEST0 and the carry word to DEST1. -/
  | iaddc (h : Hdr) (b : FD)
  /-- LEA (R167): Gives a plus b shifted left, modulo 2^32. -/
  | lea (h : Hdr) (b : FI)
  /-- CELLKEY (R168): Forms a 2-D or 3-D Morton key from coordinates. -/
  | cellkey (h : Hdr) (b : FI)
  /-- CELLHASH (R169): Hashes a key to a bucket by multiplication. -/
  | cellhash (h : Hdr) (b : FI)
  /-- NBRKEY (R170): Steps a Morton key to a neighbour, emitting dead outside a bounded grid. -/
  | nbrkey (h : Hdr) (b : FI)
  /-- ICLAMP (R162): Clamps each lane of x to the range from y to z. -/
  | iclamp (h : Hdr) (b : FD)
  /-- FADD (R171): Floating-point add, rounded to nearest even. -/
  | fadd (h : Hdr) (b : FDI)
  /-- FSUB (R171): Floating-point subtract, rounded to nearest even. -/
  | fsub (h : Hdr) (b : FDI)
  /-- FMUL (R171): Floating-point multiply, rounded to nearest even. -/
  | fmul (h : Hdr) (b : FDI)
  /-- FFMA (R171): Fused multiply-add with one rounding. -/
  | ffma (h : Hdr) (b : FD)
  /-- FMIN (R172): Gives the smaller float, preferring a number to a NaN. -/
  | fmin (h : Hdr) (b : FDI)
  /-- FMAX (R172): Gives the larger float, preferring a number to a NaN. -/
  | fmax (h : Hdr) (b : FDI)
  /-- FABS (R174): Gives the absolute value of a float. -/
  | fabs (h : Hdr) (b : FD)
  /-- FNEG (R174): Negates a float. -/
  | fneg (h : Hdr) (b : FD)
  /-- FCMP (R176): Compares floats under a condition code. -/
  | fcmp (h : Hdr) (b : FI)
  /-- FRCP (R174): Correctly rounded reciprocal, on the shared iterative unit. -/
  | frcp (h : Hdr) (b : FD)
  /-- FRSQ (R174): Correctly rounded reciprocal square root. -/
  | frsq (h : Hdr) (b : FD)
  /-- FEXP2 (R174): Correctly rounded 2 to the power a. -/
  | fexp2 (h : Hdr) (b : FD)
  /-- FLOG2 (R174): Correctly rounded base-2 logarithm. -/
  | flog2 (h : Hdr) (b : FD)
  /-- FSQRT (R174): Correctly rounded square root. -/
  | fsqrt (h : Hdr) (b : FD)
  /-- FSCALE (R173): Multiplies a by 2^n, with n taken from b. -/
  | fscale (h : Hdr) (b : FDI)
  /-- FROUND (R177): Rounds each lane to an integral value in the chosen mode. -/
  | fround (h : Hdr) (b : FI)
  /-- FCVT (R179): Converts between float and narrow formats. -/
  | fcvt (h : Hdr) (b : FI)
  /-- FTOI (R179): Converts a float to an integer type. -/
  | ftoi (h : Hdr) (b : FI)
  /-- ITOF (R179): Converts an integer to a float type. -/
  | itof (h : Hdr) (b : FI)
  /-- FCLASS (R175): Writes a class mask for each lane. -/
  | fclass (h : Hdr) (b : FD)
  /-- FDOT2 (R182): Two-lane dot product plus an f32 addend, with one rounding. -/
  | fdot2 (h : Hdr) (b : FD)
  /-- SEED (R183): Writes the element's random state and emits a. -/
  | seed (h : Hdr) (b : FD)
  /-- QPACK (R180): Converts an f32 into one narrow lane and shifts it into a packed word. -/
  | qpack (h : Hdr) (b : FI)
  /-- QUNPK (R181): Converts one narrow lane into a float. -/
  | qunpk (h : Hdr) (b : FI)
  /-- MOV (R184): Emits a to its destinations. -/
  | mov (h : Hdr) (b : FD)
  /-- MOVI (R185): Emits a sign-extended immediate. -/
  | movi (h : Hdr) (b : FI)
  /-- MOVHI (R185): Emits the immediate shifted left by 12, ORed with the low 12 bits of a. -/
  | movhi (h : Hdr) (b : FI)
  /-- SEL (R184): Emits b when a is non-zero, and c otherwise. -/
  | sel (h : Hdr) (b : FD)
  /-- SINK (R184): Consumes a and emits nothing. -/
  | sink (h : Hdr) (b : FD)
  /-- GETW (R186): Emits a working register of the plane. -/
  | getw (h : Hdr) (b : FI)
  /-- SETW (R186): Writes a into a working register and emits it. -/
  | setw (h : Hdr) (b : FI)
  /-- CONST (R185): Emits an immediate on each start trigger. -/
  | const (h : Hdr) (b : FI)
  /-- LIVE (R187): Emits b, live when a is non-zero and dead otherwise. -/
  | live (h : Hdr) (b : FD)
  /-- ISLIVE (R187): Emits 1 when a is live and 0 when it is dead. -/
  | islive (h : Hdr) (b : FD)
  /-- COUNT (R188): Emits one element of a counting stream per firing. -/
  | count (h : Hdr) (b : FI)
  /-- STRIDE (R188): Emits one element of a strided stream per firing. -/
  | stride (h : Hdr) (b : FI)
  /-- STEER (R193): Sends b to DEST0 or DEST1 according to the predicate a. -/
  | steer (h : Hdr) (b : FD)
  /-- STEERX (R194): Sends b through the continuation arm chosen by a. -/
  | steerx (h : Hdr) (b : FI)
  /-- MERGE (R195): Passes on a token from either arm. -/
  | merge (h : Hdr) (b : FD)
  /-- MERGEO (R196): Passes on tokens from either arm in iteration order. -/
  | mergeo (h : Hdr) (b : FD)
  /-- GATE (R197): Emits a once the token on b is present. -/
  | gate (h : Hdr) (b : FD)
  /-- PRIME (R201): Emits an immediate on each start trigger, priming a cycle. -/
  | prime (h : Hdr) (b : FI)
  /-- LOOPIN (R198): Admits a loop iteration from the entry or the back edge, within the bound. -/
  | loopin (h : Hdr) (b : FI)
  /-- NEXT (R199): Adds one to the innermost iteration field. -/
  | next (h : Hdr) (b : FD)
  /-- LOOPOUT (R199): Clears the innermost iteration field and sets the iteration's pass bits. -/
  | loopout (h : Hdr) (b : FD)
  /-- BOUND (R200): Passes a token only when its iteration is within the bound of the oldest. -/
  | bound (h : Hdr) (b : FI)
  /-- CALLF (R202): Allocates a frame and sends its operands to the callee's entry handler. -/
  | callf (h : Hdr) (b : FI)
  /-- RETF (R203): Returns a result through RCONT with the caller's tag and releases the frame. -/
  | retf (h : Hdr) (b : FD)
  /-- TAGRD (R204): Emits the tag of a as two words. -/
  | tagrd (h : Hdr) (b : FD)
  /-- TAGWR (R204): Replaces one field of the tag of a. -/
  | tagwr (h : Hdr) (b : FD)
  /-- EXIT (R205): Sends an exit token to the region's exit logic. -/
  | exit (h : Hdr) (b : FD)
  /-- ENDS (R206): Emits an end-of-stream token. -/
  | ends (h : Hdr) (b : FD)
  /-- ACCADD (R207): Adds a into an accumulator and emits the new value. -/
  | accadd (h : Hdr) (b : FI)
  /-- ACCMAX (R207): Keeps the larger of an accumulator and a. -/
  | accmax (h : Hdr) (b : FI)
  /-- ACCRD (R208): Emits a run of accumulators, one per cycle. -/
  | accrd (h : Hdr) (b : FI)
  /-- ACCZ (R208): Zeroes a run of accumulators. -/
  | accz (h : Hdr) (b : FI)
  /-- ACCSCL (R207): Multiplies an accumulator by a. -/
  | accscl (h : Hdr) (b : FI)
  /-- ORDRED (R209): Adds the terms of a loop into an accumulator in iteration order. -/
  | ordred (h : Hdr) (b : FI)
  /-- XACC (R210): Adds a exactly into a 192-bit fixed-point group. -/
  | xacc (h : Hdr) (b : FI)
  /-- XRND (R210): Rounds a 192-bit group once to FP32 or BF16. -/
  | xrnd (h : Hdr) (b : FI)
  /-- CFWD (R211): Emits the winning value and index of a tournament comparison. -/
  | cfwd (h : Hdr) (b : FD)
  /-- CFWDX (R212): Tournament comparison that excludes indices set in the frame's mask slots. -/
  | cfwdx (h : Hdr) (b : FD)
  /-- SLOG (R214): Writes one sillage entry. -/
  | slog (h : Hdr) (b : FM)
  /-- SREAD (R215): Reads back one sillage entry as four tokens. -/
  | sread (h : Hdr) (b : FM)
  /-- MXCFG (R229): Counts towards the tile's change of matrix-mode state. -/
  | mxcfg (h : Hdr) (b : FI)
  /-- MXSTEP (R230): Arms a matrix run and sends the feed requests. -/
  | mxstep (h : Hdr) (b : FX)
  /-- MXFADE (R231): Writes the fade factor of the context. -/
  | mxfade (h : Hdr) (b : FI)
  /-- MXSCL (R232): Supplies scale tokens from the fabric. -/
  | mxscl (h : Hdr) (b : FX)
  /-- MXDRN (R233): Drains a run of accumulators to the drain target. -/
  | mxdrn (h : Hdr) (b : FX)
  /-- MXPASS (R234): Sets the entry delays ADLY and BDLY. -/
  | mxpass (h : Hdr) (b : FI)
  /-- MXLDACC (R235): Loads one square into the 64 accumulators. -/
  | mxldacc (h : Hdr) (b : FM)
  /-- LD (R283): Loads a word from a window. -/
  | ld (h : Hdr) (b : FM)
  /-- ST (R283): Stores a word into a window. -/
  | st (h : Hdr) (b : FM)
  /-- LDS (R283): Loads a line into the destination's working registers. -/
  | lds (h : Hdr) (b : FM)
  /-- STS (R283): Stores the working registers as a masked line. -/
  | sts (h : Hdr) (b : FM)
  /-- LDQ (R283): Loads a block into the destination's accumulators. -/
  | ldq (h : Hdr) (b : FM)
  /-- STQ (R283): Stores the accumulators as a masked block. -/
  | stq (h : Hdr) (b : FM)
  /-- PREF (R286): Prefetches a translation and joins the wave, without faulting. -/
  | pref (h : Hdr) (b : FM)
  /-- FENCE (R287): Orders accesses at a scope and emits a. -/
  | fence (h : Hdr) (b : FY)
  /-- AADD (R288): Atomic add. -/
  | aadd (h : Hdr) (b : FM)
  /-- AFADD (R288): Atomic floating-point add. -/
  | afadd (h : Hdr) (b : FM)
  /-- AMIN (R288): Atomic minimum. -/
  | amin (h : Hdr) (b : FM)
  /-- AMAX (R288): Atomic maximum. -/
  | amax (h : Hdr) (b : FM)
  /-- AXCHG (R288): Atomic exchange. -/
  | axchg (h : Hdr) (b : FM)
  /-- ACAS (R288): Atomic compare-and-swap. -/
  | acas (h : Hdr) (b : FM)
  /-- ABIT (R288): Atomic set, clear, flip or test of one bit. -/
  | abit (h : Hdr) (b : FM)
  /-- AINCB (R288): Atomic bounded increment, performed in claimant-key rounds, which replies FULL at the bound. -/
  | aincb (h : Hdr) (b : FM)
  /-- SENDC (R290): Sends one block as a cell to another bay's window. -/
  | sendc (h : Hdr) (b : FM)
  /-- SENDM (R290): Sends one block as a cell with multicast or accord fields. -/
  | sendm (h : Hdr) (b : FM)
  /-- CREQ (R292): Fetches one block from a virt window into a tile window. -/
  | creq (h : Hdr) (b : FM)
  /-- CGRP (R293): Reads, and may clear, a multicast drop counter. -/
  | cgrp (h : Hdr) (b : FY)
  /-- DARM (R295): Arms a decant template. -/
  | darm (h : Hdr) (b : FY)
  /-- DFIRE (R295): Places a decanter trigger in the bay's fire queue. -/
  | dfire (h : Hdr) (b : FY)
  /-- DLAY (R296): Reads a line and sends it as a layout record to a feeder. -/
  | dlay (h : Hdr) (b : FM)
  /-- DSTAT (R295): Emits a template's status word. -/
  | dstat (h : Hdr) (b : FY)
  /-- DCAN (R295): Disarms a template and may abort its queued triggers. -/
  | dcan (h : Hdr) (b : FY)
  /-- TLINC (R104): Increments a timeline as a release and re-evaluates the holds and waits on it. -/
  | tlinc (h : Hdr) (b : FY)
  /-- TLWAIT (R106): Registers a wait on a timeline threshold. -/
  | tlwait (h : Hdr) (b : FY)
  /-- TLRD (R104): Reads half of a timeline as an acquire. -/
  | tlrd (h : Hdr) (b : FY)
  /-- BARR (R310): Arrives at a region or wing barrier. -/
  | barr (h : Hdr) (b : FY)
  /-- LAUNCH (R105): Reads a slip from memory and submits it for acceptance. -/
  | launch (h : Hdr) (b : FY)
  /-- TLSET (R102): Writes a timeline value, which may be lower than the old one. -/
  | tlset (h : Hdr) (b : FY)
  /-- STOCK (R321): Starts or joins a stocktake and emits its result. -/
  | stock (h : Hdr) (b : FY)
  /-- EVWATCH (R104): Arms a watch on a counter with a management slip. -/
  | evwatch (h : Hdr) (b : FY)
  /-- TRAP (R358): Writes a TRAP record and parks its own frame. -/
  | trap (h : Hdr) (b : FY)
  /-- BRK (R358): Writes a BRK record and parks its own frame. -/
  | brk (h : Hdr) (b : FY)
  /-- PRIO (R358): Writes the context's PRIO unless the loan's priority lock is set. -/
  | prio (h : Hdr) (b : FY)
  /-- CCALL (R351): Makes a configuration call, freezing the caller's activation. -/
  | ccall (h : Hdr) (b : FY)
  /-- CRET (R356): Ends the callee's activation and thaws its caller. -/
  | cret (h : Hdr) (b : FY)
  /-- RESUME (R358): Runs or abandons a parked frame. -/
  | resume (h : Hdr) (b : FY)
  /-- PARK (R358): Parks its own frame without a record and adds it to the hub park list. -/
  | park (h : Hdr) (b : FY)
  /-- FLTRD (R358): Reads, and may clear, the status word. -/
  | fltrd (h : Hdr) (b : FY)
  /-- PERFRD (R358): Reads half of a performance counter. -/
  | perfrd (h : Hdr) (b : FY)
  /-- TIMERD (R358): Reads half of the device cycle counter. -/
  | timerd (h : Hdr) (b : FY)
  /-- SCANOUT (R358): Starts the full switch of a target loan. -/
  | scanout (h : Hdr) (b : FY)
  /-- SCANIN (R358): Marks a switched-out slip for restore. -/
  | scanin (h : Hdr) (b : FY)
  /-- CFLUSH (R358): Empties prefetching contexts, and with ALL also the idle resident ones. -/
  | cflush (h : Hdr) (b : FY)
  /-- EADD (R371): Colophon add. -/
  | eadd (rd ra rb : BitVec 4) (t : BitVec 2)
  /-- ESUB (R371): Colophon subtract. -/
  | esub (rd ra rb : BitVec 4) (t : BitVec 2)
  /-- EMUL (R371): Colophon multiply. -/
  | emul (rd ra rb : BitVec 4) (t : BitVec 2)
  /-- EFMA (R371): Colophon f32 fused multiply-add into rd. -/
  | efma (rd ra rb : BitVec 4)
  /-- EMAX (R371): Colophon maximum. -/
  | emax (rd ra rb : BitVec 4) (t : BitVec 2)
  /-- EMIN (R371): Colophon minimum. -/
  | emin (rd ra rb : BitVec 4) (t : BitVec 2)
  /-- ECVT (R371): Colophon conversion of an f32 into lane 0 of a type. -/
  | ecvt (rd ra : BitVec 4) (ty : BitVec 4) (rnd : BitVec 3) (sat : Bool)
  /-- ECLMP (R371): Colophon f32 clamp. -/
  | eclmp (rd ra rb : BitVec 4)
  /-- ELDR (R372): Pops a word from the result port, or reads the metadata of the last word popped. -/
  | eldr (rd : BitVec 4) (m : Bool)
  /-- ESTR (R372): Stores a word at a bay-local address. -/
  | estr (ra rb : BitVec 4) (k : BitVec 14)
  /-- ELDI (R371): Shifts ra left by 14 and ORs in a 14-bit immediate. -/
  | eldi (rd ra : BitVec 4) (v : BitVec 14)
  /-- EMOV (R371): Colophon register move. -/
  | emov (rd ra : BitVec 4)
  /-- EAND (R371): Colophon bitwise AND. -/
  | eand (rd ra rb : BitVec 4)
  /-- ESHF (R371): Colophon shift or rotate. -/
  | eshf (rd ra : BitVec 4) (n : BitVec 5) (how : BitVec 2)
  /-- EBNZ (R372): Branches when ra is non-zero. -/
  | ebnz (ra : BitVec 4) (off : BitVec 14)
  /-- EJMP (R372): Unconditional relative jump. -/
  | ejmp (off : BitVec 14)
  /-- ELOOP (R372): Decrements rd and branches while it is non-zero. -/
  | eloop (rd : BitVec 4) (off : BitVec 14)
  /-- EWAIT (R372): Waits until the result port holds n words. -/
  | ewait (n : BitVec 7)
  /-- EHALT (R372): Halts the Colophon with a code. -/
  | ehalt (code : BitVec 14)
  /-- ESIG (R372): Sends a data token to an element of the loan after the earlier stores have been performed. -/
  | esig (ra : BitVec 4) (el : BitVec 7) (port : BitVec 2) (hnd : BitVec 3)
  /-- RCDB_GO (R20): In recovery mode, a write of 1 to GO starts verification of the staged image, or fails the attempt at once if LEN is out of range. -/
  | rcdbGo (value : W64)
  /-- REGISTER_WRITE (R5): A write to a register that has no behaviour of its own, including W1C status clears, the kernel's bad-node and ECC-counter writes, and RCLEN. -/
  | registerWrite (w : RegAccess)
  /-- HQTAIL_WRITE (R28): A write to HQTAIL publishes the slips up to the new TAIL as a device-scope release, or is refused and sets OVF. -/
  | hqTailWrite (queue : Nat) (value : W64)
  /-- HQ_RING_SETUP (R28): A write to HQBASE or HQSIZE while EN is 0 sets HEAD and TAIL to 0; while EN is 1 the write is ignored. -/
  | hqRingSetup (queue : Nat) (size : Bool) (value : W64)
  /-- HQ_ENABLE (R28): Setting EN starts the reading of the queue from HEAD, or is ignored when LOG2N is not valid. -/
  | hqEnable (queue : Nat)
  /-- GLAED_RUN (R394): Places the images, sets up timelines and pools, submits the slips and runs to the first stop. -/
  | glaedRun (src : GlaedSource)
  /-- THRUM_ARRIVAL (R16): A load, store, atomic, cell or domain order token from another device of the load-store domain arrives on a Thrum port and is forwarded into this device. -/
  | thrumArrival (a : ThrumMsg)
  /-- MBI_WRITE (R32): The host writes an inbound mailbox word, or the write is refused and sets MBW while REQ or ANS reads 1. -/
  | mbiWrite (index : Nat) (value : W64)
  /-- KERNEL_PRIO_WRITE (R345): The kernel writes PRIO into every context of a loan, optionally setting the priority lock. -/
  | kernelPrioWrite (loan : Nat) (prio : BitVec 2) (lock : Bool)
  /-- GLAED_BREAK (R396): Sets a breakpoint on a handler's matching firing. -/
  | glaedBreak (b : BreakSpec)
  /-- GLAED_WATCH (R396): Reports every perform, commit and discard to a word. -/
  | glaedWatch (cfg : Nat) (window : Nat) (offset : Nat)
  /-- GLAED_STEP (R396): Runs a given number of cycles. -/
  | glaedStep (cycles : Nat)
  /-- GLAED_SHOW_QUEUES (R396): Shows the queues that a handler reads. -/
  | glaedShowQueues (loan : Nat) (index : Nat) (hnd : Nat)
  /-- GLAED_SHOW_FRAME (R396): Shows a frame's header, state and occupied slots. -/
  | glaedShowFrame (loan : Nat) (frame : Nat)
  /-- GLAED_SHOW_ACC (R396): Shows the accumulators of a handler's context. -/
  | glaedShowAcc (loan : Nat) (index : Nat) (hnd : Nat)
  /-- GLAED_SHOW_PLANES (R396): Shows an element's plane stack. -/
  | glaedShowPlanes (loan : Nat) (index : Nat)
  /-- GLAED_SHOW_VOQ (R396): Shows an input buffer and its non-empty queues. -/
  | glaedShowVoq (die : Nat) (port : Nat)
  /-- GLAED_SHOW_WAVE (R396): Shows the waiting wave-buffer entries of a region. -/
  | glaedShowWave (loan : Nat)
  /-- GLAED_SHOW_SILLAGE (R396): Shows one sillage entry. -/
  | glaedShowSillage (loan : Nat) (entry : Nat)
  /-- GLAED_PREEMPT (R396): Makes the kernel's locked priority write for a slip. -/
  | glaedPreempt (loan : Nat) (prio : BitVec 2)
  /-- GLAED_SWITCH (R396): Switches a running loan out, or marks a switched-out slip for restore. -/
  | glaedSwitch (loan : Nat)
  /-- KERNEL_TIMELINE_WRITE (R31): The kernel sets or increments a timeline itself, for example lowering it on a mailbox request or setting named timelines for glaed, and re-evaluates the holds and waits on it. -/
  | kernelTimelineWrite (timeline : Nat) (value : W64) (increment : Bool)
  /-- HOST_MEMORY_ACCESS (R28): A host read or write of device memory over the PCIe link, such as writing slips into a ring or publishing data, arrives and is performed as a plain device-scope access. -/
  | hostMemoryAccess (a : AgentAccess)
  /-- CURATOR_MEMORY_ACCESS (R328): A Curator core issues a load, store, atomic or fence to device memory, and its SC forms are placed in the device order through the ring. -/
  | curatorMemoryAccess (a : AgentAccess)
  /-- RESET (R18): Power-on reset starts the bring-up sequence: the boot ROM reads and verifies the firmware image, then the dies are brought up in order. -/
  | reset
  /-- HOST_LINK_TRAINED (R18): The host link comes up and BAR 0 takes the layout of R26. -/
  | hostLinkTrained
  /-- RECOVERY_VERIFY_DONE (R20): Verification of the recovery image ends: STATE becomes 2 and NREJ rises, or STATE becomes 3 and the image continues bring-up from step 3. -/
  | recoveryVerifyDone
  /-- ATTESTATION_SIGN (R25): The kernel advances both copies of the LMS counter and signs a report, or refuses and writes status 3 to MBO[1] when the tree is exhausted. -/
  | attestationSign
  /-- FAULT_RECORD_DELIVER (R30): The hub record store passes the next record in SEQ order to the fault ring and then advances FQTAIL. -/
  | faultRecordDeliver
  /-- MAILBOX_REQUEST (R32): The host writes 1 to REQ, posting a request to the kernel, or the write is refused and sets MBW. -/
  | mailboxRequest
  /-- MAILBOX_TAKE (R32): The kernel reads MBI and clears REQ. -/
  | mailboxTake
  /-- MAILBOX_ANSWER_CLEAR (R32): The host writes 1 to ANS to clear it after reading MBO. -/
  | mailboxAnswerClear
  /-- SLIP_READ (R95): The Circulation reads the next published slip of a host queue in rotation and accepts it, places it in the holds list or refuses it. -/
  | slipRead
  /-- PLACEMENT_DECISION (R111): The Circulation places the first released slip on a lendable rectangle chosen by class. -/
  | placementDecision
  /-- PLACEMENT_RESERVATION (R112): A slip that has stood first in its PRIO for 65,536 cycles reserves the rectangle that would free soonest. -/
  | placementReservation
  /-- STOCKTAKE_SNAPSHOT (R316): The stocktake takes a snapshot of every region, and after the second it writes the report. -/
  | stocktakeSnapshot
  /-- GLAED_CONTINUE (R396): Runs to the next stop. -/
  | glaedContinue
  /-- GLAED_SHOW_RETIRE (R396): Shows the iterations in flight and their commit state. -/
  | glaedShowRetire
  /-- GLAED_STOCKTAKE (R396): Starts a stocktake and prints its report. -/
  | glaedStocktake
  /-- GLAED_FAULTS (R396): Lists the fault records of the session's slips. -/
  | glaedFaults
  /-- ORDER_RING_TICK (R328): Each cycle the order ring's serialising token moves to the next node, and a device-scope SC operation waiting there takes its place in the total order. -/
  | orderRingTick
deriving DecidableEq, Repr

end Sys2Proof
end

