-- ==== Sys2Proof/Machine/Formats.lean ====
section
/-! DEFINITION. What the loader accepts of a handler word, field by field (R56 to R73): the codes of modes, tag
operations, types and destinations; the row of R70 of every opcode of R69; and the limits that the entries give
their own fields. The Colophon's field limits are in R370 to R372. -/
namespace Sys2Proof

/-- Why a handler word is refused (R76). -/
inductive WordReject where
  | opcode | mode | arity | tagop | type | flags | destination | condition | immediate | continuation
deriving DecidableEq, Repr

/-- `REASON` of a refused word (R76). -/
def WordReject.code : WordReject → Nat
  | .opcode => 0x10 | .mode => 0x11 | .arity => 0x12 | .tagop => 0x13 | .type => 0x14 | .flags => 0x15
  | .destination => 0x16 | .condition => 0x17 | .immediate => 0x18 | .continuation => 0x1B

/-- The fields of a handler word below its header, by format (R57, R58). -/
inductive Body where
  | di (b : FDI) | d (b : FD) | i (b : FI) | m (b : FM) | x (b : FX) | y (b : FY)
deriving DecidableEq, Repr

/-- The constructor of `Instr` that an opcode makes, by its format (R70). -/
inductive Maker where
  | di (f : Hdr → FDI → Instr) | d (f : Hdr → FD → Instr) | i (f : Hdr → FI → Instr)
  | m (f : Hdr → FM → Instr) | x (f : Hdr → FX → Instr) | y (f : Hdr → FY → Instr)

/-- A row of R70: what the loader accepts for one opcode. -/
structure Row where
  arities : List (BitVec 2)
  types : List Ty
  fI : Bool
  fP : Bool
  fW : Bool
  fK : Bool
  modes : List Mode
  make : Maker

/-- `MODE` (R56). -/
def Mode.code : Mode → BitVec 2
  | .queue => 0 | .frame => 1 | .accord => 2 | .trigger => 3

/-- The mode that a code names; every code names one (R56). -/
def Mode.ofCode (c : BitVec 2) : Mode :=
  if c = 0 then .queue else if c = 1 then .frame else if c = 2 then .accord else .trigger

/-- `TAGOP` (R62). -/
def TagOp.code : TagOp → BitVec 4
  | .keep => 0 | .next => 1 | .enter => 2 | .leave => 3 | .push => 4 | .pop => 5 | .call => 6 | .ret => 7
  | .zeroIter => 8 | .flat => 9

/-- The tag operation that a code names; 0xA to 0xF are reserved (R62). -/
def TagOp.ofCode (c : BitVec 4) : Option TagOp :=
  [TagOp.keep, .next, .enter, .leave, .push, .pop, .call, .ret, .zeroIter, .flat][c.toNat]?

/-- The type codes of R63. -/
def Ty.code : Ty → BitVec 4
  | .i32 => 0 | .n32 => 1 | .f32 => 2 | .bf16x2 => 3 | .f16x2 => 4 | .e4m3x4 => 5 | .e5m2x4 => 6 | .e2m1x8 => 7
  | .i8x4 => 8 | .i16x2 => 9 | .n16x2 => 10 | .n8x4 => 11 | .b32 => 12

/-- The type that a code names; 0xD to 0xF are reserved (R63). -/
def Ty.ofCode (c : BitVec 4) : Option Ty :=
  [Ty.i32, .n32, .f32, .bf16x2, .f16x2, .e4m3x4, .e5m2x4, .e2m1x8, .i8x4, .i16x2, .n16x2, .n8x4, .b32][c.toNat]?

/-- The type classes of R63. -/
def tyInt : List Ty := [.i32, .n32, .i8x4, .i16x2, .n16x2, .n8x4]
@[inherit_doc tyInt] def tyIntB : List Ty := [.i32, .n32, .i8x4, .i16x2, .n16x2, .n8x4, .b32]
@[inherit_doc tyInt] def tyFloat : List Ty := [.f32, .bf16x2, .f16x2]
@[inherit_doc tyInt] def tyNarrow : List Ty := [.e4m3x4, .e5m2x4, .e2m1x8, .i8x4]
@[inherit_doc tyInt] def tyAll : List Ty :=
  [.i32, .n32, .f32, .bf16x2, .f16x2, .e4m3x4, .e5m2x4, .e2m1x8, .i8x4, .i16x2, .n16x2, .n8x4, .b32]
@[inherit_doc Row] def qfModes : List Mode := [.queue, .frame]

/-- The row of R70 of an opcode of R69; an opcode that R69 does not list has none, and neither has `NOP` (R71). -/
def rowOf (op : Nat) : Option Row :=
  match op with
  | 0x00 => some ⟨[2], tyInt, true, true, true, true, qfModes, .di .iadd⟩
  | 0x01 => some ⟨[2], tyInt, true, true, true, true, qfModes, .di .isub⟩
  | 0x02 => some ⟨[2], tyInt, true, true, true, true, qfModes, .di .imul⟩
  | 0x03 => some ⟨[2], tyInt, true, true, true, true, qfModes, .di .imulh⟩
  | 0x04 => some ⟨[3], tyInt, false, true, true, true, qfModes, .d .imad⟩
  | 0x05 => some ⟨[1], tyInt, false, true, true, false, qfModes, .d .ineg⟩
  | 0x06 => some ⟨[1], tyInt, false, true, true, false, qfModes, .d .iabs⟩
  | 0x07 => some ⟨[2], tyInt, true, true, true, true, qfModes, .di .imin⟩
  | 0x08 => some ⟨[2], tyInt, true, true, true, true, qfModes, .di .imax⟩
  | 0x09 => some ⟨[2], tyInt, true, true, true, true, qfModes, .di .iadds⟩
  | 0x0A => some ⟨[2], tyInt, true, true, true, true, qfModes, .di .isubs⟩
  | 0x0B => some ⟨[2], tyInt, true, false, false, true, qfModes, .i .icmp⟩
  | 0x0C => some ⟨[2], tyIntB, true, true, true, true, qfModes, .di .and⟩
  | 0x0D => some ⟨[2], tyIntB, true, true, true, true, qfModes, .di .or⟩
  | 0x0E => some ⟨[2], tyIntB, true, true, true, true, qfModes, .di .xor⟩
  | 0x0F => some ⟨[2], tyIntB, true, true, true, true, qfModes, .di .andn⟩
  | 0x10 => some ⟨[1], tyIntB, false, true, true, false, qfModes, .d .not⟩
  | 0x11 => some ⟨[2], tyIntB, true, true, true, true, qfModes, .di .shl⟩
  | 0x12 => some ⟨[2], tyIntB, true, true, true, true, qfModes, .di .shr⟩
  | 0x13 => some ⟨[2], tyIntB, true, true, true, true, qfModes, .di .shra⟩
  | 0x14 => some ⟨[2], tyIntB, true, true, true, true, qfModes, .di .rotl⟩
  | 0x15 => some ⟨[1], tyIntB, false, true, true, false, qfModes, .d .clz⟩
  | 0x16 => some ⟨[1], tyIntB, false, true, true, false, qfModes, .d .popc⟩
  | 0x17 => some ⟨[1], tyIntB, false, true, true, false, qfModes, .d .brev⟩
  | 0x18 => some ⟨[1], [.i32, .n32, .b32], false, false, false, false, qfModes, .i .bfx⟩
  | 0x19 => some ⟨[2], [.i32, .n32, .b32], false, false, false, true, qfModes, .i .bfi⟩
  | 0x1A => some ⟨[3], tyInt, false, true, true, true, qfModes, .d .iaddc⟩
  | 0x1B => some ⟨[2], [.i32, .n32], false, false, false, true, qfModes, .i .lea⟩
  | 0x1C => some ⟨[2, 3], [.i32, .f32], false, false, false, true, qfModes, .i .cellkey⟩
  | 0x1D => some ⟨[1], [.n32], false, false, false, false, qfModes, .i .cellhash⟩
  | 0x1E => some ⟨[2], [.n32], false, false, false, true, qfModes, .i .nbrkey⟩
  | 0x1F => some ⟨[3], tyInt, false, true, true, true, qfModes, .d .iclamp⟩
  | 0x20 => some ⟨[2], tyFloat, true, true, true, true, qfModes, .di .fadd⟩
  | 0x21 => some ⟨[2], tyFloat, true, true, true, true, qfModes, .di .fsub⟩
  | 0x22 => some ⟨[2], tyFloat, true, true, true, true, qfModes, .di .fmul⟩
  | 0x23 => some ⟨[3], tyFloat, false, true, true, true, qfModes, .d .ffma⟩
  | 0x24 => some ⟨[2], tyFloat, true, true, true, true, qfModes, .di .fmin⟩
  | 0x25 => some ⟨[2], tyFloat, true, true, true, true, qfModes, .di .fmax⟩
  | 0x26 => some ⟨[1], tyFloat, false, true, true, false, qfModes, .d .fabs⟩
  | 0x27 => some ⟨[1], tyFloat, false, true, true, false, qfModes, .d .fneg⟩
  | 0x28 => some ⟨[2], tyFloat, false, false, false, true, qfModes, .i .fcmp⟩
  | 0x29 => some ⟨[1], tyFloat, false, true, true, false, qfModes, .d .frcp⟩
  | 0x2A => some ⟨[1], tyFloat, false, true, true, false, qfModes, .d .frsq⟩
  | 0x2B => some ⟨[1], tyFloat, false, true, true, false, qfModes, .d .fexp2⟩
  | 0x2C => some ⟨[1], tyFloat, false, true, true, false, qfModes, .d .flog2⟩
  | 0x2D => some ⟨[1], tyFloat, false, true, true, false, qfModes, .d .fsqrt⟩
  | 0x2E => some ⟨[2], tyFloat, true, true, true, true, qfModes, .di .fscale⟩
  | 0x2F => some ⟨[1], tyFloat, false, false, false, false, qfModes, .i .fround⟩
  | 0x30 => some ⟨[1], tyFloat ++ tyNarrow, false, false, false, false, qfModes, .i .fcvt⟩
  | 0x31 => some ⟨[1], tyFloat, false, false, false, false, qfModes, .i .ftoi⟩
  | 0x32 => some ⟨[1], tyInt, false, false, false, false, qfModes, .i .itof⟩
  | 0x33 => some ⟨[1], tyFloat, false, true, true, false, qfModes, .d .fclass⟩
  | 0x34 => some ⟨[3], [.bf16x2, .f16x2], false, true, true, true, qfModes, .d .fdot2⟩
  | 0x35 => some ⟨[1], [.i32], false, false, false, false, qfModes, .d .seed⟩
  | 0x36 => some ⟨[2], [.f32], false, false, false, true, qfModes, .i .qpack⟩
  | 0x37 => some ⟨[1], tyNarrow, false, false, false, false, qfModes, .i .qunpk⟩
  | 0x40 => some ⟨[1], [.i32], false, true, true, false, qfModes, .d .mov⟩
  | 0x41 => some ⟨[1], [.i32], false, false, false, false, qfModes, .i .movi⟩
  | 0x42 => some ⟨[1], [.i32], false, false, false, false, qfModes, .i .movhi⟩
  | 0x43 => some ⟨[3], [.i32], false, false, false, true, qfModes, .d .sel⟩
  | 0x44 => some ⟨[1], [.i32], false, true, false, false, qfModes, .d .sink⟩
  | 0x45 => some ⟨[1], [.i32], false, false, false, false, qfModes, .i .getw⟩
  | 0x46 => some ⟨[1], [.i32], false, false, false, false, qfModes, .i .setw⟩
  | 0x47 => some ⟨[0], [.i32], false, false, false, false, [.trigger], .i .const⟩
  | 0x48 => some ⟨[2], [.i32], false, false, false, true, qfModes, .d .live⟩
  | 0x49 => some ⟨[1], [.i32], false, false, false, false, qfModes, .d .islive⟩
  | 0x4A => some ⟨[1], [.i32, .n32], false, false, false, false, qfModes, .i .count⟩
  | 0x4B => some ⟨[2], [.i32, .n32], false, false, false, true, qfModes, .i .stride⟩
  | 0x50 => some ⟨[2], [.i32], false, false, false, false, qfModes, .d .steer⟩
  | 0x51 => some ⟨[2], [.i32], false, false, false, false, qfModes, .i .steerx⟩
  | 0x52 => some ⟨[2], [.i32], false, false, false, false, [.queue], .d .merge⟩
  | 0x53 => some ⟨[2], [.i32], false, false, false, false, [.queue], .d .mergeo⟩
  | 0x54 => some ⟨[2], [.i32], false, false, false, true, qfModes, .d .gate⟩
  | 0x55 => some ⟨[0], [.i32], false, false, false, false, [.trigger], .i .prime⟩
  | 0x56 => some ⟨[2], [.i32], false, false, false, false, [.queue], .i .loopin⟩
  | 0x57 => some ⟨[1], [.i32], false, false, false, false, [.queue], .d .next⟩
  | 0x58 => some ⟨[1], [.i32], false, false, false, false, [.queue], .d .loopout⟩
  | 0x59 => some ⟨[1], [.i32], false, false, false, false, [.queue], .i .bound⟩
  | 0x5A => some ⟨[1, 2, 3], [.i32], false, false, false, false, qfModes, .i .callf⟩
  | 0x5B => some ⟨[1], [.i32], false, false, false, false, qfModes, .d .retf⟩
  | 0x5C => some ⟨[1], [.i32], false, false, false, false, [.queue], .d .tagrd⟩
  | 0x5D => some ⟨[2], [.i32], false, false, false, false, qfModes, .d .tagwr⟩
  | 0x5E => some ⟨[1], [.i32], false, false, false, false, [.queue], .d .exit⟩
  | 0x5F => some ⟨[1], [.i32], false, false, false, false, [.queue], .d .ends⟩
  | 0x60 => some ⟨[1], [.i32, .n32, .f32], false, false, false, false, [.queue], .i .accadd⟩
  | 0x61 => some ⟨[1], [.i32, .n32, .f32], false, false, false, false, [.queue], .i .accmax⟩
  | 0x62 => some ⟨[1], [.i32], false, false, false, false, [.queue], .i .accrd⟩
  | 0x63 => some ⟨[1], [.i32], false, false, false, false, [.queue], .i .accz⟩
  | 0x64 => some ⟨[1], [.i32, .n32, .f32], false, false, false, false, [.queue], .i .accscl⟩
  | 0x65 => some ⟨[1], [.f32], false, false, false, false, [.frame], .i .ordred⟩
  | 0x66 => some ⟨[1], tyFloat, false, false, false, false, qfModes, .i .xacc⟩
  | 0x67 => some ⟨[1], [.i32], false, false, false, false, [.queue], .i .xrnd⟩
  | 0x68 => some ⟨[3], [.f32], false, false, false, false, [.queue], .d .cfwd⟩
  | 0x69 => some ⟨[3], [.f32], false, false, false, false, [.queue], .d .cfwdx⟩
  | 0x6A => some ⟨[3], [.i32], false, true, true, false, qfModes, .m .slog⟩
  | 0x6B => some ⟨[1], [.i32], false, true, true, false, qfModes, .m .sread⟩
  | 0x70 => some ⟨[1], [.e4m3x4, .e5m2x4, .e2m1x8, .i8x4, .bf16x2, .f16x2], false, false, false, false, [.queue], .i .mxcfg⟩
  | 0x71 => some ⟨[1], [.i32], false, false, false, false, [.queue, .accord, .trigger], .x .mxstep⟩
  | 0x72 => some ⟨[1], [.i32], false, false, false, false, [.queue], .i .mxfade⟩
  | 0x73 => some ⟨[1], [.i32], false, false, false, false, [.queue, .accord], .x .mxscl⟩
  | 0x74 => some ⟨[1], [.f32, .bf16x2, .f16x2, .i32], false, false, false, false, [.queue], .x .mxdrn⟩
  | 0x75 => some ⟨[1], [.i32], false, false, false, false, [.queue], .i .mxpass⟩
  | 0x76 => some ⟨[1], [.i32], false, true, true, false, qfModes, .m .mxldacc⟩
  | 0x80 => some ⟨[1], tyAll, false, true, true, false, qfModes, .m .ld⟩
  | 0x81 => some ⟨[2], tyAll, false, true, true, true, qfModes, .m .st⟩
  | 0x82 => some ⟨[1], tyAll, false, true, true, false, qfModes, .m .lds⟩
  | 0x83 => some ⟨[2], tyAll, false, true, true, true, qfModes, .m .sts⟩
  | 0x84 => some ⟨[1], tyAll, false, true, true, false, qfModes, .m .ldq⟩
  | 0x85 => some ⟨[2], tyAll, false, true, true, true, qfModes, .m .stq⟩
  | 0x86 => some ⟨[1], tyAll, false, true, true, false, qfModes, .m .pref⟩
  | 0x87 => some ⟨[1], [.i32], false, false, false, false, qfModes, .y .fence⟩
  | 0x88 => some ⟨[2], [.i32, .n32], false, true, true, true, qfModes, .m .aadd⟩
  | 0x89 => some ⟨[2], [.f32, .bf16x2], false, true, true, true, qfModes, .m .afadd⟩
  | 0x8A => some ⟨[2], [.i32, .n32], false, true, true, true, qfModes, .m .amin⟩
  | 0x8B => some ⟨[2], [.i32, .n32], false, true, true, true, qfModes, .m .amax⟩
  | 0x8C => some ⟨[2], [.i32, .n32], false, true, true, true, qfModes, .m .axchg⟩
  | 0x8D => some ⟨[3], [.i32, .n32], false, true, true, true, qfModes, .m .acas⟩
  | 0x8E => some ⟨[2], [.b32], false, true, true, true, qfModes, .m .abit⟩
  | 0x8F => some ⟨[3], [.i32, .n32], false, true, true, true, qfModes, .m .aincb⟩
  | 0x90 => some ⟨[2], [.i32], false, true, true, true, qfModes, .m .sendc⟩
  | 0x91 => some ⟨[3], [.i32], false, true, true, false, qfModes, .m .sendm⟩
  | 0x92 => some ⟨[2], [.i32], false, true, true, true, qfModes, .m .creq⟩
  | 0x93 => some ⟨[1], [.i32], false, false, false, false, qfModes, .y .cgrp⟩
  | 0x94 => some ⟨[1], [.i32], false, false, false, false, [.queue], .y .darm⟩
  | 0x95 => some ⟨[1], [.i32], false, false, false, false, [.queue, .accord], .y .dfire⟩
  | 0x96 => some ⟨[1], [.i32], false, true, true, false, [.queue], .m .dlay⟩
  | 0x97 => some ⟨[1], [.i32], false, false, false, false, [.queue], .y .dstat⟩
  | 0x98 => some ⟨[1], [.i32], false, false, false, false, [.queue], .y .dcan⟩
  | 0xA0 => some ⟨[2], [.i32], false, false, false, false, [.queue], .y .tlinc⟩
  | 0xA1 => some ⟨[1], [.i32], false, false, false, false, qfModes, .y .tlwait⟩
  | 0xA2 => some ⟨[1], [.i32], false, false, false, false, [.queue], .y .tlrd⟩
  | 0xA3 => some ⟨[1], [.i32], false, false, false, false, qfModes, .y .barr⟩
  | 0xA4 => some ⟨[1], [.i32], false, false, false, false, [.queue], .y .launch⟩
  | 0xA5 => some ⟨[2], [.i32], false, false, false, false, [.queue], .y .tlset⟩
  | 0xA6 => some ⟨[1], [.i32], false, false, false, false, qfModes, .y .stock⟩
  | 0xA7 => some ⟨[3], [.i32], false, false, false, false, [.queue], .y .evwatch⟩
  | 0xB0 => some ⟨[1], [.i32], false, false, false, false, qfModes, .y .trap⟩
  | 0xB1 => some ⟨[1], [.i32], false, false, false, false, qfModes, .y .brk⟩
  | 0xB2 => some ⟨[1], [.i32], false, false, false, false, qfModes, .y .prio⟩
  | 0xB3 => some ⟨[1], [.i32], false, false, false, false, qfModes, .y .ccall⟩
  | 0xB4 => some ⟨[1], [.i32], false, false, false, false, qfModes, .y .cret⟩
  | 0xB5 => some ⟨[1], [.i32], false, false, false, false, qfModes, .y .resume⟩
  | 0xB6 => some ⟨[1], [.i32], false, false, false, false, qfModes, .y .park⟩
  | 0xB7 => some ⟨[1], [.i32], false, false, false, false, qfModes, .y .fltrd⟩
  | 0xB8 => some ⟨[1], [.i32], false, false, false, false, qfModes, .y .perfrd⟩
  | 0xB9 => some ⟨[1], [.i32], false, false, false, false, qfModes, .y .timerd⟩
  | 0xBA => some ⟨[1], [.i32], false, false, false, false, qfModes, .y .scanout⟩
  | 0xBB => some ⟨[1], [.i32], false, false, false, false, qfModes, .y .scanin⟩
  | 0xBC => some ⟨[1], [.i32], false, false, false, false, qfModes, .y .cflush⟩
  | _ => none

/-- The opcode, header fields and body of an element instruction. -/
structure Handler where
  op : BitVec 8
  hdr : Hdr
  body : Body
deriving DecidableEq, Repr

/-- The handler word's parts of an instruction; an event or a Colophon instruction has none. -/
def handlerView (i : Instr) : Option Handler :=
  match i with
  | .iadd h b => some ⟨0x00, h, .di b⟩
  | .isub h b => some ⟨0x01, h, .di b⟩
  | .imul h b => some ⟨0x02, h, .di b⟩
  | .imulh h b => some ⟨0x03, h, .di b⟩
  | .imad h b => some ⟨0x04, h, .d b⟩
  | .ineg h b => some ⟨0x05, h, .d b⟩
  | .iabs h b => some ⟨0x06, h, .d b⟩
  | .imin h b => some ⟨0x07, h, .di b⟩
  | .imax h b => some ⟨0x08, h, .di b⟩
  | .iadds h b => some ⟨0x09, h, .di b⟩
  | .isubs h b => some ⟨0x0A, h, .di b⟩
  | .icmp h b => some ⟨0x0B, h, .i b⟩
  | .and h b => some ⟨0x0C, h, .di b⟩
  | .or h b => some ⟨0x0D, h, .di b⟩
  | .xor h b => some ⟨0x0E, h, .di b⟩
  | .andn h b => some ⟨0x0F, h, .di b⟩
  | .not h b => some ⟨0x10, h, .d b⟩
  | .shl h b => some ⟨0x11, h, .di b⟩
  | .shr h b => some ⟨0x12, h, .di b⟩
  | .shra h b => some ⟨0x13, h, .di b⟩
  | .rotl h b => some ⟨0x14, h, .di b⟩
  | .clz h b => some ⟨0x15, h, .d b⟩
  | .popc h b => some ⟨0x16, h, .d b⟩
  | .brev h b => some ⟨0x17, h, .d b⟩
  | .bfx h b => some ⟨0x18, h, .i b⟩
  | .bfi h b => some ⟨0x19, h, .i b⟩
  | .iaddc h b => some ⟨0x1A, h, .d b⟩
  | .lea h b => some ⟨0x1B, h, .i b⟩
  | .cellkey h b => some ⟨0x1C, h, .i b⟩
  | .cellhash h b => some ⟨0x1D, h, .i b⟩
  | .nbrkey h b => some ⟨0x1E, h, .i b⟩
  | .iclamp h b => some ⟨0x1F, h, .d b⟩
  | .fadd h b => some ⟨0x20, h, .di b⟩
  | .fsub h b => some ⟨0x21, h, .di b⟩
  | .fmul h b => some ⟨0x22, h, .di b⟩
  | .ffma h b => some ⟨0x23, h, .d b⟩
  | .fmin h b => some ⟨0x24, h, .di b⟩
  | .fmax h b => some ⟨0x25, h, .di b⟩
  | .fabs h b => some ⟨0x26, h, .d b⟩
  | .fneg h b => some ⟨0x27, h, .d b⟩
  | .fcmp h b => some ⟨0x28, h, .i b⟩
  | .frcp h b => some ⟨0x29, h, .d b⟩
  | .frsq h b => some ⟨0x2A, h, .d b⟩
  | .fexp2 h b => some ⟨0x2B, h, .d b⟩
  | .flog2 h b => some ⟨0x2C, h, .d b⟩
  | .fsqrt h b => some ⟨0x2D, h, .d b⟩
  | .fscale h b => some ⟨0x2E, h, .di b⟩
  | .fround h b => some ⟨0x2F, h, .i b⟩
  | .fcvt h b => some ⟨0x30, h, .i b⟩
  | .ftoi h b => some ⟨0x31, h, .i b⟩
  | .itof h b => some ⟨0x32, h, .i b⟩
  | .fclass h b => some ⟨0x33, h, .d b⟩
  | .fdot2 h b => some ⟨0x34, h, .d b⟩
  | .seed h b => some ⟨0x35, h, .d b⟩
  | .qpack h b => some ⟨0x36, h, .i b⟩
  | .qunpk h b => some ⟨0x37, h, .i b⟩
  | .mov h b => some ⟨0x40, h, .d b⟩
  | .movi h b => some ⟨0x41, h, .i b⟩
  | .movhi h b => some ⟨0x42, h, .i b⟩
  | .sel h b => some ⟨0x43, h, .d b⟩
  | .sink h b => some ⟨0x44, h, .d b⟩
  | .getw h b => some ⟨0x45, h, .i b⟩
  | .setw h b => some ⟨0x46, h, .i b⟩
  | .const h b => some ⟨0x47, h, .i b⟩
  | .live h b => some ⟨0x48, h, .d b⟩
  | .islive h b => some ⟨0x49, h, .d b⟩
  | .count h b => some ⟨0x4A, h, .i b⟩
  | .stride h b => some ⟨0x4B, h, .i b⟩
  | .steer h b => some ⟨0x50, h, .d b⟩
  | .steerx h b => some ⟨0x51, h, .i b⟩
  | .merge h b => some ⟨0x52, h, .d b⟩
  | .mergeo h b => some ⟨0x53, h, .d b⟩
  | .gate h b => some ⟨0x54, h, .d b⟩
  | .prime h b => some ⟨0x55, h, .i b⟩
  | .loopin h b => some ⟨0x56, h, .i b⟩
  | .next h b => some ⟨0x57, h, .d b⟩
  | .loopout h b => some ⟨0x58, h, .d b⟩
  | .bound h b => some ⟨0x59, h, .i b⟩
  | .callf h b => some ⟨0x5A, h, .i b⟩
  | .retf h b => some ⟨0x5B, h, .d b⟩
  | .tagrd h b => some ⟨0x5C, h, .d b⟩
  | .tagwr h b => some ⟨0x5D, h, .d b⟩
  | .exit h b => some ⟨0x5E, h, .d b⟩
  | .ends h b => some ⟨0x5F, h, .d b⟩
  | .accadd h b => some ⟨0x60, h, .i b⟩
  | .accmax h b => some ⟨0x61, h, .i b⟩
  | .accrd h b => some ⟨0x62, h, .i b⟩
  | .accz h b => some ⟨0x63, h, .i b⟩
  | .accscl h b => some ⟨0x64, h, .i b⟩
  | .ordred h b => some ⟨0x65, h, .i b⟩
  | .xacc h b => some ⟨0x66, h, .i b⟩
  | .xrnd h b => some ⟨0x67, h, .i b⟩
  | .cfwd h b => some ⟨0x68, h, .d b⟩
  | .cfwdx h b => some ⟨0x69, h, .d b⟩
  | .slog h b => some ⟨0x6A, h, .m b⟩
  | .sread h b => some ⟨0x6B, h, .m b⟩
  | .mxcfg h b => some ⟨0x70, h, .i b⟩
  | .mxstep h b => some ⟨0x71, h, .x b⟩
  | .mxfade h b => some ⟨0x72, h, .i b⟩
  | .mxscl h b => some ⟨0x73, h, .x b⟩
  | .mxdrn h b => some ⟨0x74, h, .x b⟩
  | .mxpass h b => some ⟨0x75, h, .i b⟩
  | .mxldacc h b => some ⟨0x76, h, .m b⟩
  | .ld h b => some ⟨0x80, h, .m b⟩
  | .st h b => some ⟨0x81, h, .m b⟩
  | .lds h b => some ⟨0x82, h, .m b⟩
  | .sts h b => some ⟨0x83, h, .m b⟩
  | .ldq h b => some ⟨0x84, h, .m b⟩
  | .stq h b => some ⟨0x85, h, .m b⟩
  | .pref h b => some ⟨0x86, h, .m b⟩
  | .fence h b => some ⟨0x87, h, .y b⟩
  | .aadd h b => some ⟨0x88, h, .m b⟩
  | .afadd h b => some ⟨0x89, h, .m b⟩
  | .amin h b => some ⟨0x8A, h, .m b⟩
  | .amax h b => some ⟨0x8B, h, .m b⟩
  | .axchg h b => some ⟨0x8C, h, .m b⟩
  | .acas h b => some ⟨0x8D, h, .m b⟩
  | .abit h b => some ⟨0x8E, h, .m b⟩
  | .aincb h b => some ⟨0x8F, h, .m b⟩
  | .sendc h b => some ⟨0x90, h, .m b⟩
  | .sendm h b => some ⟨0x91, h, .m b⟩
  | .creq h b => some ⟨0x92, h, .m b⟩
  | .cgrp h b => some ⟨0x93, h, .y b⟩
  | .darm h b => some ⟨0x94, h, .y b⟩
  | .dfire h b => some ⟨0x95, h, .y b⟩
  | .dlay h b => some ⟨0x96, h, .m b⟩
  | .dstat h b => some ⟨0x97, h, .y b⟩
  | .dcan h b => some ⟨0x98, h, .y b⟩
  | .tlinc h b => some ⟨0xA0, h, .y b⟩
  | .tlwait h b => some ⟨0xA1, h, .y b⟩
  | .tlrd h b => some ⟨0xA2, h, .y b⟩
  | .barr h b => some ⟨0xA3, h, .y b⟩
  | .launch h b => some ⟨0xA4, h, .y b⟩
  | .tlset h b => some ⟨0xA5, h, .y b⟩
  | .stock h b => some ⟨0xA6, h, .y b⟩
  | .evwatch h b => some ⟨0xA7, h, .y b⟩
  | .trap h b => some ⟨0xB0, h, .y b⟩
  | .brk h b => some ⟨0xB1, h, .y b⟩
  | .prio h b => some ⟨0xB2, h, .y b⟩
  | .ccall h b => some ⟨0xB3, h, .y b⟩
  | .cret h b => some ⟨0xB4, h, .y b⟩
  | .resume h b => some ⟨0xB5, h, .y b⟩
  | .park h b => some ⟨0xB6, h, .y b⟩
  | .fltrd h b => some ⟨0xB7, h, .y b⟩
  | .perfrd h b => some ⟨0xB8, h, .y b⟩
  | .timerd h b => some ⟨0xB9, h, .y b⟩
  | .scanout h b => some ⟨0xBA, h, .y b⟩
  | .scanin h b => some ⟨0xBB, h, .y b⟩
  | .cflush h b => some ⟨0xBC, h, .y b⟩
  | _ => none

/-- Lanes of a type (R178). -/
def Ty.lanes : Ty → Nat
  | .i32 | .n32 | .f32 | .b32 => 1
  | .bf16x2 | .f16x2 | .i16x2 | .n16x2 => 2
  | .e4m3x4 | .e5m2x4 | .i8x4 | .n8x4 => 4
  | .e2m1x8 => 8

/-- Lane width of a type in bits (R145). -/
def Ty.width (t : Ty) : Nat := 32 / t.lanes

/-- Arities that a mode takes (R59): accord and trigger handlers read no port. -/
def arityOk (r : Row) (h : Hdr) : Bool :=
  match h.mode with
  | .accord | .trigger => h.arity == 0
  | .queue | .frame => r.arities.contains h.arity

/-- The instructions that accept a built-in tag operation by name (R62), by opcode. -/
def tagopOk (op : Nat) : TagOp → Bool
  | .keep | .push | .pop | .flat | .next | .zeroIter => true
  | .enter => op == 0x56
  | .leave => op == 0x58
  | .call => op == 0x5A || op == 0xB3
  | .ret => op == 0x5B || op == 0xB4

/-- Flags refused by R61 and R70. -/
def flagsOk (r : Row) (h : Hdr) : Bool :=
  (r.fI || !h.fI) && (r.fP || !h.fP) && (r.fW || !h.fW) && (r.fK || !h.fK) &&
  (!h.fK || (h.mode == .queue && (h.arity == 2 || h.arity == 3) && !h.fI))

/-- The checks that need only the header of a word, in the order of the reason codes of R76. -/
def headerCheck (op : Nat) (r : Row) (h : Hdr) : Option WordReject :=
  if !r.modes.contains h.mode then some .mode
  else if !arityOk r h then some .arity
  else if !tagopOk op h.tagop then some .tagop
  else if !r.types.contains h.ty then some .type
  else if !flagsOk r h then some .flags
  else none

/-- First destination of a word; format X has none (R68). -/
def Body.dest0? : Body → Option Dest
  | .di (.d b) => some b.d0 | .di (.i b) => some b.d0 | .d b => some b.d0 | .i b => some b.d0
  | .m b => some b.d0 | .x _ => none | .y b => some b.d0

/-- Second destination of a word (R57, R61). -/
def Body.dest1? : Body → Option Dest
  | .di (.d ⟨_, .dest t⟩) | .d ⟨_, .dest t⟩ => some t
  | _ => none

/-- An immediate field `lo` to `lo + n - 1`. -/
def immBits (v : BitVec 20) (lo n : Nat) : Nat := v.toNat / 2 ^ lo % 2 ^ n

/-- Destinations that an entry restricts (R184, R194, R202, R203, R205, R283, R290, R292, R294, R357). -/
def destOk (h : Handler) : Bool :=
  match h.op.toNat, h.body.dest0?, h.body.dest1? with
  | 0x44, some d, some d1 => d == .sink && d1 == .sink
  | 0x44, some d, none => d == .sink
  | 0x51, some d, _ => d == .sink
  | 0x5A, some (.element _ p _), _ => p.toNat + h.hdr.arity.toNat ≤ 4
  | 0x5A, _, _ => false
  | 0x5B, some d, some d1 => d == .sink && d1 == .sink
  | 0x5E, some (.exit _), some d1 => d1 == .sink
  | 0x5E, _, _ => false
  | 0x82, some (.element ..), _ | 0x84, some (.element ..), _ => true
  | 0x82, _, _ | 0x84, _, _ => false
  | 0x90, some (.element ..), _ | 0x91, some (.element ..), _ | 0x92, some (.element ..), _
  | 0x90, some (.cont _), _ | 0x91, some (.cont _), _ | 0x92, some (.cont _), _ => true
  | 0x90, _, _ | 0x91, _, _ | 0x92, _, _ => false
  | 0x95, some d, _ | 0xB3, some d, _ | 0xB4, some d, _ => d == .sink
  | _, _, _ => true

/-- Rounding mode codes of R66 in an instruction that carries one. -/
def rndOk (v : BitVec 20) (lo : Nat) : Bool := immBits v lo 3 ≤ 4

/-- Result type of a conversion lies in a class (R179 to R181). -/
def resOk (v : BitVec 20) (cls : List Ty) : Bool :=
  match Ty.ofCode (v.extractLsb' 0 4) with | some t => cls.contains t | none => false

/-- The pairs of operand types, and the scale fields, that `MXCFG` allows (R229). -/
def mxcfgOk (t : Ty) (v : BitVec 20) : Bool :=
  if v.getLsbD 4 then v.toNat == 16
  else
    let bt := Ty.ofCode (v.extractLsb' 0 4)
    let fp8 : List (Option Ty) := [some .e4m3x4, some .e5m2x4]
    (v.toNat < 2 ^ 11) &&
    ((fp8.contains (some t) && fp8.contains bt) || (bt == some t && ([Ty.i8x4, .e2m1x8, .bf16x2, .f16x2].contains t))) &&
    (!v.getLsbD 5 || [Ty.e4m3x4, .e5m2x4, .e2m1x8].contains t) && (!v.getLsbD 6 || v.getLsbD 5)

/-- Format I: the fields of `IMM20` and their limits, instruction by instruction (R70 and the entries). With flag `I`
the immediate takes the word's bits (R58, R164). -/
def immCheck (op : Nat) (h : Hdr) (v : BitVec 20) : Option WordReject :=
  let n := v.toNat
  let bad (b : Bool) : Option WordReject := if b then none else some .immediate
  match op with
  | 0x0B => if !(n % 16 ≤ 7) then some .condition else bad (h.fI || n < 16)
  | 0x28 => if !(n % 16 ≤ 9) then some .condition else bad (n < 16)
  | 0x18 | 0x19 => bad (n < 1024 && immBits v 0 5 + immBits v 5 5 + 1 ≤ 32)
  | 0x1B => bad (n < 8)
  | 0x1C => bad (n < 4096 && 1 ≤ n % 32 && n % 32 ≤ (if h.arity = 3 then 10 else 16) &&
      (h.ty == .f32 || immBits v 5 6 ≤ 31))
  | 0x1D => bad (n < 32 && 1 ≤ n)
  | 0x1E => bad (n < 128 && 1 ≤ n % 32 && n % 32 ≤ (if v.getLsbD 5 then 10 else 16))
  | 0x2F => bad (n < 8 && rndOk v 0)
  | 0x30 => bad (n < 256 && rndOk v 4 && resOk v (tyFloat ++ [.e4m3x4, .e5m2x4, .e2m1x8]))
  | 0x31 => bad (n < 256 && rndOk v 4 && resOk v tyInt)
  | 0x32 => bad (n < 128 && rndOk v 4 && resOk v tyFloat)
  | 0x36 => bad (n < 256 && rndOk v 4 && resOk v tyNarrow)
  | 0x37 => bad (n < 128 && resOk v tyFloat && immBits v 4 3 < h.ty.lanes)
  | 0x41 | 0x42 | 0x47 | 0x55 => none
  | 0x45 | 0x46 => bad (n < 8)
  | 0x4A | 0x4B => bad (n < 16)
  | 0x51 => if !(n < 512) then some .immediate
      else if immBits v 0 6 + immBits v 6 3 ≤ 62 then none else some .continuation
  | 0x56 | 0x59 => bad (1 ≤ n && n ≤ 64)
  | 0x5A => bad (n < 1024)
  | 0x60 | 0x61 | 0x64 | 0x65 => bad (n < 64)
  | 0x62 | 0x63 => bad (n < 4096 && immBits v 0 6 + immBits v 6 6 + 1 ≤ 64)
  | 0x66 => bad (n ≤ 58)
  | 0x67 => bad (n < 1024 && immBits v 0 6 ≤ 58 && rndOk v 7)
  | 0x70 => bad (mxcfgOk h.ty v)
  | 0x72 => bad (n == 0)
  | 0x75 => none
  | _ => none

/-- Format X: unused bits of `SHAPE` and of `Z`, `K`, `F`, `S` (R68, R228, R233). -/
def shapeCheck (op : Nat) (h : Hdr) (b : FX) : Option WordReject :=
  let n := b.shape.toNat
  let bits := b.z || b.k || b.f || b.s
  let bad (c : Bool) : Option WordReject := if c then none else some .immediate
  match op with
  | 0x71 => bad (n < 4096)
  | 0x73 => bad (!bits && n < 32 && (h.mode != .accord || n == 0))
  | 0x74 => bad (!bits && n < 4096 && immBits b.shape 0 6 + immBits b.shape 6 6 + 1 ≤ 64 &&
      (!([Ty.bf16x2, .f16x2].contains h.ty) || (immBits b.shape 0 6 % 2 == 0 && immBits b.shape 6 6 % 2 == 1)))
  | _ => none

/-- Format Y: the fields of `SCODE` and `SARG` (R103, R287, R293, R294, R310, R321, R357). -/
def sysCheck (op : Nat) (b : FY) : Option WordReject :=
  let c := b.scode.toNat
  let a := b.sarg.toNat
  let bad (x : Bool) : Option WordReject := if x then none else some .immediate
  match op with
  | 0x87 => bad (c < 64 && a == 0 && c % 8 ≤ 4 && 1 ≤ c / 8 && c / 8 ≤ 4)
  | 0x93 => bad (c < 2 && a == 0)
  | 0x94 | 0x95 | 0x97 => bad (c < 16 && a == 0)
  | 0x98 => bad (c < 32 && a == 0)
  | 0xA0 | 0xA5 => bad (c < 16)
  | 0xA1 | 0xA2 => bad (c < 32)
  | 0xA4 => bad (c < 2 && a == 0)
  | 0xA7 => bad (c < 2 && a < 64)
  | 0xA3 => bad (c < 128 && c % 8 ≤ 1 && 1 ≤ a)
  | 0xA6 => bad (c == 0 && a == 0)
  | 0xB0 | 0xB1 | 0xB6 => bad (c == 0)
  | 0xB2 => bad (c < 8 && a == 0)
  | 0xB3 => bad (c < 128 && a < 64)
  | 0xB4 => bad (c < 4 && a == 0)
  | 0xB5 | 0xB7 | 0xB9 | 0xBC => bad (c < 2 && a == 0)
  | 0xB8 => bad (c == 0 && a < 32 && a % 16 ≤ 6)
  | 0xBA | 0xBB => bad (c == 0 && a == 0)
  | _ => none

/-- Format M: the limits that a word alone can break (R67, R214, R215). -/
def memCheck (op : Nat) (h : Hdr) (b : FM) : Option WordReject :=
  if (h.fP || h.fW) && !b.ax then some .flags
  else if op = 0x6A && b.o then some .immediate
  else if op = 0x6B then
    match b.d0 with
    | .cont n => if n.toNat ≤ 59 then none else some .continuation
    | _ => some .continuation
  else none

/-- A sync queue stands in `DEST1` exactly when `P` or `W` is set (R61). -/
def sqFieldOk (h : Hdr) (b : FD) : Bool :=
  match b.d1 with | .sq _ => h.fP || h.fW | .dest _ => !(h.fP || h.fW)

/-- The checks of the fields below the header, in the order of the reason codes of R76. -/
def bodyCheck (h : Handler) : Option WordReject :=
  let op := h.op.toNat
  if !destOk h then some .destination
  else match h.body with
  | .di (.d b) => if h.hdr.fI || !sqFieldOk h.hdr b then some .immediate else none
  | .di (.i _) => if h.hdr.fI then none else some .immediate
  | .d b => if sqFieldOk h.hdr b then none else some .immediate
  | .i b => immCheck op h.hdr b.imm
  | .m b => memCheck op h.hdr b
  | .x b => shapeCheck op h.hdr b
  | .y b => sysCheck op b

/-- Every check that one handler word alone can fail (R56 to R73); `none` accepts it. -/
def handlerCheck (h : Handler) : Option WordReject :=
  match rowOf h.op.toNat with
  | none => some .opcode
  | some r => match headerCheck h.op.toNat r h.hdr with
    | some e => some e
    | none => bodyCheck h

end Sys2Proof
end

