-- ==== Sys2Proof/WellFormed.lean ====
section
/-! DEFINITION. Well-formed instructions. A handler word's instruction is well formed when the loader accepts it (R73).
A Colophon instruction uses every field of its constructor, so each is well formed; invalid values halt the program
when they are executed (R370). An event is well formed when its unit, queue, timeline or element exists. -/
namespace Sys2Proof

/-- Dies (R1), bays of a die (R2), host queues (R26), and timelines (R99) are numbered below these. -/
def dieOk (d : Nat) : Bool := d < 4
@[inherit_doc dieOk] def bayOk (b : Nat) : Bool := b < 512
@[inherit_doc dieOk] def queueOk (q : Nat) : Bool := q < 64
@[inherit_doc dieOk] def timelineOk (t : Nat) : Bool := t < 65536

/-- What an event's operands must name for the event to exist. -/
def eventOk (i : Instr) : Bool :=
  match i with
  | .wakeSequencerTick d | .epochEnd d | .exchangeSlot d => dieOk d
  | .bayGate b | .colophonRun b _ | .colophonHalt b | .colophonCapture b _ | .ingressCell b => bayOk b
  | .hqTailWrite q _ | .hqRingSetup q _ _ | .hqEnable q | .hqDisable q => queueOk q
  | .hostTimelineIncrement t _ | .kernelTimelineWrite t _ _ => timelineOk t
  | .mbiWrite i _ => i < 16
  | .mailboxAnswer ws => ws.all (fun p => p.1 < 16)
  | .chunkMoveDone d _ => dieOk d
  | .decantBlockDone b k => bayOk b && k < 4
  | .bankAccess b t k => bayOk b && t < 4 && k < 16
  | .layoutRecordApply b t c _ => bayOk b && t < 4 && c < 4
  | .memoryPortCell d p | .lagDrop d p _ | .glaedShowVoq d p => dieOk d && p < 240
  | .watchSample w => w < 64
  | _ => true

/-- A well-formed instruction. -/
def wellFormed (i : Instr) : Bool :=
  match handlerView i with
  | some h => handlerCheck h == none
  | none => eventOk i

end Sys2Proof
end

