-- ==== Sys2Proof/Decode.lean ====
section
/-! DEFINITION. The decoders and encoders of the two instruction words: the 64-bit handler word (R56 to R73) and the
32-bit Colophon word (R370 to R372). Both are total and refuse by name what is no instruction. -/
namespace Sys2Proof

/-- A destination's 20 bits (R64). -/
def encodeDest : Dest → BitVec 20
  | .element i p h => 0#2 ++ i ++ p ++ h
  | .exit n => 1#2 ++ 0#15 ++ n
  | .cont n => 2#2 ++ 0#12 ++ n
  | .sink => 3#2 ++ 0#18
  | .park => 3#2 ++ 1#18
  | .slot n => 3#2 ++ 0#3 ++ n ++ 2#3

/-- The destination in 20 bits (R64); `none` for a reserved code or a non-zero unused bit. -/
def decodeDest (w : BitVec 20) : Option Dest :=
  let kind := w.extractLsb' 18 2
  if kind = 0 then some (.element (w.extractLsb' 5 13) (w.extractLsb' 3 2) (w.extractLsb' 0 3))
  else if kind = 1 then
    if w.extractLsb' 3 15 = 0 then some (.exit (w.extractLsb' 0 3)) else none
  else if kind = 2 then
    if w.extractLsb' 6 12 = 0 then some (.cont (w.extractLsb' 0 6)) else none
  else
    let code := w.extractLsb' 0 3
    if code = 0 then (if w.extractLsb' 3 15 = 0 then some .sink else none)
    else if code = 1 then (if w.extractLsb' 3 15 = 0 then some .park else none)
    else if code = 2 then (if w.extractLsb' 15 3 = 0 then some (.slot (w.extractLsb' 3 12)) else none)
    else none

/-- Bits [19:0] of format D (R57, R61). -/
def encodeDestOrSq : DestOrSq → BitVec 20
  | .dest d => encodeDest d
  | .sq n => 0#16 ++ n

/-- A flag as one bit. -/
def bit1 (b : Bool) : BitVec 1 := if b then 1 else 0

/-- Bits [63:40] of a handler word (R56). -/
def encodeHeader (op : BitVec 8) (h : Hdr) : BitVec 24 :=
  op ++ Mode.code h.mode ++ h.arity ++ TagOp.code h.tagop ++ Ty.code h.ty ++
    bit1 h.fI ++ bit1 h.fP ++ bit1 h.fW ++ bit1 h.fK

/-- Bits [39:0] of a handler word, by format (R57). -/
def encodeBody : Body → BitVec 40
  | .di (.d b) | .d b => encodeDest b.d0 ++ encodeDestOrSq b.d1
  | .di (.i b) | .i b => encodeDest b.d0 ++ b.imm
  | .m b => b.window ++ b.own ++ b.predd ++ b.succd ++ bit1 b.o ++ bit1 b.ax ++ encodeDest b.d0
  | .x b => bit1 b.z ++ bit1 b.k ++ bit1 b.f ++ bit1 b.s ++ b.dtel ++ b.dtport ++ 0#1 ++ b.shape
  | .y b => b.scode ++ b.sarg ++ encodeDest b.d0

/-- The word of an element instruction. -/
def encodeHandler (h : Handler) : W64 := encodeHeader h.op h.hdr ++ encodeBody h.body

/-- Format D (R57): `DEST1` holds the sync queue when `P` or `W` is set (R61). -/
def decodeFD (h : Hdr) (w : W64) : Except WordReject FD :=
  match decodeDest (w.extractLsb' 20 20) with
  | none => .error .destination
  | some d0 =>
    if h.fP || h.fW then
      if w.extractLsb' 4 16 = 0 then .ok ⟨d0, .sq (w.extractLsb' 0 4)⟩ else .error .immediate
    else match decodeDest (w.extractLsb' 0 20) with
      | none => .error .destination
      | some d1 => .ok ⟨d0, .dest d1⟩

/-- Format I (R57). -/
def decodeFI (w : W64) : Except WordReject FI :=
  match decodeDest (w.extractLsb' 20 20) with
  | none => .error .destination
  | some d0 => .ok ⟨d0, w.extractLsb' 0 20⟩

/-- Format M (R57). -/
def decodeFM (w : W64) : Except WordReject FM :=
  match decodeDest (w.extractLsb' 0 20) with
  | none => .error .destination
  | some d0 => .ok ⟨w.extractLsb' 34 6, w.extractLsb' 28 6, w.extractLsb' 25 3, w.extractLsb' 22 3,
      w.getLsbD 21, w.getLsbD 20, d0⟩

/-- Format X (R57); bit [20] must be zero. -/
def decodeFX (w : W64) : Except WordReject FX :=
  if w.getLsbD 20 then .error .immediate
  else .ok ⟨w.getLsbD 39, w.getLsbD 38, w.getLsbD 37, w.getLsbD 36, w.extractLsb' 23 13, w.extractLsb' 21 2,
    w.extractLsb' 0 20⟩

/-- Format Y (R57). -/
def decodeFY (w : W64) : Except WordReject FY :=
  match decodeDest (w.extractLsb' 0 20) with
  | none => .error .destination
  | some d0 => .ok ⟨w.extractLsb' 32 8, w.extractLsb' 20 12, d0⟩

/-- The instruction of a word whose header is read, by its opcode's format (R58, R70). -/
def decodeBody (m : Maker) (h : Hdr) (w : W64) : Except WordReject Instr :=
  match m with
  | .di f => if h.fI then (decodeFI w).map (fun b => f h (.i b)) else (decodeFD h w).map (fun b => f h (.d b))
  | .d f => (decodeFD h w).map (f h)
  | .i f => (decodeFI w).map (f h)
  | .m f => (decodeFM w).map (f h)
  | .x f => (decodeFX w).map (f h)
  | .y f => (decodeFY w).map (f h)

/-- The header fields of a word (R56), refused by name where a code is reserved. -/
def decodeHdr (w : W64) : Except WordReject Hdr :=
  match TagOp.ofCode (w.extractLsb' 48 4), Ty.ofCode (w.extractLsb' 44 4) with
  | none, _ => .error .tagop
  | _, none => .error .type
  | some tg, some ty => .ok ⟨Mode.ofCode (w.extractLsb' 54 2), w.extractLsb' 52 2, tg, ty,
      w.getLsbD 43, w.getLsbD 42, w.getLsbD 41, w.getLsbD 40⟩

/-- Every handler word is an instruction of R70 or is refused by name (R73). `NOP` (R71) is no instruction of the
table and is refused here as an opcode; a handler store holds it and it never fires. -/
def decodeHandler (w : W64) : Except WordReject Instr :=
  match rowOf (w.extractLsb' 56 8).toNat with
  | none => .error .opcode
  | some r => match decodeHdr w with
    | .error e =>
      -- the mode and the arity come before the tag operation and the type in the order of R76
      if !r.modes.contains (Mode.ofCode (w.extractLsb' 54 2)) then .error .mode
      else if !arityOk r ⟨Mode.ofCode (w.extractLsb' 54 2), w.extractLsb' 52 2, .keep, .i32, false, false, false, false⟩ then
        .error .arity
      else .error e
    | .ok h => match headerCheck (w.extractLsb' 56 8).toNat r h with
      | some e => .error e
      | none => match decodeBody r.make h w with
        | .error e => .error e
        | .ok i => match handlerView i with
          | none => .error .opcode
          | some v => match bodyCheck v with
            | some e => .error e
            | none => .ok i

/-- The one word of `NOP` (R71). -/
def nopWord : W64 := 0xBD00000000000000

/-- Why a Colophon word halts the program before it is executed (R368, R370). -/
inductive ColReject where
  | opcode | unusedField
deriving DecidableEq, Repr

/-- `ECODE` of a word that is no instruction (R368). -/
def ColReject.code : ColReject → BitVec 4
  | .opcode => 1 | .unusedField => 2

/-- The instruction of a Colophon word (R370 to R372). -/
def decodeColophon (w : W32) : Except ColReject Instr :=
  let rd := w.extractLsb' 22 4
  let ra := w.extractLsb' 18 4
  let rb := w.extractLsb' 14 4
  let imm := w.extractLsb' 0 14
  let t := w.extractLsb' 0 2
  let need (b : Bool) (i : Instr) : Except ColReject Instr := if b then .ok i else .error .unusedField
  let tz := w.extractLsb' 2 12 == 0
  match (w.extractLsb' 26 6).toNat with
  | 0x00 => need tz (.eadd rd ra rb t)
  | 0x01 => need tz (.esub rd ra rb t)
  | 0x02 => need tz (.emul rd ra rb t)
  | 0x03 => need (imm == 0) (.efma rd ra rb)
  | 0x04 => need tz (.emax rd ra rb t)
  | 0x05 => need tz (.emin rd ra rb t)
  | 0x06 => need (w.extractLsb' 8 10 == 0) (.ecvt rd ra (w.extractLsb' 0 4) (w.extractLsb' 4 3) (w.getLsbD 7))
  | 0x07 => need (imm == 0) (.eclmp rd ra rb)
  | 0x08 => need (w.extractLsb' 1 21 == 0) (.eldr rd (w.getLsbD 0))
  | 0x09 => need (rd == 0) (.estr ra rb imm)
  | 0x0A => need (rb == 0) (.eldi rd ra imm)
  | 0x0B => need (w.extractLsb' 0 18 == 0) (.emov rd ra)
  | 0x0C => need (imm == 0) (.eand rd ra rb)
  | 0x0D => need (w.extractLsb' 7 11 == 0) (.eshf rd ra (w.extractLsb' 0 5) (w.extractLsb' 5 2))
  | 0x0E => need (rd == 0 && rb == 0) (.ebnz ra imm)
  | 0x0F => need (w.extractLsb' 14 12 == 0) (.ejmp imm)
  | 0x10 => need (w.extractLsb' 14 8 == 0) (.eloop rd imm)
  | 0x11 => need (w.extractLsb' 7 19 == 0) (.ewait (w.extractLsb' 0 7))
  | 0x12 => need (w.extractLsb' 14 12 == 0) (.ehalt imm)
  | 0x13 => need (rd == 0 && rb == 0 && w.extractLsb' 12 2 == 0)
      (.esig ra (w.extractLsb' 0 7) (w.extractLsb' 7 2) (w.extractLsb' 9 3))
  | _ => .error .opcode

/-- The Colophon word of an instruction (R370 to R372); `none` for one that is not the Colophon's. -/
def encodeColophon (i : Instr) : Option W32 :=
  match i with
  | .eadd rd ra rb t => some (0x00#6 ++ rd ++ ra ++ rb ++ 0#12 ++ t)
  | .esub rd ra rb t => some (0x01#6 ++ rd ++ ra ++ rb ++ 0#12 ++ t)
  | .emul rd ra rb t => some (0x02#6 ++ rd ++ ra ++ rb ++ 0#12 ++ t)
  | .efma rd ra rb => some (0x03#6 ++ rd ++ ra ++ rb ++ 0#14)
  | .emax rd ra rb t => some (0x04#6 ++ rd ++ ra ++ rb ++ 0#12 ++ t)
  | .emin rd ra rb t => some (0x05#6 ++ rd ++ ra ++ rb ++ 0#12 ++ t)
  | .ecvt rd ra ty rnd sat => some (0x06#6 ++ rd ++ ra ++ 0#10 ++ bit1 sat ++ rnd ++ ty)
  | .eclmp rd ra rb => some (0x07#6 ++ rd ++ ra ++ rb ++ 0#14)
  | .eldr rd m => some (0x08#6 ++ rd ++ 0#21 ++ bit1 m)
  | .estr ra rb k => some (0x09#6 ++ 0#4 ++ ra ++ rb ++ k)
  | .eldi rd ra v => some (0x0A#6 ++ rd ++ ra ++ 0#4 ++ v)
  | .emov rd ra => some (0x0B#6 ++ rd ++ ra ++ 0#18)
  | .eand rd ra rb => some (0x0C#6 ++ rd ++ ra ++ rb ++ 0#14)
  | .eshf rd ra n how => some (0x0D#6 ++ rd ++ ra ++ 0#11 ++ how ++ n)
  | .ebnz ra off => some (0x0E#6 ++ 0#4 ++ ra ++ 0#4 ++ off)
  | .ejmp off => some (0x0F#6 ++ 0#12 ++ off)
  | .eloop rd off => some (0x10#6 ++ rd ++ 0#8 ++ off)
  | .ewait n => some (0x11#6 ++ 0#19 ++ n)
  | .ehalt code => some (0x12#6 ++ 0#12 ++ code)
  | .esig ra el port hnd => some (0x13#6 ++ 0#4 ++ ra ++ 0#6 ++ hnd ++ port ++ el)
  | _ => none

/-- The words of an instruction, little-endian in memory (R3): a 64-bit handler word, a 32-bit Colophon word, or
nothing for an event. -/
def encode (i : Instr) : List Nat :=
  match handlerView i with
  | some h => [(encodeHandler h).toNat]
  | none => match encodeColophon i with
    | some w => [w.toNat]
    | none => []

/-- The instruction in a table word: 64 bits for a handler word, 32 for a Colophon word. -/
def decodeTableWord (nbits w : Nat) : Option Instr :=
  if nbits = 64 then (decodeHandler (BitVec.ofNat 64 w)).toOption
  else if nbits = 32 then (decodeColophon (BitVec.ofNat 32 w)).toOption
  else none

end Sys2Proof
end

