-- ==== Sys2Proof/Machine/Flags.lean ====
section
/-! DEFINITION. The sticky flags of a context's status word (R153) and of a Colophon (R368), and how they gather. -/
namespace Sys2Proof.Machine

/-- A set of status flags, in the bit order of R153. -/
abbrev Flags := W32

namespace Flag

/-- No flag. -/
def none : Flags := 0x00
/-- Invalid. -/
def NV : Flags := 0x01
/-- Division by zero. -/
def DZ : Flags := 0x02
/-- Overflow. -/
def OF : Flags := 0x04
/-- Underflow: a tiny, inexact result. -/
def UF : Flags := 0x08
/-- Inexact. -/
def NX : Flags := 0x10
/-- An `XACC` group saturated. -/
def XOV : Flags := 0x20
/-- A conversion was clamped. -/
def SAT : Flags := 0x40

end Flag

/-- A flag when a condition holds. -/
def flagIf (c : Bool) (f : Flags) : Flags := if c then f else Flag.none

/-- The flags of a Colophon's `FLG`: `NV`, `DZ`, `OF`, `UF`, `NX` (R368). -/
def colophonFlags (f : Flags) : BitVec 5 := f.extractLsb' 0 5

/-- The sticky gathering of flags into a status word: a flag is never cleared by an instruction (R153). -/
def gather (status f : W32) : W32 := status ||| f

end Sys2Proof.Machine
end

