-- ==== Sys2Proof/Machine/Num.lean ====
section
/-! DEFINITION. Numbers (R145 to R157): lanes, floating-point formats as exact dyadic values, rounding, and the sums
of the lattice and of exact groups. Every operation computes exactly and rounds once at its end. -/
namespace Sys2Proof.Machine

/-- The exact value of a floating-point datum: a NaN, an infinity, or ±`m` × 2^`e`. -/
inductive FV where
  | nan (signalling : Bool)
  | inf (neg : Bool)
  | fin (neg : Bool) (m : Nat) (e : Int)
deriving DecidableEq, Repr

/-- A binary format (R146): exponent and fraction widths, bias, and whether it has infinities (E4M3 has none). -/
structure Fmt where
  eb : Nat
  fb : Nat
  bias : Int
  hasInf : Bool
deriving DecidableEq, Repr

/-- The formats of R146. -/
def fp32 : Fmt := ⟨8, 23, 127, true⟩
@[inherit_doc fp32] def bf16 : Fmt := ⟨8, 7, 127, true⟩
@[inherit_doc fp32] def fp16 : Fmt := ⟨5, 10, 15, true⟩
@[inherit_doc fp32] def e4m3 : Fmt := ⟨4, 3, 7, false⟩
@[inherit_doc fp32] def e5m2 : Fmt := ⟨5, 2, 15, true⟩

/-- The pattern of a sign, an exponent field and a fraction. -/
def Fmt.pack (f : Fmt) (neg : Bool) (ef fr : Nat) : Nat :=
  (if neg then 2 ^ (f.eb + f.fb) else 0) + ef * 2 ^ f.fb + fr

/-- The canonical quiet NaN (R147). -/
def Fmt.canonicalNaN (f : Fmt) : Nat :=
  if f.hasInf then f.pack false (2 ^ f.eb - 1) (2 ^ (f.fb - 1)) else f.pack false (2 ^ f.eb - 1) (2 ^ f.fb - 1)

/-- Infinity of a sign; in E4M3 the canonical NaN (R152). -/
def Fmt.infinity (f : Fmt) (neg : Bool) : Nat :=
  if f.hasInf then f.pack neg (2 ^ f.eb - 1) 0 else f.canonicalNaN

/-- Largest finite value of a sign (R146). -/
def Fmt.maxFinite (f : Fmt) (neg : Bool) : Nat :=
  if f.hasInf then f.pack neg (2 ^ f.eb - 2) (2 ^ f.fb - 1) else f.pack neg (2 ^ f.eb - 1) (2 ^ f.fb - 2)

/-- Exponent of the smallest subnormal. -/
def Fmt.qmin (f : Fmt) : Int := 1 - f.bias - f.fb

/-- The value of a pattern (R146, R147). -/
def Fmt.value (f : Fmt) (x : Nat) : FV :=
  let neg := x / 2 ^ (f.eb + f.fb) % 2 == 1
  let ef := x / 2 ^ f.fb % 2 ^ f.eb
  let fr := x % 2 ^ f.fb
  if f.hasInf && ef == 2 ^ f.eb - 1 then
    if fr = 0 then .inf neg else .nan (fr < 2 ^ (f.fb - 1))
  else if !f.hasInf && ef == 2 ^ f.eb - 1 && fr == 2 ^ f.fb - 1 then .nan false
  else if ef = 0 then .fin neg fr f.qmin
  else .fin neg (2 ^ f.fb + fr) (f.qmin + ef - 1)

/-- A rounding mode of R66. -/
abbrev Rnd := Nat

/-- Whether a remainder `rem` of 2^`sh` above the lower magnitude rounds up (R150); `odd` says that the lower
magnitude's last bit is 1, and `r` is the 16 random bits of R151. -/
def roundsUp (mode : Rnd) (r : Nat) (neg odd : Bool) (rem sh : Nat) : Bool :=
  match mode with
  | 0 => 2 * rem > 2 ^ sh || (2 * rem == 2 ^ sh && odd)
  | 1 => false
  | 2 => !neg
  | 3 => neg
  | _ => r < 2 ^ 16 * rem / 2 ^ sh

/-- A magnitude `m` × 2^`e` rounded to `fb` + 1 significant bits, or to units of 2^`qmin`: units, their exponent, and
whether the result is inexact. -/
def roundUnits (fb : Nat) (qmin : Int) (mode : Rnd) (r : Nat) (neg : Bool) (m : Nat) (e : Int) : Nat × Int × Bool :=
  let q := max ((Nat.log2 m : Int) + e - fb) qmin
  if q ≤ e then (m * 2 ^ (e - q).toNat, q, false)
  else
    let sh := (q - e).toNat
    let u := m / 2 ^ sh
    let rem := m % 2 ^ sh
    if rem = 0 then (u, q, false)
    else (u + (if roundsUp mode r neg (u % 2 == 1) rem sh then 1 else 0), q, true)

/-- Finite overflow (R152). -/
def Fmt.overflow (f : Fmt) (mode : Rnd) (sat neg : Bool) : Nat × Flags :=
  if sat || !f.hasInf then (f.maxFinite neg, Flag.SAT ||| Flag.NX)
  else
    let toMax := mode == 1 || (mode == 2 && neg) || (mode == 3 && !neg)
    (if toMax then f.maxFinite neg else f.infinity neg, Flag.OF ||| Flag.NX)

/-- A finite value rounded to a format (R147, R150, R152): the pattern and the flags raised. -/
def Fmt.round (f : Fmt) (mode : Rnd) (r : Nat) (sat : Bool) (neg : Bool) (m : Nat) (e : Int) : Nat × Flags :=
  if m = 0 then (f.pack neg 0 0, Flag.none)
  else
    let (u, q, inexact) := roundUnits f.fb f.qmin mode r neg m e
    let (u, q) := if u = 2 ^ (f.fb + 1) then (2 ^ f.fb, q + 1) else (u, q)
    if u < 2 ^ f.fb then
      (f.pack neg 0 u, flagIf inexact Flag.NX ||| flagIf (inexact && u != 0) Flag.UF)
    else
      let ef := q - f.qmin + 1
      let fr := u - 2 ^ f.fb
      let top : Int := 2 ^ f.eb - 1
      if (if f.hasInf then ef ≥ top else ef > top || (ef == top && fr == 2 ^ f.fb - 1)) then f.overflow mode sat neg
      else (f.pack neg ef.toNat fr, flagIf inexact Flag.NX)

/-- A value written in a format (R150, R152). -/
def Fmt.write (f : Fmt) (mode : Rnd) (r : Nat) (sat : Bool) : FV → Nat × Flags
  | .nan sig => (f.canonicalNaN, flagIf sig Flag.NV)
  | .inf neg =>
    if sat then (f.maxFinite neg, Flag.SAT)
    else (f.infinity neg, flagIf (!f.hasInf) Flag.NV)
  | .fin neg m e => f.round mode r sat neg m e

/-- Result of arithmetic: nearest even, overflow to infinity (R147). -/
def Fmt.arith (f : Fmt) (v : FV) : Nat × Flags := f.write 0 0 false v

/-! ### Exact arithmetic on values -/

/-- A signed integer of a finite value at exponent `q`, which is at most the value's own. -/
def scaledInt (neg : Bool) (m : Nat) (e q : Int) : Int :=
  let x : Int := (m : Int) * 2 ^ (e - q).toNat
  if neg then -x else x

/-- A finite value of a signed integer at an exponent. -/
def ofScaled (x : Int) (q : Int) : FV := .fin (decide (x < 0)) x.natAbs q

/-- Whether a value is a signalling NaN. -/
def FV.sig : FV → Bool
  | .nan s => s
  | _ => false

/-- Whether a value is a NaN. -/
def FV.isNaN : FV → Bool
  | .nan _ => true
  | _ => false

/-- Whether a value is a zero. -/
def FV.isZero : FV → Bool
  | .fin _ 0 _ => true
  | _ => false

/-- Sign of a value that is no NaN. -/
def FV.neg : FV → Bool
  | .nan _ => false
  | .inf n => n
  | .fin n _ _ => n

/-- −x. -/
def FV.negate : FV → FV
  | .nan s => .nan s
  | .inf n => .inf (!n)
  | .fin n m e => .fin (!n) m e

/-- |x|. -/
def FV.abs : FV → FV
  | .nan s => .nan s
  | .inf _ => .inf false
  | .fin _ m e => .fin false m e

/-- The NaN of an operation that meets a NaN or an invalid combination, with its `NV` (R147). -/
def nanOf (sig invalid : Bool) : FV × Flags := (.nan false, flagIf (sig || invalid) Flag.NV)

/-- Exact product with IEEE special cases (R171). -/
def FV.mul (x y : FV) : FV × Flags :=
  match x, y with
  | .nan s, y => nanOf (s || y.sig) false
  | x, .nan s => nanOf (s || x.sig) false
  | .inf n, y => if y.isZero then nanOf false true else (.inf (n != y.neg), Flag.none)
  | x, .inf n => if x.isZero then nanOf false true else (.inf (n != x.neg), Flag.none)
  | .fin n m e, .fin n' m' e' => (.fin (n != n') (m * m') (e + e'), Flag.none)

/-- Exact sum of two finite values; an exact zero is +0 unless both terms are −0 (R171). -/
def addFin (n : Bool) (m : Nat) (e : Int) (n' : Bool) (m' : Nat) (e' : Int) : FV :=
  let q := min e e'
  let s := scaledInt n m e q + scaledInt n' m' e' q
  if s = 0 then .fin (n && n' && m == 0 && m' == 0) 0 q else ofScaled s q

/-- Exact sum with IEEE special cases (R171). -/
def FV.add (x y : FV) : FV × Flags :=
  match x, y with
  | .nan s, y => nanOf (s || y.sig) false
  | x, .nan s => nanOf (s || x.sig) false
  | .inf n, .inf n' => if n = n' then (.inf n, Flag.none) else nanOf false true
  | .inf n, _ => (.inf n, Flag.none)
  | _, .inf n => (.inf n, Flag.none)
  | .fin n m e, .fin n' m' e' => (addFin n m e n' m' e', Flag.none)

/-- Numeric order of two values that are no NaNs: −1, 0 or 1; −0 equals +0. -/
def FV.cmp (x y : FV) : Int :=
  match x, y with
  | .inf n, .inf n' => if n = n' then 0 else if n then -1 else 1
  | .inf n, _ => if n then -1 else 1
  | _, .inf n => if n then 1 else -1
  | .fin n m e, .fin n' m' e' =>
    let q := min e e'
    (scaledInt n m e q - scaledInt n' m' e' q).sign
  | _, _ => 0

/-- Integer square root by bits, from bit `k` down. -/
def isqrtFrom (n : Nat) : Nat → Nat → Nat
  | 0, r => if (r + 1) * (r + 1) ≤ n then r + 1 else r
  | k + 1, r =>
    let t := r + 2 ^ (k + 1)
    isqrtFrom n k (if t * t ≤ n then t else r)

/-- ⌊√n⌋. -/
def isqrt (n : Nat) : Nat := isqrtFrom n (Nat.log2 n / 2 + 1) 0

/-- A magnitude known to lie strictly between `m` and `m` + 1 units of 2^`e` when `sticky`, as a value that rounds to
nearest as it does. -/
def stickyFin (neg : Bool) (m : Nat) (e : Int) (sticky : Bool) : FV :=
  .fin neg (2 * m + (if sticky then 1 else 0)) (e - 1)

/-- Bits carried beyond a result's own by the roots and quotients below. -/
def extraBits : Nat := 64

/-- 1 / x (R174). -/
def FV.rcp : FV → FV × Flags
  | .nan s => nanOf s false
  | .inf n => (.fin n 0 0, Flag.none)
  | .fin n 0 _ => (.inf n, Flag.DZ)
  | .fin n m e =>
    let k := Nat.log2 m + extraBits
    (stickyFin n (2 ^ k / m) (-(k : Int) - e) (2 ^ k % m != 0), Flag.none)

/-- Square root of a magnitude, with an even shift that leaves at least `extraBits` bits. -/
def sqrtMag (m : Nat) (e : Int) : FV :=
  let k := 2 * extraBits
  let (m, e) := if e % 2 = 0 then (m, e) else (2 * m, e - 1)
  let n := m * 2 ^ k
  let s := isqrt n
  stickyFin false s ((e - k) / 2) (s * s != n)

/-- √x (R174). -/
def FV.sqrt : FV → FV × Flags
  | .nan s => nanOf s false
  | .inf n => if n then nanOf false true else (.inf false, Flag.none)
  | .fin n 0 _ => (.fin n 0 0, Flag.none)
  | .fin true _ _ => nanOf false true
  | .fin false m e => (sqrtMag m e, Flag.none)

/-- 1 / √x (R174): the root of a quotient carried to 2^(2k) units. -/
def FV.rsqrt : FV → FV × Flags
  | .nan s => nanOf s false
  | .inf n => if n then nanOf false true else (.fin false 0 0, Flag.none)
  | .fin n 0 _ => (.inf n, Flag.DZ)
  | .fin true _ _ => nanOf false true
  | .fin false m e =>
    let (m, e) := if e % 2 = 0 then (m, e) else (2 * m, e - 1)
    let k := 2 * (Nat.log2 m + extraBits)
    let q := 2 ^ k / m
    let s := isqrt q
    (stickyFin false s (-((k : Int) / 2) - e / 2) (2 ^ k % m != 0 || s * s != q), Flag.none)

/-- Fraction bits of the working values of `exp2Frac` and `log2Frac`. -/
def workBits : Nat := 128

/-- Product of 2^(2^−i) over the set bits of a fraction: `c` is 2^(2^−i) in units of 2^−128, `f` the fraction's bits
still to read (most significant first, `k` of them), `acc` the product so far. -/
def exp2Loop : Nat → Nat → Nat → Nat → Nat
  | 0, _, _, acc => acc
  | k + 1, c, f, acc =>
    let c' := isqrt (c * 2 ^ workBits)
    exp2Loop k c' f (if f / 2 ^ k % 2 = 1 then acc * c' / 2 ^ workBits else acc)

/-- 2^x, from below to within 2^−110 of its units, for a finite x (R174); every value of a non-integral x is
irrational, so it is never a tie. -/
def exp2Fin (neg : Bool) (m : Nat) (e : Int) : FV :=
  let x := if neg then -(m : Int) else (m : Int)
  if 0 ≤ e then
    -- an integer; beyond ±2^12 every format has overflowed or vanished
    let n := x * 2 ^ (min e 13).toNat
    .fin false 1 (max (-5000) (min 5000 n))
  else
    let d := (-e).toNat
    let n := x / 2 ^ d
    let fr := (x % 2 ^ d).toNat
    if fr = 0 then .fin false 1 (max (-5000) (min 5000 n))
    else
      let f := if d ≤ workBits then fr * 2 ^ (workBits - d) else fr / 2 ^ (d - workBits)
      let y := exp2Loop workBits (2 * 2 ^ workBits) f (2 ^ workBits)
      stickyFin false y (max (-5000) (min 5000 n) - workBits) true

/-- 2^x (R174). -/
def FV.exp2 : FV → FV × Flags
  | .nan s => nanOf s false
  | .inf n => if n then (.fin false 0 0, Flag.none) else (.inf false, Flag.none)
  | .fin n m e => (exp2Fin n m e, Flag.none)

/-- The first `k` binary digits of log₂ of `y` in [1, 2), in units of 2^−(2 × 128). -/
def log2Loop : Nat → Nat → Nat → Nat
  | 0, _, acc => acc
  | k + 1, y, acc =>
    let y2 := y * y / 2 ^ (2 * workBits)
    if y2 ≥ 2 ^ (2 * workBits + 1) then log2Loop k (y2 / 2) (2 * acc + 1) else log2Loop k y2 (2 * acc)

/-- log₂ of a positive magnitude (R174); it is rational only for a power of two. -/
def log2Fin (m : Nat) (e : Int) : FV :=
  let l := Nat.log2 m
  let n : Int := l + e
  if m = 2 ^ l then ofScaled n 0
  else
    let k := 110
    let fr := log2Loop k (m * 2 ^ (2 * workBits) / 2 ^ l) 0
    if 0 ≤ n then stickyFin false (n.toNat * 2 ^ k + fr) (-(k : Int)) true
    else stickyFin true (n.natAbs * 2 ^ k - fr - 1) (-(k : Int)) true

/-- log₂ x (R174). -/
def FV.log2 : FV → FV × Flags
  | .nan s => nanOf s false
  | .inf n => if n then nanOf false true else (.inf false, Flag.none)
  | .fin _ 0 _ => (.inf true, Flag.DZ)
  | .fin true _ _ => nanOf false true
  | .fin false m e => (log2Fin m e, Flag.none)

/-- Truncation toward zero of a finite value, as an integer. -/
def truncInt (neg : Bool) (m : Nat) (e : Int) : Int :=
  let x : Nat := if 0 ≤ e then m * 2 ^ e.toNat else m / 2 ^ (-e).toNat
  if neg then -(x : Int) else x

/-- ⌊x⌋ of a finite value. -/
def floorInt (neg : Bool) (m : Nat) (e : Int) : Int :=
  let x : Int := if neg then -(m : Int) else m
  if 0 ≤ e then x * 2 ^ e.toNat else x / 2 ^ (-e).toNat

/-- A finite value rounded to an integer in a mode (R150), and whether it was inexact. -/
def roundInt (mode : Rnd) (r : Nat) (neg : Bool) (m : Nat) (e : Int) : Int × Bool :=
  if 0 ≤ e then (scaledInt neg m e 0, false)
  else
    let sh := (-e).toNat
    let u := m / 2 ^ sh
    let rem := m % 2 ^ sh
    let u' := if rem = 0 then u else u + (if roundsUp mode r neg (u % 2 == 1) rem sh then 1 else 0)
    (if neg then -(u' : Int) else u', rem != 0)

/-! ### Lanes (R145) -/

/-- Lane `i` of width `w`, unsigned. -/
def laneOf (x : W32) (w i : Nat) : Nat := x.toNat / 2 ^ (w * i) % 2 ^ w

/-- A lane read as two's complement. -/
def signedLane (w x : Nat) : Int := if x < 2 ^ (w - 1) then x else (x : Int) - 2 ^ w

/-- A word from lanes of width `w`, lane 0 first. -/
def packLanes (w : Nat) : List Nat → Nat
  | [] => 0
  | x :: xs => x % 2 ^ w + 2 ^ w * packLanes w xs

/-- The lanes of a word, lane 0 first. -/
def lanesOf (x : W32) (w n : Nat) : List Nat := (List.range n).map (laneOf x w)

/-- An integer in a lane: modulo 2^w. -/
def toLane (w : Nat) (x : Int) : Nat := (x % 2 ^ w).toNat

/-- Whether a type's integer lanes are signed (R145). -/
def signedTy : Ty → Bool
  | .i32 | .i16x2 | .i8x4 => true
  | _ => false

/-- A lane's integer, signed or unsigned by type. -/
def laneInt (t : Ty) (x : Nat) : Int := if signedTy t then signedLane t.width x else x

/-- The range of an integer lane. -/
def laneLo (t : Ty) : Int := if signedTy t then -(2 ^ (t.width - 1)) else 0
@[inherit_doc laneLo] def laneHi (t : Ty) : Int := if signedTy t then 2 ^ (t.width - 1) - 1 else 2 ^ t.width - 1

/-- The floating-point format of a type's lanes; E2M1 has its own rules (R148, R149). -/
def fmtOf : Ty → Option Fmt
  | .f32 => some fp32
  | .bf16x2 => some bf16
  | .f16x2 => some fp16
  | .e4m3x4 => some e4m3
  | .e5m2x4 => some e5m2
  | _ => none

/-! ### E2M1S (R148, R149) -/

/-- The header that an instruction uses when it has none (R148). -/
def implicitHeader : BitVec 16 := 0x7F80

/-- E2M1 magnitude of bits [2:0], in units of 0.5. -/
def e2m1Halves (c : Nat) : Nat := [0, 1, 2, 3, 4, 6, 8, 12].getD (c % 8) 0

/-- `decode_e2m1s` of R148: the exact value of a code under a header. -/
def decodeE2M1S (c : Nat) (hdr : BitVec 16) : FV :=
  let scale := (hdr.extractLsb' 8 8).toNat
  if scale = 0xFF then .nan false
  else
    let s : Int := (scale : Int) - 127
    if c % 16 = 8 then
      match e4m3.value (hdr.extractLsb' 0 8).toNat with
      | .fin n m e => .fin n m (e + s)
      | v => v
    else .fin (decide (8 ≤ c % 16)) (e2m1Halves c) (s - 1)

/-- The 16 candidates of an encoding: code and value; a NaN spare is left out (R149). -/
def e2m1Candidates (hdr : BitVec 16) : List (Nat × FV) :=
  ([0, 1, 2, 3, 4, 5, 6, 7, 9, 10, 11, 12, 13, 14, 15, 8].map (fun c => (c, decodeE2M1S c hdr))).filter
    (fun p => !p.2.isNaN)

/-- The candidate nearest below (`up` false) or above (`up` true) a value, the non-spare code first of equals. -/
def nearestCandidate (up : Bool) (x : FV) (cs : List (Nat × FV)) : Option (Nat × FV) :=
  cs.foldl (fun best p =>
    let inRange := if up then FV.cmp p.2 x > 0 else FV.cmp p.2 x < 0
    if !inRange then best
    else match best with
      | none => some p
      | some b => if (if up then FV.cmp p.2 b.2 < 0 else FV.cmp p.2 b.2 > 0) then some p else best) none

/-- Magnitude of a finite value in units of 2^`q`. -/
def magUnits (v : FV) (q : Int) : Nat :=
  match v with
  | .fin _ m e => m * 2 ^ (e - q).toNat
  | _ => 0

/-- The exponent of a finite value. -/
def FV.exp : FV → Int
  | .fin _ _ e => e
  | _ => 0

/-- Encoding of a value as an E2M1S element under a header, in a mode (R149, R150, R152): code and flags. -/
def encodeE2M1S (hdr : BitVec 16) (mode : Rnd) (r : Nat) (x : FV) : Nat × Flags :=
  let cs := e2m1Candidates hdr
  let top (neg : Bool) : Nat :=
    match cs.foldl (fun best p =>
      if p.2.isZero || p.2.neg != neg then best
      else match best with
        | none => some p
        | some b => if FV.cmp p.2.abs b.2.abs > 0 then some p else best) (none : Option (Nat × FV)) with
    | some p => p.1
    | none => 0
  if (hdr.extractLsb' 8 8).toNat = 0xFF then (0, Flag.NV)
  else match x with
  | .nan _ => (0, Flag.NV)
  | .inf neg => (top neg, Flag.SAT)
  | .fin neg 0 _ =>
    (if neg && (hdr.extractLsb' 0 8).toNat == 0x80 then 8 else 0, Flag.none)
  | .fin neg _ _ =>
    match cs.find? (fun p => FV.cmp p.2 x == 0) with
    | some p => (p.1, Flag.none)
    | none =>
      match nearestCandidate false x cs, nearestCandidate true x cs with
      | some l, some h =>
        let (lo, hi) := if neg then (h, l) else (l, h)
        let q := min (min lo.2.exp hi.2.exp) x.exp
        let a := magUnits lo.2 q
        let b := magUnits hi.2 q
        let v := magUnits x q
        let up := match mode with
          | 0 => if 2 * v = a + b then (if lo.1 % 2 = 0 then false else true) else decide (2 * v > a + b)
          | 1 => false
          | 2 => !neg
          | 3 => neg
          | _ => decide (r < 2 ^ 16 * (v - a) / (b - a))
        let c := if up then hi else lo
        let one : FV := .fin false 1 (((hdr.extractLsb' 8 8).toNat : Int) - 127)
        -- a negative value that rounds to zero is a −0 result (DEDUCED, assumption 12)
        let code := if c.2.isZero then (if neg && (hdr.extractLsb' 0 8).toNat == 0x80 then 8 else 0) else c.1
        (code, Flag.NX ||| flagIf (!c.2.isZero && FV.cmp c.2.abs one < 0) Flag.UF)
      | _, _ => (top neg, Flag.SAT ||| Flag.NX)

/-- The value of lane `x` of a floating-point or narrow type, an i8x4 lane as an integer (R178, R179). -/
def laneValue (t : Ty) (x : Nat) : FV :=
  match fmtOf t with
  | some f => f.value x
  | none => if t = .e2m1x8 then decodeE2M1S x implicitHeader else ofScaled (laneInt t x) 0

/-- A value converted to a lane of a type (R150, R152): floating point, E2M1, or an integer lane. -/
def writeLane (t : Ty) (mode : Rnd) (r : Nat) (sat : Bool) (v : FV) : Nat × Flags :=
  match fmtOf t with
  | some f => f.write mode r sat v
  | none =>
    if t = .e2m1x8 then encodeE2M1S implicitHeader mode r v
    else match v with
      | .nan _ => (0, Flag.NV)
      | .inf neg => if sat then (toLane t.width (if neg then laneLo t else laneHi t), Flag.SAT) else (0, Flag.NV)
      | .fin neg m e =>
        let (i, inexact) := roundInt mode r neg m e
        let nx := flagIf inexact Flag.NX
        if laneLo t ≤ i ∧ i ≤ laneHi t then (toLane t.width i, nx)
        else if sat then (toLane t.width (if i < laneLo t then laneLo t else laneHi t), nx ||| Flag.SAT)
        else (toLane t.width i, nx ||| Flag.NV)

/-! ### Random state (R151) -/

/-- One advance of the random state. -/
def randomNext (x : W32) : W32 :=
  let x := x ^^^ (x <<< 13)
  let x := x ^^^ (x >>> 17)
  x ^^^ (x <<< 5)

/-- `n` draws: the 16 random bits of each, and the state left. -/
def randomDraws : Nat → W32 → List Nat × W32
  | 0, x => ([], x)
  | n + 1, x =>
    let x := randomNext x
    let (rs, y) := randomDraws n x
    (x.toNat % 2 ^ 16 :: rs, y)

/-! ### The lattice (R154) -/

/-- Sum of the terms truncated to the window of 32 binades below the largest, in units of 2^(`E` − 31). -/
def latticeSum (terms : List FV) (q : Int) : Int :=
  terms.foldl (fun s t => match t with
    | .fin n m e =>
      let u : Nat := if q ≤ e then m * 2 ^ (e - q).toNat else m / 2 ^ (q - e).toNat
      s + (if n then -(u : Int) else (u : Int))
    | _ => s) 0

/-- ⌊log₂ |t|⌋ of a nonzero finite term. -/
def FV.binade : FV → Int
  | .fin _ m e => Nat.log2 m + e
  | _ => 0

/-- `lattice_step` of R154 on exact terms: `bad` says that a product was 0 × ∞. -/
def latticeStep (bad : Bool) (terms : List FV) : W32 × Flags :=
  if bad || terms.any FV.isNaN || (terms.contains (.inf true) && terms.contains (.inf false)) then
    (BitVec.ofNat 32 fp32.canonicalNaN, Flag.NV)
  else if terms.contains (.inf true) then (BitVec.ofNat 32 (fp32.infinity true), Flag.none)
  else if terms.contains (.inf false) then (BitVec.ofNat 32 (fp32.infinity false), Flag.none)
  else
    let nz := terms.filter (fun t => !t.isZero)
    match nz with
    | [] => (0, Flag.none)
    | t :: ts =>
      let E := ts.foldl (fun b x => max b x.binade) t.binade
      let s := latticeSum nz (E - 31)
      let (w, f) := if s = 0 then (0, Flag.none) else fp32.arith (ofScaled s (E - 31))
      -- `NX` is not raised by the lattice
      (BitVec.ofNat 32 w, f &&& (Flag.OF ||| Flag.UF))

/-! ### Exact groups (R156) -/

/-- The signed 192-bit number of six accumulators, lowest first. -/
def groupInt (ws : List W32) : Int :=
  let n := packLanes 32 (ws.map BitVec.toNat)
  if n < 2 ^ 191 then n else (n : Int) - 2 ^ 192

/-- The six accumulators of a 192-bit number. -/
def groupWords (x : Int) : List W32 :=
  let n := (x % 2 ^ 192).toNat
  (List.range 6).map (fun i => BitVec.ofNat 32 (n / 2 ^ (32 * i)))

/-- `xacc` of R156: a value added into the group, whose unit is 2^−128. -/
def xaccAdd (x : Int) (v : FV) : Int × Flags :=
  match v with
  | .nan _ => (x, Flag.NV)
  | .inf n => (if n then -(2 ^ 191) else 2 ^ 191 - 1, Flag.XOV)
  | .fin n m e =>
    let s := x + truncInt n m (e + 128)
    if s > 2 ^ 191 - 1 then (2 ^ 191 - 1, Flag.XOV)
    else if s < -(2 ^ 191) then (-(2 ^ 191), Flag.XOV)
    else (s, Flag.none)

end Sys2Proof.Machine
end

