-- ==== Sys2Proof/Machine/Alu.lean ====
section
/-! DEFINITION. What the scalar instructions compute from their operand words (R161 to R188), without the machine:
lanes, conditions, spatial keys, floating-point arithmetic and conversions. -/
namespace Sys2Proof.Machine

/-! ### Integer lanes (R161 to R165) -/

/-- A word computed lane by lane from the unsigned lanes of two words (R145). -/
def lanes2 (t : Ty) (f : Nat → Nat → Nat) (a b : W32) : W32 :=
  BitVec.ofNat 32 (packLanes t.width
    ((List.range t.lanes).map (fun i => f (laneOf a t.width i) (laneOf b t.width i))))

/-- A word computed lane by lane from the unsigned lanes of one word. -/
def lanes1 (t : Ty) (f : Nat → Nat) (a : W32) : W32 := lanes2 t (fun x _ => f x) a a

/-- A word computed lane by lane from the unsigned lanes of three words. -/
def lanes3 (t : Ty) (f : Nat → Nat → Nat → Nat) (a b c : W32) : W32 :=
  BitVec.ofNat 32 (packLanes t.width
    ((List.range t.lanes).map (fun i => f (laneOf a t.width i) (laneOf b t.width i) (laneOf c t.width i))))

/-- A lane result computed on the lanes' integers, signed or unsigned by type, modulo 2^w (R161). -/
def intLanes2 (t : Ty) (f : Int → Int → Int) : W32 → W32 → W32 :=
  lanes2 t (fun x y => toLane t.width (f (laneInt t x) (laneInt t y)))

/-- An integer clamped to its lane's range (R161). -/
def clampLane (t : Ty) (x : Int) : Int := max (laneLo t) (min (laneHi t) x)

/-- R161. -/
def aluIadd (t : Ty) : W32 → W32 → W32 := intLanes2 t (· + ·)
@[inherit_doc aluIadd] def aluIsub (t : Ty) : W32 → W32 → W32 := intLanes2 t (· - ·)
@[inherit_doc aluIadd] def aluImul (t : Ty) : W32 → W32 → W32 := intLanes2 t (· * ·)
@[inherit_doc aluIadd] def aluImulh (t : Ty) : W32 → W32 → W32 := intLanes2 t (fun x y => x * y / 2 ^ t.width)
@[inherit_doc aluIadd] def aluImin (t : Ty) : W32 → W32 → W32 := intLanes2 t min
@[inherit_doc aluIadd] def aluImax (t : Ty) : W32 → W32 → W32 := intLanes2 t max
@[inherit_doc aluIadd] def aluIadds (t : Ty) : W32 → W32 → W32 := intLanes2 t (fun x y => clampLane t (x + y))
@[inherit_doc aluIadd] def aluIsubs (t : Ty) : W32 → W32 → W32 := intLanes2 t (fun x y => clampLane t (x - y))

/-- R162. -/
def aluImad (t : Ty) : W32 → W32 → W32 → W32 :=
  lanes3 t (fun x y z => toLane t.width (laneInt t x * laneInt t y + laneInt t z))

/-- Sum word of `IADDC` (R162). -/
def aluIaddcSum (t : Ty) : W32 → W32 → W32 → W32 := lanes3 t (fun x y z => (x + y + z % 2) % 2 ^ t.width)
/-- Carry word of `IADDC` (R162). -/
def aluIaddcCarry (t : Ty) : W32 → W32 → W32 → W32 := lanes3 t (fun x y z => (x + y + z % 2) / 2 ^ t.width)

@[inherit_doc aluImad] def aluIclamp (t : Ty) : W32 → W32 → W32 → W32 :=
  lanes3 t (fun x y z => toLane t.width (min (max (laneInt t x) (laneInt t y)) (laneInt t z)))

/-- R163. -/
def aluIneg (t : Ty) : W32 → W32 := lanes1 t (fun x => toLane t.width (-(laneInt t x)))
@[inherit_doc aluIneg] def aluIabs (t : Ty) : W32 → W32 := lanes1 t (fun x => toLane t.width ((laneInt t x).natAbs : Int))
@[inherit_doc aluIneg] def aluNot (a : W32) : W32 := ~~~a

/-- Leading zero bits of a lane of width `w` (R163). -/
def clz (w x : Nat) : Nat := if x = 0 then w else w - 1 - Nat.log2 x
/-- One bits of a lane (R163). -/
def popc (w x : Nat) : Nat := ((List.range w).filter (fun k => x.testBit k)).length
/-- A lane's bits reversed (R163). -/
def brev (w x : Nat) : Nat := ((List.range w).map (fun k => if x.testBit (w - 1 - k) then 2 ^ k else 0)).sum

@[inherit_doc aluIneg] def aluClz (t : Ty) : W32 → W32 := lanes1 t (clz t.width)
@[inherit_doc aluIneg] def aluPopc (t : Ty) : W32 → W32 := lanes1 t (popc t.width)
@[inherit_doc aluIneg] def aluBrev (t : Ty) : W32 → W32 := lanes1 t (brev t.width)

/-- The condition of R65 on two lanes of an integer type. -/
def icmpCond (t : Ty) (cond x y : Nat) : Bool :=
  let x' := laneInt t x
  let y' := laneInt t y
  match cond with
  | 0 => x == y
  | 1 => x != y
  | 2 => x' < y'
  | 3 => x' ≤ y'
  | 4 => x' > y'
  | 5 => x' ≥ y'
  | 6 => x < y
  | _ => x ≤ y

/-- A word whose bit `i` is the truth of lane `i` (R65). -/
def laneBits (n : Nat) (p : Nat → Bool) : W32 :=
  BitVec.ofNat 32 ((List.range n).map (fun i => if p i then 2 ^ i else 0)).sum

/-- R164. -/
def aluIcmp (t : Ty) (cond : Nat) (a b : W32) : W32 :=
  laneBits t.lanes (fun i => icmpCond t cond (laneOf a t.width i) (laneOf b t.width i))

/-- R165: the count is the lane of `b` modulo the lane width. -/
def aluShl (t : Ty) : W32 → W32 → W32 := lanes2 t (fun x n => x * 2 ^ (n % t.width) % 2 ^ t.width)
@[inherit_doc aluShl] def aluShr (t : Ty) : W32 → W32 → W32 := lanes2 t (fun x n => x / 2 ^ (n % t.width))
@[inherit_doc aluShl] def aluShra (t : Ty) : W32 → W32 → W32 :=
  lanes2 t (fun x n => toLane t.width (signedLane t.width x / 2 ^ (n % t.width)))
@[inherit_doc aluShl] def aluRotl (t : Ty) : W32 → W32 → W32 :=
  lanes2 t (fun x n => let k := n % t.width
    x * 2 ^ k % 2 ^ t.width + x / 2 ^ (t.width - k))

/-- R166. -/
def aluBfx (t : Ty) (lo wd : Nat) (a : W32) : W32 :=
  let f := (a >>> lo).toNat % 2 ^ (wd + 1)
  if t = .i32 then BitVec.ofInt 32 (signedLane (wd + 1) f) else BitVec.ofNat 32 f
@[inherit_doc aluBfx] def aluBfi (lo wd : Nat) (a b : W32) : W32 :=
  let mask : W32 := BitVec.ofNat 32 (2 ^ (wd + 1) - 1) <<< lo
  (a &&& ~~~mask) ||| ((b <<< lo) &&& mask)

/-- R167. -/
def aluLea (sh : Nat) (a b : W32) : W32 := a + (b <<< sh)

/-! ### Spatial keys (R168 to R170) -/

/-- The Morton key of cell indices (R168): bit `k` of axis `j` stands at key bit D × `k` + `j`. -/
def interleave (d bits : Nat) (idx : List Nat) : Nat :=
  ((List.range bits).map (fun k =>
    ((List.range d).map (fun j => if (idx.getD j 0).testBit k then 2 ^ (d * k + j) else 0)).sum)).sum

/-- The cell index of axis `j` in a key; key bits at and above D × `bits` are ignored (R170). -/
def deinterleave (d bits key j : Nat) : Nat :=
  ((List.range bits).map (fun k => if key.testBit (d * k + j) then 2 ^ k else 0)).sum

/-- The cell index of one coordinate (R168): `sc` is the exponent for f32 and the shift for i32. -/
def cellIndex (t : Ty) (bits : Nat) (sc : Int) (clamp : Bool) (x : W32) : Nat × Flags :=
  let top : Int := 2 ^ bits - 1
  let fit (i : Int) : Nat := if clamp then (min (max i 0) top).toNat else (i % 2 ^ bits).toNat
  if t = .f32 then
    match fp32.value x.toNat with
    | .nan _ => (0, Flag.NV)
    | .inf neg => if clamp then (if neg then 0 else top.toNat, Flag.none) else (0, Flag.NV)
    | .fin n m e => (fit (floorInt n m (e + sc)), Flag.none)
  else (fit (x.toInt / 2 ^ sc.toNat), Flag.none)

/-- `CELLKEY` (R168). -/
def aluCellkey (t : Ty) (bits : Nat) (sc : Int) (clamp : Bool) (xs : List W32) : W32 × Flags :=
  let is := xs.map (cellIndex t bits sc clamp)
  (BitVec.ofNat 32 (interleave xs.length bits (is.map Prod.fst)), is.foldl (fun f p => f ||| p.2) Flag.none)

/-- `CELLHASH` (R169). -/
def aluCellhash (hb : Nat) (a : W32) : W32 := (a * 0x9E3779B1#32) >>> (32 - hb)

/-- `NBRKEY` (R170): `none` when the neighbour number is out of range, otherwise the key and whether the neighbour lies
inside the grid. -/
def aluNbrkey (bits : Nat) (dim3 wrap : Bool) (a b : W32) : Option (W32 × Bool) :=
  let d := if dim3 then 3 else 2
  if b.toNat ≥ 3 ^ d then none
  else
    let off : List Int := [(b.toNat : Int) % 3 - 1, (b.toNat : Int) / 3 % 3 - 1, (b.toNat : Int) / 9 - 1]
    let ns := (List.range d).map (fun j => (deinterleave d bits a.toNat j : Int) + off.getD j 0)
    let out := ns.any (fun n => n < 0 || n > 2 ^ bits - 1)
    if out && !wrap then some (0xFFFFFFFF, false)
    else some (BitVec.ofNat 32 (interleave d bits (ns.map (fun n => (n % 2 ^ bits).toNat))), true)

/-! ### Floating point (R171 to R176, R182) -/

/-- A float word computed lane by lane on values, with the lanes' flags gathered (R147, R153). -/
def floatLanes (t : Ty) (f : Nat → FV × Flags) : W32 × Flags :=
  match fmtOf t with
  | none => (0, Flag.none)
  | some fmt =>
    let rs := (List.range t.lanes).map (fun i =>
      let (v, g) := f i
      let (x, g') := fmt.arith v
      (x, g ||| g'))
    (BitVec.ofNat 32 (packLanes t.width (rs.map Prod.fst)), rs.foldl (fun g p => g ||| p.2) Flag.none)

/-- The value of lane `i` of a float word. -/
def laneFV (t : Ty) (a : W32) (i : Nat) : FV := laneValue t (laneOf a t.width i)

/-- R171. -/
def aluFadd (t : Ty) (a b : W32) : W32 × Flags := floatLanes t (fun i => (laneFV t a i).add (laneFV t b i))
@[inherit_doc aluFadd] def aluFsub (t : Ty) (a b : W32) : W32 × Flags :=
  floatLanes t (fun i => (laneFV t a i).add (laneFV t b i).negate)
@[inherit_doc aluFadd] def aluFmul (t : Ty) (a b : W32) : W32 × Flags :=
  floatLanes t (fun i => (laneFV t a i).mul (laneFV t b i))

/-- Exact x × y + z with its special cases (R171). -/
def fmaValue (x y z : FV) : FV × Flags :=
  let (p, f) := x.mul y
  let (s, g) := p.add z
  (s, f ||| g)

@[inherit_doc aluFadd] def aluFfma (t : Ty) (a b c : W32) : W32 × Flags :=
  floatLanes t (fun i => fmaValue (laneFV t a i) (laneFV t b i) (laneFV t c i))

/-- The smaller (`wantMax` false) or larger of two values, with −0 below +0 (R172). -/
def minMaxValue (wantMax : Bool) (x y : FV) : FV × Flags :=
  let nv := flagIf (x.sig || y.sig) Flag.NV
  if x.isNaN && y.isNaN then (.nan false, nv)
  else if x.isNaN then (y, nv)
  else if y.isNaN then (x, nv)
  else
    let c := FV.cmp x y
    let xLess := c < 0 || (c == 0 && x.neg && !y.neg)
    (if xLess != wantMax then x else y, nv)

/-- R172. -/
def aluFmin (t : Ty) (a b : W32) : W32 × Flags := floatLanes t (fun i => minMaxValue false (laneFV t a i) (laneFV t b i))
@[inherit_doc aluFmin] def aluFmax (t : Ty) (a b : W32) : W32 × Flags :=
  floatLanes t (fun i => minMaxValue true (laneFV t a i) (laneFV t b i))

/-- One lane of `FSCALE` (R173). -/
def scaleValue (x n : FV) : FV × Flags :=
  match x, n with
  | .nan s, n => nanOf (s || n.sig) false
  | x, .nan s => nanOf (s || x.sig) false
  | x, .inf false => if x.isZero then nanOf false true else (.inf x.neg, Flag.none)
  | .inf _, .inf true => nanOf false true
  | .fin s _ _, .inf true => (.fin s 0 0, Flag.none)
  | .inf s, .fin .. => (.inf s, Flag.none)
  | .fin s m e, .fin sn mn en => (.fin s m (e + max (-320) (min 320 (truncInt sn mn en))), Flag.none)

/-- R173. -/
def aluFscale (t : Ty) (a b : W32) : W32 × Flags := floatLanes t (fun i => scaleValue (laneFV t a i) (laneFV t b i))

/-- A one-input float instruction, lane by lane (R174). -/
def aluFloat1 (f : FV → FV × Flags) (t : Ty) (a : W32) : W32 × Flags := floatLanes t (fun i => f (laneFV t a i))

@[inherit_doc aluFloat1] def aluFabs : Ty → W32 → W32 × Flags := aluFloat1 (fun x => (x.abs, Flag.none))
@[inherit_doc aluFloat1] def aluFneg : Ty → W32 → W32 × Flags := aluFloat1 (fun x => (x.negate, Flag.none))
@[inherit_doc aluFloat1] def aluFrcp : Ty → W32 → W32 × Flags := aluFloat1 FV.rcp
@[inherit_doc aluFloat1] def aluFrsq : Ty → W32 → W32 × Flags := aluFloat1 FV.rsqrt
@[inherit_doc aluFloat1] def aluFsqrt : Ty → W32 → W32 × Flags := aluFloat1 FV.sqrt
@[inherit_doc aluFloat1] def aluFexp2 : Ty → W32 → W32 × Flags := aluFloat1 FV.exp2
@[inherit_doc aluFloat1] def aluFlog2 : Ty → W32 → W32 × Flags := aluFloat1 FV.log2

/-- Class bit of a pattern (R175). -/
def classBit (f : Fmt) (x : Nat) : Nat :=
  match f.value x with
  | .nan true => 8
  | .nan false => 9
  | .inf true => 0
  | .inf false => 7
  | .fin n 0 _ => if n then 3 else 4
  | .fin n m _ => if m < 2 ^ f.fb then (if n then 2 else 5) else (if n then 1 else 6)

/-- `FCLASS` (R175). -/
def aluFclass (t : Ty) (a : W32) : W32 × Flags :=
  match fmtOf t with
  | none => (0, Flag.none)
  | some f =>
    let cs := (lanesOf a t.width t.lanes).map (classBit f)
    (BitVec.ofNat 32 (packLanes t.width (cs.map (2 ^ ·))), flagIf (cs.contains 8) Flag.NV)

/-- The condition of R65 on two float lanes. -/
def fcmpCond (cond : Nat) (x y : FV) : Bool :=
  let un := x.isNaN || y.isNaN
  let c := FV.cmp x y
  match cond with
  | 0 => !un && c == 0
  | 1 => un || c != 0
  | 2 => !un && c < 0
  | 3 => !un && c ≤ 0
  | 4 => !un && c > 0
  | 5 => !un && c ≥ 0
  | 6 => un || c < 0
  | 7 => un || c ≤ 0
  | 8 => un
  | _ => !un

/-- `FCMP` (R176). -/
def aluFcmp (t : Ty) (cond : Nat) (a b : W32) : W32 × Flags :=
  (laneBits t.lanes (fun i => fcmpCond cond (laneFV t a i) (laneFV t b i)),
   flagIf ((List.range t.lanes).any (fun i => (laneFV t a i).sig || (laneFV t b i).sig)) Flag.NV)

/-- One lane of `FROUND` (R177). -/
def froundValue (mode : Rnd) (r : Nat) (x : FV) : FV × Flags :=
  match x with
  | .fin n m e =>
    let (i, inexact) := roundInt mode r n m e
    (.fin n i.natAbs 0, flagIf inexact Flag.NX)
  | v => (v, Flag.none)

/-- `FROUND` with one random draw a lane (R151, R177). -/
def aluFround (t : Ty) (mode : Rnd) (rs : List Nat) (a : W32) : W32 × Flags :=
  floatLanes t (fun i => froundValue mode (rs.getD i 0) (laneFV t a i))

/-- `FDOT2` (R182): exact products and sum, rounded once to FP32. -/
def aluFdot2 (t : Ty) (a b c : W32) : W32 × Flags :=
  let (p0, f0) := (laneFV t a 0).mul (laneFV t b 0)
  let (p1, f1) := (laneFV t a 1).mul (laneFV t b 1)
  let vc := fp32.value c.toNat
  let (x, f2) := fp32.arith ((p0.add p1).1.add vc).1
  -- a signalling operand and infinities of opposite sign raise `NV` even beside another NaN
  let sig := [laneFV t a 0, laneFV t a 1, laneFV t b 0, laneFV t b 1, vc].any FV.sig
  let opposite := [p0, p1, vc].contains (.inf true) && [p0, p1, vc].contains (.inf false)
  (BitVec.ofNat 32 x, f0 ||| f1 ||| f2 ||| flagIf (sig || opposite) Flag.NV)

/-! ### Conversions (R178 to R181) -/

/-- Lanes that a conversion converts: those below both counts (R178). -/
def convLanes (src dst : Ty) : Nat := min src.lanes dst.lanes

/-- One lane of a conversion; to its own type a lane is unchanged but for NaNs (R179). -/
def convLane (src dst : Ty) (mode : Rnd) (r : Nat) (sat : Bool) (x : Nat) : Nat × Flags :=
  let v := laneValue src x
  if src = dst ∧ !v.isNaN then (x, Flag.none) else writeLane dst mode r sat v

/-- `FCVT`, `FTOI` and `ITOF` (R179), with one random draw a converted lane. -/
def aluConvert (src dst : Ty) (mode : Rnd) (sat : Bool) (rs : List Nat) (a : W32) : W32 × Flags :=
  let out := (List.range (convLanes src dst)).map (fun i =>
    convLane src dst mode (rs.getD i 0) sat (laneOf a src.width i))
  (BitVec.ofNat 32 (packLanes dst.width (out.map Prod.fst)), out.foldl (fun f p => f ||| p.2) Flag.none)

/-- `QPACK` (R180). -/
def aluQpack (dst : Ty) (mode : Rnd) (sat : Bool) (r : Nat) (a b : W32) : W32 × Flags :=
  let (x, f) := writeLane dst mode r sat (fp32.value a.toNat)
  ((b >>> dst.width) ||| (BitVec.ofNat 32 x <<< (32 - dst.width)), f)

/-- `QUNPK` (R181): lane `n` into lane 0 of the result. -/
def aluQunpk (src dst : Ty) (n : Nat) (a : W32) : W32 × Flags :=
  let (x, f) := writeLane dst 0 0 false (laneValue src (laneOf a src.width n))
  (BitVec.ofNat 32 x, f)

/-! ### Tournament (R211) -/

/-- `left_wins` of R211. -/
def leftWins (v1 : FV) (i1 : W32) (v2 : FV) (i2 : W32) : Bool :=
  if v1.isNaN && v2.isNaN then i1.toNat ≤ i2.toNat
  else if v1.isNaN then false
  else if v2.isNaN then true
  else if FV.cmp v1 v2 > 0 then true
  else if FV.cmp v1 v2 < 0 then false
  else i1.toNat ≤ i2.toNat

/-- The winner of R211: its value word (a NaN made canonical), its index, and the flags. -/
def tournament (a b c d : W32) : W32 × W32 × Flags :=
  let va := fp32.value a.toNat
  let vc := fp32.value c.toNat
  let (v, w, i) := if leftWins va b vc d then (va, a, b) else (vc, c, d)
  (if v.isNaN then BitVec.ofNat 32 fp32.canonicalNaN else w, i, flagIf (va.sig || vc.sig) Flag.NV)

end Sys2Proof.Machine
end

