-- ==== Sys2Proof/Machine/Map.lean ====
section
/-! DEFINITION. Sparse maps by number: lists of (key, value) in strictly rising order of keys. They hold the device's
many like units (elements, bays, loans, registers) as plain data. And lists put in order. -/
namespace Sys2Proof.Machine

/-- A sparse map from numbers: (key, value) pairs, keys strictly rising. -/
abbrev AMap (β : Type) := List (Nat × β)

/-- The value at a key, if there is one. -/
def AMap.find {β : Type} : AMap β → Nat → Option β
  | [], _ => none
  | (a, b) :: rest, k => if a = k then some b else AMap.find rest k

/-- The value at a key, or a default. -/
def AMap.get {β : Type} (m : AMap β) (d : β) (k : Nat) : β := (AMap.find m k).getD d

/-- The map with a key's value set, in order. -/
def AMap.put {β : Type} : AMap β → Nat → β → AMap β
  | [], k, v => [(k, v)]
  | (a, b) :: rest, k, v =>
    if k < a then (k, v) :: (a, b) :: rest
    else if a = k then (k, v) :: rest
    else (a, b) :: AMap.put rest k v

/-- The map without a key. -/
def AMap.del {β : Type} : AMap β → Nat → AMap β
  | [], _ => []
  | (a, b) :: rest, k => if a = k then rest else (a, b) :: AMap.del rest k

/-- The map with a key's value changed, from a default where there is none. -/
def AMap.upd {β : Type} (m : AMap β) (d : β) (k : Nat) (f : β → β) : AMap β := AMap.put m k (f (AMap.get m d k))

/-- Keys strictly rising from a bound. -/
def AMap.wfFrom {β : Type} : Nat → AMap β → Bool
  | _, [] => true
  | n, (a, _) :: rest => decide (n ≤ a) && AMap.wfFrom (a + 1) rest

/-- The canonical form: keys strictly rising. -/
def AMap.wf {β : Type} (m : AMap β) : Bool := AMap.wfFrom 0 m

/-- An entry put into a sorted list, before the first that it does not come after. -/
def insertBy {α : Type} (le : α → α → Bool) (x : α) : List α → List α
  | [] => [x]
  | y :: ys => if le x y then x :: y :: ys else y :: insertBy le x ys

/-- A list in order; entries that come equal keep their order. -/
def sortBy {α : Type} (le : α → α → Bool) : List α → List α
  | [] => []
  | x :: xs => insertBy le x (sortBy le xs)

end Sys2Proof.Machine
end

