-- ==== Sys2Proof/Machine/State.lean ====
section
/-! DEFINITION. The state of the machine: everything the spec gives the part, as plain data, and the state right after
reset. Units that the part has many of (elements, bays, loans, queues) are sparse maps by number. The fields that are
the model's own (what is under way and when it comes about, what the outside world is about to do) say so. -/
namespace Sys2Proof.Machine

/-- Why the machine stops with a fault. -/
inductive Fault where
  /-- Raised by an access of the host, a Curator core or a device to a physical address at or above 2^52, which no
  address field of the part can hold (R27, R243). Safe: the spec gives such an address nowhere. -/
  | noSuchAddress
deriving DecidableEq, Repr

/-- Why an instruction has no meaning here. -/
inductive Refusal where
  /-- Raised by `exec` for an instruction that the model does not yet give a meaning. Safe. -/
  | notModelled (mnemonic : String)
deriving DecidableEq, Repr

/-! ### Elements -/

/-- A token waiting in a queue (R40): its entry, the cycle of its arrival (R135 takes tokens in order of arrival), and
whether it is a sticky operand that has served a firing (R61). -/
structure QTok where
  e : QEntry
  arr : Nat
  served : Bool
deriving DecidableEq, Repr

/-- A plane (R40): four queues, the working registers, and the loan and activation whose plane it is. -/
structure Plane where
  q : AMap (List QTok)
  w : AMap W32
  owner : Option (Nat × Nat)
deriving DecidableEq, Repr

/-- What a matrix step writes 3 cycles after it is performed (R225): the cycle, accumulators, status flags, and whether it begins with the
clearing of all of them. -/
structure MxWrite where
  due : Nat
  accs : List (Nat × W32)
  flags : W32
  clear : Bool
deriving DecidableEq, Repr

/-- A run of matrix steps (R220, R223): steps in all and performed, the beat of a 16-bit step, the `MXSTEP`'s bits, its
firing's tag, `CONT` and `PRED`, its drain target, and the loan and handler that armed it. -/
structure Run where
  total : Nat
  done : Nat
  beat : Nat
  z : Bool
  f : Bool
  s : Bool
  k : Bool
  tag : Tag
  cont : BitVec 6
  pred : Bool
  dtel : BitVec 13
  dtport : BitVec 2
  hnd : Nat
  lastStep : Nat
  prior : List Nat
  /-- Writes of the steps of the last 3 cycles, oldest first (R225). -/
  writes : List MxWrite
deriving DecidableEq, Repr

/-- What an element holds for one context (R39, R129, R130, R220, R358). -/
structure ElCtx where
  /-- Handler words 0 to 7; a key that is not there holds `NOP` (R71). -/
  handlers : AMap W64
  /-- Handler words whose hidden parity bit is wrong (R74). -/
  badWords : List Nat
  depths : AMap (BitVec 3)
  /-- `PRIO`, and the value that takes part in this cycle's choice (R129). -/
  prio : BitVec 2
  prioNow : BitVec 2
  status : W32
  acc : AMap W32
  /-- Accumulators whose parity bit is wrong (R362). -/
  badAcc : List Nat
  /-- Index of the active plane, and the frozen planes, newest first. -/
  plane : Option Nat
  frozen : List Nat
  /-- The loan that holds the context, and the element's index in its region. -/
  loan : Option Nat
  logical : Nat
  /-- Start triggers not yet taken (R140). -/
  triggers : List (Nat × Tag)
  /-- Firing choice (R130): last handler fired, credits, weights, weights for the next refill, occupancy sums. -/
  lastHnd : Nat
  credits : AMap Nat
  weights : AMap Nat
  nextWeights : AMap Nat
  occupancy : AMap Nat
  /-- Credit latches and outstanding claims of the handlers (R302), and handlers that are still emitting (R208, R233). -/
  latch : List Nat
  claims : List Nat
  emitting : AMap Nat
  /-- Matrix state of the context (R220). -/
  ain : Bool
  aout : Bool
  bin : Bool
  bout : Bool
  fade : W32
  adly : BitVec 10
  bdly : BitVec 10
  run : Option Run
  scaleA : List (BitVec 16)
  scaleB : List (BitVec 16)
  partA : AMap (BitVec 16)
  partB : AMap (BitVec 16)
  /-- Counters of `PERFRD` (R358), selectors 0 to 6. -/
  perf : AMap W64
deriving DecidableEq, Repr

/-- An element's context at reset and after a load: empty, every register zero (R40), the resets of R220. DESIGN CHOICE (log 150): credits begin at
0, so that the first choice refills them; the spec gives the start of the weights only (R130). -/
def ElCtx.empty : ElCtx where
  handlers := []
  badWords := []
  depths := []
  prio := 0
  prioNow := 0
  status := 0
  acc := []
  badAcc := []
  plane := none
  frozen := []
  loan := none
  logical := 0
  triggers := []
  lastHnd := 7
  credits := []
  weights := []
  nextWeights := []
  occupancy := []
  latch := []
  claims := []
  emitting := []
  ain := false
  aout := false
  bin := false
  bout := false
  fade := 0x3F800000
  adly := 0
  bdly := 0
  run := none
  scaleA := []
  scaleB := []
  partA := []
  partB := []
  perf := []

/-- What leaves a firing: a token, a memory request or cell, a frame-slot write, an exit token, a token for the park
trace, or a result for the Colophon's port. -/
inductive Emit where
  | token (t : Token)
  /-- A sticky operand that has served a firing, on its way back from a park store (R61): it holds up no iteration. -/
  | served (t : Token)
  /-- A reply that writes words into its element before its token enters a queue: `w` registers, or accumulators when
  `block` (R285). -/
  | fill (t : Token) (block : Bool) (words : List W32)
  | slotWrite (bay slot : Nat) (q : QEntry)
  | exit (n : Nat) (q : QEntry)
  | park (q : QEntry)
  | capture (bay : Nat) (tile index : Nat) (q : QEntry)
  | request (access : Nat)
deriving DecidableEq, Repr

/-- An emission on its way, with the loan it belongs to. -/
structure Flit where
  loan : Nat
  emit : Emit
  /-- The iterations whose pending count it holds up (R382): loop, frame, and fields up to the loop's own. -/
  iters : List (Nat × List Nat)
deriving DecidableEq, Repr

/-- A post that a firing makes when it retires (R303), with what its credit descends from (R305). -/
structure Post where
  sq : Nat
  tag : Tag
  prior : List Nat
deriving DecidableEq, Repr

/-- A firing within its latency (R127, R207): the emissions and their output buffers, the accumulators it writes, the
accumulators the interlock holds, and its post. -/
structure Pending where
  id : Nat
  due : Nat
  ctx : Nat
  loan : Nat
  hnd : Nat
  emits : List (Nat × Flit)
  accW : List (Nat × W32)
  post : Option Post
  /-- Whether it holds its output entries (R127), and whether it is the last of its firing (R208). -/
  held : Bool
  last : Bool
deriving DecidableEq, Repr

/-- A firing that the match unit has completed (R135): handler, operands by port, and the tag of the port-`a` operand. -/
structure Ready where
  ctx : Nat
  hnd : Nat
  ops : List (Nat × QEntry)
  tag : Tag
deriving DecidableEq, Repr

/-- An operand beat in a buffer or on its way there (R219): the cycle from which it stands there. -/
structure Beat where
  due : Nat
  value : W64
deriving DecidableEq, Repr

/-- A scale token in a buffer (R224): the headers that have come or are on their way, with the cycle from which each stands there; how many
have been forwarded; and whether a step has taken the token. -/
structure ScaleTok where
  headers : List (Nat × BitVec 16)
  sent : Nat
  taken : Bool
deriving DecidableEq, Repr

/-- A compute element (R39 to R41, R127 to R135, R219). Its bad-node flag (R39) is read from its bay's register. -/
structure Element where
  ctxs : AMap ElCtx
  planes : AMap Plane
  /-- Plane words whose parity bit is wrong (R362): plane and port or register. -/
  badPlane : List (Nat × Nat)
  random : W32
  /-- The six output buffers by direction number (0 to 3 links, 4 local, 5 memory), and reserved entries. -/
  out : AMap (List Flit)
  reserved : AMap Nat
  /-- Tokens that stand on the incoming links, by side. -/
  links : AMap (List Flit)
  pending : List Pending
  /-- Firings that the match unit has made and that enter the ready list at a cycle (R135). -/
  matching : List (Nat × Ready)
  ready : List Ready
  /-- Operands of `ORDRED` handlers that wait in their slots for the release of R192, with their tags (R209). -/
  ordered : List Ready
  /-- The queue (context and port) whose head the match unit holds while its frame is refilled (R299). -/
  matchHeld : Option (Nat × Nat)
  iterBusy : Nat
  lastCtx : Nat
  /-- Cycle of the last firing plus one (0 when none), its context, and the ports it popped. -/
  fired : Nat
  popped : List Nat
  /-- Cycle plus one of the last use of each outgoing link; output entries freed, and queues (context × 4 + port) that took a
  token, in the cycle before the number given. -/
  linkUsed : AMap Nat
  freed : Nat × List Nat
  accepted : Nat × List Nat
  /-- Tokens from memory tiles, the Exchange and the hub, with the cycle in which each is there. -/
  outside : List (Nat × Flit)
  opA : List Beat
  opB : List Beat
  scA : List ScaleTok
  scB : List ScaleTok
  /-- Cycle plus one in which a beat uses each outgoing link (R219). -/
  beatLink : AMap Nat
deriving DecidableEq, Repr

/-- An element at reset (R40, R151). -/
def Element.empty : Element where
  ctxs := []
  planes := []
  badPlane := []
  random := 1
  out := []
  reserved := []
  links := []
  pending := []
  matching := []
  ready := []
  ordered := []
  matchHeld := none
  iterBusy := 0
  lastCtx := 3
  fired := 0
  popped := []
  linkUsed := []
  freed := (0, [])
  accepted := (0, [])
  outside := []
  opA := []
  opB := []
  scA := []
  scB := []
  beatLink := []

/-! ### Images -/

/-- A window record (R239). -/
structure Window where
  virt : Bool
  layout : BitVec 2
  scope : BitVec 3
  ty : Ty
  wlog : Nat
  base : Nat
  size : Nat
deriving DecidableEq, Repr

/-- A continuation entry (R36) whose `V` is 1. -/
structure ContEntry where
  dest : Dest
  note : BitVec 2
deriving DecidableEq, Repr

/-- An exit entry (R38). -/
structure ExitEntry where
  ret : Bool
  addr : Nat
deriving DecidableEq, Repr

/-- A prime (R79, section 6). -/
structure PrimeRec where
  el : Nat
  port : Nat
  hnd : Nat
  count : Nat
  operand : W32
deriving DecidableEq, Repr

/-- An attribute entry of the accession map (R79, section 7). -/
structure AttrRec where
  strength : BitVec 3
  scope : BitVec 3
  sq : BitVec 4
deriving DecidableEq, Repr

/-- A frame class (R79, section 8). -/
structure FrameClass where
  nslot : Nat
  reserve : Nat
deriving DecidableEq, Repr

/-- An accord group (R79, section 9). -/
structure AccordGroup where
  arity : Nat
  el : Nat
  hnd : Nat
deriving DecidableEq, Repr

/-- A multicast group (R79, section 10, and R332). -/
structure McastGroup where
  lag : Bool
  members : List Nat
deriving DecidableEq, Repr

/-- A decant template (R256). -/
structure Template where
  dir : BitVec 2
  o : Bool
  arm : Bool
  note : BitVec 2
  swin : Nat
  dwin : Nat
  trigEl : Nat
  trigHnd : Nat
  cdest : Dest
  dbay : Nat
  scope : BitVec 3
  nblk : Nat
  sbase : Nat
  sstep : Nat
  sbstr : Nat
  dbase : Nat
  dstep : Nat
  dbstr : Nat
deriving DecidableEq, Repr

/-- A tile-window data record (R80). -/
structure TileData where
  win : Nat
  bay : Nat
  off : Nat
  data : List Byte
deriving DecidableEq, Repr

/-- What the loader computes for a handler (R48, R134, R300, R397): its depth, the enclosing loop at each depth, how many of these
depths it inherits through `CALLF`, the loop it is a `LOOPIN` of, its first frame slot and slots per iteration, and the powers of two
of its enclosing bounds. -/
structure HInfo where
  depth : Nat
  loops : List Nat
  inherited : Nat
  own : Nat
  sigma : Nat
  nh : Nat
  psz : List Nat
deriving DecidableEq, Repr

/-- A loop (R198, R250, R300): its bound and depth, how many depths it inherits through `CALLF`, and whether it is declared ordered. -/
structure LoopInfo where
  bound : Nat
  depth : Nat
  inherited : Nat
  ordered : Bool
  points : List Nat
deriving DecidableEq, Repr

/-- A validated configuration image (R77 to R81) with what the loader computes from it; `exitOff` and
`winOff` are the offsets of its exits and windows. -/
structure Image where
  space : Nat
  addr : Nat
  exitOff : Nat
  winOff : Nat
  size : Nat
  crc : W32
  w : Nat
  h : Nat
  priv : Bool
  callee : Bool
  mstore : Nat
  annexRes : Nat
  entries : List Dest
  handlers : AMap W64
  prio : AMap (BitVec 2)
  bayMem : AMap (Nat × Nat)
  windows : AMap Window
  conts : AMap ContEntry
  exits : AMap ExitEntry
  primes : List PrimeRec
  attrs : AMap AttrRec
  orderedLoops : List Nat
  classes : AMap FrameClass
  accords : AMap AccordGroup
  mcasts : AMap McastGroup
  templates : AMap Template
  tileData : List TileData
  hinfo : AMap HInfo
  loops : AMap LoopInfo
deriving DecidableEq, Repr

/-- An image that holds nothing. -/
def Image.empty : Image where
  space := 0
  addr := 0
  exitOff := 0
  winOff := 0
  size := 0
  crc := 0
  w := 1
  h := 1
  priv := false
  callee := false
  mstore := 0
  annexRes := 0
  entries := []
  handlers := []
  prio := []
  bayMem := []
  windows := []
  conts := []
  exits := []
  primes := []
  attrs := []
  orderedLoops := []
  classes := []
  accords := []
  mcasts := []
  templates := []
  tileData := []
  hinfo := []
  loops := []

/-! ### Loans -/

/-- A slip (R87), with the source's space and right (R90, R91), its `SEQ` of release, and what released it. -/
structure Slip where
  cfg : Nat
  w : Nat
  h : Nat
  note : BitVec 2
  prio : BitVec 4
  cmpv : Bool
  privr : Bool
  wing : BitVec 16
  mstore : Nat
  holds : List (BitVec 16 × Nat)
  cmp : BitVec 16 × Nat
  args : List W32
  save : Nat
  annex : Nat
  sid : W64
  fhs : Nat
  /-- Address space (R90) and whether the slip holds the privilege right (R91). -/
  space : Nat
  priv : Bool
  /-- Dies it may be lent on (R337). -/
  dies : BitVec 4
  /-- The `FHS` address of the slip whose record released it, when it is a fault-handler slip (R93). -/
  handlerOf : Option Nat
deriving DecidableEq, Repr

/-- A frame slot (R133), and the tag of the operand in it, which the firing takes when the operand is that of port `a` (R135). -/
structure Slot where
  operand : W32
  p : Bool
  pred : Bool
  cont : BitVec 6
  port : BitVec 2
  sw : Bool
  tag : Tag
  prior : List Nat
deriving DecidableEq, Repr

/-- A launch in progress (R105). -/
structure Launching where
  loan : Nat
  ctx : Nat
  hnd : Nat
  index : Nat
  tag : Tag
  va : Nat
  inhw : Bool
  flit : Option Flit
  /-- Its slip's address is not mapped: it waits with its parked frame, and keeps its place and its entry (R105). -/
  stuck : Bool
deriving DecidableEq, Repr

/-- Work of a parked frame that is kept for its resumption (R342 step 4). -/
inductive Kept where
  | reissue (access : Nat)
  | skip (access : Nat)
  | trigger (bay ctx : Nat) (u : W32) (template : Nat) (tag : Tag) (cont : BitVec 6) (prior : List Nat)
  | refire (el : Nat) (ctx : Nat) (ops : List (Nat × QEntry))
  | emit (el : Nat) (flits : List Flit)
  | launch (n : Nat)
deriving DecidableEq, Repr

/-- A parked frame (R342, R343): the faulting instances with their oldest iteration, the parked tokens in park order, each with its
place (bay of the region × 4 + store: 0 the bay's buffer, 1 `ANNEXRES`, 2 `ANNEX`, 3 none), the kept work, and the pages in which a
TRANSLATE has parked it (R379). -/
structure Parked where
  faulting : List (List Nat × Nat)
  tokens : List (Nat × Flit)
  kept : List Kept
  pages : List Nat
deriving DecidableEq, Repr

/-- A frame (R50 to R52, R133 to R138). -/
structure Frame where
  cls : Nat
  nslot : Nat
  caller : Tag
  first : Bool
  rcont : BitVec 6
  live : Int
  aseq : Nat
  act : Nat
  offset : Nat
  spilled : Bool
  /-- Where its bytes go when it is spilled (R137): the bays of the region whose part is in the slip's `ANNEX`, the others' being in
  their own `ANNEXRES`; and the cycle from which they are there. -/
  spillPlace : Option (List Nat)
  spillEnd : Nat
  refilling : Bool
  released : Bool
  touched : Nat
  slots : AMap Slot
  /-- The iterations of the caller that the frame holds up until its `RETF` (R382). -/
  iters : List (Nat × List Nat)
  parked : Option Parked
deriving DecidableEq, Repr

/-- A call record (R354). -/
structure CallRec where
  tag : Tag
  cont : BitVec 6
  base : Nat
  nres : Nat
  callerAct : Nat
  callerCtx : Nat
  calleeCtx : Nat
  evicted : Bool
  callerImage : Image
  args : List W32
  el : Nat
  /-- Where its 32 bytes are charged: 1 bay 0's `ANNEXRES`, 2 the slip's `ANNEX`. -/
  place : Nat
  /-- The iterations of the caller that the call holds up (R382). -/
  iters : List (Nat × List Nat)
deriving DecidableEq, Repr

/-- An activation (R126, R351 to R356): its context and first frame, how it was called, whether it is frozen, the
tokens that landed and were held while it was with their places in the park store, and the cycle in which its arguments entered. -/
structure Activation where
  ctx : Nat
  frame : Nat
  call : Option CallRec
  frozen : Bool
  freezing : Bool
  landed : List (Nat × Flit)
  held : List (Nat × Flit)
  start : Nat
deriving DecidableEq, Repr

/-- An iteration in flight (R142, R383): loop, frame, the iteration fields `it0` to its own, order points that have passed,
whether a record marks it faulting, and its entry log (R253). Its pending count is in the loan's `pends` (R382). `again` lists the
`LOOPIN`s whose next back-edge token for it is discarded, since the re-run has entered it already (R358). -/
structure Flight where
  loop : Nat
  frame : Nat
  its : List Nat
  pass : List Nat
  faulting : Bool
  log : List (Nat × QEntry)
  again : List Nat
deriving DecidableEq, Repr

/-- A wave (R246, R247): frame, iteration fields and class; `L`, `s`, and accesses performed. -/
structure Wave where
  frame : Nat
  its : List Nat
  cls : Nat
  last : Nat
  s : Nat
  complete : Bool
  /-- Cycle plus one in which its last access was performed. -/
  cyc : Nat
deriving DecidableEq, Repr

/-- A word of a deferred store in the commit buffer (R251), in the order performed: the access and iteration it belongs to,
and its place: window record and first line, orientation, square, line and word, and the bay (tile) or the physical
address of its square (virt). -/
structure Store where
  access : Nat
  /-- Its innermost loop, the iteration that commits it, and the tag of the firing. -/
  loop : Nat
  frame : Nat
  its : List Nat
  tag : Tag
  win : Window
  first : Nat
  home : Nat
  o : Bool
  q : Nat
  j : Nat
  k : Nat
  value : W32
  /-- The whole line or block of the word is stored (R364). -/
  whole : Bool
  /-- Whether it has release strength (R282), and the post that its commit makes: post, context, index, handler. -/
  release : Bool
  post : Option (Post × Nat × Nat × Nat)
  /-- Window number and offset of the word, which a watch of glaed names. -/
  winNo : Nat
  off : Nat
  /-- Its iteration has retired and its cell is on its way home. -/
  sent : Bool
  /-- Deferred stores from which its operands descend (R282). -/
  prior : List Nat
  /-- Its mask leaves no word to write: it only posts (R303). -/
  void : Bool
deriving DecidableEq, Repr

/-- A kept reply of an atomic (R330), and whether its iteration has faulted since, so that the re-run takes it. -/
structure KeptReply where
  hkey : Nat
  tag : Tag
  value : W32
  again : Bool
deriving DecidableEq, Repr

/-- A barrier record whose episode is open (R311): arrivals per episode, those counted, and what each of them waits for: its loan,
its handler, and its release token. -/
structure Barrier where
  count : Nat
  n : Nat
  waiting : List (Nat × Nat × Option Flit)
deriving DecidableEq, Repr

/-- An arrival on its way to its barrier, or waiting there for its release condition or for a record (R311, R312): the firing,
whether its scope is the wing, the record, arrivals per episode, and its release token. -/
structure Arrival where
  loan : Nat
  ctx : Nat
  index : Nat
  hnd : Nat
  wing : Bool
  key : Nat
  count : Nat
  tag : Tag
  live : Bool
  flit : Option Flit
  /-- It has reached its record's unit, and it has been tested against its record and waits for its release condition (R311). -/
  there : Bool
  tested : Bool
  /-- Deferred stores from which its operands descend (R282). -/
  prior : List Nat
deriving DecidableEq, Repr

/-- How far a configuration call has come (R351 to R353): its image is read, it waits for planes, its image is loaded, its activation
freezes, or its arguments wait for a frame. -/
inductive CallStage where
  | fetching | planes | loading | freezing | entering
deriving DecidableEq, Repr

/-- A configuration call under way (R351 to R354, R399): the calling activation, where the `CCALL` fired and when, its tag after
`TAGOP`, its `CONT`, fields and arguments, its operands, the callee's image, context and activation, and the quiet cycles counted. -/
structure Calling where
  act : Nat
  el : Nat
  index : Nat
  ctx : Nat
  hnd : Nat
  fired : Nat
  tag : Tag
  cont : BitVec 6
  base : Nat
  nres : Nat
  exit : Nat
  args : List W32
  ops : List (Nat × QEntry)
  image : Image
  fetched : Bool
  goal : Nat
  callee : Nat
  stage : CallStage
  quiet : Nat
  iters : List (Nat × List Nat)
  /-- Where the call record's 32 bytes are charged; 0 while they are not. -/
  place : Nat
  /-- The image that the caller runs, and what the call descends from (R282). -/
  callerImage : Image
  prior : List Nat
deriving DecidableEq, Repr

/-- A return from a configuration call under way (R356): the callee, where and when its `CRET` fired, its results, the cycle from
which the caller's planes may be popped, and the bays popped. -/
structure Thaw where
  callee : Nat
  bay : Nat
  fired : Nat
  results : List (W32 × Bool)
  ready : Nat
  popped : List Nat
  prior : List Nat
deriving DecidableEq, Repr

/-- State of a loan (R116, R346, R384). -/
inductive LoanState where
  | fetching | writing | running | exiting | switching | saving | switchedOut | returning
deriving DecidableEq, Repr

/-- A loan (R109): the slip, where it stands, its image in each context, and everything that ends with it. -/
structure Loan where
  slip : Slip
  /-- Cycle and rank of the slip's release (R98, R350). -/
  rel : Nat × Nat
  die : Nat
  nwb : Nat
  w : Nat
  h : Nat
  ctx : Nat
  ctxs : List Nat
  state : LoanState
  placed : Nat
  hit : Bool
  firstFrame : Nat
  image : Image
  images : AMap Image
  /-- Physical element key of a logical index that a spare stands in for (R115). -/
  mapping : AMap Nat
  /-- First line of the loan's part of each memory tile, its reserve and annex reserve in each bay in bytes, and the lines of its part
  of each memory tile (R113, R240). -/
  firstLine : Nat
  reserve : AMap Nat
  annexRes : AMap Nat
  parts : List Nat
  storeSize : Nat
  acts : AMap Activation
  nextAct : Nat
  frames : AMap Frame
  nextFrame : Nat
  allocs : Nat
  waitingCall : Bool
  lastFiring : Nat
  fired : Bool
  /-- Cycles plus one in which a token last arrived, in which a handler was last a candidate, and in which the region last held no token
  (R314 to R316). -/
  lastArrival : Nat
  lastCandidate : Nat
  lastEmpty : Nat
  flights : List Flight
  pends : List ((Nat × List Nat) × Int)
  waves : List Wave
  buffered : List Nat
  /-- The commit buffer: stores of iterations in flight, those of retired ones that have not committed yet, and the cycle from which the
  next may leave (R383). -/
  commit : List Store
  releasing : List Store
  commitFree : Nat
  kept : List KeptReply
  sq : AMap Nat
  /-- Claims that wait at each queue (context × 16 + queue): arrival cycle, element index, handler. -/
  claims : AMap (List (Nat × Nat × Nat))
  /-- What the credits of each queue descend from, oldest first, and those of the credits that handlers (context × 2^20 + key) have been
  granted (R305). -/
  sqPrior : AMap (List (List Nat))
  creditPrior : AMap (List Nat)
  barriers : AMap Barrier
  waits : Nat
  launches : Nat
  lock : Bool
  /-- Exit tokens on their way: due cycle, element index, handler, context × 8 + exit; and the exit that has been taken, in that form. -/
  exits : List (Nat × Nat × Nat × Nat)
  exitTaken : Option Nat
  /-- Its predictor has been looked up (R122). -/
  looked : Bool
  drops : AMap W32
  /-- The call and the return under way (R351, R356). -/
  calling : Option Calling
  thaw : Option Thaw
  annexUsed : Nat
  bayUsed : AMap Nat
  fires : Nat
  spills : Nat
  planeSpills : Nat
  chain : Nat
  lastExit : Nat
  byKernel : Bool
  saveFault : Bool
  restoreMark : Bool
  /-- Bays of the region whose elements a freeze marker has stopped (R352). -/
  marked : List Nat
  watchdog : Bool
  pinned : List Nat
  /-- Tiles that ramp, in the order of their turns (R222): cycle, bay, tile and context. -/
  ramps : List (Nat × Nat × Nat × Nat)
  /-- Tokens that came while the loan was switched out, with the element that each comes from (R312). -/
  away : List (Nat × Flit)
  /-- `SCANOUT`s and `SCANIN`s that wait for its switch or its restore: their loan, element and output (R358). -/
  switchers : List (Nat × Nat × Option Flit)
  restorers : List (Nat × Nat × Option Flit)
deriving DecidableEq, Repr

/-! ### Memory accesses -/

/-- What an access does where it is performed (R241, R283, R288, R290, R292). -/
inductive AccOp where
  | load
  | store (data : List W32) (mask : BitVec 8)
  | slog (words : List W32)
  | sread
  | pref
  | atomic (op : BitVec 8) (ty : Ty) (b c : W32)
  | loadLine
  | loadBlock
  | mxload
  | dlay (isB : Bool)
  | sendc (dst : Nat) (word : W32)
  | creq (doff : Nat) (dwin : Nat)
  | decant (template : Nat) (u : W32) (block : Nat) (decanter : Nat)
deriving DecidableEq, Repr

/-- Kinds of access by size (R241). -/
inductive AccKind where
  | word | line | block
deriving DecidableEq, Repr

/-- How far an access has gone: in its element's memory buffer, on its way to the wave buffer or waiting there (R249),
passed on to be performed at its home, performed, or kept for `RESUME` (R342). -/
inductive AccStage where
  | buffered | waiting | issued | performed | kept
deriving DecidableEq, Repr

/-- An access under way (R245): the request with its accession triple and attributes, and how far it has gone; the
physical address of its square in a virt window, what it has read, and the deferred stores that it sees (R251). -/
structure Access where
  op : AccOp
  kind : AccKind
  loan : Nat
  ctx : Nat
  el : Nat
  index : Nat
  hnd : Nat
  win : Nat
  off : Nat
  o : Bool
  own : Nat
  predd : Nat
  succd : Nat
  strength : Nat
  scope : Nat
  post : Option Nat
  dest : Dest
  /-- Tag of the request and of its reply. -/
  tag : Tag
  outTag : Tag
  cont : BitVec 6
  pred : Bool
  skip : Bool
  stage : AccStage
  /-- Its rank among accesses in order of firing. -/
  seq : Nat
  phys : Nat
  words : List W32
  seen : List Store
  /-- It has taken its place among the SC operations of its instance (R328). -/
  ringDone : Bool
  /-- Its reply is discarded where it lands (R342 step 3). -/
  dead : Bool
  /-- Deferred stores and slot writes from which its operands descend (R282). -/
  prior : List Nat
deriving DecidableEq, Repr

/-! ### Cells -/

/-- What a cell on the Exchange carries beside its header: a payload, a request for memory, a reply, a deferred store's words on their way to
their home, or the read of a configuration image for a loan or a prefetch (R92, R118, R122). -/
inductive CellBody where
  | payload
  | request (access : Nat)
  | reply (access : Nat)
  | commit (ws : List Store)
  | fetch (loan : Nat)
  | prefetch (id : Nat)
  | agentOnly
deriving DecidableEq, Repr

/-- A cell in a queue: the port that sent it (die × 256 + port), which loan and access it belongs to, its header and payload, when it
entered (in slots) or is there (in cycles), and the residue of a multicast as outputs of its die (R274). -/
structure QCell where
  id : Nat
  src : Nat
  loan : Nat
  access : Nat
  body : CellBody
  cell : Cell
  entered : Nat
  residue : List Nat
deriving DecidableEq, Repr

/-! ### Bays -/

/-- A context of a bay (R116): its state, the image it holds, and when it was last loaned. -/
inductive CtxState where
  | empty | prefetching | resident | loaned
deriving DecidableEq, Repr

/-- A context slot of a bay: its state, its image, when it was last loaned or prefetched (R119), and when the image was loaded
(R351), and which bay of its region the context's words are for. -/
structure BayCtx where
  st : CtxState
  image : Image
  part : Nat
  lastLoan : Nat
  loadedAt : Nat
deriving DecidableEq, Repr

/-- A layout record (R254). -/
structure Layout where
  win : Nat
  o : Bool
  base : Nat
  kstr : Nat
  nstr : Nat
  lstart : Nat
  sbase : Nat
deriving DecidableEq, Repr

/-- A feed request of an `MXSTEP` (R223): the element of the region that takes the beats in, its row or column, the beats, the
blocks of scale tokens, the cycle in which the first beat is sent, and the firing's tag and handler. -/
structure FeedReq where
  index : Nat
  lane : Nat
  beats : Nat
  scales : Nat
  start : Nat
  tag : Tag
  hnd : Nat
deriving DecidableEq, Repr

/-- What a feeder serves in order of arrival (R255): requests, end-of-stream markers, and layout records with the access of
their `DLAY`. -/
inductive FeedItem where
  | req (r : FeedReq)
  | marker
  | record (r : Layout) (access : Nat)
deriving DecidableEq, Repr

/-- The stream of one row or column of a feed: its request, the number of runs that it has asked for, the beats and scale tokens owed and
sent of it, the numbers of the next beat and scale token since the record took effect, the cycle in which the side lane is free, the beats
that may still be sent before a common stop (R227), whether a fault has halted it, and whether the read of its next beat, and of its next
scale token, waits at a bank (R242). -/
structure Lane where
  req : FeedReq
  owed : Nat
  sent : Nat
  scaleOwed : Nat
  scaleSent : Nat
  n : Nat
  m : Nat
  side : Nat
  lim : Option Nat
  halted : Bool
  run : Nat
  asked : Bool
  scaleAsked : Bool
deriving DecidableEq, Repr

/-- One feed of a memory tile in one context (R254, R255): record, open stream, what waits to be served, and the streams of
its rows or columns; the run that it serves now: its first beat and scale token, its beats and scale tokens, and the rows or
columns that have asked for it. -/
structure Feed where
  record : Layout
  isOpen : Bool
  queue : List FeedItem
  lanes : AMap Lane
  n : Nat
  m : Nat
  beats : Nat
  scales : Nat
  served : List Nat
deriving DecidableEq, Repr

/-- A compute tile's mode in one context (R221): state, the fields of `MXCFG`, and the elements counted towards a change
with their fields and the emission each holds back. -/
inductive TileMode where
  | scalar | ramping | matrix
deriving DecidableEq, Repr

/-- The fields that an `MXCFG` gives its tile (R229). -/
structure MxFields where
  aty : Ty
  bty : Ty
  scl : Bool
  ssrc : Bool
deriving DecidableEq, Repr

/-- An `MXCFG` that has been counted (R221): its element, `LEAVE`, its fields, the edge bits, and the output that it holds back. -/
structure MxCount where
  el : Nat
  leave : Bool
  fields : MxFields
  edges : Bool × Bool × Bool × Bool
  hnd : Nat
  flit : Option Flit
deriving DecidableEq, Repr

/-- Matrix state of a compute tile for a context (R220, R221). -/
structure Tile where
  mode : TileMode
  fields : MxFields
  counted : List MxCount
deriving DecidableEq, Repr

/-- A trigger in a bay's fire queue, or a firing on a decanter (R257, R258). -/
structure Firing where
  loan : Nat
  template : Nat
  u : W32
  tag : Tag
  cont : BitVec 6
  ctx : Nat
  block : Nat
  /-- Its completion is discarded (R342 step 3). -/
  halted : Bool
  /-- Deferred stores from which its trigger descends (R282). -/
  prior : List Nat
  /-- Its number. -/
  num : Nat
deriving DecidableEq, Repr

/-- What a decanter command does (R295). -/
inductive DOp where
  | arm | status
  | disarm (abort : Bool)
deriving DecidableEq, Repr

/-- A decanter command on its way to its template's bay, or waiting there until firings have ended that had begun before it: the output of
`DSTAT` and `DCAN`, with the element that it comes from. -/
structure DCommand where
  op : DOp
  loan : Nat
  ctx : Nat
  template : Nat
  index : Nat
  flit : Option Flit
  waits : Option (List Nat)
deriving DecidableEq, Repr

/-- A template as its bay keeps it (R256, R295): `ARM`, completed firings. -/
structure TemplState where
  arm : Bool
  completed : Nat
deriving DecidableEq, Repr

/-- An open accord (R272, R273). -/
structure Accord where
  accid : Nat
  tag : Tag
  loan : Nat
  ctx : Nat
  cells : List (Nat × Cell)
  prior : List Nat
deriving DecidableEq, Repr

/-- A complete accord waiting for its handler (R139). -/
structure ReadyAccord where
  el : Nat
  ctx : Nat
  hnd : Nat
  tag : Tag
  cells : List (Nat × Cell)
  prior : List Nat
deriving DecidableEq, Repr

/-- A word in a Colophon's result port (R369, R372). -/
structure PortWord where
  value : W32
  pred : Bool
  tile : BitVec 2
  index : BitVec 6
  tag : Tag
  cont : BitVec 6
deriving DecidableEq, Repr

/-- A Colophon (R366 to R369, R372). -/
structure Colophon where
  program : AMap W32
  regs : AMap W32
  pc : Nat
  ready : Nat
  run : Bool
  cap : Bool
  cctx : BitVec 2
  start : BitVec 10
  halt : Bool
  err : Bool
  ecode : BitVec 4
  haltPc : BitVec 10
  hcode : BitVec 14
  flg : BitVec 5
  port : List PortWord
  popped : Option PortWord
deriving DecidableEq, Repr

/-- What waits at a bank (R242): an access of a memory handler or a decanter's read, the next store of the bay's Colophon, a beat or a
scale token of a feed (loan, index, context, whether of the B feed, row or column), the payload of a cell, a decanter's block to be
written, and deferred stores to be committed. -/
inductive BankJob where
  | access (id : Nat)
  | estore
  | beat (loan index ctx : Nat) (isB : Bool) (lane : Nat)
  | scale (loan index ctx : Nat) (isB : Bool) (lane : Nat)
  | payload (q : QCell)
  | block (decanter : Nat)
  | commit (loan : Nat) (ws : List Store)
deriving DecidableEq, Repr

/-- How an access merges with others of its line (R242): alone, as a read, or as a write of some words; or it is an atomic on a word. -/
inductive Merge where
  | alone | read
  | write (words : List Nat)
  | atomic (word : Nat)
deriving DecidableEq, Repr

/-- An access waiting at a bank (R242): what it is, its line and orientation, how it merges, the cycles for which it holds the bank, the
rank of its source, and its arrival. -/
structure BankEntry where
  job : BankJob
  line : Nat
  o : Bool
  merge : Merge
  cycles : Nat
  rank : Nat
  arrived : Nat
deriving DecidableEq, Repr

/-- An entry of the predictor (R120). -/
structure Predict where
  tag : Nat
  count : BitVec 2
deriving DecidableEq, Repr

/-- A bay of a compute die. -/
structure Bay where
  awake : Bool
  idleSince : Nat
  ctxs : AMap BayCtx
  badNodes : AMap (BitVec 16)
  corr : AMap (BitVec 16)
  unc : AMap (BitVec 16)
  feeds : AMap Feed
  tiles : AMap Tile
  banks : AMap (List BankEntry)
  bankBusy : AMap Nat
  heldClaims : List Nat
  templates : AMap TemplState
  fireQueue : List Firing
  decanters : AMap Firing
  commands : AMap DCommand
  /-- Cells at the ingress, with the cycle in which each is there (R269, R270). -/
  ingress : List QCell
  /-- Cycles from which buffer cells of the ingress are free whose payload is being written (R270). -/
  writing : List Nat
  accords : List Accord
  readyAccords : List ReadyAccord
  parkTrace : List QEntry
  parkCount : Nat
  predictor : AMap Predict
  colophon : Colophon
  /-- Stores of the bay's Colophon that are not yet performed, in program order (R373). -/
  estores : List (Nat × W32)
  /-- Cycle plus one in which a captured token last entered the result port (R369). -/
  captured : Nat
deriving DecidableEq, Repr

/-- A Colophon at reset (R367, R368): not running, `HALT` 1. -/
def Colophon.empty : Colophon where
  program := []
  regs := []
  pc := 0
  ready := 0
  run := false
  cap := false
  cctx := 0
  start := 0
  halt := true
  err := false
  ecode := 0
  haltPc := 0
  hcode := 0
  flg := 0
  port := []
  popped := none

/-- A bay at reset: power-gated, every context empty (R22, R116). -/
def Bay.empty : Bay where
  awake := false
  idleSince := 0
  ctxs := []
  badNodes := []
  corr := []
  unc := []
  feeds := []
  tiles := []
  banks := []
  bankBusy := []
  heldClaims := []
  templates := []
  fireQueue := []
  decanters := []
  commands := []
  ingress := []
  writing := []
  accords := []
  readyAccords := []
  parkTrace := []
  parkCount := 0
  predictor := []
  colophon := Colophon.empty
  estores := []
  captured := 0

/-! ### The Exchange -/

/-- A queue of an input port (R262): unicast to a destination (die × 256 + port) at a note, or multicast at a note. -/
structure Voq where
  inp : Nat
  mc : Bool
  dest : Nat
  note : Nat
  seq : BitVec 16
  cells : List QCell
  headSince : Nat
deriving DecidableEq, Repr

/-- A die's Exchange (R259 to R278): queues, grant and accept pointers, the plane each input accepted from last, which
kind it served last, cells on their way to memory ports, and the slot counter. -/
structure Exchange where
  voqs : List Voq
  grantPtr : AMap Nat
  acceptPtr : AMap Nat
  lastPlane : AMap Bool
  lastMc : AMap Bool
  memQueues : AMap (List QCell)
  portClaims : AMap (List Nat)
  /-- Slot plus one in which each input last took a cell (R262), and slot plus one in which it last sent one. -/
  lastEntry : AMap Nat
deriving DecidableEq, Repr

/-! ### The hub -/

/-- Registers of a host slip queue (R27), and the kernel's bindings of it (R90, R91, R337). -/
structure HostQueue where
  base : Nat
  log2n : BitVec 5
  tail : BitVec 16
  head : BitVec 16
  en : Bool
  ovf : Bool
  busy : Bool
  space : Nat
  privOk : Bool
  dies : BitVec 4
deriving DecidableEq, Repr

/-- A unit that hands a record over to the hub's record store (R30): an element, a memory port or an Exchange port (die × 256 + port), the
timeline unit, the loader, or the stocktake. -/
inductive FaultUnit where
  | element (key : Nat)
  | port (n : Nat)
  | timelines | loader | stocktake
deriving DecidableEq, Repr

/-- A fault record (R339); `RFL`'s bits are separate, and `SEQ` is its count. -/
structure FaultRec where
  unit : FaultUnit
  code : BitVec 8
  kown : Bool
  parked : Bool
  more : Bool
  loc : BitVec 16
  ch : BitVec 8
  wv : BitVec 8
  loan : BitVec 16
  tag : W64
  addr : W64
  stamp : W64
  detail : W64
  sid : W64
  seq : W64
  /-- The fault-handler slip that the record releases when it is delivered (R93): address, space and right of its slip. -/
  fhs : Option (Nat × Nat × Bool)
deriving DecidableEq, Repr

/-- A slip in the holds list (R96, R97): which holds are latched, who launched it, and its rank among releases. -/
structure HoldEntry where
  slip : Slip
  latched : List Bool
  source : Nat
  management : Bool
deriving DecidableEq, Repr

/-- A released slip (R98): release cycle and rank within it; a switched-out slip names its loan (R350). -/
structure Released where
  slip : Slip
  cycle : Nat
  rank : Nat
  restoring : Option Nat
  firstSince : Nat
  held : Bool
deriving DecidableEq, Repr

/-- A reservation of a rectangle for a slip (R112): the slip and the cycle of its release, and the rectangle and context. -/
structure Reserved where
  slip : Slip
  cycle : Nat
  nwb : Nat
  ctx : Nat
deriving DecidableEq, Repr

/-- A watch (R107). -/
structure Watch where
  selector : W32
  threshold : W32
  fall : Bool
  slip : Slip
deriving DecidableEq, Repr

/-- A wait of `TLWAIT` (R106). -/
structure TlWait where
  timeline : Nat
  threshold : Nat
  loan : Nat
  index : Nat
  flit : Option Flit
  met : Bool
deriving DecidableEq, Repr

/-- A pool guard (R335, R336). -/
structure Pool where
  desc : Nat
  cnt : Nat
  nexp : Nat
  npage : Nat
  bound : Nat
  rowtl : Nat
  flushtl : Nat
  drainTl : Nat
  drainTh : Nat
  flush : Nat
  done : Nat
  launched : List Nat
  count : Nat
  space : Nat
deriving DecidableEq, Repr

/-- What a stocktake has found (R317 to R321): the report and its index, the records of its deadlocks, and the answer of `STOCK`. -/
structure StockResult where
  ridx : Nat
  report : List Byte
  records : List FaultRec
  answer : W32
deriving DecidableEq, Repr

/-- A stocktake in progress (R315, R316): when it began, its cause, the regions stalled at its first snapshot with
their counts of firings and of tokens, the queues' heads then, and the `STOCK`s that wait for it; the heads (die, input, cell) whose
destination has not been accepting since the first snapshot; and what it has found, which it publishes in the order ring's turn (R328). -/
structure Stocktake where
  began : Nat
  watchdog : Bool
  first : List (Nat × Nat × Nat)
  heads : List (Nat × Nat × Nat)
  second : Bool
  joined : List (Nat × Nat × Option Flit)
  stuck : List (Nat × Nat × Nat)
  result : Option (Nat × StockResult)
deriving DecidableEq, Repr

/-- A prefetch in progress (R122): where it goes, the image's space and address, and its slip's right and `MSTORE`. -/
structure Prefetch where
  /-- The image, once it has been read and is being written (R118). -/
  read : Option Image
  die : Nat
  nwb : Nat
  w : Nat
  h : Nat
  ctx : Nat
  space : Nat
  addr : Nat
  priv : Bool
  mstore : Nat
deriving DecidableEq, Repr

/-- A return record (R387). -/
structure ReturnRec where
  sid : W64
  stamp : Nat
  placed : Nat
  fires : Nat
  spills : Nat
  chain : Nat
  xfl : BitVec 8
  die : Nat
  nwb : Nat
deriving DecidableEq, Repr

/-- An SC operation that waits at a node of the order ring (R328): node, number, since when, and whether its scope is the domain. -/
structure RingWait where
  node : Nat
  id : Nat
  since : Nat
  domain : Bool
deriving DecidableEq, Repr

/-- A scope instance below device scope (R308, R328): a loan, a wing of an address space, or a die. -/
inductive Instance where
  | region (loan : Nat)
  | wing (space wing : Nat)
  | die (n : Nat)
deriving DecidableEq, Repr

/-- The hub: BAR 0, records, timelines, the Circulation, watches, the order ring's users, pools and logs. -/
structure Hub where
  queues : AMap HostQueue
  fqBase : Nat
  fqLog2n : BitVec 5
  fqHead : BitVec 16
  fqTail : BitVec 16
  mbi : AMap W64
  mbo : AMap W64
  req : Bool
  ans : Bool
  errAcc : Bool
  errMbw : Bool
  errFqh : Bool
  errAoff : BitVec 24
  /-- What an agent has read: 0 the host, 1 a Curator core, 2 another device. -/
  answers : List (Nat × W64)
  seq : Nat
  /-- `SEQ` of the last record whose release or interrupt has been made (R93). -/
  handled : Nat
  store : List FaultRec
  /-- Records that their units hold while the store is full (R30). -/
  blocked : List FaultRec
  interrupts : List FaultRec
  timelines : AMap W64
  /-- Timelines at which an operation of this cycle or of a later one is performed, with the first cycle in which the unit is free for
  another (R100). -/
  tlNext : AMap Nat
  rotation : Nat
  holds : AMap HoldEntry
  released : List Released
  handlersBusy : List (Nat × Nat)
  /-- Slips that the hub releases for the device and that wait for a free hold entry (R96): rank and slip. -/
  waitingSlips : List (Nat × Slip)
  reservations : AMap Reserved
  annexTaken : Nat
  prefetches : AMap Prefetch
  watches : AMap Watch
  waits : AMap TlWait
  launches : AMap Launching
  pools : AMap Pool
  stocktake : Option Stocktake
  reports : AMap (List Byte)
  reportNext : Nat
  parkList : List (Nat × Nat × Nat × W32)
  wingBarriers : AMap Barrier
  arrivals : AMap Arrival
  returns : List ReturnRec
  ringPos : Nat
  ringWaiting : List RingWait
  /-- SC accesses and fences of the Curator cores that wait at its port. -/
  curatorWaiting : AMap AgentAccess
  /-- Accesses of agents that wait for a chunk that moves, or for the timeline unit, oldest first (R125). -/
  agentWaiting : List (Nat × AgentAccess)
  /-- Writes of the host and the kernel that wait for the timeline unit (R30): timeline, value, and whether it is an increment. -/
  timelineHeld : List (Nat × W64 × Bool)
  /-- The orders of SC operations of the device, of the domain, and of each smaller instance, oldest first (R327, R328). -/
  scOrder : List Nat
  domOrder : List Nat
  instOrders : List (Instance × List Nat)
  domToken : Bool
  /-- What has gone out to other devices (R16). -/
  cellsOut : List QCell
deriving DecidableEq, Repr

/-! ### Bring-up and translation -/

/-- Where bring-up stands (R18, R20). -/
inductive Stage where
  | powered | recovery | kernel | up
deriving DecidableEq, Repr

/-- A signed attestation report (R25): the leaf of the LMS tree that it uses, and its ECDSA P-384 and LMS signatures. -/
structure SignedReport where
  leaf : Nat
  ecdsa : List Byte
  lms : List Byte
deriving DecidableEq, Repr

/-- Bring-up, recovery and identity (R18 to R25). -/
structure Boot where
  stage : Stage
  link : Bool
  layout : Bool
  rcstate : BitVec 2
  nrej : BitVec 16
  rclen : BitVec 23
  staging : List Host.Cell
  fenced : BitVec 4
  wakeQueues : AMap (List Nat)
  lmsFuse : Nat
  lmsNvme : Nat
  /-- Attestation reports released (R25). -/
  signed : List SignedReport
deriving DecidableEq, Repr

/-- A translation held in a TLB (R243, R244): space, page number in 64 KiB units of its base, size in those units,
physical page, write allowed, and whether it is locked (R113). -/
structure TlbEntry where
  space : Nat
  page : Nat
  pages : Nat
  phys : Nat
  wr : Bool
  locked : Bool
deriving DecidableEq, Repr

/-- A page walk in progress (R244) and the accesses that wait for it. -/
structure Walk where
  die : Nat
  space : Nat
  page : Nat
  win : Nat
  loan : Nat
  waiting : List Nat
deriving DecidableEq, Repr

/-- Translation and tiering (R124, R125, R243, R244). -/
structure Trans where
  roots : AMap Nat
  tlBase : Option Nat
  micro : AMap (List TlbEntry)
  dieTlb : AMap (List TlbEntry)
  lastMiss : AMap (Nat × Nat)
  walks : AMap Walk
  /-- Pages reserved for demand (R379): space and page number. -/
  reserved : List (Nat × Nat)
  /-- Chunks that lie in the other tier than they began in, access counts of the epoch, and chunks that are moving with the accesses
  held. -/
  moved : List Nat
  counts : AMap Nat
  moving : AMap (List Nat)
deriving DecidableEq, Repr

/-! ### The debugger -/

/-- A memory watch of glaed (R396): a word of a window of a configuration. -/
structure GWatch where
  cfg : Nat
  win : Nat
  off : Nat
deriving DecidableEq, Repr

/-- The debugger (R394 to R396): stopped flag; whether it runs to the next stop, or the cycles left of a step; breakpoints and watches;
the firing that it has stopped before, by the count of firings; base of printed cycles; the rows it has shown (the model's own form of
its print); the slips of its session, the records it has reported with the last `SEQ` it has seen, whether work was there, and a report that it waits for, with whether the
device stands still again after it. -/
structure Glaed where
  stopped : Bool
  running : Bool
  stepLeft : Option Nat
  breaks : List BreakSpec
  watches : List GWatch
  passed : Option Nat
  base : Nat
  rows : List (String × List Nat)
  session : List W64
  faults : List FaultRec
  seen : Nat
  busy : Bool
  report : Option Bool
deriving DecidableEq, Repr

/-- The firing that an element has chosen for a cycle (R129, R130). -/
structure Choice where
  el : Nat
  ctx : Nat
  hnd : Nat
  refill : Bool
  others : List Nat
deriving DecidableEq, Repr

/-- The element, context and handler, or the bay's Colophon, whose step runs now (the model's own). -/
structure Focus where
  el : Nat
  ctx : Nat
  hnd : Nat
  bay : Nat
deriving DecidableEq, Repr

/-- What one element keeps of a loan that is switched out (R346 to R348): its contexts, planes, `ORDRED` operands, and buffers. -/
structure ElSnap where
  ctxs : AMap ElCtx
  planes : AMap Plane
  ordered : List Ready
  opA : List Beat
  opB : List Beat
  scA : List ScaleTok
  scB : List ScaleTok
deriving DecidableEq, Repr

/-- What one bay keeps of a loan that is switched out: feeds, tiles, templates, triggers, firings and the block each goes on with,
commands and accords (R346, R347). -/
structure BaySnap where
  feeds : AMap Feed
  tiles : AMap Tile
  templates : AMap TemplState
  fireQueue : List Firing
  decanters : List Firing
  commands : AMap DCommand
  accords : List Accord
  readyAccords : List ReadyAccord
deriving DecidableEq, Repr

/-- What the save area of a switched-out loan holds in the device's own form (R347): its elements by region index, and its bays by
number. The loan itself stays among the loans. -/
structure Snapshot where
  els : AMap ElSnap
  bays : AMap BaySnap
  /-- `TLWAIT`s that have not been met (R106). -/
  waits : AMap TlWait
deriving DecidableEq, Repr

/-- The state of the machine. -/
structure State where
  cycle : Nat
  agenda : List (Nat × Instr)
  inputs : List Instr
  /-- The firings of this cycle that are still to be made (R126, R129), once they are chosen: element, context, handler, whether every
  credit is refilled first, and the contexts that have candidates and do not fire. -/
  chosen : Option (List Choice)
  focus : Focus
  fires : Nat
  nextId : Nat
  freeCount : Nat
  boot : Boot
  hub : Hub
  mem : List Host.Cell
  tmem : List Host.Cell
  eccBad : List (Nat × Bool)
  els : AMap Element
  bays : AMap Bay
  loans : AMap Loan
  accs : AMap Access
  xch : AMap Exchange
  /-- Cells that have not entered a queue yet, with their die × 256 + input port (R262). -/
  outgoing : AMap (Nat × QCell)
  trans : Trans
  /-- Switched-out loans by number. -/
  snaps : AMap Snapshot
  glaed : Glaed
deriving DecidableEq, Repr

/-- An Exchange at reset (R264): every pointer zero, every queue empty. -/
def Exchange.empty : Exchange where
  voqs := []
  grantPtr := []
  acceptPtr := []
  lastPlane := []
  lastMc := []
  memQueues := []
  portClaims := []
  lastEntry := []

/-- The kernel's host address space (R90). -/
def kernelSpace : Nat := 0

/-- A host queue at reset: not enabled, bound to the kernel's host space, granting no right, on all dies (R27, R90,
R337). -/
def HostQueue.empty : HostQueue where
  base := 0
  log2n := 0
  tail := 0
  head := 0
  en := false
  ovf := false
  busy := false
  space := kernelSpace
  privOk := false
  dies := 0xF

/-- The hub at reset (R27, R30, R33, R99, R328); the annex pool is the kernel's to size (R113). -/
def Hub.reset : Hub where
  queues := []
  fqBase := 0
  fqLog2n := 0
  fqHead := 0
  fqTail := 0
  mbi := []
  mbo := []
  req := false
  ans := false
  errAcc := false
  errMbw := false
  errFqh := false
  errAoff := 0
  answers := []
  seq := 0
  handled := 0
  store := []
  blocked := []
  interrupts := []
  timelines := []
  tlNext := []
  rotation := 63
  holds := []
  released := []
  handlersBusy := []
  waitingSlips := []
  reservations := []
  annexTaken := 0
  prefetches := []
  watches := []
  waits := []
  launches := []
  pools := []
  stocktake := none
  reports := []
  reportNext := 0
  parkList := []
  wingBarriers := []
  arrivals := []
  returns := []
  ringPos := 832
  ringWaiting := []
  curatorWaiting := []
  agentWaiting := []
  timelineHeld := []
  scOrder := []
  domOrder := []
  instOrders := []
  domToken := true
  cellsOut := []

/-- Bring-up at reset: powered, before step 1 of R18. -/
def Boot.reset : Boot where
  stage := .powered
  link := false
  layout := false
  rcstate := 0
  nrej := 0
  rclen := 0
  staging := []
  fenced := 0
  wakeQueues := []
  lmsFuse := 0
  lmsNvme := 0
  signed := []

/-- Translation at reset: no table, empty TLBs, every chunk where it begins. -/
def Trans.reset : Trans where
  roots := []
  tlBase := none
  micro := []
  dieTlb := []
  lastMiss := []
  walks := []
  reserved := []
  moved := []
  counts := []
  moving := []

/-- The debugger before any command. -/
def Glaed.reset : Glaed where
  stopped := false
  running := false
  stepLeft := none
  breaks := []
  watches := []
  passed := none
  base := 0
  rows := []
  session := []
  faults := []
  seen := 0
  busy := false
  report := none

/-- The machine right after reset: the power-on step is due, everything else is as the spec says or as the assumption
log names (R18, R27, R30, R33, R40, R99, R151, R220, R328, R337, R360, R367). -/
def State.reset : State where
  cycle := 0
  agenda := [(0, .reset)]
  inputs := []
  chosen := none
  focus := ⟨0, 0, 0, 0⟩
  fires := 0
  nextId := 1
  freeCount := 0
  boot := Boot.reset
  hub := Hub.reset
  mem := []
  tmem := []
  eccBad := []
  els := []
  bays := []
  loans := []
  accs := []
  xch := []
  outgoing := []
  trans := Trans.reset
  snaps := []
  glaed := Glaed.reset

end Sys2Proof.Machine
end

