-- ==== Sys2Proof/Machine/Mem.lean ====
section
/-! DEFINITION. Memory (R3, R237 to R241): bytes, words, lines and blocks of device memory and of tile memory, and how a
window's offsets map onto them. -/
namespace Sys2Proof.Machine

/-- What a byte that nothing has written reads as; the spec gives no contents of memory at power-on. -/
def unlisted : Byte := 0

/-- A byte of a memory. -/
def readByte : List Host.Cell → Nat → Byte
  | [], _ => unlisted
  | (a, b) :: rest, k => if a = k then b else readByte rest k

/-- The memory with one byte written, in canonical form: addresses strictly rising, no entry equal to `unlisted`. -/
def writeByte : List Host.Cell → Nat → Byte → List Host.Cell
  | [], k, v => if v = unlisted then [] else [(k, v)]
  | (a, b) :: rest, k, v =>
    if k < a then (if v = unlisted then (a, b) :: rest else (k, v) :: (a, b) :: rest)
    else if a = k then (if v = unlisted then rest else (k, v) :: rest)
    else (a, b) :: writeByte rest k v

/-- Addresses strictly rising from a bound, no entry equal to `unlisted`. -/
def Memory.wfFrom : Nat → List Host.Cell → Bool
  | _, [] => true
  | n, (a, b) :: rest => decide (n ≤ a) && decide (b ≠ unlisted) && Memory.wfFrom (a + 1) rest

/-- The canonical form of a memory. -/
def Memory.wf (m : List Host.Cell) : Bool := Memory.wfFrom 0 m

/-- Bytes from an address up. -/
def readBytes (m : List Host.Cell) (a n : Nat) : List Byte := (List.range n).map (fun i => readByte m (a + i))

/-- Bytes written from an address up. -/
def writeBytes (m : List Host.Cell) (a : Nat) : List Byte → List Host.Cell
  | [] => m
  | b :: bs => writeBytes (writeByte m a b) (a + 1) bs

/-- A number of bytes, little-endian (R3). -/
def leNat : List Byte → Nat
  | [] => 0
  | b :: bs => b.toNat + 256 * leNat bs

/-- The `n` bytes of a number, little-endian (R3). -/
def leBytes (n v : Nat) : List Byte := (List.range n).map (fun i => BitVec.ofNat 8 (v / 256 ^ i))

/-- A 32-bit word at a byte address. -/
def readW32 (m : List Host.Cell) (a : Nat) : W32 := BitVec.ofNat 32 (leNat (readBytes m a 4))

/-- A 64-bit word at a byte address. -/
def readW64 (m : List Host.Cell) (a : Nat) : W64 := BitVec.ofNat 64 (leNat (readBytes m a 8))

/-- The memory with a 32-bit word written. -/
def writeW32 (m : List Host.Cell) (a : Nat) (v : W32) : List Host.Cell := writeBytes m a (leBytes 4 v.toNat)

/-! ### Bits of a range of bytes -/

/-- Bit `i` of the bytes from an address up. -/
def readBit (m : List Host.Cell) (a i : Nat) : Bool := (readByte m (a + i / 8)).getLsbD (i % 8)

/-- `n` bits from bit `i` of the bytes at an address, as a number. -/
def readBits (m : List Host.Cell) (a i n : Nat) : Nat :=
  ((List.range n).map (fun k => if readBit m a (i + k) then 2 ^ k else 0)).sum

/-- One bit written. -/
def writeBit (m : List Host.Cell) (a i : Nat) (v : Bool) : List Host.Cell :=
  let b := readByte m (a + i / 8)
  let bit : Byte := BitVec.ofNat 8 (2 ^ (i % 8))
  writeByte m (a + i / 8) (if v then b ||| bit else b &&& ~~~bit)

/-- `n` bits of a number written from bit `i`. -/
def writeBits (m : List Host.Cell) (a i : Nat) : Nat → Nat → List Host.Cell
  | 0, _ => m
  | n + 1, v => writeBits (writeBit m a i (v % 2 == 1)) a (i + 1) n (v / 2)

/-! ### Squares and windows (R238 to R241) -/

/-- Rows, and columns, of a square of a type: 256 / width (R238). -/
def squareSide (t : Ty) : Nat := 256 / t.width

/-- Size of a square in bytes (R240). -/
def squareSize (t : Ty) : Nat := 32 * squareSide t

/-- Bytes that an access of a kind must be aligned to (R280). -/
def kindAlign : AccKind → Nat
  | .word => 4 | .line => 32 | .block => 256

/-- Where a line of a square lies: its byte address for row line `j` of the square with index `q` in a tile window
whose part of its memory tile begins at line `F` (R240). The result is a bay-local address (R237); a line past the last of the 2,048
of the memory tile is the line that its 11 bits name. -/
def tileLine (w : Window) (firstLine q j : Nat) : Nat :=
  let sqLines := squareSize w.ty / 32
  let bank := if w.layout = 2 then (q / 2 ^ w.wlog + q % 2 ^ w.wlog) % 16 else q % 16
  let line := w.base % 2 ^ 20 / 512 + q / 16 * sqLines + j
  w.base / 2 ^ 20 % 4 * 2 ^ 20 + (firstLine + line) % 2048 * 512 + bank * 32

/-- Lines of its memory tile that a tile window reaches, from the first of the loan's part on: those before it, and the lines of every
group of 16 squares that it has a byte of (R240). -/
def windowLines (w : Window) : Nat :=
  min 2048 (w.base % 2 ^ 20 / 512 + (w.size + 16 * squareSize w.ty - 1) / (16 * squareSize w.ty) * (squareSize w.ty / 32))

/-- The bay-local address of an offset of a tile window (R240). -/
def tileAddr (w : Window) (firstLine x : Nat) : Nat :=
  let sq := squareSize w.ty
  tileLine w firstLine (x / sq) (x % sq / 32) + x % 32

/-- The address that a fault record carries for an offset of a tile window (R240, R280): as the offset gives it, whether or not the window
holds it. -/
def recordAddr (w : Window) (firstLine x : Nat) : Nat :=
  let sq := squareSize w.ty
  let q := x / sq
  let bank := if w.layout = 2 then (q / 2 ^ w.wlog + q % 2 ^ w.wlog) % 16 else q % 16
  w.base / 2 ^ 20 % 4 * 2 ^ 20 + (firstLine + (w.base % 2 ^ 20 / 512 + q / 16 * (sq / 32) + x % sq / 32)) * 512 + bank * 32 + x % 32

/-- The byte address of row line `j` of square `q` of a window: bay-local for a tile window, virtual for a virt one. -/
def lineAddr (w : Window) (firstLine q j : Nat) : Nat :=
  if w.virt then w.base + q * squareSize w.ty + j * 32 else tileLine w firstLine q j

/-- The bit that holds bit `b` of line `j` of square `q` in an orientation (R238): the row line's address and the bit
within it. With `O` 1, bits [w(j'+1) − 1 : wj'] of column line `j` hold element (j', j). -/
def lineBit (w : Window) (firstLine q j : Nat) (o : Bool) (b : Nat) : Nat × Nat :=
  if o then (lineAddr w firstLine q (b / w.ty.width), w.ty.width * j + b % w.ty.width)
  else (lineAddr w firstLine q j, b)

/-- Word `k` of line `j` of square `q` in an orientation, read through an address translation. -/
def readLineWord (m : List Host.Cell) (tr : Nat → Nat) (w : Window) (firstLine q j : Nat) (o : Bool) (k : Nat) : W32 :=
  if o then
    BitVec.ofNat 32 (((List.range 32).map (fun i =>
      let p := lineBit w firstLine q j o (32 * k + i)
      if readBit m (tr p.1) p.2 then 2 ^ i else 0)).sum)
  else readW32 m (tr (lineAddr w firstLine q j) + 4 * k)

/-- Bits of a word written one by one through an orientation. -/
def writeLineBits (m : List Host.Cell) (tr : Nat → Nat) (w : Window) (firstLine q j : Nat) (o : Bool) (k : Nat) (v : W32) :
    Nat → List Host.Cell
  | 0 => m
  | i + 1 =>
    let p := lineBit w firstLine q j o (32 * k + i)
    writeBit (writeLineBits m tr w firstLine q j o k v i) (tr p.1) p.2 (v.getLsbD i)

/-- Word `k` of a line written in an orientation. -/
def writeLineWord (m : List Host.Cell) (tr : Nat → Nat) (w : Window) (firstLine q j : Nat) (o : Bool) (k : Nat) (v : W32) :
    List Host.Cell :=
  if o then writeLineBits m tr w firstLine q j o k v 32
  else writeW32 m (tr (lineAddr w firstLine q j) + 4 * k) v

/-- Square, line and word of a word access at an offset (R241). -/
def wordPlace (w : Window) (x : Nat) : Nat × Nat × Nat :=
  let sq := squareSize w.ty
  (x / sq, x % sq / 32, x % 32 / 4)

/-- The lines that an access covers at an offset (R241): square and line, in ascending order. -/
def accessLines (w : Window) (kind : AccKind) (x : Nat) : List (Nat × Nat) :=
  let sq := squareSize w.ty
  let q := x / sq
  let j := x % sq / 32
  match kind with
  | .word | .line => [(q, j)]
  | .block => (List.range 8).map (fun i => (q, x % sq / 256 * 8 + i))

/-- The words of a line or block at an offset in an orientation, in ascending order. -/
def readAccess (m : List Host.Cell) (tr : Nat → Nat) (w : Window) (firstLine : Nat) (kind : AccKind) (o : Bool) (x : Nat) :
    List W32 :=
  match kind with
  | .word => let (q, j, k) := wordPlace w x; [readLineWord m tr w firstLine q j o k]
  | _ => (accessLines w kind x).flatMap (fun p =>
      (List.range 8).map (readLineWord m tr w firstLine p.1 p.2 o))

/-- Words written over a list of places, each when its mask says so. -/
def writePlaces (m : List Host.Cell) (tr : Nat → Nat) (w : Window) (firstLine : Nat) (o : Bool) :
    List ((Nat × Nat × Nat) × W32) → List Host.Cell
  | [] => m
  | ((q, j, k), v) :: rest => writePlaces (writeLineWord m tr w firstLine q j o k v) tr w firstLine o rest

/-- The places of the words of an access, in ascending order. -/
def accessPlaces (w : Window) (kind : AccKind) (x : Nat) : List (Nat × Nat × Nat) :=
  match kind with
  | .word => [wordPlace w x]
  | _ => (accessLines w kind x).flatMap (fun p => (List.range 8).map (fun k => (p.1, p.2, k)))

/-- The words of an access that a mask keeps: bit `k` of a line's mask keeps word `k`, bit `j` of a block's keeps
line `j` (R283). -/
def maskKeeps (kind : AccKind) (mask : BitVec 8) (i : Nat) : Bool :=
  match kind with
  | .word => true
  | .line => mask.getLsbD i
  | .block => mask.getLsbD (i / 8)

/-- An access's words written in an orientation under a mask. -/
def writeAccess (m : List Host.Cell) (tr : Nat → Nat) (w : Window) (firstLine : Nat) (kind : AccKind) (o : Bool) (x : Nat)
    (data : List W32) (mask : BitVec 8) : List Host.Cell :=
  let ps := (accessPlaces w kind x).zip data
  writePlaces m tr w firstLine o ((ps.zipIdx.filter (fun p => maskKeeps kind mask p.2)).map Prod.fst)

end Sys2Proof.Machine
end

