-- ==== Sys2Proof/Machine/Tags.lean ====
section
/-! DEFINITION. Tags (R47 to R49): their fields, the operations of `TAGOP`, the age of iterations and of tags, and the
iterations that a tag belongs to (R142, R382). -/
namespace Sys2Proof

/-- Iteration field `k` of a tag (R47). -/
def Tag.it (t : Tag) (k : Nat) : BitVec 7 :=
  match k with
  | 0 => t.it0 | 1 => t.it1 | 2 => t.it2 | 3 => t.it3 | 4 => t.it4 | 5 => t.it5 | _ => 0

/-- A tag with iteration field `k` set; there are six fields. -/
def Tag.setIt (t : Tag) (k : Nat) (v : BitVec 7) : Tag :=
  match k with
  | 0 => { t with it0 := v } | 1 => { t with it1 := v } | 2 => { t with it2 := v }
  | 3 => { t with it3 := v } | 4 => { t with it4 := v } | 5 => { t with it5 := v } | _ => t

/-- Fields `it0` to `it`(n − 1). -/
def Tag.its (t : Tag) (n : Nat) : List Nat := (List.range n).map (fun k => (t.it k).toNat)

/-- The initial tag of a frame (R51, R140): `PATH` 000001, every iteration field zero. -/
def Tag.initial (f : Nat) : Tag := ⟨BitVec.ofNat 16 f, 1, 0, 0, 0, 0, 0, 0⟩

/-- The zero tag: `CALLER` of a slip's first activation (R50). -/
def Tag.zero : Tag := ⟨0, 0, 0, 0, 0, 0, 0, 0⟩

/-- The 64 bits of a tag (R47). -/
def Tag.bits (t : Tag) : W64 :=
  t.frame ++ t.path ++ t.it0 ++ t.it1 ++ t.it2 ++ t.it3 ++ t.it4 ++ t.it5

/-- The tag of 64 bits (R47). -/
def Tag.ofBits (w : W64) : Tag :=
  ⟨w.extractLsb' 48 16, w.extractLsb' 42 6, w.extractLsb' 35 7, w.extractLsb' 28 7, w.extractLsb' 21 7,
   w.extractLsb' 14 7, w.extractLsb' 7 7, w.extractLsb' 0 7⟩

/-- The 42 bits of the iteration fields, `ITER`. -/
def Tag.iterBits (t : Tag) : BitVec 42 := t.it0 ++ t.it1 ++ t.it2 ++ t.it3 ++ t.it4 ++ t.it5

namespace Machine

/-- `TAGOP` on a tag at depth `d` (R48); `taken` is the bit that a `pathpush` pushes. The values that name built-in
actions act as 0 (R62). `none` is the poison of a `PATH` that is full or empty. -/
def applyTagop (op : TagOp) (d : Nat) (taken : Bool) (t : Tag) : Option Tag :=
  match op with
  | .keep | .enter | .leave | .call | .ret => some t
  | .next => some (t.setIt (d - 1) (t.it (d - 1) + 1))
  | .zeroIter => some (t.setIt (d - 1) 0)
  | .flat => some { Tag.initial 0 with frame := t.frame }
  | .push => if t.path.getLsbD 5 then none else some { t with path := (t.path <<< 1) ||| (if taken then 1 else 0) }
  | .pop => if t.path = 1 then none else some { t with path := t.path >>> 1 }

/-- Iteration `a` is older than iteration `b` of one loop (R49). -/
def iterOlder (a b : BitVec 7) : Bool :=
  let n := (b - a).toNat
  decide (1 ≤ n) && decide (n ≤ 63)

/-- The first field that differs decides (R131): −1 older, 1 younger, 0 equal. -/
def itersCmp : List (BitVec 7) → List (BitVec 7) → Int
  | a :: as, b :: bs => if a = b then itersCmp as bs else if iterOlder a b then -1 else 1
  | _, _ => 0

/-- All six iteration fields of a tag. -/
def allIters (t : Tag) : List (BitVec 7) := [t.it0, t.it1, t.it2, t.it3, t.it4, t.it5]

/-- The allocation stamp of a frame of a loan (R50). -/
def frameSeq (l : Loan) (f : Nat) : Nat := match AMap.find l.frames f with | some fr => fr.aseq | none => 0

/-- Tag `a` is older than tag `b` (R131): the frame allocated earlier, then the iterations from `it0` inward. -/
def tagOlder (l : Loan) (a b : Tag) : Bool :=
  if a.frame = b.frame then itersCmp (allIters a) (allIters b) < 0
  else frameSeq l a.frame.toNat < frameSeq l b.frame.toNat

/-- What the loader computed for a handler; nothing is known of one that has no word. -/
def hinfoOf (img : Image) (hkey : Nat) : HInfo := AMap.get img.hinfo ⟨0, [], 0, 0, 0, 0, []⟩ hkey

/-- The key of a handler of an image: region element index × 8 + handler index (R75). -/
def handlerKey (index hnd : Nat) : Nat := index * 8 + hnd

/-- The iterations of enclosing loops that a tag belongs to at a list of loops, outermost first (R382): frame and fields up to the
loop's own. Loop identifiers start at 1; 0 marks a depth without one. -/
def loopIters (loops : List Nat) (t : Tag) : List (Nat × List Nat) :=
  (loops.zipIdx.filter (fun p => p.1 != 0)).map (fun p => (t.frame.toNat, t.its (p.2 + 1)))

/-- The loops whose iterations the tokens of a handler belong to, outermost first. At a depth inherited through `CALLF` a token of a
callee belongs to none by its own tag: no iteration of its frame is in flight there, and the frame itself holds up the caller's
(R300, R382). -/
def HInfo.counted (h : HInfo) : List Nat := List.replicate (min h.inherited h.loops.length) 0 ++ h.loops.drop h.inherited

/-- The depths of a handler at which iterations of its own frame can be in flight. -/
def HInfo.ownDepth (h : HInfo) : Nat := h.depth - h.inherited

/-- The iterations that an operation of a handler belongs to (R382). -/
def handlerIters (img : Image) (hkey : Nat) (t : Tag) : List (Nat × List Nat) :=
  loopIters (hinfoOf img hkey).counted t

/-- The iterations that a token for a handler's port belongs to: port `b` of a `LOOPIN` lies within its own loop
(R83, R198). -/
def portIters (img : Image) (hkey port : Nat) (t : Tag) : List (Nat × List Nat) :=
  let h := hinfoOf img hkey
  loopIters (if h.own ≠ 0 ∧ port = 1 then h.counted ++ [h.own] else h.counted) t

end Machine
end Sys2Proof
end

