-- ==== Sys2Proof/Machine/Ops.lean ====
section
/-! DEFINITION. The named operations over the state: reading and changing its units, what is due when, where elements lie,
the counts of tokens, fault records and the parking and resuming of frames (taking an exception and returning from it),
and the delivery of tokens. -/
namespace Sys2Proof

/-- The code of a kind (R44). -/
def kindCode : Kind → BitVec 3
  | .data => 0 | .eos => 1 | .exit => 2 | .freeze => 3 | .config => 4 | .poison => 5 | .retire => 6 | .reserved => 7

/-- A truth value as a bit. -/
def bitOf (b : Bool) : BitVec 1 := if b then 1 else 0

/-- The 128 bits of a token (R42). -/
def Token.bits (t : Token) : BitVec 128 :=
  t.el ++ t.port ++ bitOf t.rsvd ++ t.q.hnd ++ t.q.ctx ++ bitOf t.q.pred ++ kindCode t.q.kind ++ bitOf t.q.par ++
    t.q.cont ++ t.q.operand ++ Tag.bits t.q.tag

/-- Whether all 128 bits of a token hold an odd number of ones. -/
def Token.odd (t : Token) : Bool := ((List.range 128).filter (fun i => t.bits.getLsbD i)).length % 2 == 1

/-- A token with `PAR` set right (R42). -/
def Token.seal (t : Token) : Token :=
  let t := { t with q := { t.q with par := false } }
  { t with q := { t.q with par := t.odd } }

namespace Machine

/-! ### What is due -/

/-- The agenda with a step put in at a cycle, after those already due then. -/
def agendaPut : List (Nat × Instr) → Nat → Instr → List (Nat × Instr)
  | [], t, i => [(t, i)]
  | (u, j) :: rest, t, i => if t < u then (t, i) :: (u, j) :: rest else (u, j) :: agendaPut rest t i

/-- The state with a step due in `d` cycles. -/
def State.later (s : State) (d : Nat) (i : Instr) : State := { s with agenda := agendaPut s.agenda (s.cycle + d) i }

/-- The state with a step due in `d` cycles, ahead of all that is due then. -/
def State.laterFirst (s : State) (d : Nat) (i : Instr) : State :=
  let t := s.cycle + d
  { s with agenda := s.agenda.filter (fun x => decide (x.1 < t)) ++ (t, i) :: s.agenda.filter (fun x => !decide (x.1 < t)) }

/-- Whether a step of a kind is due by now. -/
def State.dueNow (s : State) (p : Instr → Bool) : Bool := s.agenda.any (fun x => decide (x.1 ≤ s.cycle) && p x.2)

/-- A fresh number of the model's own, for accesses, cells and entries. -/
def State.fresh (s : State) : Nat × State := (s.nextId, { s with nextId := s.nextId + 1 })

/-- A free truth value. -/
def State.drawBool (s : State) : Bool × State :=
  (Config.freeBool s.freeCount, { s with freeCount := s.freeCount + 1 })

/-- A free number. -/
def State.drawNat (s : State) : Nat × State := (Config.freeNat s.freeCount, { s with freeCount := s.freeCount + 1 })

/-! ### Units -/

/-- An element. -/
def State.el (s : State) (k : Nat) : Element := AMap.get s.els Element.empty k

/-- The state with an element changed. -/
def State.updEl (s : State) (k : Nat) (f : Element → Element) : State := { s with els := AMap.upd s.els Element.empty k f }

/-- An element's context. -/
def Element.ctx (e : Element) (c : Nat) : ElCtx := AMap.get e.ctxs ElCtx.empty c

/-- An element with a context changed. -/
def Element.updCtx (e : Element) (c : Nat) (f : ElCtx → ElCtx) : Element := { e with ctxs := AMap.upd e.ctxs ElCtx.empty c f }

/-- A free plane. -/
def Plane.empty : Plane := ⟨[], [], none⟩

/-- A plane of an element. -/
def Element.plane (e : Element) (i : Nat) : Plane := AMap.get e.planes Plane.empty i

/-- The active plane of a context; a context without an activation has none and reads an empty one. -/
def Element.active (e : Element) (c : Nat) : Plane :=
  match (e.ctx c).plane with | some i => e.plane i | none => Plane.empty

/-- An element with the active plane of a context changed. -/
def Element.updActive (e : Element) (c : Nat) (f : Plane → Plane) : Element :=
  match (e.ctx c).plane with
  | some i => { e with planes := AMap.upd e.planes Plane.empty i f }
  | none => e

/-- A queue of a plane. -/
def Plane.queue (p : Plane) (q : Nat) : List QTok := AMap.get p.q [] q

/-- A plane with a queue changed. -/
def Plane.updQueue (p : Plane) (q : Nat) (f : List QTok → List QTok) : Plane := { p with q := AMap.upd p.q [] q f }

/-- A bay. -/
def State.bay (s : State) (b : Nat) : Bay := AMap.get s.bays Bay.empty b

/-- The state with a bay changed. -/
def State.updBay (s : State) (b : Nat) (f : Bay → Bay) : State := { s with bays := AMap.upd s.bays Bay.empty b f }

/-- The state with a loan changed, if it is there. -/
def State.updLoan (s : State) (id : Nat) (f : Loan → Loan) : State :=
  match AMap.find s.loans id with
  | some l => { s with loans := AMap.put s.loans id (f l) }
  | none => s

/-- A token, an operand or a credit arrives at a region in this cycle (R316). -/
def State.arrived (s : State) (id : Nat) : State := s.updLoan id (fun l => { l with lastArrival := s.cycle + 1 })

/-- The state with a handler in focus. -/
def State.focusOn (s : State) (key ctx hnd : Nat) : State := { s with focus := { s.focus with el := key, ctx := ctx, hnd := hnd } }

/-- The state with the hub changed. -/
def State.updHub (s : State) (f : Hub → Hub) : State := { s with hub := f s.hub }

/-- The image that a context of a loan runs. -/
def Loan.imageOf (l : Loan) (c : Nat) : Image := AMap.get l.images l.image c

/-! ### Places (R4, R34, R35, R115, R128) -/

/-- Physical bay of a bay of a region (R34). -/
def Loan.bayKey (l : Loan) (b : Nat) : Nat := l.die * 128 + l.nwb + b / l.w * 16 + b % l.w

/-- Key of the physical element of a region-relative index; a spare where one stands in (R35, R115). -/
def Loan.elKey (l : Loan) (index : Nat) : Nat :=
  match AMap.find l.mapping index with
  | some k => k
  | none => l.bayKey (index / 128) * 256 + index % 128

/-- The place of an element: that of the element that a spare stands in for. -/
def Loan.place (l : Loan) (key : Nat) : Nat :=
  if key % 256 < 128 then key
  else match l.mapping.find? (fun p => p.2 == key) with
    | some (i, _) => l.bayKey (i / 128) * 256 + i % 128
    | none => key

/-- Bay steps from a bay of a region to bay 0 (R190). -/
def Loan.hops (l : Loan) (b : Nat) : Nat := b / l.w + b % l.w

/-- Bay steps between two bays of a region. -/
def Loan.bayDist (l : Loan) (a b : Nat) : Nat :=
  let d (x y : Nat) := if x < y then y - x else x - y
  d (a / l.w) (b / l.w) + d (a % l.w) (b % l.w)

/-- Column of a place on its die. -/
def colOf (p : Nat) : Nat := p / 256 % 128 % 16 * 32 + p % 128 / 32 * 8 + p % 8

/-- Row of a place on its die. -/
def rowOfPlace (p : Nat) : Nat := p / 256 % 128 / 16 * 4 + p % 128 % 32 / 8

/-- The place at a column and a row of a die. -/
def placeAt (die x y : Nat) : Nat := (die * 128 + y / 4 * 16 + x / 32) * 256 + x % 32 / 8 * 32 + y % 4 * 8 + x % 8

/-- The first link towards a place (R128): columns first, 0 north, 1 east, 2 south, 3 west; 4 when it is there. -/
def nextDir (a b : Nat) : Nat :=
  if colOf a < colOf b then 1 else if colOf b < colOf a then 3
  else if rowOfPlace a < rowOfPlace b then 2 else if rowOfPlace b < rowOfPlace a then 0 else 4

/-- The place one link away. -/
def neighbour (a dir : Nat) : Nat :=
  let die := a / 256 / 128
  let x := colOf a
  let y := rowOfPlace a
  match dir with
  | 0 => placeAt die x (y - 1)
  | 1 => placeAt die (x + 1) y
  | 2 => placeAt die x (y + 1)
  | 3 => placeAt die (x - 1) y
  | _ => a

/-- Cycles of a step between neighbouring places (R128): 1 within a compute tile, 3 across a memory tile. -/
def stepCycles (a b : Nat) : Nat := if colOf a / 8 = colOf b / 8 ∧ rowOfPlace a / 4 = rowOfPlace b / 4 then 1 else 3

/-- Links of the route between two places. -/
def routeLinks (a b : Nat) : Nat :=
  let d (x y : Nat) := if x < y then y - x else x - y
  d (colOf a) (colOf b) + d (rowOfPlace a) (rowOfPlace b)

/-- Unloaded cycles of the route between two places (R128). -/
def routeCycles (a b : Nat) : Nat :=
  let d (x y : Nat) := if x < y then y - x else x - y
  routeLinks a b + 2 * (d (colOf a / 8) (colOf b / 8) + d (rowOfPlace a / 4) (rowOfPlace b / 4))

/-! ### Tokens -/

/-- The queue entry of an output. -/
def mkEntry (ctx hnd : Nat) (kind : Kind) (pred : Bool) (cont : BitVec 6) (v : W32) (tag : Tag) : QEntry :=
  ⟨BitVec.ofNat 3 hnd, BitVec.ofNat 2 ctx, pred, kind, false, cont, v, tag, []⟩

/-- The queue entry that an emission carries. -/
def Emit.entry : Emit → Option QEntry
  | .token t | .served t | .fill t _ _ => some t.q
  | .slotWrite _ _ q | .exit _ q | .park q | .capture _ _ _ q => some q
  | .request _ => none

/-- An emission with what its entry descends from. -/
def Emit.withPrior (p : List Nat) : Emit → Emit
  | .token t => .token { t with q := { t.q with prior := p } }
  | .served t => .served { t with q := { t.q with prior := p } }
  | .fill t b ws => .fill { t with q := { t.q with prior := p } } b ws
  | .slotWrite b n q => .slotWrite b n { q with prior := p }
  | .exit n q => .exit n { q with prior := p }
  | .park q => .park { q with prior := p }
  | .capture b t i q => .capture b t i { q with prior := p }
  | .request n => .request n
@[inherit_doc Emit.withPrior] def Flit.withPrior (p : List Nat) (f : Flit) : Flit := { f with emit := f.emit.withPrior p }

/-- The token that an emission is. -/
def Emit.asToken : Emit → Option Token
  | .token t | .served t | .fill t _ _ => some t
  | _ => none

/-- The iterations that an emission holds up (R382): none for a sticky operand that has served (R61). -/
def Flit.counted (f : Flit) : List (Nat × List Nat) :=
  match f.emit with
  | .served _ => []
  | _ => f.iters

/-! ### Counts (R50, R52, R382) -/

/-- A loan with a frame's `LIVE` changed; a released frame whose count has come to zero is gone, and its identifier is free
(R52). -/
def Loan.addLive (l : Loan) (f : Nat) (n : Int) : Loan :=
  match AMap.find l.frames f with
  | none => l
  | some fr =>
    let fr := { fr with live := fr.live + n }
    if fr.released ∧ fr.live ≤ 0 then { l with frames := AMap.del l.frames f }
    else { l with frames := AMap.put l.frames f fr }

/-- A pending count changed in a list of counts; a count of zero has no entry. -/
def pendAdd (k : Nat × List Nat) (n : Int) : List ((Nat × List Nat) × Int) → List ((Nat × List Nat) × Int)
  | [] => if n = 0 then [] else [(k, n)]
  | (k', m) :: rest =>
    if k' = k then (if m + n = 0 then rest else (k, m + n) :: rest) else (k', m) :: pendAdd k n rest

/-- A loan with the pending counts of some iterations changed. -/
def Loan.addPend (l : Loan) (its : List (Nat × List Nat)) (n : Int) : Loan :=
  { l with pends := its.foldl (fun p k => pendAdd k n p) l.pends }

/-- The pending count of an iteration. -/
def Loan.pendOf (l : Loan) (k : Nat × List Nat) : Int :=
  match l.pends.find? (fun p => p.1 == k) with | some p => p.2 | none => 0

/-- An acknowledgement sent from a bay of a region: the counts fall `h` + 1 cycles later (R382). -/
def State.ack (s : State) (loan b : Nat) (its : List (Nat × List Nat)) : State :=
  match AMap.find s.loans loan with
  | none => s
  | some l => if its = [] then s else s.later (l.hops b + 1) (.retireAck loan (its.map (fun k => ⟨k.1, k.2, -1⟩)))

/-- Something with a tag has come into being: it counts at once. -/
def State.born (s : State) (loan : Nat) (tag : Tag) (its : List (Nat × List Nat)) : State :=
  s.updLoan loan (fun l => (l.addLive tag.frame.toNat 1).addPend its 1)

/-- Something with a tag has gone: `LIVE` falls, and the acknowledgement is sent. -/
def State.gone (s : State) (loan b : Nat) (tag : Tag) (its : List (Nat × List Nat)) : State :=
  (s.updLoan loan (fun l => l.addLive tag.frame.toNat (-1))).ack loan b its

/-- An emission is discarded in a bay of its region. -/
def State.dropFlit (s : State) (b : Nat) (f : Flit) : State :=
  match f.emit.entry with
  | some q => s.gone f.loan b q.tag f.counted
  | none => s

/-! ### Fault records (R30, R339, R340) -/

/-- What a unit says of a fault. -/
structure Report where
  code : Nat
  loan : Option Nat
  el : Option Nat
  ctx : Nat
  hnd : Nat
  win : Option Nat
  tag : Option Tag
  addr : Nat
  detail : W64
  more : Bool
  sid : W64
  /-- The unit that hands the record over, where it is not the element, and not one that the code names (R30). -/
  unit : Option FaultUnit
deriving DecidableEq, Repr

/-- A report of a code with nothing else filled in. -/
def Report.of (code : Nat) : Report := ⟨code, none, none, 0, 0, none, none, 0, 0, false, 0, none⟩

/-- The fault codes of R340. -/
def fTRANSLATE : Nat := 0x01
@[inherit_doc fTRANSLATE] def fPROTECT : Nat := 0x02
@[inherit_doc fTRANSLATE] def fALIGN : Nat := 0x03
@[inherit_doc fTRANSLATE] def fWINDOW : Nat := 0x04
@[inherit_doc fTRANSLATE] def fPARITYTOKEN : Nat := 0x05
@[inherit_doc fTRANSLATE] def fPARITYSTORE : Nat := 0x06
@[inherit_doc fTRANSLATE] def fANNEX : Nat := 0x07
@[inherit_doc fTRANSLATE] def fDEADLOCK : Nat := 0x08
@[inherit_doc fTRANSLATE] def fTRAP : Nat := 0x09
@[inherit_doc fTRANSLATE] def fBRK : Nat := 0x0A
@[inherit_doc fTRANSLATE] def fILLEGAL : Nat := 0x0B
@[inherit_doc fTRANSLATE] def fSAVE : Nat := 0x0C
@[inherit_doc fTRANSLATE] def fTLSAT : Nat := 0x0D
@[inherit_doc fTRANSLATE] def fMCASTLAG : Nat := 0x0E
@[inherit_doc fTRANSLATE] def fCFG : Nat := 0x0F
@[inherit_doc fTRANSLATE] def fSTALE : Nat := 0x10
@[inherit_doc fTRANSLATE] def fMISMATCH : Nat := 0x11

/-- Kernel-owned codes (R340). -/
def kernelOwned (code : Nat) : Bool := [0x01, 0x02, 0x05, 0x06, 0x07, 0x08, 0x0C].contains code

/-- Codes that park the frame (R340). -/
def stopsFrame (code : Nat) : Bool := [0x01, 0x02, 0x03, 0x04, 0x06, 0x07, 0x09, 0x0A, 0x0B, 0x11].contains code

/-- `LOC` of an element (R339): die, bay, and element within the bay. -/
def locOf (p : Nat) : BitVec 16 := BitVec.ofNat 16 (p / 256 / 128 % 4 + 4 * (p / 256 % 128) + 512 * (p % 128))

/-- `LOAN` of a loan (R339). -/
def Loan.word (l : Loan) : BitVec 16 := BitVec.ofNat 16 (l.nwb % 128 + 128 * (l.die % 4) + 512 * (l.ctx % 4))

/-- The unit that hands the record of a report over (R30). -/
def Report.unitOf (r : Report) : FaultUnit :=
  match r.unit with
  | some u => u
  | none =>
    if r.code = fTLSAT then .timelines
    else if r.code = fDEADLOCK then .stocktake
    else if r.code = fCFG ∨ r.code = fSAVE then .loader
    else match r.el with
      | some k => .element k
      | none => .loader

/-- The record of a report (R339); its `SEQ` is filled in when it is written. -/
def mkRecord (s : State) (r : Report) (parked : Bool) : FaultRec :=
  let l := match r.loan with | some id => AMap.find s.loans id | none => none
  { unit := r.unitOf
    code := BitVec.ofNat 8 r.code
    kown := kernelOwned r.code
    parked := parked
    more := r.more
    loc := match r.el, l with
      | some k, some l => locOf (l.place k)
      | some k, none => locOf k
      | none, _ => 0xFFFF
    ch := BitVec.ofNat 8 (r.ctx % 4 + 4 * (r.hnd % 8))
    wv := match r.win with | some w => BitVec.ofNat 8 (w % 64 + 64) | none => 0
    loan := match l with | some l => l.word | none => 0xFFFF
    tag := match r.tag with | some t => Tag.bits t | none => 0
    addr := BitVec.ofNat 64 r.addr
    stamp := BitVec.ofNat 64 s.cycle
    detail := r.detail
    sid := match l with | some l => l.slip.sid | none => r.sid
    seq := 0
    fhs := match l with
      | some l => if kernelOwned r.code || l.slip.fhs == 0 then none else some (l.slip.fhs, l.slip.space, l.slip.priv)
      | none => none }

/-- A record numbered and written into the hub record store (R30, R339). -/
def Hub.enter (h : Hub) (r : FaultRec) : Hub := { h with seq := h.seq + 1, store := h.store ++ [{ r with seq := h.seq + 1 }] }

/-- A record handed over (R30): 1,024 records fit into the store, and a unit whose record does not fit holds it and stops. A kernel-owned
record interrupts the Curator cluster as soon as it is made (R340). -/
def Hub.record (h : Hub) (r : FaultRec) : Hub :=
  let room := decide (h.store.length < 1024)
  let h := if r.kown then { h with interrupts := h.interrupts ++ [if room then { r with seq := h.seq + 1 } else r] } else h
  if room then h.enter r else { h with blocked := h.blocked ++ [r] }

/-- Whether a unit has stopped, since the store has no room for its record (R30). -/
def State.stopped (s : State) (u : FaultUnit) : Bool := s.hub.blocked.any (fun r => r.unit == u)

/-- The unit of an Exchange port of a bay. -/
def bayUnit (bay : Nat) : FaultUnit := .port (bay / 128 * 256 + bay % 128)

/-! ### Parking a frame (R342, R343) -/

/-- The image that a frame's activation runs. -/
def Loan.imageOfFrame (l : Loan) (f : Nat) : Image :=
  match AMap.find l.frames f with
  | some fr => (match AMap.find l.acts fr.act with | some a => l.imageOf a.ctx | none => l.image)
  | none => l.image

/-- The iterations that an iteration of a loop lies in, outermost first, with itself: those at depths of its own frame (R300). -/
def Loan.chainOf (l : Loan) (loop frame : Nat) (its : List Nat) : List (Nat × List Nat) :=
  let given := match AMap.find (l.imageOfFrame frame).loops loop with | some i => i.inherited | none => 0
  ((List.range its.length).filter (fun i => decide (given ≤ i))).map (fun i => (frame, its.take (i + 1)))
@[inherit_doc Loan.chainOf] def Loan.waveChain (l : Loan) (v : Wave) : List (Nat × List Nat) :=
  match AMap.find (l.imageOfFrame v.frame).loops v.cls with
  | some i => l.chainOf v.cls v.frame (v.its.take i.depth)
  | none => []

/-- Whether something that belongs to some iterations belongs to a faulting iteration or a younger one (R342 step 3). -/
def hitsFault (faults : List (List Nat × Nat)) (its : List (Nat × List Nat)) : Bool :=
  faults.any (fun f => its.any (fun k =>
    k.2.dropLast == f.1 &&
      (match k.2.getLast? with
        | some j => j == f.2 || iterOlder (BitVec.ofNat 7 f.2) (BitVec.ofNat 7 j)
        | none => false)))

/-- The first frame slot of a handler for a tag (R134). -/
def slotBase (i : HInfo) (t : Tag) : Nat :=
  i.sigma + i.nh * ((List.range i.psz.length).foldl (fun a k =>
    let p := i.psz.getD k 1
    a * p + (t.it k).toNat % p) 0)

/-- Key of a frame slot in a bay of the region. -/
def slotKey (b n : Nat) : Nat := b * 65536 + n

/-- The empty slot (R133). -/
def Slot.empty : Slot := ⟨0, false, false, 0, 0, false, Tag.zero, []⟩

/-- A slot of a frame in a bay. -/
def Frame.slot (f : Frame) (b n : Nat) : Slot := AMap.get f.slots Slot.empty (slotKey b n)

/-- Operands written into slots one after another. -/
def Frame.refill (f : Frame) (b n : Nat) : List (Nat × QEntry) → Frame
  | [] => f
  | (p, q) :: rest =>
    Frame.refill { f with slots := AMap.put f.slots (slotKey b n) ⟨q.operand, true, q.pred, q.cont, BitVec.ofNat 2 p, false, q.tag, q.prior⟩ }
      b (n + 1) rest

/-- A token as it stood in a queue or an element, for its element. -/
def tokenFlit (img : Image) (loan index port : Nat) (q : QEntry) : Flit :=
  ⟨loan, .token (Token.seal ⟨BitVec.ofNat 13 index, BitVec.ofNat 2 port, false, q⟩),
   portIters img (handlerKey index q.hnd.toNat) port q.tag⟩

/-- A waiting token for its element; a sticky operand that has served stays one (R61). -/
def QTok.flit (img : Image) (loan index port : Nat) (t : QTok) : Flit :=
  let x := tokenFlit img loan index port t.e
  match x.emit with
  | .token u => if t.served then { x with emit := .served u } else x
  | _ => x

/-- Whether a firing of the match unit is one of `ORDRED` (R209). -/
def Ready.isOrdred (e : Element) (r : Ready) : Bool := (AMap.get (e.ctx r.ctx).handlers nopWord r.hnd).extractLsb' 56 8 == 0x65

/-- What one element gives up when a frame's tokens are withdrawn (R342 steps 1 and 2): the element without them, the
tokens, and the ready firings whose operands go back to their slots. An operand of `ORDRED` is in its slot and stays there (R209). -/
def withdrawEl (loan f : Nat) (img : Nat → Image) (e : Element) : Element × List Flit × List (Nat × Ready) :=
  let mine (q : QEntry) := q.tag.frame.toNat == f && q.kind != .poison
  let ours (c : Nat) := (e.ctx c).loan == some loan
  let fromPlanes := e.planes.flatMap (fun (_, pl) =>
    match pl.owner with
    | some (o, _) => if o == loan then
        pl.q.flatMap (fun (p, ts) => (ts.filter (fun t => mine t.e)).map (fun t =>
          let c := t.e.ctx.toNat
          t.flit (img c) loan (e.ctx c).logical p))
        else []
    | none => [])
  let planes := e.planes.map (fun (i, pl) =>
    match pl.owner with
    | some (o, _) => if o == loan then (i, { pl with q := pl.q.map (fun (p, ts) => (p, ts.filter (fun t => !mine t.e))) }) else (i, pl)
    | none => (i, pl))
  let isTok (x : Flit) := x.loan == loan && (match x.emit with | .token t | .served t => mine t.q | _ => false)
  let fromOut := (List.range 5).flatMap (fun d => (AMap.get e.out [] d).filter isTok)
  let out := e.out.map (fun (d, fs) => (d, if d < 5 then fs.filter (fun x => !isTok x) else fs))
  let hit (r : Ready) := ours r.ctx && r.tag.frame.toNat == f
  let (os, rs) := ((e.ready ++ e.matching.map Prod.snd).filter hit).partition (Ready.isOrdred e)
  let fromReady := rs.filterMap (fun r => match r.ops.getLast? with
    | some (p, q) => some (tokenFlit (img r.ctx) loan (e.ctx r.ctx).logical p q)
    | none => none)
  ({ e with planes := planes, out := out,
            ready := e.ready.filter (fun r => !hit r),
            matching := e.matching.filter (fun m => !hit m.2),
            ordered := e.ordered ++ os },
   fromPlanes ++ fromOut ++ fromReady,
   rs.map (fun r => ((e.ctx r.ctx).logical, r)))

/-- Whether an access's handler is a whole wave (R249). -/
def Access.whole (a : Access) : Bool := a.predd == 7 && a.succd == 7

/-- Whether the innermost loop around a handler is declared ordered (R250). -/
def Image.inOrdered (img : Image) (hkey : Nat) : Bool :=
  let h := hinfoOf img hkey
  h.depth != 0 && (match AMap.find img.loops (h.loops.getD (h.depth - 1) 0) with | some i => i.ordered | none => false)

/-- Whether an access passes the wave buffer (R249): all but a whole wave outside the loops declared ordered. -/
def Access.passes (a : Access) (l : Loan) : Bool := !a.whole || (l.imageOf a.ctx).inOrdered (handlerKey a.index a.hnd)

/-- Whether an access of a faulting iteration can still be withdrawn (R342 step 3). -/
def Access.withdrawable (a : Access) (l : Loan) : Bool := a.stage == .buffered || (a.stage == .waiting && a.passes l)

/-- A place for a token in the park stores (R342 step 1): the bay's buffer of 64, then 16 bytes of its `ANNEXRES`, then of the slip's
`ANNEX`. When all are full ANNEX_FULL is written and the token is kept all the same where it is. The place is bay × 4 + store. -/
def State.parkTake (s : State) (loan b : Nat) (tag : Option Tag) : Nat × State :=
  match AMap.find s.loans loan with
  | none => (b * 4 + 3, s)
  | some l =>
    if (s.bay (l.bayKey b)).parkCount < 64 then
      (b * 4, s.updBay (l.bayKey b) (fun y => { y with parkCount := y.parkCount + 1 }))
    else if AMap.get l.bayUsed 0 b + 16 ≤ AMap.get l.annexRes 0 b then
      (b * 4 + 1, s.updLoan loan (fun l => { l with bayUsed := AMap.upd l.bayUsed 0 b (· + 16) }))
    else if l.annexUsed + 16 ≤ l.slip.annex * 2 ^ 20 then
      (b * 4 + 2, s.updLoan loan (fun l => { l with annexUsed := l.annexUsed + 16 }))
    else (b * 4 + 3, s.updHub (fun h => h.record (mkRecord s
      { Report.of fANNEX with loan := some loan, tag := tag, detail := 2, unit := some (bayUnit (l.bayKey b)) } true)))
@[inherit_doc State.parkTake] def State.parkGive (s : State) (loan place : Nat) : State :=
  match AMap.find s.loans loan with
  | none => s
  | some l =>
    let b := place / 4
    match place % 4 with
    | 0 => s.updBay (l.bayKey b) (fun y => { y with parkCount := y.parkCount - 1 })
    | 1 => s.updLoan loan (fun l => { l with bayUsed := AMap.upd l.bayUsed 0 b (· - 16) })
    | 2 => s.updLoan loan (fun l => { l with annexUsed := l.annexUsed - 16 })
    | _ => s

/-- A token of a parked frame kept in a bay: parked, or discarded when it is of a faulting iteration (R342). -/
def State.parkFlit (s : State) (b : Nat) (f : Nat) (x : Flit) : State :=
  match AMap.find s.loans x.loan with
  | none => s
  | some l => match AMap.find l.frames f with
    | none => s
    | some fr => match fr.parked with
      | none => s
      | some p =>
        if hitsFault p.faulting x.iters then s.dropFlit b x
        else
          let (place, s) := s.parkTake x.loan b (x.emit.entry.map QEntry.tag)
          let fr' := { fr with parked := some { p with tokens := p.tokens ++ [(place, x)] } }
          s.updLoan x.loan (fun l => { l with frames := AMap.put l.frames f fr' })

/-- Elements that a loan's region has, by key with their bay of the region. -/
def State.regionEls (s : State) (id : Nat) (l : Loan) : List (Nat × Nat) :=
  s.els.filterMap (fun (k, e) =>
    if l.ctxs.any (fun c => (e.ctx c).loan == some id) then
      some (k, (e.ctx (l.ctxs.find? (fun c => (e.ctx c).loan == some id) |>.getD 0)).logical / 128)
    else none)

/-- The withdrawal of a frame's tokens from every element of its region (R342 steps 1 and 2). -/
def State.withdraw (s : State) (id f : Nat) : State :=
  match AMap.find s.loans id with
  | none => s
  | some l =>
    (s.regionEls id l).foldl (fun s (k, b) =>
      let (e, toks, backs) := withdrawEl id f l.imageOf (s.el k)
      let s := s.updEl k (fun _ => { e with ctxs := (List.range 4).foldl (fun m c =>
        if (e.ctx c).loan == some id then AMap.put m c { e.ctx c with perf := AMap.upd (e.ctx c).perf 0 4 (· + BitVec.ofNat 64 (toks.filter (fun x =>
          x.emit.entry.any (fun q => q.ctx.toNat == c))).length) } else m) e.ctxs })
      let s := backs.foldl (fun s (index, r) => s.updLoan id (fun l =>
        match AMap.find l.frames f with
        | none => l
        | some fr =>
          let n := slotBase (hinfoOf (l.imageOf r.ctx) (handlerKey index r.hnd)) r.tag
          { l with frames := AMap.put l.frames f (fr.refill (index / 128) n r.ops.dropLast) })) s
      toks.foldl (fun s x => s.parkFlit b f x) s) s

/-- The accesses of a frame's faulting iterations (R342 step 3): those that can be are withdrawn, the replies of the others
are discarded where they land. -/
def State.withdrawAccs (s : State) (id f : Nat) (faults : List (List Nat × Nat)) : State :=
  match AMap.find s.loans id with
  | none => s
  | some l =>
    s.accs.foldl (fun s (n, a) =>
      let its := handlerIters (l.imageOf a.ctx) (handlerKey a.index a.hnd) a.tag
      if a.loan == id && a.tag.frame.toNat == f && hitsFault faults its then
        if a.withdrawable l || a.stage == .kept then
          (({ s with accs := AMap.del s.accs n }).updEl a.el (fun e => { e with
            out := AMap.upd e.out [] 5 (fun fs => fs.filter (fun x => !(x.emit == Emit.request n))) })).gone id (a.index / 128) a.tag its
        else { s with accs := AMap.put s.accs n { a with dead := true } }
      else s) s

/-- The iterations that an operand with a tag in a slot counts towards, as a token for the slot's handler (R134, R382). -/
def slotIters (img : Image) (n : Nat) (t : Tag) : List (Nat × List Nat) :=
  match img.hinfo.find? (fun h => h.2.nh != 0 && decide (h.2.sigma ≤ n) && decide (n < h.2.sigma + h.2.nh * h.2.psz.foldl (· * ·) 1)) with
  | none => []
  | some (k, _) => handlerIters img k t

/-- A loan whose parked frame has lost the operands in slots of its faulting iterations (R381), with what they counted
towards. -/
def Loan.clearFaultSlots (l : Loan) (f : Nat) (faults : List (List Nat × Nat)) : Loan × List (Nat × List (Nat × List Nat)) :=
  match AMap.find l.frames f with
  | none => (l, [])
  | some fr =>
    let img := match AMap.find l.acts fr.act with | some a => l.imageOf a.ctx | none => l.image
    let hit (p : Nat × Slot) : Bool := p.2.p && hitsFault faults (slotIters img (p.1 % 65536) p.2.tag)
    let lost := fr.slots.filter hit
    let counted := lost.filter (fun p => !p.2.sw)
    (({ l with frames := AMap.put l.frames f { fr with slots := fr.slots.filter (fun p => !hit p) } }).addLive f (-(counted.length : Int)),
      counted.map (fun p => (p.1 / 65536, slotIters img (p.1 % 65536) p.2.tag)))

/-- The iterations that a decanter firing belongs to: those of the trigger token of its template (R382). -/
def Firing.iters (x : Firing) (l : Loan) : List (Nat × List Nat) :=
  let img := l.imageOf x.ctx
  match AMap.find img.templates x.template with
  | some t => portIters img (handlerKey t.trigEl t.trigHnd) 0 x.tag
  | none => []

/-- The operands of `ORDRED` that wait in slots of a frame's faulting iterations go with their slots (R209, R381). -/
def State.dropOrdered (s : State) (id f : Nat) (faults : List (List Nat × Nat)) : State :=
  match AMap.find s.loans id with
  | none => s
  | some l => { s with els := s.els.map (fun (p : Nat × Element) =>
      (p.1, { p.2 with ordered := p.2.ordered.filter (fun r => !((p.2.ctx r.ctx).loan == some id && r.tag.frame.toNat == f &&
        hitsFault faults (handlerIters (l.imageOf r.ctx) (handlerKey (p.2.ctx r.ctx).logical r.hnd) r.tag))) })) }

/-- Decanter firings of a frame's faulting iterations (R342 step 3): a queued trigger is withdrawn, and of one that a decanter
has begun only the completion is discarded. -/
def State.withdrawTriggers (s : State) (id f : Nat) (faults : List (List Nat × Nat)) : State :=
  match AMap.find s.loans id with
  | none => s
  | some l =>
    let hit (x : Firing) : Bool := x.loan == id && x.tag.frame.toNat == f && hitsFault faults (x.iters l)
    (List.range (l.w * l.h)).foldl (fun s b =>
      let k := l.bayKey b
      let lost := (s.bay k).fireQueue.filter hit
      if lost == [] && !(s.bay k).decanters.any (fun (p : Nat × Firing) => hit p.2) then s
      else
        let s := s.updBay k (fun y => { y with
          fireQueue := y.fireQueue.filter (fun x => !hit x)
          decanters := y.decanters.map (fun (p : Nat × Firing) => (p.1, if hit p.2 then { p.2 with halted := true } else p.2)) })
        lost.foldl (fun s x => s.gone id b x.tag (x.iters l)) s) s

/-- A frame is parked (R342, R343). `loops` are the loops around the faulting handler; `fault` is false for `TRAP`, `BRK` and
`PARK`, which have no faulting iteration. -/
def State.parkFrame (s : State) (id : Nat) (tag : Tag) (loops : List Nat) (fault : Bool) (kept : List Kept) : State :=
  let f := tag.frame.toNat
  match AMap.find s.loans id with
  | none => s
  | some l => match AMap.find l.frames f with
    | none => s
    | some fr =>
      let d := loops.length
      let new : List (List Nat × Nat) :=
        if fault ∧ d ≥ 1 ∧ loops.getD (d - 1) 0 ≠ 0 then [(tag.its (d - 1), (tag.it (d - 1)).toNat)] else []
      let p := fr.parked.getD ⟨[], [], [], []⟩
      -- of two marks of one instance the older stands (R343)
      let merged := new.foldl (fun fs n =>
        match fs.find? (fun o => o.1 == n.1) with
        | some o => if iterOlder (BitVec.ofNat 7 n.2) (BitVec.ofNat 7 o.2) then n :: fs.erase o else fs
        | none => fs ++ [n]) p.faulting
      -- what was parked before and now is of a faulting iteration is discarded
      let lost := p.tokens.filter (fun x => hitsFault merged x.2.iters)
      let p := { faulting := merged, tokens := p.tokens.filter (fun x => !hitsFault merged x.2.iters), kept := p.kept ++ kept, pages := p.pages }
      let s := s.updLoan id (fun l => { l with
        frames := AMap.put l.frames f { fr with parked := some p }
        -- faulting iterations stay in flight, without their pass bits; their deferred stores are discarded
        flights := l.flights.map (fun g =>
          if g.frame == f && hitsFault merged (l.chainOf g.loop g.frame g.its) then { g with faulting := true, pass := [] } else g)
        waves := l.waves.filter (fun v => !(v.frame == f && hitsFault merged (l.waveChain v)))
        -- the re-run receives the kept replies of its atomics (R330)
        kept := l.kept.map (fun k =>
          if k.tag.frame.toNat == f && hitsFault merged (handlerIters (l.imageOfFrame f) k.hkey k.tag) then { k with again := true } else k)
        commit := l.commit.filter (fun c => !(c.frame == f && hitsFault merged (l.chainOf c.loop c.frame c.its))) })
      let s := lost.foldl (fun s x => (s.parkGive id x.1).dropFlit (x.1 / 4) x.2) s
      let s := ((s.withdraw id f).withdrawAccs id f merged).withdrawTriggers id f merged
      match AMap.find s.loans id with
      | none => s
      | some l =>
        let (l, lost) := l.clearFaultSlots f merged
        lost.foldl (fun s x => s.ack id x.1 x.2) ({ s with loans := AMap.put s.loans id l }.dropOrdered id f merged)

/-- A frame parked by a TRANSLATE keeps the page; in a page reserved for demand the kernel maps it (R379). -/
def State.translateParked (s : State) (id f : Nat) (r : Report) : State :=
  if r.code != fTRANSLATE then s
  else
    let page := r.addr / 65536
    let s := s.updLoan id (fun l => { l with frames := l.frames.map (fun (p : Nat × Frame) =>
      (p.1, if p.1 = f then { p.2 with parked := p.2.parked.map (fun k => { k with pages := k.pages ++ [page] }) } else p.2)) })
    let space := match AMap.find s.loans id with | some l => l.slip.space | none => 0
    if s.trans.reserved.contains (space, page) && !s.agenda.any (fun x => x.2 == Instr.demandPageMap space page) then
      let (d, s) := s.drawNat
      s.later (1 + d) (.demandPageMap space page)
    else s

/-- TAKING A FAULT (R339 to R343): the record is written, and a code that stops a frame parks the frame of the tag it
carries. `loops` are the loops around the handler that made the faulting token or request (R342). -/
def State.raise (s : State) (r : Report) (loops : List Nat) (kept : List Kept) : State :=
  let there := match r.loan, r.tag with
    | some id, some t => match AMap.find s.loans id with
      | some l => (AMap.find l.frames t.frame.toNat).any (fun f => !f.released)
      | none => false
    | _, _ => false
  let parks := stopsFrame r.code && there
  let s := s.updHub (fun h => h.record (mkRecord s r parks))
  match r.loan, r.tag with
  | some id, some t =>
    if parks then (s.parkFrame id t loops (r.code != fTRAP && r.code != fBRK) kept).translateParked id t.frame.toNat r else s
  | _, _ => s

/-! ### The order of SC operations (R327, R328) -/

/-- Whether an access is an SC operation that takes its place by the order ring (R328). -/
def Access.onRing (a : Access) : Bool := a.strength == 4 && decide (3 ≤ a.scope) && !a.skip

/-- Whether an SC operation of device scope must wait for one before it in the order: an atomic that has its place and is not performed
yet (R327). -/
def State.scBehind (s : State) (id : Nat) : Bool :=
  s.hub.scOrder.contains id &&
    (s.hub.scOrder.takeWhile (fun n => n != id)).any (fun n => (AMap.find s.accs n).any (fun a => a.onRing && a.ringDone && a.stage == .issued))

/-- Whether an SC fence still waits for its place, or for an operation before it (R328). -/
def State.ringHolds (s : State) (id : Nat) : Bool := s.hub.ringWaiting.any (fun r => r.id == id) || s.scBehind id

/-! ### What an operation descends from (R212, R282, R305) -/

/-- Whether an emission is the frame-slot write of a firing or access with a number: its own number stands first. -/
def Flit.writesSlot (n : Nat) (f : Flit) : Bool :=
  match f.emit with
  | .slotWrite _ _ q => q.prior.head? == some n
  | _ => false

/-- The frame-slot writes of a loan that are not made yet: those in elements, and those that are kept with a parked frame. -/
def State.slotWrites (s : State) (id : Nat) : List Flit :=
  let mine (f : Flit) : Bool := f.loan == id && (match f.emit with | .slotWrite .. => true | _ => false)
  s.els.flatMap (fun (p : Nat × Element) =>
    p.2.pending.flatMap (fun x => (x.emits.map Prod.snd).filter mine) ++ (AMap.get p.2.out [] 5).filter mine) ++
  (match AMap.find s.loans id with
    | none => []
    | some l => (l.away.map Prod.snd).filter mine ++ l.frames.flatMap (fun (p : Nat × Frame) => match p.2.parked with
      | some k => (k.tokens.map Prod.snd).filter mine ++ k.kept.flatMap (fun x => match x with | .emit _ fs => fs.filter mine | _ => [])
      | none => []))

/-- Deferred stores of a loan that have not committed (R251). -/
def Loan.uncommitted (l : Loan) (n : Nat) : Bool := l.commit.any (fun t => t.access == n) || l.releasing.any (fun t => t.access == n)

/-- What is still to come of the deferred stores and slot writes that something descends from. -/
def State.stillPrior (s : State) (id : Nat) (p : List Nat) : List Nat :=
  if p = [] then []
  else match AMap.find s.loans id with
    | none => []
    | some l =>
      let ws := s.slotWrites id
      p.eraseDups.filter (fun n => l.uncommitted n || ws.any (Flit.writesSlot n))

/-- Whether the deferred stores that an operation descends from have committed (R282, R287): a store of one of the iterations `own` is left
out (R311). -/
def Loan.committedPrior (l : Loan) (prior : List Nat) (own : List (Nat × List Nat)) : Bool :=
  prior = [] || (l.commit ++ l.releasing).all (fun t => !prior.contains t.access || own.contains (t.frame, t.its))

/-- Key of a handler's credit in a context. -/
def creditKey (ctx hkey : Nat) : Nat := ctx * 2 ^ 20 + hkey

/-! ### Where an output goes (R37, R64) -/

/-- What a destination names in the end: a port of a handler, an exit, the sink, the park trace, a frame slot, or a
continuation entry whose `V` is 0. -/
inductive Target where
  | element (index port hnd : Nat)
  | exit (n : Nat)
  | sink
  | park
  | slot (n : Nat)
  | bad
deriving DecidableEq, Repr

/-- The target of a destination that names no continuation. -/
def directTarget : Dest → Target
  | .element i p h => .element i.toNat p.toNat h.toNat
  | .exit n => .exit n.toNat
  | .cont _ => .bad
  | .sink => .sink
  | .park => .park
  | .slot n => .slot n.toNat

/-- A destination resolved through the continuation table, index 63 by the firing's `CONT` (R37). -/
def resolve (img : Image) (d : Dest) (cont : BitVec 6) : Target :=
  match d with
  | .cont n => match AMap.find img.conts (if n = 63 then cont.toNat else n.toNat) with
    | some e => directTarget e.dest
    | none => .bad
  | d => directTarget d

/-- The note that a continuation entry gives a cell (R36); base where none is named. -/
def noteOf (img : Image) (d : Dest) (cont : BitVec 6) : BitVec 2 :=
  match d with
  | .cont n => match AMap.find img.conts (if n = 63 then cont.toNat else n.toNat) with
    | some e => e.note
    | none => 0
  | _ => 0

/-- Whether a target of an output with a tag is refused where it is made: a continuation entry whose `V` is 0 (R37), or a slot that the
tag's frame does not have (R64). -/
def Loan.refuses (l : Loan) (t : Target) (tag : Tag) : Bool :=
  match t with
  | .bad => true
  | .slot n => (AMap.find l.frames tag.frame.toNat).any (fun fr => decide (fr.nslot ≤ n))
  | _ => false

/-- The emission of an output to a target, from a handler of an element of a bay of the region; the sink takes none, and a
bad continuation makes poison that is discarded where it is made (R37). -/
def mkFlit (l : Loan) (img : Image) (loan b ctx hkey : Nat) (t : Target) (kind : Kind) (pred : Bool) (cont : BitVec 6)
    (v : W32) (tag : Tag) : Option Flit :=
  match t with
  | .element i p h => some ⟨loan, .token (Token.seal ⟨BitVec.ofNat 13 i, BitVec.ofNat 2 p, false,
      mkEntry ctx h kind pred cont v tag⟩), portIters img (handlerKey i h) p tag⟩
  | .exit n => some ⟨loan, .exit n (mkEntry ctx (hkey % 8) .exit pred cont (BitVec.ofNat 32 n) tag), handlerIters img hkey tag⟩
  | .park => some ⟨loan, .park (mkEntry ctx (hkey % 8) kind pred cont v tag), handlerIters img hkey tag⟩
  | .slot n => some ⟨loan, .slotWrite (l.bayKey b) n (mkEntry ctx (hkey % 8) kind pred cont v tag), handlerIters img hkey tag⟩
  | .sink => none
  | .bad => none

/-- The output buffer of an emission's first hop (R127): a link, the local buffer (4) or the memory buffer (5). -/
def bufferOf (l : Loan) (key : Nat) (f : Flit) : Nat :=
  match f.emit with
  | .token t | .served t | .fill t _ _ => nextDir (l.place key) (l.place (l.elKey t.el.toNat))
  | .slotWrite .. | .request _ => 5
  | .exit .. | .park _ | .capture .. => 4

/-! ### Feeds (R216, R254) -/

/-- The compute tile of a region index. -/
def tileOfIndex (index : Nat) : Nat := index % 128 / 32

/-- Key of a feed of a bay: memory tile, context, and whether it is the B feed. -/
def feedKey (tile ctx : Nat) (isB : Bool) : Nat := (tile * 4 + ctx) * 2 + (if isB then 1 else 0)

/-- A feed at reset (R254): a record of zeros, closed. -/
def Feed.empty : Feed := ⟨⟨0, false, 0, 0, 0, 0, 0⟩, false, [], [], 0, 0, 0, 0, []⟩

/-- A feed of a bay. -/
def Bay.feed (b : Bay) (k : Nat) : Feed := AMap.get b.feeds Feed.empty k

/-- A bay with a feed changed. -/
def Bay.updFeed (b : Bay) (k : Nat) (f : Feed → Feed) : Bay := { b with feeds := AMap.upd b.feeds Feed.empty k f }

/-- The memory tile whose record a `DLAY` writes (R296): tile *t* of its compute tile for A, *t* XOR 1 for B. -/
def layoutTile (index : Nat) (isB : Bool) : Nat := if isB then tileOfIndex index ^^^ 1 else tileOfIndex index

/-- Whether a loan's work has ended: an exit has stopped it, and what comes for it is discarded (R384). -/
def Loan.ended (l : Loan) : Bool := l.state != .running && l.state != .switching && l.state != .saving && l.state != .switchedOut

/-! ### Tokens from outside an element (R41, R245) -/

/-- Entries in order of when each is there. -/
def outsidePut : List (Nat × Flit) → Nat → Flit → List (Nat × Flit)
  | [], t, f => [(t, f)]
  | (u, g) :: rest, t, f => if t < u then (t, f) :: (u, g) :: rest else (u, g) :: outsidePut rest t f

/-- The bay of a region that a place lies in. -/
def Loan.bayOfEl (l : Loan) (index : Nat) : Nat := index / 128 % (l.w * l.h)

/-- An exit token on its way to the exit logic in bay 0 (R205, R384). -/
def State.sendExit (s : State) (loan index hnd n d : Nat) : State :=
  (s.updLoan loan (fun l => { l with exits := l.exits ++ [(s.cycle + d, index, hnd, n)] })).later d (.exitTaken loan)

/-- An emission that enters the fabric from outside an element in `d` cycles: a token reaches its destination element's
side, an exit token the exit logic, a park token the trace, a slot write its slot's memory buffer. `index` is the element
of the region that it comes from, for what does not name one. A loan that is switched out gets it when it is restored (R312). -/
def State.inject (s : State) (d index : Nat) (f : Flit) : State :=
  match AMap.find s.loans f.loan with
  | none => s
  | some l =>
    if l.state == .saving || l.state == .switchedOut then s.updLoan f.loan (fun l => { l with away := l.away ++ [(index, f)] })
    else match f.emit with
    | .token t | .served t | .fill t _ _ =>
      let k := l.elKey t.el.toNat
      (s.updEl k (fun e => { e with outside := outsidePut e.outside (s.cycle + d) f })).later d (.tokenArrive k .outside)
    | .exit n q => s.sendExit f.loan index q.hnd.toNat (q.ctx.toNat * 8 + n) (d + l.hops (index / 128) + 1)
    | .park q =>
      (s.updBay (l.bayKey (index / 128)) (fun b => { b with parkTrace := (b.parkTrace ++ [q]).drop (b.parkTrace.length + 1 - 16) })).dropFlit
        (index / 128) f
    | .slotWrite .. =>
      let k := l.elKey index
      (s.updEl k (fun e => { e with out := AMap.upd e.out [] 5 (· ++ [f]) })).later d (.frameSlotWrite k)
    | .capture .. | .request _ => s

/-- A reply, completion or answer of an operation of a handler (R245): its emission is born and comes in `d` cycles; through
a continuation entry whose `V` is 0, or for a slot that its frame does not have, it is poison and raises ILLEGAL_HANDLER (R37, R64).
`prior` is what it descends from. -/
def State.answer (s : State) (loan index ctx hnd d : Nat) (dest : Dest) (kind : Kind) (pred : Bool) (cont : BitVec 6) (v : W32)
    (tag : Tag) (prior : List Nat) : State :=
  match AMap.find s.loans loan with
  | none => s
  | some l =>
    let img := l.imageOf ctx
    let t := resolve img dest cont
    if l.refuses t tag then s.raise { Report.of fILLEGAL with loan := some loan, el := some (l.elKey index), ctx := ctx, hnd := hnd, tag := some tag }
        (hinfoOf img (handlerKey index hnd)).counted []
    else match mkFlit l img loan (index / 128) ctx (handlerKey index hnd) t kind pred cont v tag with
      | none => s
      | some f => (s.born loan tag f.iters).inject d index (f.withPrior prior)

end Machine
end Sys2Proof
end

