-- ==== Sys2Proof/Machine/Trans.lean ====
section
/-! DEFINITION. Translation (R243, R244): the walk of the radix table, the TLBs, and reads and writes of device memory through
an address space. -/
namespace Sys2Proof.Machine

/-- A page: its physical address, its size in units of 64 KiB, and whether stores and atomics are allowed. -/
structure Page where
  phys : Nat
  units : Nat
  wr : Bool
deriving DecidableEq, Repr

/-- Units of 64 KiB that a leaf at a level maps (R243). -/
def levelUnits (level : Nat) : Nat := if level = 1 then 2 ^ 18 else if level = 2 then 2 ^ 9 else 1

/-- A walk from a table through the levels that are left: the page, or the level that failed (R243). -/
def walkFrom (m : List Host.Cell) (va : Nat) : List Nat → Nat → Except Nat Page
  | [], _ => .error 3
  | level :: rest, table =>
    let e := (readW64 m (table + 8 * (va / 2 ^ (43 - 9 * level) % 512))).toNat
    let addr := e % 2 ^ 52 / 4096 * 4096
    let leaf := e / 2 % 2 = 1
    if e % 2 = 0 ∨ e % 4096 / 8 ≠ 0 ∨ e / 2 ^ 52 ≠ 0 then .error level
    else if leaf then
      (if level = 0 ∨ addr % (65536 * levelUnits level) ≠ 0 then .error level
      else .ok ⟨addr, levelUnits level, e / 4 % 2 == 1⟩)
    else if level = 3 then .error level
    else walkFrom m va rest addr

/-- The walk of an address in an address space (R243). -/
def walk (s : State) (space va : Nat) : Except Nat Page := walkFrom s.mem va [0, 1, 2, 3] (AMap.get s.trans.roots 0 space)

/-- The physical address of an address within its page. -/
def Page.addr (p : Page) (va : Nat) : Nat := p.phys + va % (65536 * p.units)

/-- The physical address of a virtual one, from the tables alone. -/
def State.physOf (s : State) (space va : Nat) : Option Nat :=
  match walk s space va with | .ok p => some (p.addr va) | .error _ => none

/-- The pieces of a range of addresses, page by page: address and length. -/
def pagePieces : Nat → Nat → Nat → List (Nat × Nat)
  | 0, _, _ => []
  | fuel + 1, va, n =>
    if n = 0 then []
    else let k := min n (65536 - va % 65536); (va, k) :: pagePieces fuel (va + k) (n - k)

/-- The pieces of a range, whole. -/
def rangePieces (va n : Nat) : List (Nat × Nat) := pagePieces (n / 65536 + 2) va n

/-- Bytes read through an address space; `none` when a page is unmapped. -/
def State.readVirt (s : State) (space va n : Nat) : Option (List Byte) :=
  (rangePieces va n).foldl (fun acc p => match acc, s.physOf space p.1 with
    | some bs, some a => some (bs ++ readBytes s.mem a p.2)
    | _, _ => none) (some [])

/-- Bytes written through an address space; `none` when a page is unmapped or allows no store. -/
def State.writeVirt (s : State) (space va : Nat) (bs : List Byte) : Option State :=
  ((rangePieces va bs.length).foldl (fun acc p => match acc with
    | none => none
    | some (s, rest) => match walk s space p.1 with
      | .ok g => if g.wr then some ({ s with mem := writeBytes s.mem (g.addr p.1) (rest.take p.2) }, rest.drop p.2) else none
      | .error _ => none) (some (s, bs))).map Prod.fst

/-- Whether every page of a range is mapped (R113). -/
def State.mapped (s : State) (space va n : Nat) : Bool := (rangePieces va n).all (fun p => (s.physOf space p.1).isSome)

/-! ### TLBs (R244) -/

/-- The entry of a TLB that translates a page of a space. -/
def tlbFind (es : List TlbEntry) (space page : Nat) : Option TlbEntry :=
  es.find? (fun e => e.space == space && decide (e.page ≤ page) && decide (page < e.page + e.pages))

/-- The entry of a page that a walk has found. -/
def tlbEntry (space page : Nat) (p : Page) : TlbEntry := ⟨space, page / p.units * p.units, p.units, p.phys, p.wr, false⟩

/-- A TLB with an entry put in front, the least recently used one leaving when it is full; a locked one is never replaced (R113, R244). -/
def tlbPut (cap : Nat) (es : List TlbEntry) (e : TlbEntry) : List TlbEntry :=
  if es.any (fun x => x.locked && x.space == e.space && x.page == e.page) then es else
  let es := e :: es.filter (fun x => !(x.space == e.space && x.page == e.page))
  if es.length ≤ cap then es
  else match es.reverse.find? (fun x => !x.locked) with
    | some v => es.erase v
    | none => es.take cap

/-- Key of a window's micro-TLB. -/
def microKey (loan win : Nat) : Nat := loan * 64 + win

/-- The page of a TLB entry. -/
def TlbEntry.page' (e : TlbEntry) : Page := ⟨e.phys, e.pages, e.wr⟩

/-- A translation brought into a window's micro-TLB from its die's unit, with the translations of the next three pages at
the stride of the window's last two misses (R244). -/
def State.refillTlb (s : State) (die loan win space page : Nat) (e : TlbEntry) : State :=
  let key := microKey loan win
  let (last, _) := AMap.get s.trans.lastMiss (page, 0) key
  let strides : List Nat := if last < page then (List.range 3).map (fun i => page + (i + 1) * (page - last))
    else if page < last then (List.range 3).filterMap (fun i => if (i + 1) * (last - page) ≤ page then some (page - (i + 1) * (last - page)) else none)
    else []
  let more := strides.filterMap (fun p => match walk s space (p * 65536) with
    | .ok g => if p < 2 ^ 36 then some (tlbEntry space p g) else none
    | .error _ => none)
  let dieEs := (e :: more).foldl (tlbPut 32768) (AMap.get s.trans.dieTlb [] die)
  let micro := (more ++ [e]).foldl (tlbPut 16) (AMap.get s.trans.micro [] key)
  { s with trans := { s.trans with
      dieTlb := AMap.put s.trans.dieTlb die dieEs
      micro := AMap.put s.trans.micro key micro
      lastMiss := AMap.put s.trans.lastMiss key (page, last) } }

/-! ### Homes (R124, R259) -/

/-- The 64 KiB chunk of a physical address. -/
def chunkOf (phys : Nat) : Nat := phys / 65536

/-- Whether a physical address belongs to another device of the domain (R16). -/
def isRemote (phys : Nat) : Bool := Config.remoteChunk (chunkOf phys)

/-- The die on which a physical address is homed; for one of another device, a die with hub bridges (R261). -/
def homeDie (phys : Nat) : Nat :=
  let d := Config.homeDie (chunkOf phys)
  if isRemote phys then d % 2 * 2 else d % 4

/-- Chunks of stacked DRAM, and of all DRAM, of a compute die (R1). -/
def stackedPerDie : Nat := Config.stackedChunks / 4
@[inherit_doc stackedPerDie] def chunksPerDie : Nat := (Config.stackedChunks + Config.moduleChunks) / 4

/-- Whether a chunk lies in stacked DRAM. -/
def State.inStacked (s : State) (c : Nat) : Bool := decide (Config.chunkPlace c % chunksPerDie < stackedPerDie) != s.trans.moved.contains c

/-- The port towards a physical address: a vault of stacked DRAM, a channel of LPDDR6 (R259), or a hub bridge towards another device
(R261). -/
def State.homePort (s : State) (phys : Nat) : Nat :=
  let c := chunkOf phys
  if isRemote phys then 232 + Config.homePort c % 8
  else if s.inStacked c then 128 + Config.homePort c % 64 else 192 + Config.homePort c % 16

/-- One more access of its epoch counted (R124); chunks of other devices are theirs to count. -/
def State.countChunk (s : State) (phys : Nat) : State :=
  if isRemote phys then s
  else { s with trans := { s.trans with counts := AMap.upd s.trans.counts 0 (chunkOf phys) (· + 1) } }

/-- Whether a chunk of some bytes of physical memory moves (R125). -/
def State.chunkMoves (s : State) (phys n : Nat) : Bool :=
  (List.range (n / 65536 + 2)).any (fun i => decide (65536 * (chunkOf phys + i) < phys + max n 1) && (AMap.find s.trans.moving (chunkOf phys + i)).isSome)

end Sys2Proof.Machine
end

