-- ==== Sys2Proof/Machine/Circ.lean ====
section
/-! DEFINITION. The Circulation and the timelines (R87 to R108): reading and checking slips, holds and their latches, release
and its order, increments and waits, and the pool guards (R335, R336). -/
namespace Sys2Proof.Machine

/-! ### Slips (R87 to R89) -/

/-- A little-endian field of some bytes. -/
def field (bs : List Byte) (off n : Nat) : Nat := leNat ((bs.drop off).take n)

/-- A timeline and a 48-bit threshold or increment. -/
def pairField (bs : List Byte) (off : Nat) : BitVec 16 × Nat := (BitVec.ofNat 16 (field bs off 2), field bs (off + 2) 6)

/-- The checks of a slip in ascending byte offset: offset, `REASON`, and whether the field is right (R87 to R89). -/
def slipChecks (bs : List Byte) : List (Nat × Nat × Bool) :=
  let w := field bs 8 1
  let h := field bs 9 1
  let np := field bs 10 1
  let fl := field bs 11 1
  let na := field bs 14 1
  [(0, 0x06, field bs 0 8 % 64 == 0 && decide (field bs 0 8 < 2 ^ 52)),
   (8, 0x03, decide (1 ≤ w) && decide (w ≤ 16)),
   (9, 0x03, decide (1 ≤ h) && decide (h ≤ 8) && decide (w * h ≤ 64)),
   (10, 0x06, np % 4 != 3 && np / 4 % 4 == 0),
   (11, 0x06, decide (fl % 8 ≤ 4) && decide (fl < 32)),
   (14, 0x06, decide (na ≤ 12))] ++
  ((List.range 4).filter (fun i => decide (fl % 8 ≤ i))).map (fun i => (16 + 8 * i, 0x06, field bs (16 + 8 * i) 8 == 0)) ++
  [(48, 0x06, fl / 8 % 2 == 1 || field bs 48 8 == 0)] ++
  ((List.range 12).filter (fun i => decide (na ≤ i))).map (fun i => (56 + 4 * i, 0x06, field bs (56 + 4 * i) 4 == 0)) ++
  [(104, 0x06, field bs 104 1 == 0),
   (120, 0x06, field bs 120 8 % 128 == 0 && decide (field bs 120 8 < 2 ^ 52))]

/-- Where a slip comes from: its address space (R90), whether the source grants the privilege right (R91), the dies it may
be lent on (R337), and the slip whose record released it (R93). -/
structure Origin where
  space : Nat
  grants : Bool
  dies : BitVec 4
  handlerOf : Option Nat
deriving DecidableEq, Repr

/-- The slip of 128 bytes. -/
def slipOf (bs : List Byte) (o : Origin) : Slip :=
  let np := field bs 10 1
  let fl := field bs 11 1
  let save := field bs 104 8
  { cfg := field bs 0 8
    w := field bs 8 1
    h := field bs 9 1
    note := BitVec.ofNat 2 np
    prio := BitVec.ofNat 4 (np / 16)
    cmpv := fl / 8 % 2 == 1
    privr := fl / 16 % 2 == 1
    wing := BitVec.ofNat 16 (field bs 12 2)
    mstore := field bs 15 1
    holds := (List.range (fl % 8)).map (fun i => pairField bs (16 + 8 * i))
    cmp := pairField bs 48
    args := (List.range (field bs 14 1)).map (fun i => BitVec.ofNat 32 (field bs (56 + 4 * i) 4))
    save := save % 2 ^ 52
    annex := save / 2 ^ 52
    sid := BitVec.ofNat 64 (field bs 112 8)
    fhs := field bs 120 8
    space := o.space
    priv := fl / 16 % 2 == 1 && o.grants
    dies := o.dies
    handlerOf := o.handlerOf }

/-- A slip checked (R89): the slip, or the `REASON` and offset of its first offending field. -/
def checkSlip (bs : List Byte) (o : Origin) : Except (Nat × Nat) Slip :=
  match (slipChecks bs).find? (fun c => !c.2.2) with
  | some (off, reason, _) => .error (reason, off)
  | none => .ok (slipOf bs o)

/-- `DETAIL` of a CFG_REJECT record (R75). -/
def cfgDetail (reason sect entry offset : Nat) : W64 :=
  BitVec.ofNat 64 (reason + sect % 16 * 2 ^ 8 + entry % 2 ^ 16 * 2 ^ 16 + offset % 2 ^ 32 * 2 ^ 32)

/-- The record of a refused slip (R89): it releases no fault-handler slip. -/
def State.refuseSlip (s : State) (bs : List Byte) (reason off : Nat) : State :=
  s.updHub (fun h => h.record (mkRecord s { Report.of fCFG with detail := cfgDetail reason 0 0xFFFF off, sid := BitVec.ofNat 64 (field bs 112 8) } false))

/-! ### Holds and release (R96 to R98) -/

/-- The value of a timeline. -/
def State.timeline (s : State) (t : Nat) : Nat := (AMap.get s.hub.timelines 0 t).toNat

/-- The order of released slips (R98): `PRIO`, release, then rank. -/
def releasedBefore (a b : Released) : Bool :=
  decide (b.slip.prio.toNat < a.slip.prio.toNat) ||
    (a.slip.prio == b.slip.prio && (decide (a.cycle < b.cycle) || (a.cycle == b.cycle && decide (a.rank < b.rank))))

/-- A released slip put in its place. -/
def releasedPut (x : Released) : List Released → List Released
  | [] => [x]
  | y :: ys => if releasedBefore x y then x :: y :: ys else y :: releasedPut x ys

/-- A slip is released (R97). -/
def Hub.release (h : Hub) (now rank : Nat) (slip : Slip) : Hub :=
  { h with released := releasedPut ⟨slip, now, rank, none, now, false⟩ h.released }

/-- Ranks of releases in one cycle (R98). -/
def rankWatch (n : Nat) : Nat := n
@[inherit_doc rankWatch] def rankHandler (seq : Nat) : Nat := 2 ^ 80 + seq
@[inherit_doc rankWatch] def rankPool (guard launch : Nat) : Nat := 2 ^ 160 + guard * 2 ^ 64 + launch
@[inherit_doc rankWatch] def rankQueue (n : Nat) : Nat := 2 ^ 240 + n
@[inherit_doc rankWatch] def rankLaunch (key : Nat) : Nat := 2 ^ 320 + key

/-- Entries of the pool that no slip and no launch in progress holds; 64 of the 16,384 are kept for management slips
(R96, R105). -/
def Hub.freeHolds (h : Hub) : Nat := 16320 - ((h.holds.filter (fun e => !e.2.management)).length + h.launches.length)

/-- Whether a management slip finds the entry reserved for its watch free (R96). -/
def Hub.reservedFree (h : Hub) (rank : Nat) : Bool := decide (rank < 64) && !h.holds.any (fun e => e.2.management && e.2.source == rank)

/-- A slip that has passed R89 is accepted (R97): released at once, or into an entry; `none` when no entry is free. A management slip takes
the entry reserved for its watch, and while that is occupied one of the others, as any slip does (DESIGN CHOICE, log 151: R96 reserves one
entry for each watch and is silent on a second slip of it). -/
def State.accept (s : State) (slip : Slip) (rank : Nat) (reserved : Bool) : Option State :=
  let latched := slip.holds.map (fun h => decide (h.2 ≤ s.timeline h.1.toNat))
  if latched.all id then some (s.updHub (fun h => h.release s.cycle rank slip))
  else if s.hub.reservedFree rank || reserved || 0 < s.hub.freeHolds then
    let (n, s) := s.fresh
    some (s.updHub (fun h => { h with holds := AMap.put h.holds n ⟨slip, latched, rank, h.reservedFree rank⟩ }))
  else none

/-- A slip that the hub releases for the device: it waits in the hub while no entry is free (R96). -/
def State.acceptOrWait (s : State) (slip : Slip) (rank : Nat) : State :=
  match s.accept slip rank false with
  | some s => s
  | none => s.updHub (fun h => { h with waitingSlips := h.waitingSlips ++ [(rank, slip)] })

/-- The slip at an address of a space, with its bytes; `none` when it is unmapped. -/
def State.readSlip (s : State) (va : Nat) (o : Origin) : Option (List Byte × Except (Nat × Nat) Slip) :=
  (s.readVirt o.space va 128).map (fun bs => (bs, checkSlip bs o))

/-! ### Pool guards (R335, R336) -/

/-- The bytes of a template with some of its fields set. -/
def setBytes (bs : List Byte) (off : Nat) (xs : List Byte) : List Byte := bs.take off ++ xs ++ bs.drop (off + xs.length)

/-- A hold or completion entry. -/
def pairBytes (t v : Nat) : List Byte := leBytes 2 t ++ leBytes 6 v

/-- The copy of the flush template that a launch releases. -/
def flushCopy (p : Pool) (bs : List Byte) (e n : Nat) : List Byte :=
  let bs := setBytes bs 14 [2]
  let bs := setBytes (setBytes bs 56 (leBytes 4 e)) 60 (leBytes 4 n)
  let bs := setBytes bs 11 [BitVec.ofNat 8 (field bs 11 1 / 16 * 16 + 9)]
  setBytes (setBytes bs 16 (pairBytes (p.rowtl + e) n)) 48 (pairBytes p.flushtl 1)

/-- The copy of the done template. -/
def doneCopy (p : Pool) (bs : List Byte) : List Byte :=
  let bs := setBytes bs 11 [BitVec.ofNat 8 (field bs 11 1 / 16 * 16 + 2)]
  setBytes (setBytes bs 16 (pairBytes p.flushtl p.count)) 24 (pairBytes p.drainTl p.drainTh)

/-- A copy of a template accepted in the space that the guard was armed from. -/
def State.acceptCopy (s : State) (p : Pool) (rank : Nat) (bs : List Byte) : State :=
  match checkSlip bs ⟨p.space, false, 0xF, none⟩ with
  | .ok slip => s.acceptOrWait slip rank
  | .error (reason, off) => s.refuseSlip bs reason off

/-- The physical address of an expert's counter; the array lies in one chunk (R335). -/
def State.poolWord (s : State) (p : Pool) (e : Nat) : Option Nat := s.physOf p.space (p.cnt + 4 * e)

/-- The count of an expert, and whether it is held (R336). -/
def State.poolCount (s : State) (p : Pool) (e : Nat) : Nat :=
  match s.poolWord p e with | some a => (readW32 s.mem a).toNat | none => 0
@[inherit_doc State.poolCount] def State.poolHeld (s : State) (p : Pool) : List Nat :=
  (List.range p.nexp).filter (fun e => s.poolCount p e != 0 && !p.launched.contains e)

/-- The launch of an expert: its counter closed and a copy of the flush template released (R336). -/
def State.poolLaunch (s : State) (g e : Nat) : State :=
  match AMap.find s.hub.pools g with
  | none => s
  | some p => match s.poolWord p e with
    | none => s
    | some a =>
      let n := (readW32 s.mem a).toNat
      let s := { s with mem := writeW32 s.mem a (BitVec.ofNat 32 p.bound) }
      let p' := { p with launched := p.launched ++ [e], count := p.count + 1 }
      let s := s.updHub (fun h => { h with pools := AMap.put h.pools g p' })
      match s.readVirt p.space p.flush 128 with
      | some bs => s.acceptCopy p (rankPool g p.count) (flushCopy p bs e n)
      | none => s

/-- The held expert with the largest count; of equals the lowest. -/
def State.poolFullest (s : State) (p : Pool) : List Nat → Option Nat
  | [] => none
  | e :: es => match s.poolFullest p es with
    | none => some e
    | some x => if s.poolCount p e < s.poolCount p x then some x else some e

/-- After a round with a successful claim: the fullest buffers are launched while more are held than there are pages. -/
def State.poolRound (s : State) (g : Nat) : Nat → State
  | 0 => s
  | fuel + 1 => match AMap.find s.hub.pools g with
    | none => s
    | some p =>
      let held := s.poolHeld p
      if p.npage < held.length then
        match s.poolFullest p held with
        | some e => (s.poolLaunch g e).poolRound g fuel
        | none => s
      else s

/-- The drain (R336): every held buffer is launched, the done slip is released, and the guard is disarmed. -/
def State.poolDrain (s : State) (g : Nat) : State :=
  match AMap.find s.hub.pools g with
  | none => s
  | some p =>
    if s.timeline p.drainTl < p.drainTh then s
    else
      let s := (s.poolHeld p).foldl (fun s e => s.poolLaunch g e) s
      match AMap.find s.hub.pools g with
      | none => s
      | some p =>
        let s := s.updHub (fun h => { h with pools := AMap.del h.pools g })
        match s.readVirt p.space p.done 128 with
        | some bs => s.acceptCopy p (rankPool g p.count) (doneCopy p bs)
        | none => s

/-- The guards after a round of claims to a word of memory. -/
def State.poolsAfter (s : State) (phys : Nat) : State :=
  s.hub.pools.foldl (fun s (p : Nat × Pool) =>
    match s.physOf p.2.space p.2.cnt with
    | some a => if a ≤ phys ∧ phys < a + 4 * p.2.nexp then s.poolRound p.1 64 else s
    | none => s) s

/-! ### Timelines (R99 to R102) -/

/-- Cycles of a timeline operation from a die (R108). -/
def timelineCycles (die : Nat) : Nat := if die = 0 ∨ die = 2 then 80 else 104

/-- Cycles for which an operation on a timeline waits for the unit, which performs one a cycle on each (R100). -/
def State.tlTurn (s : State) (t : Nat) : Nat := AMap.get s.hub.tlNext 0 t - s.cycle

/-- An operation takes its turn at the unit (R100). -/
def State.tlTake (s : State) (t : Nat) : State :=
  s.updHub (fun h => { h with tlNext := AMap.put (h.tlNext.filter (fun p => decide (s.cycle < p.2))) t (s.cycle + s.tlTurn t + 1) })

/-- A hold entry after a change of a timeline: holds that are met are latched (R97). -/
def HoldEntry.latch (e : HoldEntry) (t v : Nat) : HoldEntry :=
  { e with latched := (e.slip.holds.zip e.latched).map (fun p => p.2 || (p.1.1.toNat == t && decide (p.1.2 ≤ v))) }

/-- The operand of an emission set, in its form. -/
def Flit.withOperand (f : Flit) (v : W32) : Flit :=
  match f.emit with
  | .token t => { f with emit := .token (Token.seal { t with q := { t.q with operand := v } }) }
  | .park q => { f with emit := .park { q with operand := v } }
  | .slotWrite b n q => { f with emit := .slotWrite b n { q with operand := v } }
  | _ => f

/-- The holds and waits on a timeline are re-evaluated (R97, R101, R102, R106): the answer of a wait that is met comes an operation's time
after the operation that met it (R108). -/
def State.reevaluate (s : State) (t : Nat) : State :=
  let v := s.timeline t
  let holds := s.hub.holds.map (fun (p : Nat × HoldEntry) => (p.1, p.2.latch t v))
  let (done, wait) := holds.partition (fun (p : Nat × HoldEntry) => p.2.latched.all id)
  let s := s.updHub (fun h => { h with holds := wait })
  let s := done.foldl (fun s (p : Nat × HoldEntry) => s.updHub (fun h => h.release s.cycle p.2.source p.2.slip)) s
  let met := s.hub.waits.filter (fun (p : Nat × TlWait) => !p.2.met && p.2.timeline == t && decide (p.2.threshold ≤ v))
  met.foldl (fun s (p : Nat × TlWait) =>
    let die := match AMap.find s.loans p.2.loan with | some l => l.die | none => 0
    (s.updHub (fun h => { h with waits := AMap.put h.waits p.1 { p.2 with met := true, flit := p.2.flit.map (fun f => f.withOperand (BitVec.ofNat 32 v)) } })).later
      (timelineCycles die + (s.tlTurn t - 1)) (.tlwaitMet p.1)) s

/-- A timeline set to a value (R102) in its turn at the unit, with what hangs on it: holds, waits, and pool guards that drain. -/
def State.setTimeline (s : State) (t : Nat) (v : W64) : State :=
  let s := (s.tlTake t).updHub (fun h => { h with timelines := AMap.put h.timelines t v })
  let s := s.reevaluate t
  s.hub.pools.foldl (fun s (p : Nat × Pool) => if p.2.drainTl = t then s.poolDrain p.1 else s) s

/-- A timeline incremented, saturating (R101); the report is what a TL_SATURATE record says of the operation. -/
def State.incTimeline (s : State) (t i : Nat) (r : Report) : State :=
  let v := s.timeline t + i
  if v < 2 ^ 64 then s.setTimeline t (BitVec.ofNat 64 v)
  else
    let s := s.updHub (fun h => h.record (mkRecord s { r with code := fTLSAT, detail := BitVec.ofNat 64 t } false))
    s.setTimeline t (BitVec.ofNat 64 (2 ^ 64 - 1))

end Sys2Proof.Machine
end

