-- ==== Sys2Proof/Machine/Operands.lean ====
section
/-! DEFINITION. How a handler's operands meet (R58 to R61, R132, R135, R139, R140, R141): immediates, the heads of queues,
the ready list, accords and start triggers; and what a firing takes from where. -/
namespace Sys2Proof.Machine

/-! ### Immediates (R58, R164, R185) -/

/-- A number of `n` bits sign-extended to a word. -/
def signExtend32 (n v : Nat) : W32 := BitVec.ofInt 32 (signedLane n (v % 2 ^ n))

/-- A value's low lane bits in every lane. -/
def spread (t : Ty) (v : Nat) : W32 := BitVec.ofNat 32 (packLanes t.width (List.replicate t.lanes v))

/-- The immediate operand `b` in `n` bits (R58): 20, or 16 when `P` or `W` is set. -/
def immOperand (t : Ty) (n v : Nat) : W32 :=
  match t with
  | .i32 | .n32 | .b32 => signExtend32 n v
  | .f32 => BitVec.ofNat 32 (v % 2 ^ n * 2 ^ (32 - n))
  | .bf16x2 | .f16x2 => spread t v
  | _ => spread t v

/-- The immediate of a "D, or I" instruction in format I (R58, R61). -/
def fdiImm (h : Hdr) (b : FI) : W32 :=
  if h.fP || h.fW then immOperand h.ty 16 (b.imm.toNat / 16) else immOperand h.ty 20 b.imm.toNat

/-- `ICMP`'s immediate, a 16-bit one (R164). -/
def icmpImm (h : Hdr) (b : FI) : W32 := immOperand h.ty 16 (b.imm.toNat / 16)

/-- The sync queue of a word with `P` or `W` (R61). -/
def sqOfD (b : FD) : Nat := match b.d1 with | .sq n => n.toNat | .dest _ => 0
@[inherit_doc sqOfD] def sqOfI (b : FI) : Nat := b.imm.toNat % 16

/-- The second destination of format D, if the word has one (R57, R61). -/
def dest1Of (b : FD) : Option Dest := match b.d1 with | .sq _ => none | .dest d => some d

/-- Ports that a handler reads (R60). -/
def portsRead (h : Hdr) : List Nat :=
  match h.arity.toNat with
  | 0 => []
  | 1 => [0]
  | 2 => if h.fI then [0] else [0, 1]
  | _ => [0, 1, 2]

/-! ### What a firing takes -/

/-- Where the operands of a firing come from. -/
inductive Source where
  | queues (takes : List (Nat × Nat))
  | ready (i : Nat)
  | accord (i : Nat)
  | trigger (i : Nat)
deriving DecidableEq, Repr

/-- The operands of a firing: queue entries by port, in ascending port, with the tag of port `a`, `CONT` of the first,
whether all are live (R141), where they come from, the cells of an accord, and the first tag that differs (R132). -/
structure Got where
  ops : List (Nat × QEntry)
  tag : Tag
  cont : BitVec 6
  live : Bool
  src : Source
  cells : List (Nat × Cell)
  mismatch : Option Tag
  /-- Ports whose sticky token this firing uses for the first time and leaves (R61). -/
  firstSticky : List Nat
  /-- What the firing descends from and is still to come (R212, R282). -/
  prior : List Nat
deriving DecidableEq, Repr

/-- What an attempt to gather finds: nothing, an end-of-stream token at a head, or the operands. -/
inductive Gather where
  | none
  | eos (port : Nat) (q : QEntry)
  | ok (g : Got)
deriving DecidableEq, Repr

/-- The operand word on a port; 0 where there is none. -/
def Got.op (g : Got) (p : Nat) : W32 := match g.ops.find? (fun x => x.1 == p) with | some x => x.2.operand | none => 0

/-- The queue entry on a port. -/
def Got.entry (g : Got) (p : Nat) : Option QEntry := (g.ops.find? (fun x => x.1 == p)).map Prod.snd

/-- The head of a queue when it selects a handler (R132). -/
def headFor (pl : Plane) (p hnd : Nat) : Option QTok :=
  match pl.queue p with
  | t :: _ => if t.e.hnd.toNat = hnd then some t else none
  | [] => none

/-- The lowest of some ports whose head is an end-of-stream token for a handler (R159, R191). -/
def eosAt (pl : Plane) (hnd : Nat) : List Nat → Option (Nat × QEntry)
  | [] => none
  | p :: ps => match headFor pl p hnd with
    | some t => if t.e.kind = .eos then some (p, t.e) else eosAt pl hnd ps
    | none => eosAt pl hnd ps

/-- The heads of some ports, all selecting a handler. -/
def headsFor (pl : Plane) (hnd : Nat) : List Nat → Option (List (Nat × QTok))
  | [] => some []
  | p :: ps => match headFor pl p hnd, headsFor pl hnd ps with
    | some t, some ts => some ((p, t) :: ts)
    | _, _ => none

/-- Whether the sticky token at the head of `b` serves its last firing: a further token for the handler stands behind it
(R61). -/
def stickyEnds (pl : Plane) (hnd : Nat) : Bool := ((pl.queue 1).drop 1).any (fun t => t.e.hnd.toNat == hnd)

/-- The queue mode of R132, with the sticky operand of R61. -/
def gatherQueue (pl : Plane) (hnd : Nat) (ports : List Nat) (sticky : Bool) : Gather :=
  match eosAt pl hnd ports with
  | some (p, q) => .eos p q
  | none => match headsFor pl hnd ports with
    | none => .none
    | some [] => .none
    | some ((p0, t0) :: rest) =>
      let ts := (p0, t0) :: rest
      let stays := sticky && !stickyEnds pl hnd
      let takes := (ts.filter (fun x => !(stays && x.1 == 1))).map (fun x => (x.1, 0))
      let compared := rest.filter (fun x => !(sticky && x.1 == 1))
      .ok { ops := ts.map (fun x => (x.1, x.2.e))
            tag := t0.e.tag
            cont := t0.e.cont
            live := ts.all (fun x => x.2.e.pred)
            src := .queues takes
            cells := []
            mismatch := (compared.find? (fun x => x.2.e.tag != t0.e.tag)).map (fun x => x.2.e.tag)
            firstSticky := (ts.filter (fun x => stays && x.1 == 1 && !x.2.served)).map Prod.fst
            prior := [] }

/-- The oldest of the ready firings that a list of places names (R131). -/
def oldestReady (l : Loan) : List (Nat × Ready) → Option (Nat × Ready)
  | [] => none
  | x :: xs => match oldestReady l xs with
    | none => some x
    | some y => if tagOlder l y.2.tag x.2.tag then some y else some x

/-- The frame mode of R135: the oldest ready firing (R131), or an end-of-stream token at a head when none is ready. -/
def gatherFrame (e : Element) (l : Loan) (c hnd : Nat) (ports : List Nat) : Gather :=
  let mine := (e.ready.zipIdx.filter (fun x => x.1.ctx == c && x.1.hnd == hnd)).map (fun x => (x.2, x.1))
  match oldestReady l mine with
  | some (i, r) =>
    .ok { ops := r.ops, tag := r.tag
          cont := match r.ops with | (_, q) :: _ => q.cont | [] => 0
          live := r.ops.all (fun x => x.2.pred)
          src := .ready i, cells := [], mismatch := none, firstSticky := [], prior := [] }
  | none => match eosAt (e.active c) hnd ports with
    | some (p, q) => .eos p q
    | none => .none

/-- Whether a cell's completion carries `PRED` 1 (R55). -/
def Cell.anyLive (c : Cell) : Bool := c.live != 0

/-- The oldest of the complete accords that a list of places names (R131); of equal tags the first. -/
def oldestAccord (l : Loan) : List (Nat × ReadyAccord) → Option (Nat × ReadyAccord)
  | [] => none
  | x :: xs => match oldestAccord l xs with
    | none => some x
    | some y => if tagOlder l y.2.tag x.2.tag then some y else some x

/-- The accord mode of R139: one operand a cell, `SPOS` × 256, in ascending port; of several complete accords the oldest (R131). -/
def gatherAccord (b : Bay) (l : Loan) (key c hnd : Nat) : Gather :=
  match oldestAccord l ((b.readyAccords.zipIdx.filter (fun x => x.1.el == key && x.1.ctx == c && x.1.hnd == hnd)).map (fun x => (x.2, x.1))) with
  | none => .none
  | some (i, r) =>
    .ok { ops := r.cells.map (fun (p, x) => (p, { mkEntry c hnd .data (Cell.anyLive x) x.cont (x.spos <<< 8) r.tag with prior := r.prior }))
          tag := r.tag
          cont := match r.cells with | (_, x) :: _ => x.cont | [] => 0
          live := r.cells.all (fun x => Cell.anyLive x.2)
          src := .accord i, cells := r.cells, mismatch := none, firstSticky := [], prior := [] }

/-- The trigger mode of R140: the oldest start trigger of the handler; always live. -/
def gatherTrigger (x : ElCtx) (hnd : Nat) : Gather :=
  match x.triggers.zipIdx.find? (fun t => t.1.1 == hnd) with
  | none => .none
  | some (t, i) => .ok ⟨[], t.2, 0, true, .trigger i, [], none, [], []⟩

/-! ### Consumption -/

/-- Removes the entry at a place. -/
def removeAt {α : Type} : List α → Nat → List α
  | [], _ => []
  | _ :: xs, 0 => xs
  | x :: xs, n + 1 => x :: removeAt xs n

/-- Whether the token at the head of `b` of a plane is a sticky operand (R61): one that has served, or one for a handler with `K` of the
context that the plane is active in. -/
def Element.sticky (e : Element) (i : Nat) (t : QTok) : Bool :=
  let x := e.ctx t.e.ctx.toNat
  t.served || (x.plane == some i && t.e.kind == .data && (AMap.get x.handlers nopWord t.e.hnd.toNat).getLsbD 40)

/-- A plane without the tokens that a firing takes, and with a sticky token marked that has served. -/
def Plane.take (pl : Plane) (takes : List (Nat × Nat)) (sticky : List Nat) : Plane :=
  let pl := takes.foldl (fun pl t => pl.updQueue t.1 (fun q => removeAt q t.2)) pl
  sticky.foldl (fun pl p => pl.updQueue p (fun q => match q with
    | t :: ts => { t with served := true } :: ts
    | [] => [])) pl

end Sys2Proof.Machine
end

