-- ==== Sys2Proof/Machine/Fire.lean ====
section
/-! DEFINITION. A firing (R126 to R141, R159, R189, R191): whether the handler in focus is a candidate, what it takes, where
its outputs go, and everything that comes about in its cycle. Each element instruction states only its own effect and
hands it to `fire`. -/
namespace Sys2Proof.Machine

/-! ### Where the firing happens -/

/-- The handler in focus with everything that a firing reads: element, context, loan, image, and its place in the region. -/
structure FireCtx where
  key : Nat
  ctx : Nat
  hnd : Nat
  id : Nat
  e : Element
  x : ElCtx
  l : Loan
  img : Image
  index : Nat
  b : Nat
  info : HInfo
  /-- The number of the firing. -/
  num : Nat
deriving DecidableEq, Repr

/-- The handler's key in its image. -/
def FireCtx.hkey (f : FireCtx) : Nat := handlerKey f.index f.hnd

/-- The running activation of a context of a loan (R126). -/
def Loan.running (l : Loan) (c : Nat) : Option (Nat × Activation) := l.acts.find? (fun a => a.2.ctx == c && !a.2.frozen)

/-- The handler in focus, when its context holds a loan that may fire there (R126, R346, R352, R384). -/
def fireCtx? (s : State) : Option FireCtx :=
  let key := s.focus.el
  let ctx := s.focus.ctx
  let e := s.el key
  let x := e.ctx ctx
  match x.loan with
  | none => none
  | some id => match AMap.find s.loans id with
    | none => none
    | some l => match l.running ctx with
      | none => none
      | some (_, a) =>
        let b := x.logical / 128
        if l.state = .running ∧ ¬(a.freezing ∧ b ∈ l.marked) then
          some ⟨key, ctx, s.focus.hnd, id, e, x, l, l.imageOf ctx, x.logical, b,
            hinfoOf (l.imageOf ctx) (handlerKey x.logical s.focus.hnd), s.nextId⟩
        else none

/-! ### What an instruction gives to its firing -/

/-- What the match of a handler needs, from its word: header, ports read (R60), latency (R189, R190), destinations of an
end-of-stream copy, destinations that a mismatch poisons, accumulators read or written (R207), whether it uses the
iterative unit (R159), and the sync queue of `P` and `W`. -/
structure Shape where
  h : Hdr
  ports : List Nat
  latency : Nat
  eosTo : List Dest
  dests : List Dest
  accs : List Nat
  iterative : Bool
  sq : Nat
  /-- The accumulators are written and not read. -/
  accOnly : Bool
  /-- An end-of-stream token closes the stream of this feed of the element's tile (R206, R255): B, or A. -/
  marker : Option Bool
deriving DecidableEq, Repr

/-- One output of a firing: destination, operand, `PRED`, `KIND`, `CONT`, its tag and the depth at which `TAGOP` acts on it
with a taken bit (R48), cycles beyond the latency, and what it descends from. `raw` leaves the tag as it is. -/
structure Out where
  dest : Dest
  value : W32
  pred : Bool
  kind : Kind
  cont : BitVec 6
  tag : Tag
  depth : Nat
  taken : Bool
  raw : Bool
  delay : Nat
  prior : List Nat
deriving DecidableEq, Repr

/-- What an instruction does at its element: outputs, flags (R153), accumulator writes at the end of the latency (R207),
working-register writes (R186), the random state (R151), the fault code and detail word when its outputs are poison,
whether it leaves its operands where they are (R188), and the loan that it changes before its outputs count. -/
structure Eff where
  outs : List Out
  flags : Flags
  accW : List (Nat × W32)
  wW : List (Nat × W32)
  rnd : Option W32
  bad : Option (Nat × W64)
  keep : Bool
  loan : Option Loan
  /-- The instruction's own post (R303) is made elsewhere. -/
  ownPost : Bool
  /-- The request that it places in its memory buffer (R245). -/
  req : Option Access
  /-- The window and the address that the record of its fault names (R280). -/
  place : Option (Nat × Nat)
deriving DecidableEq, Repr

/-- No effect. -/
def Eff.none : Eff := ⟨[], Flag.none, [], [], Option.none, Option.none, false, Option.none, false, Option.none, Option.none⟩

/-- An output as the rules give it unless an entry says otherwise (R43, R159): tag of `a`, `CONT` of the first operand. -/
def Out.std (f : FireCtx) (g : Got) (d : Dest) (v : W32) : Out :=
  ⟨d, v, true, .data, g.cont, g.tag, f.info.depth, true, false, 0, g.prior⟩

/-- A dead output (R141): operand 0, `PRED` 0. -/
def Out.dead (f : FireCtx) (g : Got) (d : Dest) : Out := { Out.std f g d 0 with pred := false }

/-- The outputs of the several destinations with one operand each: the taken bit is 1 for the first (R48). -/
def stdOuts (f : FireCtx) (g : Got) : List (Dest × W32) → List Out
  | [] => []
  | [(d, v)] => [Out.std f g d v]
  | (d, v) :: rest => Out.std f g d v :: rest.map (fun p => { Out.std f g p.1 p.2 with taken := false })

/-- The dead outputs of several destinations. -/
def deadOuts (f : FireCtx) (g : Got) (ds : List Dest) : List Out :=
  (stdOuts f g (ds.map (fun d => (d, 0)))).map (fun o => { o with pred := false })

/-- The effect of a live firing that computes a word for each destination and raises flags, and of a dead one (R141). -/
def valueEff (f : FireCtx) (g : Got) (vs : List (Dest × W32)) (fl : Flags) : Eff :=
  if g.live then { Eff.none with outs := stdOuts f g vs, flags := fl }
  else { Eff.none with outs := deadOuts f g (vs.map Prod.fst) }

/-! ### Candidacy -/

/-- Gathering by mode (R132, R135, R139, R140). -/
def gather? (s : State) (f : FireCtx) (sh : Shape) : Gather :=
  match sh.h.mode with
  | .queue => gatherQueue (f.e.active f.ctx) f.hnd sh.ports sh.h.fK
  | .frame => gatherFrame f.e f.l f.ctx f.hnd sh.ports
  | .accord => gatherAccord (s.bay (f.key / 256)) f.l f.key f.ctx f.hnd
  | .trigger => gatherTrigger f.x f.hnd

/-- The interlock of R207: an earlier firing of the context within its latency writes one of the accumulators, or an `MXSTEP`
or `MXLDACC` does. -/
def interlocked (s : State) (f : FireCtx) (accs : List Nat) : Bool :=
  accs != [] &&
    (f.e.pending.any (fun p => p.ctx == f.ctx && p.accW.any (fun w => accs.contains w.1)) ||
     f.x.run.isSome ||
     s.accs.any (fun a => a.2.op == .mxload && a.2.el == f.key && a.2.ctx == f.ctx))

/-- Free entries of an output buffer at the start of the cycle (R127): entries freed in this cycle do not count yet. -/
def freeEntries (cycle : Nat) (e : Element) (buf : Nat) : Nat :=
  2 - ((AMap.get e.out [] buf).length + AMap.get e.reserved 0 buf +
    (if e.freed.1 = cycle + 1 then e.freed.2.count buf else 0))

/-- Whether the buffers have room for emissions, each in its buffer. -/
def roomFor (cycle : Nat) (e : Element) (bufs : List Nat) : Bool :=
  bufs.all (fun b => bufs.count b ≤ freeEntries cycle e b)

/-- Whether the handler may issue, but for its sync queue (R126, R159, R207, R208). -/
def readyToFire (s : State) (f : FireCtx) (sh : Shape) : Bool :=
  f.e.fired != s.cycle + 1 &&
    !(sh.iterative && s.cycle < f.e.iterBusy) &&
    !interlocked s f sh.accs &&
    AMap.get f.x.emitting 0 f.hnd == 0

/-! ### Outputs made into emissions -/

/-- One emission of a firing: its buffer, the flit, and its delay. One that comes later than the latency takes its entry
when it comes (R208). -/
structure Emission where
  buf : Nat
  flit : Flit
  delay : Nat
deriving DecidableEq, Repr

/-- The tag of an output after `TAGOP`; `none` is poison (R48). -/
def Out.finalTag (op : TagOp) (o : Out) : Option Tag := if o.raw then some o.tag else applyTagop op o.depth o.taken o.tag

/-- Whether an output names a continuation entry whose `V` is 0 (R37), or a frame slot that its frame does not have
(R64). -/
def Out.badTarget (f : FireCtx) (o : Out) : Bool :=
  match resolve f.img o.dest o.cont with
  | .bad => true
  | .slot n => match AMap.find f.l.frames o.tag.frame.toNat with
    | some fr => fr.nslot ≤ n
    | none => true
  | _ => false

/-- Whether an output writes a frame slot. -/
def Out.toSlot (f : FireCtx) (o : Out) : Bool := match resolve f.img o.dest o.cont with | .slot _ => true | _ => false

/-- The emission of an output, poison when the firing is (R44, R48). -/
def Out.emission (f : FireCtx) (op : TagOp) (poison : Bool) (o : Out) : Option Emission :=
  let tag := (o.finalTag op).getD o.tag
  let o := if poison then { o with kind := .poison, value := 0 } else o
  let t := resolve f.img o.dest o.cont
  let t := match t with
    | .exit _ | .park | .slot _ => if poison || o.badTarget f then Target.sink else t
    | t => t
  (mkFlit f.l f.img f.id f.b f.ctx f.hkey t o.kind o.pred o.cont o.value tag).map (fun x =>
    ⟨bufferOf f.l f.key x, x.withPrior (if o.toSlot f then f.num :: o.prior else o.prior), o.delay⟩)

/-- The emissions of a firing; what descends from one that writes a frame slot descends from the write (R212). -/
def emissions (f : FireCtx) (op : TagOp) (poison : Bool) (outs : List Out) : List Emission :=
  (if outs.any (Out.toSlot f) then outs.map (fun o => { o with prior := f.num :: o.prior }) else outs).filterMap (Out.emission f op poison)

/-- The buffers in which a firing needs an entry in its cycle (R127). -/
def entriesNow (ems : List Emission) : List Nat := (ems.filter (fun (e : Emission) => e.delay == 0)).map Emission.buf

/-! ### What a firing does -/

/-- The iterations that leave with the operands taken (R382): a sticky token that has served is already uncounted. -/
def takenIters (f : FireCtx) (g : Got) : List (Nat × List Nat) :=
  match g.src with
  | .queues takes =>
    let pl := f.e.active f.ctx
    takes.flatMap (fun t => match (pl.queue t.1)[t.2]? with
      | some x => if x.served then [] else portIters f.img f.hkey t.1 x.e.tag
      | none => []) ++
    g.firstSticky.flatMap (fun p => match g.entry p with | some q => portIters f.img f.hkey p q.tag | none => [])
  | .ready _ => g.ops.flatMap (fun x => portIters f.img f.hkey x.1 x.2.tag)
  | .accord _ => g.ops.flatMap (fun x => handlerIters f.img f.hkey x.2.tag)
  | .trigger _ => []

/-- The frames of the tokens taken, one entry a token (R50). -/
def takenFrames (f : FireCtx) (g : Got) : List Nat :=
  match g.src with
  | .queues takes => takes.filterMap (fun t => ((f.e.active f.ctx).queue t.1)[t.2]?.map (fun x => x.e.tag.frame.toNat))
  | .ready _ | .accord _ => g.ops.map (fun x => x.2.tag.frame.toNat)
  | .trigger _ => []

/-- Ports of the active plane that lose a token, as context × 4 + port. -/
def poppedPorts (f : FireCtx) (g : Got) : List Nat :=
  match g.src with
  | .queues takes => takes.map (fun t => f.ctx * 4 + t.1)
  | _ => []

/-- The element without what the firing takes. -/
def takeOperands (f : FireCtx) (g : Got) (e : Element) : Element :=
  match g.src with
  | .queues takes => e.updActive f.ctx (fun pl => pl.take takes g.firstSticky)
  | .ready i => { e with ready := removeAt e.ready i }
  | .accord _ => e
  | .trigger i => e.updCtx f.ctx (fun x => { x with triggers := removeAt x.triggers i })

/-- The entries of the pipeline that a firing makes: one at the latency, with the accumulator writes and the flags of the
entry, and one for each later output; the last carries the post (R127, R207, R303). -/
def pendings (s : State) (f : FireCtx) (latency : Nat) (ems : List Emission) (accW : List (Nat × W32)) (post : Option Post) :
    List Pending :=
  let last := ems.foldl (fun m e => max m e.delay) 0
  let mk (d : Nat) : Pending :=
    ⟨s.nextId + d, s.cycle + latency + d, f.ctx, f.id, f.hnd, (ems.filter (fun e => e.delay == d)).map (fun e => (e.buf, e.flit)),
      if d = 0 then accW else [], if d = last then post else none, d == 0, d == last⟩
  ((List.range (last + 1)).filter (fun d => d == 0 || d == last || ems.any (fun e => e.delay == d))).map mk

/-- The element with a firing's operands taken, registers and flags written, and counters moved on (R130, R153, R186, R302, R358). -/
def settleElement (f : FireCtx) (sh : Shape) (g : Got) (eff : Eff) (ems : List Emission) : Element :=
  ((if eff.keep then f.e else takeOperands f g f.e).updActive f.ctx (fun pl =>
    eff.wW.foldl (fun pl w => { pl with w := AMap.put pl.w w.1 w.2 }) pl)).updCtx f.ctx (fun x => { x with
    status := gather x.status eff.flags
    lastHnd := f.hnd
    credits := AMap.upd x.credits 0 f.hnd (· - 1)
    latch := if sh.h.fW then x.latch.erase f.hnd else x.latch
    emitting := if ems.any (fun y => y.delay != 0) then AMap.put x.emitting f.hnd 1 else x.emitting
    perf := AMap.upd x.perf 0 0 (· + 1) })

/-- The effects of a firing on its element (R126 to R131, R153, R207): operands taken, outputs reserved, pipeline entered,
flags, registers, random state, choice pointers and counters. -/
def fireElement (s : State) (f : FireCtx) (sh : Shape) (g : Got) (eff : Eff) (ems : List Emission) (ps : List Pending) : Element :=
  let e := settleElement f sh g eff ems
  { e with
    lastCtx := f.ctx
    fired := s.cycle + 1
    popped := if eff.keep then [] else poppedPorts f g
    random := eff.rnd.getD e.random
    iterBusy := if sh.iterative then s.cycle + 4 else e.iterBusy
    reserved := (entriesNow ems).foldl (fun m b => AMap.upd m 0 b (· + 1)) e.reserved
    pending := e.pending ++ ps }

/-- The accord that a firing takes leaves its bay (R139). -/
def Got.takeAccord (g : Got) (key : Nat) (s : State) : State :=
  match g.src with
  | .accord i => s.updBay (key / 256) (fun b => { b with readyAccords := removeAt b.readyAccords i })
  | _ => s

/-- The loan's counts after a firing (R50, R382): what it sends counts from now, and what it takes leaves `LIVE` now. -/
def countFiring (cycle : Nat) (f : FireCtx) (g : Got) (eff : Eff) (ems : List Emission) (l : Loan) : Loan :=
  let l := eff.loan.getD l
  let l := ems.foldl (fun (l : Loan) (x : Emission) => match x.flit.emit.entry with
    | some q => (l.addLive q.tag.frame.toNat 1).addPend x.flit.iters 1
    | none => l) l
  let l := if eff.keep then l else (takenFrames f g).foldl (fun l fr => l.addLive fr (-1)) l
  { l with fires := l.fires + 1, lastFiring := cycle, fired := true, watchdog := false }

/-- The loan after a firing: its counts, and without what the credit that a handler with `W` has consumed descends from (R305). -/
def fireLoan (cycle : Nat) (f : FireCtx) (sh : Shape) (g : Got) (eff : Eff) (ems : List Emission) (l : Loan) : Loan :=
  let l := countFiring cycle f g eff ems l
  if sh.h.fW then { l with creditPrior := AMap.del l.creditPrior (creditKey f.ctx f.hkey) } else l

/-- The iterations of what a firing takes leave when their acknowledgement arrives (R382). -/
def ackTaken (f : FireCtx) (g : Got) (eff : Eff) (s : State) : State := if eff.keep then s else s.ack f.id f.b (takenIters f g)

/-- The post of a firing with `P` (R303). -/
def firingPost (sh : Shape) (g : Got) (eff : Eff) : Option Post := if sh.h.fP && !eff.ownPost then some ⟨sh.sq, g.tag, g.prior⟩ else none

/-- A firing takes place: its element, its loan's counts and its pipeline (R50, R127, R382). -/
def commit (s : State) (f : FireCtx) (sh : Shape) (g : Got) (eff : Eff) (ems : List Emission) : State :=
  let ps := pendings s f sh.latency ems eff.accW (firingPost sh g eff)
  let s := g.takeAccord f.key { s with
    els := AMap.put s.els f.key (fireElement s f sh g eff ems ps)
    nextId := s.nextId + 1 + ems.foldl (fun m (x : Emission) => max m x.delay) 0
    fires := s.fires + 1 }
  let s := ackTaken f g eff (s.updLoan f.id (fireLoan s.cycle f sh g eff ems))
  ps.foldl (fun s p => s.later (p.due - s.cycle) (.firingResultWrite f.key p.id)) s

/-- What makes a firing's outputs poison before the instruction is performed: a bad handler word (R74), unequal tags (R132),
a malformed `PATH` (R48), a bad plane word or accumulator (R362). -/
def preFault (f : FireCtx) (sh : Shape) (g : Got) : Option (Nat × W64) :=
  if f.x.badWords.contains f.hnd then some (fILLEGAL, 0)
  else match g.mismatch with
  | some t => some (fMISMATCH, (t.frame ++ (0 : BitVec 6) ++ t.iterBits))
  | none =>
    if g.tag.path = 0 ∨ g.ops.any (fun x => x.2.tag.path == 0) then some (fILLEGAL, 0)
    else if !sh.accOnly && sh.accs.any (fun n => f.x.badAcc.contains n) then some (fPARITYSTORE, 0xFF)
    else if sh.ports.any (fun p => f.e.badPlane.contains (f.x.plane.getD 8, p)) then some (fPARITYSTORE, 0xFF)
    else none

/-- The entry that a parity failure of an element adds to its bay's bad-node register (R114, R361): the first invalid entry, with `SRC` 2,
unless a valid entry already names the element; a spare has `SP` 1 and its index in `COL`. -/
def badNodeEntry (key : Nat) : BitVec 16 :=
  if key % 256 < 128 then BitVec.ofNat 16 (1 + 2 * (key % 128 / 32) + 8 * (key % 32 / 8) + 32 * (key % 8) + 0x800)
  else BitVec.ofNat 16 (1 + 2 * (key % 128 / 2 % 4) + 32 * (key % 2) + 0x100 + 0x800)

/-- The bay with a suspect element added (R361), and the entry that names it. -/
def addSuspect (b : Bay) (place : Nat) : Bay × BitVec 16 :=
  let same (v : BitVec 16) := v.getLsbD 0 && v.extractLsb' 1 8 == (badNodeEntry place).extractLsb' 1 8
  match (List.range 8).find? (fun i => same (AMap.get b.badNodes 0 i)) with
  | some i => (b, AMap.get b.badNodes 0 i)
  | none => match (List.range 8).find? (fun i => !(AMap.get b.badNodes 0 i).getLsbD 0) with
    | some i => ({ b with badNodes := AMap.put b.badNodes i (badNodeEntry place) }, badNodeEntry place)
    | none => (b, badNodeEntry place)

/-- The report of a fault that a firing raises, which stops the frame of operand `a`. -/
def FireCtx.report (f : FireCtx) (g : Got) (code : Nat) (detail : W64) : Report :=
  { Report.of code with loan := some f.id, el := some f.key, ctx := f.ctx, hnd := f.hnd, tag := some g.tag, detail := detail }

/-- A firing that makes poison at its element and raises a fault (R48, R132, R342): every output is poison, and nothing of
its operands is kept. Of the instruction's effect only its outputs and the loan that it has touched count. -/
def firePoison (s : State) (f : FireCtx) (sh : Shape) (g : Got) (eff : Eff) (r : Report) : State :=
  let ems := emissions f sh.h.tagop true eff.outs
  if !roomFor s.cycle f.e (entriesNow ems) then s
  else
    let s := commit s f sh g { Eff.none with outs := eff.outs, loan := eff.loan } ems
    let s := if r.code = fPARITYSTORE then s.updBay (f.key / 256) (fun b => (addSuspect b f.key).1) else s
    s.raise r f.info.counted []

/-- An end-of-stream marker put among what a feeder serves (R255): last, in order of arrival, but ahead of a record that waits for an open
stream to be closed. -/
def markFeed (isOpen : Bool) : List FeedItem → List FeedItem
  | [] => [.marker]
  | .req r :: rest => .req r :: markFeed true rest
  | .marker :: rest => .marker :: markFeed false rest
  | .record r a :: rest => if isOpen then .marker :: .record r a :: rest else .record r a :: markFeed false rest

/-- An end-of-stream marker on its way to the feed of an element's tile. -/
def State.closeStream (s : State) (f : FireCtx) (isB : Bool) : State :=
  (s.updBay (f.key / 256) (fun b => b.updFeed (feedKey (layoutTile f.index isB) f.ctx isB) (fun g =>
    { g with queue := markFeed g.isOpen g.queue }))).later 1 (.feedBeat f.id f.index isB)

/-- An end-of-stream token passes (R159, R191): it is consumed alone and copied with its tag after `TAGOP`, its operand and
its `PRED`; only an output through a continuation entry whose `V` is 0 is poison (R37). What makes the outputs of a firing poison beforehand
does so here too (R48, R74, R362). DESIGN CHOICE (log 154): whether such a token uses up a credit or posts is not stated; with `W` it
needs a credit and consumes it, and with `P` it posts nothing. -/
def fireEos (s : State) (f : FireCtx) (sh : Shape) (p : Nat) (q : QEntry) : State :=
  let g : Got := ⟨[(p, q)], q.tag, q.cont, q.pred, .queues [(p, 0)], [], none, [], s.stillPrior f.id q.prior⟩
  let outs := (stdOuts f g (sh.eosTo.map (fun d => (d, q.operand)))).map (fun o => { o with pred := q.pred, kind := .eos })
  let sh := { sh with ports := [p], accs := [], h := { sh.h with fP := false } }
  match preFault f sh g with
  | some (code, d) => firePoison s f sh g { Eff.none with outs := outs } (f.report g code d)
  | none =>
    if outs.any (fun o => (o.finalTag sh.h.tagop).isNone) then firePoison s f sh g { Eff.none with outs := outs } (f.report g fILLEGAL 0)
    else
      let ems := emissions f sh.h.tagop false outs
      if !roomFor s.cycle f.e (entriesNow ems) then s
      else
        let s := commit s f sh g { Eff.none with outs := outs } ems
        let s := match sh.marker with
          | some isB => s.closeStream f isB
          | none => s
        if outs.any (Out.badTarget f) then s.raise (f.report g fILLEGAL 0) f.info.counted [] else s

/-- The state with a request under a new number, and the number. -/
def State.addAccess (s : State) (a : Access) : Nat × State :=
  (s.nextId, { s with nextId := s.nextId + 1, accs := AMap.put s.accs s.nextId { a with seq := s.nextId } })

/-- The emission of a firing's request: one entry of its memory buffer (R245). -/
def requestEmission (f : FireCtx) : Option Nat → List Emission
  | some n => [⟨5, ⟨f.id, .request n, []⟩, 0⟩]
  | none => []

/-- A firing that performs its instruction: not a candidate without room (R126), otherwise everything at once; `after` is
what the instruction does beyond its element. A request counts from its firing as an output does. -/
def firePerform (s : State) (f : FireCtx) (sh : Shape) (g : Got) (eff : Eff) (after : FireCtx → Got → State → State) : State :=
  match eff.bad with
  | some (code, d) => firePoison s f sh g eff { f.report g code d with win := eff.place.map Prod.fst, addr := (eff.place.map Prod.snd).getD 0 }
  | none =>
    if eff.outs.any (fun o => (o.finalTag sh.h.tagop).isNone) then firePoison s f sh g { eff with loan := none } (f.report g fILLEGAL 0)
    else
      let (n, t) : Option Nat × State := match eff.req with
        | some a => let (n, t) := s.addAccess a; (some n, t)
        | none => (none, s)
      let ems := emissions f sh.h.tagop false eff.outs ++ requestEmission f n
      if !roomFor s.cycle f.e (entriesNow ems) then s
      else
        let s := commit t f sh g eff ems
        let s := match eff.req with
          | some a => s.born f.id a.tag (handlerIters f.img f.hkey a.tag)
          | none => s
        let s := after f g s
        if eff.outs.any (Out.badTarget f) then s.raise (f.report g fILLEGAL 0) f.info.counted [] else s

/-- The claim that a handler with `W` sends when only the credit is missing (R302): one at a time. -/
def sendClaim (s : State) (f : FireCtx) : State :=
  if f.x.claims.contains f.hnd then s
  else (s.updEl f.key (fun e => e.updCtx f.ctx (fun x => { x with claims := f.hnd :: x.claims }))).later (f.l.hops f.b + 1)
    (.sqClaimArrive f.id f.index f.hnd)

/-- The operands with what the firing descends from: what its operands and the credit that it consumes do (R282, R305). -/
def Got.descend (g : Got) (s : State) (f : FireCtx) (sh : Shape) : Got :=
  { g with prior := s.stillPrior f.id (g.ops.flatMap (fun x => x.2.prior) ++
      (if sh.h.fW then AMap.get f.l.creditPrior [] (creditKey f.ctx f.hkey) else [])) }

/-- A FIRING of the handler in focus. `gath` finds its operands; `perform` says what the instruction does with them, `none`
when it may not fire yet; `after` is what it does beyond its element. A handler that is no candidate leaves the state as
it is; one that lacks only its credit sends its claim (R302). -/
def fireFrom (sh : Shape) (gath : State → FireCtx → Gather) (perform : FireCtx → Got → Option Eff)
    (after : FireCtx → Got → State → State) (s : State) : Host.Outcome State Fault Refusal :=
  match fireCtx? s with
  | none => .next s
  | some f =>
    if !readyToFire s f sh then .next s
    else
      let fired := match gath s f with
        | .none => s
        | .eos p q => fireEos s f sh p q
        | .ok g =>
          let g := g.descend s f sh
          match preFault f sh g with
          | some (code, d) => firePoison s f sh g { Eff.none with outs := stdOuts f g (sh.dests.map (fun d => (d, 0))) } (f.report g code d)
          | none => match perform f g with
            | none => s
            | some eff => firePerform s f sh g eff after
      if sh.h.fW && !f.x.latch.contains f.hnd then
        .next (if fired.fires = s.fires then s else sendClaim s f)
      else .next fired

/-- A firing whose operands meet as its `MODE` says. -/
def fire (sh : Shape) (perform : FireCtx → Got → Option Eff) (after : FireCtx → Got → State → State) (s : State) :
    Host.Outcome State Fault Refusal :=
  fireFrom sh (fun s f => gather? s f sh) perform after s

/-- Nothing beyond the element. -/
def noAfter (_ : FireCtx) (_ : Got) (s : State) : State := s

/-- Shape of a format D word (R57, R60). -/
def shapeD (h : Hdr) (b : FD) (latency : Nat) : Shape :=
  ⟨h, portsRead h, latency, [b.d0], b.d0 :: (dest1Of b).toList, [], false, sqOfD b, false, none⟩

/-- Shape of a format I word. -/
def shapeI (h : Hdr) (b : FI) (latency : Nat) : Shape := ⟨h, portsRead h, latency, [b.d0], [b.d0], [], false, sqOfI b, false, none⟩

/-- Shape of a word that is in format D or I (R58). -/
def shapeDI (h : Hdr) (b : FDI) (latency : Nat) : Shape :=
  match b with | .d b => shapeD h b latency | .i b => shapeI h b latency

/-- Shape of a format Y word. -/
def shapeY (h : Hdr) (b : FY) (latency : Nat) : Shape := ⟨h, portsRead h, latency, [b.d0], [b.d0], [], false, 0, false, none⟩

/-- Operand `b` of a word in format D or I: the port's, or the immediate (R58). -/
def operandB (h : Hdr) (b : FDI) (g : Got) : W32 :=
  match b with | .d _ => g.op 1 | .i x => fdiImm h x

end Sys2Proof.Machine
end

