-- ==== Sys2Proof/Machine/Frames.lean ====
section
/-! DEFINITION. Frames (R50 to R52, R133 to R138): allocation, release, start triggers; loops in flight, order points and
their pass bits (R142, R192, R198). -/
namespace Sys2Proof.Machine

/-! ### The matching store (R133, R136) -/

/-- Bytes of a frame in each bay. -/
def frameBytes (nslot : Nat) : Nat := 32 + 8 * nslot

/-- Bytes of the frames reserved for the classes below one. -/
def reservedBelow (img : Image) (c : Nat) : Nat :=
  ((img.classes.filter (fun k => k.1 < c)).map (fun k => k.2.reserve * frameBytes k.2.nslot)).sum

/-- Bytes that hold frames of a loan now: offset and size. A released or a spilled frame holds none. -/
def Loan.occupied (l : Loan) : List (Nat × Nat) :=
  (l.frames.filter (fun f => !f.2.released && !f.2.spilled)).map (fun f => (f.2.offset, frameBytes f.2.nslot))

/-- Whether a range of the matching store is free. -/
def rangeFree (occ : List (Nat × Nat)) (o n : Nat) : Bool := occ.all (fun r => o + n ≤ r.1 || r.1 + r.2 ≤ o)

/-- The place of a new frame of a class (R136): the lowest free reserved one, otherwise the lowest shared offset that fits.
Frames are reserved by the image that the loan was placed with; a callee has the shared store. -/
def Loan.placeFrame (l : Loan) (own : Bool) (c nslot : Nat) : Option Nat :=
  let occ := l.occupied
  let size := frameBytes nslot
  let base := reservedBelow l.image c
  let res := if own then (AMap.get l.image.classes ⟨0, 0⟩ c).reserve else 0
  match ((List.range res).map (fun i => base + i * size)).find? (fun o => rangeFree occ o size) with
  | some o => some o
  | none =>
    let top := reservedBelow l.image 16
    let starts := sortBy (fun a b => decide (a ≤ b)) (top :: (occ.map (fun r => r.1 + r.2)).filter (fun o => top ≤ o))
    starts.find? (fun o => decide (o + size ≤ l.storeSize) && rangeFree occ o size)

/-- The first identifier at or after one that is not in use, wrapping after 65,535 (R52). -/
def freeFrameId (frames : AMap Frame) : Nat → Nat → Option Nat
  | 0, _ => none
  | n + 1, k =>
    let k := if k = 0 ∨ k > 65535 then 1 else k
    if (AMap.find frames k).isNone then some k else freeFrameId frames n (k + 1)

/-- A new frame of a class of an image for an activation (R50, R51, R136): its identifier and the loan that holds it, every
slot empty. `none` while no frame can be allocated. -/
def Loan.allocFrame (l : Loan) (img : Image) (own : Bool) (c act : Nat) (first : Bool) (caller : Tag) (rcont : BitVec 6)
    (iters : List (Nat × List Nat)) (now : Nat) : Option (Nat × Loan) :=
  match AMap.find img.classes c with
  | none => none
  | some k => match l.placeFrame own c k.nslot, freeFrameId l.frames 65536 l.nextFrame with
    | some o, some id =>
      let fr : Frame := ⟨c, k.nslot, caller, first, rcont, 0, l.allocs + 1, act, o, false, none, 0, false, false, now, [], iters, none⟩
      some (id, { l with frames := AMap.put l.frames id fr, nextFrame := id % 65535 + 1, allocs := l.allocs + 1 })
    | _, _ => none

/-- Whether a context of a loan runs the image that the loan was placed with. -/
def Loan.ownImage (l : Loan) (c : Nat) : Bool := c == l.ctx

/-! ### Start triggers (R140) -/

/-- Every trigger-mode handler of a context of a loan gets a start trigger with a tag. -/
def State.startTriggers (s : State) (id c : Nat) (t : Tag) : State :=
  { s with els := s.els.map (fun (p : Nat × Element) =>
      let x := p.2.ctx c
      if x.loan = some id then
        let hs := (List.range 8).filter (fun h =>
          (AMap.get x.handlers nopWord h).extractLsb' 54 2 == 3 && AMap.get x.handlers nopWord h != nopWord)
        (p.1, p.2.updCtx c (fun x => { x with triggers := x.triggers ++ hs.map (fun h => (h, t)) }))
      else p) }

/-! ### Iterations in flight (R142, R192, R198) -/

/-- The iterations in flight of one loop instance: the last field of each. -/
def Loan.inflight (l : Loan) (loop frame : Nat) (pre : List Nat) : List Nat :=
  (l.flights.filter (fun g => g.loop == loop && g.frame == frame && g.its.dropLast == pre)).map (fun g => g.its.getLast?.getD 0)

/-- The oldest of some iterations of one instance (R49). -/
def oldestIter : List Nat → Option Nat
  | [] => none
  | k :: ks => match oldestIter ks with
    | none => some k
    | some m => if iterOlder (BitVec.ofNat 7 m) (BitVec.ofNat 7 k) then some m else some k

/-- Whether an order point releases a tag (R192): every older iteration of its instance in flight has its pass bit. -/
def Loan.releases (l : Loan) (info : HInfo) (hkey : Nat) (t : Tag) : Bool :=
  let d := info.depth
  if d = 0 then true
  else
    let loop := info.loops.getD (d - 1) 0
    (l.flights.filter (fun g => g.loop == loop && g.frame == t.frame.toNat && g.its.dropLast == t.its (d - 1) &&
        iterOlder (BitVec.ofNat 7 (g.its.getLast?.getD 0)) (t.it (d - 1)))).all (fun g => g.pass.contains hkey)

/-- Pass bits of the iteration that a tag names at depth `d` of a loop set for some order points. -/
def Loan.setPass (l : Loan) (loop d : Nat) (t : Tag) (points : List Nat) : Loan :=
  { l with flights := l.flights.map (fun g =>
      if g.loop = loop ∧ g.frame = t.frame.toNat ∧ g.its = t.its d then { g with pass := (g.pass ++ points).eraseDups } else g) }

/-! ### Release (R52, R61, R138) -/

/-- The sticky operand of a frame at the head of `b` in a plane of an element (R61). -/
def stickyIn (id f : Nat) (e : Element) (p : Nat × Plane) : Option QTok :=
  match p.2.owner, p.2.queue 1 with
  | some (o, _), t :: _ => if o = id ∧ t.e.tag.frame.toNat = f ∧ e.sticky p.1 t then some t else none
  | _, _ => none

/-- The element without the sticky operands of a frame (R61). -/
def dropSticky (id f : Nat) (e : Element) : Element :=
  { e with planes := e.planes.map (fun (p : Nat × Plane) =>
      if (stickyIn id f e p).isSome then (p.1, p.2.updQueue 1 (·.drop 1)) else p) }

/-- The sticky operands of a frame in an element. -/
def stickyOf (id f : Nat) (e : Element) : List QTok := e.planes.filterMap (stickyIn id f e)

/-- The iterations that the sticky operands of a frame in an element still hold up: of those that have served no firing (R61, R382). -/
def stickyIters (img : Nat → Image) (id f : Nat) (e : Element) : List (Nat × List (Nat × List Nat)) :=
  ((stickyOf id f e).filter (fun t => !t.served)).map (fun t =>
    let x := e.ctx t.e.ctx.toNat
    (x.logical / 128, portIters (img t.e.ctx.toNat) (handlerKey x.logical t.e.hnd.toNat) 1 t.e.tag))

/-- A frame ends (R52, R138): its operands are discarded, those that the match unit placed with one FRAME_STALE record where `note`;
what it held up of its caller is acknowledged, but for a callee's first frame, whose call goes on until its results are sent. -/
def State.endFrame (s : State) (id f b : Nat) (note : Bool) : State :=
  match AMap.find s.loans id with
  | none => s
  | some l => match AMap.find l.frames f with
    | none => s
    | some fr =>
      let img := match AMap.find l.acts fr.act with | some a => l.imageOf a.ctx | none => l.image
      let placed := fr.slots.filter (fun p => p.2.p && !p.2.sw)
      let n := placed.length + (s.els.map (fun (p : Nat × Element) => (stickyOf id f p.2).length)).sum
      let held := s.els.flatMap (fun (p : Nat × Element) => stickyIters l.imageOf id f p.2)
      let s := if placed = [] ∨ !note then s else s.updHub (fun h => h.record (mkRecord s
        { Report.of fSTALE with
          loan := some id, tag := some (Tag.initial f), unit := some (bayUnit (l.bayKey b))
          detail := BitVec.ofNat 64 ((placed.foldl (fun m p => min m (p.1 % 65536)) 4095) % 4096) } false))
      let s := { s with els := s.els.map (fun (p : Nat × Element) =>
        let gone (r : Ready) : Bool := r.isOrdred p.2 && (p.2.ctx r.ctx).loan == some id && r.tag.frame.toNat == f
        (p.1, { dropSticky id f p.2 with
          ordered := p.2.ordered.filter (fun r => !((p.2.ctx r.ctx).loan == some id && r.tag.frame.toNat == f))
          ready := p.2.ready.filter (fun r => !gone r)
          matching := p.2.matching.filter (fun m => !gone m.2) })) }
      let s := placed.foldl (fun s p => s.ack id (p.1 / 65536) (slotIters img (p.1 % 65536) p.2.tag)) s
      let s := held.foldl (fun s p => s.ack id p.1 p.2) s
      let s := s.updLoan id (fun l => ({ l with frames := AMap.put l.frames f { fr with released := true, slots := [], parked := none } }).addLive f
        (-(n : Int)))
      s.ack id b (if fr.first then [] else fr.iters)

/-- A frame is released: operands in frame-slot destinations and sticky tokens go without a record. -/
def State.releaseFrame (s : State) (id f b : Nat) : State := s.endFrame id f b true

end Sys2Proof.Machine
end

