-- ==== Sys2Proof/Machine/Scalar.lean ====
section
/-! DEFINITION. The scalar instructions (R158 to R189): integers, bits, spatial keys, floating point, conversions, moves and
streams. Each is its own effect over the shared firing. -/
namespace Sys2Proof.Machine

/-- A scalar instruction whose one result, computed from the firing's operands with flags, goes to every destination. -/
def fireValue (sh : Shape) (compute : Got → W32 × Flags) : State → Host.Outcome State Fault Refusal :=
  fire sh (fun f g =>
    let (v, fl) := compute g
    some (valueEff f g (sh.dests.map (fun d => (d, v))) fl)) noAfter

/-- A scalar instruction that raises no flag (R160). -/
def firePlain (sh : Shape) (compute : Got → W32) : State → Host.Outcome State Fault Refusal :=
  fireValue sh (fun g => (compute g, Flag.none))

/-- A scalar instruction that may draw `n` random numbers (R151): only a stochastic mode advances the element's random
state, and only in a live firing. -/
def fireDraws (sh : Shape) (mode n : Nat) (compute : Got → List Nat → W32 × Flags) : State → Host.Outcome State Fault Refusal :=
  fire sh (fun f g =>
    let (rs, next) := randomDraws n f.e.random
    let (v, fl) := compute g rs
    let eff := valueEff f g (sh.dests.map (fun d => (d, v))) fl
    some { eff with rnd := if g.live && mode == 4 then some next else none }) noAfter

/-- `IADD` (R161). -/
def execIadd (h : Hdr) (b : FDI) : State → Host.Outcome State Fault Refusal :=
  firePlain (shapeDI h b 1) (fun g => aluIadd h.ty (g.op 0) (operandB h b g))

/-- `ISUB` (R161). -/
def execIsub (h : Hdr) (b : FDI) : State → Host.Outcome State Fault Refusal :=
  firePlain (shapeDI h b 1) (fun g => aluIsub h.ty (g.op 0) (operandB h b g))

/-- `IMUL` (R161). -/
def execImul (h : Hdr) (b : FDI) : State → Host.Outcome State Fault Refusal :=
  firePlain (shapeDI h b 3) (fun g => aluImul h.ty (g.op 0) (operandB h b g))

/-- `IMULH` (R161). -/
def execImulh (h : Hdr) (b : FDI) : State → Host.Outcome State Fault Refusal :=
  firePlain (shapeDI h b 3) (fun g => aluImulh h.ty (g.op 0) (operandB h b g))

/-- `IMIN` (R161). -/
def execImin (h : Hdr) (b : FDI) : State → Host.Outcome State Fault Refusal :=
  firePlain (shapeDI h b 1) (fun g => aluImin h.ty (g.op 0) (operandB h b g))

/-- `IMAX` (R161). -/
def execImax (h : Hdr) (b : FDI) : State → Host.Outcome State Fault Refusal :=
  firePlain (shapeDI h b 1) (fun g => aluImax h.ty (g.op 0) (operandB h b g))

/-- `IADDS` (R161). -/
def execIadds (h : Hdr) (b : FDI) : State → Host.Outcome State Fault Refusal :=
  firePlain (shapeDI h b 1) (fun g => aluIadds h.ty (g.op 0) (operandB h b g))

/-- `ISUBS` (R161). -/
def execIsubs (h : Hdr) (b : FDI) : State → Host.Outcome State Fault Refusal :=
  firePlain (shapeDI h b 1) (fun g => aluIsubs h.ty (g.op 0) (operandB h b g))

/-- `AND` (R165). -/
def execAnd (h : Hdr) (b : FDI) : State → Host.Outcome State Fault Refusal :=
  firePlain (shapeDI h b 1) (fun g => g.op 0 &&& operandB h b g)

/-- `OR` (R165). -/
def execOr (h : Hdr) (b : FDI) : State → Host.Outcome State Fault Refusal :=
  firePlain (shapeDI h b 1) (fun g => g.op 0 ||| operandB h b g)

/-- `XOR` (R165). -/
def execXor (h : Hdr) (b : FDI) : State → Host.Outcome State Fault Refusal :=
  firePlain (shapeDI h b 1) (fun g => g.op 0 ^^^ operandB h b g)

/-- `ANDN` (R165). -/
def execAndn (h : Hdr) (b : FDI) : State → Host.Outcome State Fault Refusal :=
  firePlain (shapeDI h b 1) (fun g => g.op 0 &&& ~~~(operandB h b g))

/-- `SHL` (R165). -/
def execShl (h : Hdr) (b : FDI) : State → Host.Outcome State Fault Refusal :=
  firePlain (shapeDI h b 1) (fun g => aluShl h.ty (g.op 0) (operandB h b g))

/-- `SHR` (R165). -/
def execShr (h : Hdr) (b : FDI) : State → Host.Outcome State Fault Refusal :=
  firePlain (shapeDI h b 1) (fun g => aluShr h.ty (g.op 0) (operandB h b g))

/-- `SHRA` (R165). -/
def execShra (h : Hdr) (b : FDI) : State → Host.Outcome State Fault Refusal :=
  firePlain (shapeDI h b 1) (fun g => aluShra h.ty (g.op 0) (operandB h b g))

/-- `ROTL` (R165). -/
def execRotl (h : Hdr) (b : FDI) : State → Host.Outcome State Fault Refusal :=
  firePlain (shapeDI h b 1) (fun g => aluRotl h.ty (g.op 0) (operandB h b g))

/-- `IMAD` (R162). -/
def execImad (h : Hdr) (b : FD) : State → Host.Outcome State Fault Refusal :=
  firePlain (shapeD h b 3) (fun g => aluImad h.ty (g.op 0) (g.op 1) (g.op 2))

/-- `ICLAMP` (R162). -/
def execIclamp (h : Hdr) (b : FD) : State → Host.Outcome State Fault Refusal :=
  firePlain (shapeD h b 1) (fun g => aluIclamp h.ty (g.op 0) (g.op 1) (g.op 2))

/-- `IADDC` (R162): the sum to `DEST0`, the carry word to `DEST1` when the word has one. -/
def execIaddc (h : Hdr) (b : FD) : State → Host.Outcome State Fault Refusal :=
  fire (shapeD h b 1) (fun f g => some (valueEff f g
    ((b.d0, aluIaddcSum h.ty (g.op 0) (g.op 1) (g.op 2)) ::
      (dest1Of b).toList.map (fun d => (d, aluIaddcCarry h.ty (g.op 0) (g.op 1) (g.op 2)))) Flag.none)) noAfter

/-- `INEG` (R163). -/
def execIneg (h : Hdr) (b : FD) : State → Host.Outcome State Fault Refusal :=
  firePlain (shapeD h b 1) (fun g => aluIneg h.ty (g.op 0))

/-- `IABS` (R163). -/
def execIabs (h : Hdr) (b : FD) : State → Host.Outcome State Fault Refusal :=
  firePlain (shapeD h b 1) (fun g => aluIabs h.ty (g.op 0))

/-- `NOT` (R163). -/
def execNot (h : Hdr) (b : FD) : State → Host.Outcome State Fault Refusal :=
  firePlain (shapeD h b 1) (fun g => aluNot (g.op 0))

/-- `CLZ` (R163). -/
def execClz (h : Hdr) (b : FD) : State → Host.Outcome State Fault Refusal :=
  firePlain (shapeD h b 1) (fun g => aluClz h.ty (g.op 0))

/-- `POPC` (R163). -/
def execPopc (h : Hdr) (b : FD) : State → Host.Outcome State Fault Refusal :=
  firePlain (shapeD h b 1) (fun g => aluPopc h.ty (g.op 0))

/-- `BREV` (R163). -/
def execBrev (h : Hdr) (b : FD) : State → Host.Outcome State Fault Refusal :=
  firePlain (shapeD h b 1) (fun g => aluBrev h.ty (g.op 0))

/-- `ICMP` (R164): the condition of R65; with `I`, `b` is the 16-bit immediate. -/
def execIcmp (h : Hdr) (b : FI) : State → Host.Outcome State Fault Refusal :=
  firePlain (shapeI h b 1) (fun g => aluIcmp h.ty (immBits b.imm 0 4) (g.op 0) (if h.fI then icmpImm h b else g.op 1))

/-- `BFX` (R166). -/
def execBfx (h : Hdr) (b : FI) : State → Host.Outcome State Fault Refusal :=
  firePlain (shapeI h b 1) (fun g => aluBfx h.ty (immBits b.imm 0 5) (immBits b.imm 5 5) (g.op 0))

/-- `BFI` (R166). -/
def execBfi (h : Hdr) (b : FI) : State → Host.Outcome State Fault Refusal :=
  firePlain (shapeI h b 1) (fun g => aluBfi (immBits b.imm 0 5) (immBits b.imm 5 5) (g.op 0) (g.op 1))

/-- `LEA` (R167). -/
def execLea (h : Hdr) (b : FI) : State → Host.Outcome State Fault Refusal :=
  firePlain (shapeI h b 1) (fun g => aluLea (immBits b.imm 0 3) (g.op 0) (g.op 1))

/-- The exponent or shift of `CELLKEY`: signed six bits for f32, five bits for i32 (R168). -/
def cellScale (t : Ty) (b : FI) : Int :=
  if t = .f32 then signedLane 6 (immBits b.imm 5 6) else immBits b.imm 5 6

/-- `CELLKEY` (R168). -/
def execCellkey (h : Hdr) (b : FI) : State → Host.Outcome State Fault Refusal :=
  fireValue (shapeI h b 2) (fun g =>
    aluCellkey h.ty (immBits b.imm 0 5) (cellScale h.ty b) (immBits b.imm 11 1 == 1)
      (if h.arity = 3 then [g.op 0, g.op 1, g.op 2] else [g.op 0, g.op 1]))

/-- `CELLHASH` (R169). -/
def execCellhash (h : Hdr) (b : FI) : State → Host.Outcome State Fault Refusal :=
  firePlain (shapeI h b 2) (fun g => aluCellhash (immBits b.imm 0 5) (g.op 0))

/-- `NBRKEY` (R170): poison for a neighbour number out of range, dead with 0xFFFF_FFFF outside a bounded grid. -/
def execNbrkey (h : Hdr) (b : FI) : State → Host.Outcome State Fault Refusal :=
  fire (shapeI h b 2) (fun f g =>
    if !g.live then some { Eff.none with outs := deadOuts f g [b.d0] }
    else match aluNbrkey (immBits b.imm 0 5) (immBits b.imm 5 1 == 1) (immBits b.imm 6 1 == 1) (g.op 0) (g.op 1) with
      | none => some { Eff.none with outs := deadOuts f g [b.d0], bad := some (fILLEGAL, 0) }
      | some (v, inside) => some { Eff.none with outs := [{ Out.std f g b.d0 v with pred := inside }] }) noAfter

/-- `FADD` (R171). -/
def execFadd (h : Hdr) (b : FDI) : State → Host.Outcome State Fault Refusal :=
  fireValue (shapeDI h b 3) (fun g => aluFadd h.ty (g.op 0) (operandB h b g))

/-- `FSUB` (R171). -/
def execFsub (h : Hdr) (b : FDI) : State → Host.Outcome State Fault Refusal :=
  fireValue (shapeDI h b 3) (fun g => aluFsub h.ty (g.op 0) (operandB h b g))

/-- `FMUL` (R171). -/
def execFmul (h : Hdr) (b : FDI) : State → Host.Outcome State Fault Refusal :=
  fireValue (shapeDI h b 3) (fun g => aluFmul h.ty (g.op 0) (operandB h b g))

/-- `FMIN` (R172). -/
def execFmin (h : Hdr) (b : FDI) : State → Host.Outcome State Fault Refusal :=
  fireValue (shapeDI h b 1) (fun g => aluFmin h.ty (g.op 0) (operandB h b g))

/-- `FMAX` (R172). -/
def execFmax (h : Hdr) (b : FDI) : State → Host.Outcome State Fault Refusal :=
  fireValue (shapeDI h b 1) (fun g => aluFmax h.ty (g.op 0) (operandB h b g))

/-- `FSCALE` (R173). -/
def execFscale (h : Hdr) (b : FDI) : State → Host.Outcome State Fault Refusal :=
  fireValue (shapeDI h b 2) (fun g => aluFscale h.ty (g.op 0) (operandB h b g))

/-- `FFMA` (R171). -/
def execFfma (h : Hdr) (b : FD) : State → Host.Outcome State Fault Refusal :=
  fireValue (shapeD h b 4) (fun g => aluFfma h.ty (g.op 0) (g.op 1) (g.op 2))

/-- `FABS` (R174). -/
def execFabs (h : Hdr) (b : FD) : State → Host.Outcome State Fault Refusal :=
  fireValue (shapeD h b 1) (fun g => aluFabs h.ty (g.op 0))

/-- `FNEG` (R174). -/
def execFneg (h : Hdr) (b : FD) : State → Host.Outcome State Fault Refusal :=
  fireValue (shapeD h b 1) (fun g => aluFneg h.ty (g.op 0))

/-- `FRCP` (R174). -/
def execFrcp (h : Hdr) (b : FD) : State → Host.Outcome State Fault Refusal :=
  fireValue { shapeD h b 8 with iterative := true } (fun g => aluFrcp h.ty (g.op 0))

/-- `FRSQ` (R174). -/
def execFrsq (h : Hdr) (b : FD) : State → Host.Outcome State Fault Refusal :=
  fireValue { shapeD h b 8 with iterative := true } (fun g => aluFrsq h.ty (g.op 0))

/-- `FEXP2` (R174). -/
def execFexp2 (h : Hdr) (b : FD) : State → Host.Outcome State Fault Refusal :=
  fireValue { shapeD h b 10 with iterative := true } (fun g => aluFexp2 h.ty (g.op 0))

/-- `FLOG2` (R174). -/
def execFlog2 (h : Hdr) (b : FD) : State → Host.Outcome State Fault Refusal :=
  fireValue { shapeD h b 10 with iterative := true } (fun g => aluFlog2 h.ty (g.op 0))

/-- `FSQRT` (R174). -/
def execFsqrt (h : Hdr) (b : FD) : State → Host.Outcome State Fault Refusal :=
  fireValue { shapeD h b 12 with iterative := true } (fun g => aluFsqrt h.ty (g.op 0))

/-- `FCLASS` (R175). -/
def execFclass (h : Hdr) (b : FD) : State → Host.Outcome State Fault Refusal :=
  fireValue (shapeD h b 1) (fun g => aluFclass h.ty (g.op 0))

/-- `FCMP` (R176). -/
def execFcmp (h : Hdr) (b : FI) : State → Host.Outcome State Fault Refusal :=
  fireValue (shapeI h b 1) (fun g => aluFcmp h.ty (immBits b.imm 0 4) (g.op 0) (g.op 1))

/-- `FDOT2` (R182). -/
def execFdot2 (h : Hdr) (b : FD) : State → Host.Outcome State Fault Refusal :=
  fireValue (shapeD h b 4) (fun g => aluFdot2 h.ty (g.op 0) (g.op 1) (g.op 2))

/-- `FROUND` (R177). -/
def execFround (h : Hdr) (b : FI) : State → Host.Outcome State Fault Refusal :=
  fireDraws (shapeI h b 2) (immBits b.imm 0 3) h.ty.lanes (fun g rs => aluFround h.ty (immBits b.imm 0 3) rs (g.op 0))

/-- The type that a conversion's field names; the loader has refused every other code (R179). -/
def fieldTy (b : FI) : Ty := (Ty.ofCode (b.imm.extractLsb' 0 4)).getD .f32

/-- `FCVT` (R179). -/
def execFcvt (h : Hdr) (b : FI) : State → Host.Outcome State Fault Refusal :=
  fireDraws (shapeI h b 2) (immBits b.imm 4 3) (convLanes h.ty (fieldTy b)) (fun g rs =>
    aluConvert h.ty (fieldTy b) (immBits b.imm 4 3) (immBits b.imm 7 1 == 1) rs (g.op 0))

/-- `FTOI` (R179). -/
def execFtoi (h : Hdr) (b : FI) : State → Host.Outcome State Fault Refusal :=
  fireDraws (shapeI h b 2) (immBits b.imm 4 3) (convLanes h.ty (fieldTy b)) (fun g rs =>
    aluConvert h.ty (fieldTy b) (immBits b.imm 4 3) (immBits b.imm 7 1 == 1) rs (g.op 0))

/-- `ITOF` (R179): overflow as with saturate 0. -/
def execItof (h : Hdr) (b : FI) : State → Host.Outcome State Fault Refusal :=
  fireDraws (shapeI h b 2) (immBits b.imm 4 3) (convLanes h.ty (fieldTy b)) (fun g rs =>
    aluConvert h.ty (fieldTy b) (immBits b.imm 4 3) false rs (g.op 0))

/-- `QPACK` (R180). -/
def execQpack (h : Hdr) (b : FI) : State → Host.Outcome State Fault Refusal :=
  fireDraws (shapeI h b 2) (immBits b.imm 4 3) 1 (fun g rs =>
    aluQpack (fieldTy b) (immBits b.imm 4 3) (immBits b.imm 7 1 == 1) (rs.getD 0 0) (g.op 0) (g.op 1))

/-- `QUNPK` (R181). -/
def execQunpk (h : Hdr) (b : FI) : State → Host.Outcome State Fault Refusal :=
  fireValue (shapeI h b 1) (fun g => aluQunpk h.ty (fieldTy b) (immBits b.imm 4 3) (g.op 0))

/-- `SEED` (R183): writes the random state, 1 for 0, and emits `a`. -/
def execSeed (h : Hdr) (b : FD) : State → Host.Outcome State Fault Refusal :=
  fire (shapeD h b 1) (fun f g =>
    let eff := valueEff f g ((shapeD h b 1).dests.map (fun d => (d, g.op 0))) Flag.none
    some { eff with rnd := if g.live then some (if g.op 0 = 0 then 1 else g.op 0) else none }) noAfter

/-- `MOV` (R184). -/
def execMov (h : Hdr) (b : FD) : State → Host.Outcome State Fault Refusal := firePlain (shapeD h b 1) (fun g => g.op 0)

/-- `SEL` (R184). -/
def execSel (h : Hdr) (b : FD) : State → Host.Outcome State Fault Refusal :=
  firePlain (shapeD h b 1) (fun g => if g.op 0 ≠ 0 then g.op 1 else g.op 2)

/-- `SINK` (R184): consumes `a`; its destinations are the sink, so it emits nothing. -/
def execSink (h : Hdr) (b : FD) : State → Host.Outcome State Fault Refusal :=
  fire { shapeD h b 1 with eosTo := [], dests := [] } (fun _ _ => some Eff.none) noAfter

/-- `MOVI` (R185). -/
def execMovi (h : Hdr) (b : FI) : State → Host.Outcome State Fault Refusal :=
  firePlain (shapeI h b 1) (fun _ => signExtend32 20 b.imm.toNat)

/-- `MOVHI` (R185). -/
def execMovhi (h : Hdr) (b : FI) : State → Host.Outcome State Fault Refusal :=
  firePlain (shapeI h b 1) (fun g => (b.imm.setWidth 32 <<< 12) ||| (g.op 0 &&& 0xFFF))

/-- `CONST` (R185): once on each start trigger, `CONT` 0. -/
def execConst (h : Hdr) (b : FI) : State → Host.Outcome State Fault Refusal :=
  firePlain (shapeI h b 1) (fun _ => signExtend32 20 b.imm.toNat)

/-- A working register of the active plane (R186). -/
def FireCtx.wreg (f : FireCtx) (n : Nat) : W32 := AMap.get (f.e.active f.ctx).w 0 n

/-- `GETW` (R186). -/
def execGetw (h : Hdr) (b : FI) : State → Host.Outcome State Fault Refusal :=
  fire (shapeI h b 1) (fun f g => some (valueEff f g [(b.d0, f.wreg (immBits b.imm 0 3))] Flag.none)) noAfter

/-- `SETW` (R186). -/
def execSetw (h : Hdr) (b : FI) : State → Host.Outcome State Fault Refusal :=
  fire (shapeI h b 1) (fun f g =>
    let eff := valueEff f g [(b.d0, g.op 0)] Flag.none
    some { eff with wW := if g.live then [(immBits b.imm 0 3, g.op 0)] else [] }) noAfter

/-- `LIVE` (R187). -/
def execLive (h : Hdr) (b : FD) : State → Host.Outcome State Fault Refusal :=
  fire (shapeD h b 1) (fun f g =>
    let ds := (shapeD h b 1).dests
    if g.live then
      some { Eff.none with outs := (stdOuts f g (ds.map (fun d => (d, g.op 1)))).map (fun o => { o with pred := g.op 0 != 0 }) }
    else some { Eff.none with outs := deadOuts f g ds }) noAfter

/-- `ISLIVE` (R187): its dead firing emits a live 0. -/
def execIslive (h : Hdr) (b : FD) : State → Host.Outcome State Fault Refusal :=
  fire (shapeD h b 1) (fun f g =>
    some { Eff.none with outs := stdOuts f g ((shapeD h b 1).dests.map (fun d => (d, if g.live then 1 else 0))) }) noAfter

/-- One firing of a stream (R188): `step` is the value at position `k`. -/
def streamEff (f : FireCtx) (g : Got) (h : Hdr) (b : FI) (value : W32 → W32) : Eff :=
  let w := immBits b.imm 0 3
  let eos := immBits b.imm 3 1 == 1
  let k := f.wreg w
  let n : W32 := if h.ty = .i32 ∧ (g.op 0).toInt < 0 then 0 else g.op 0
  if !g.live then { Eff.none with outs := deadOuts f g [b.d0] }
  else if k.toNat < n.toNat then
    let ends := k + 1 == n && !eos
    { Eff.none with outs := [Out.std f g b.d0 (value k)], wW := [(w, if ends then 0 else k + 1)], keep := !ends }
  else
    { Eff.none with outs := if eos then [{ Out.std f g b.d0 n with kind := .eos }] else [], wW := [(w, 0)] }

/-- `COUNT` (R188). -/
def execCount (h : Hdr) (b : FI) : State → Host.Outcome State Fault Refusal :=
  fire (shapeI h b 1) (fun f g => some (streamEff f g h b id)) noAfter

/-- `STRIDE` (R188). -/
def execStride (h : Hdr) (b : FI) : State → Host.Outcome State Fault Refusal :=
  fire (shapeI h b 1) (fun f g => some (streamEff f g h b (fun k => k * g.op 1))) noAfter

end Sys2Proof.Machine
end

