-- ==== Sys2Proof/Machine/Control.lean ====
section
/-! DEFINITION. The control, reduction and routing instructions (R190 to R212): steering, merging, loops, frames and calls,
tags and exits, accumulators, and tournaments. `SLOG` and `SREAD` are with the memory instructions. -/
namespace Sys2Proof.Machine

/-! ### Steering and merging -/

/-- `CONT` of operand `b`, which `STEER` and `STEERX` take (R193, R194). -/
def contB (g : Got) : BitVec 6 := match g.entry 1 with | some q => q.cont | none => g.cont

/-- `STEER` (R193). -/
def execSteer (h : Hdr) (b : FD) : State → Host.Outcome State Fault Refusal :=
  let arms := (shapeD h b 1).dests
  fire { shapeD h b 1 with eosTo := arms } (fun f g =>
    let df := (dest1Of b).getD .sink
    if g.live then
      let t := g.op 0 != 0
      some { Eff.none with outs := [{ Out.std f g (if t then b.d0 else df) (g.op 1) with cont := contB g, taken := t }] }
    else some { Eff.none with outs := [{ Out.dead f g df with cont := contB g, taken := false }] }) noAfter

/-- The continuation entry of an arm of `STEERX` (R194). -/
def steerxArm (b : FI) (k : Nat) : Dest := .cont (BitVec.ofNat 6 (immBits b.imm 0 6 + k))

/-- `STEERX` (R194). -/
def execSteerx (h : Hdr) (b : FI) : State → Host.Outcome State Fault Refusal :=
  let n := immBits b.imm 6 3 + 1
  let arms := (List.range n).map (steerxArm b)
  fire { shapeI h b 1 with eosTo := arms, dests := [] } (fun f g =>
    if !g.live then some { Eff.none with outs := [{ Out.dead f g (steerxArm b (n - 1)) with cont := contB g, taken := n == 1 }] }
    else if n ≤ (g.op 0).toNat then some { Eff.none with bad := some (fILLEGAL, 0) }
    else some { Eff.none with outs :=
      [{ Out.std f g (steerxArm b (g.op 0).toNat) (g.op 1) with cont := contB g, taken := g.op 0 == 0 }] }) noAfter

/-- One token of a queue as the only operand of a firing (R195, R196, R198). -/
def oneOperand (p i : Nat) (t : QTok) : Got :=
  ⟨[(p, t.e)], t.e.tag, t.e.cont, t.e.pred, .queues [(p, i)], [], none, [], []⟩

/-- The head that `MERGE` takes (R195): of two, the older under R131, and of equal tags port `a`'s. -/
def gatherMerge (_ : State) (f : FireCtx) : Gather :=
  let pl := f.e.active f.ctx
  match eosAt pl f.hnd [0, 1] with
  | some (p, q) => .eos p q
  | none => match headFor pl 0 f.hnd, headFor pl 1 f.hnd with
    | some a, some b => if tagOlder f.l b.e.tag a.e.tag then .ok (oneOperand 1 0 b) else .ok (oneOperand 0 0 a)
    | some a, none => .ok (oneOperand 0 0 a)
    | none, some b => .ok (oneOperand 1 0 b)
    | none, none => .none

/-- What a merge emits: the token's operand with its own tag, `CONT` and `PRED`. -/
def mergeEff (sh : Shape) (f : FireCtx) (g : Got) : Eff :=
  let v := match g.ops with | (_, q) :: _ => q.operand | [] => 0
  valueEff f g (sh.dests.map (fun d => (d, v))) Flag.none

/-- `MERGE` (R195). -/
def execMerge (h : Hdr) (b : FD) : State → Host.Outcome State Fault Refusal :=
  fireFrom (shapeD h b 1) gatherMerge (fun f g => some (mergeEff (shapeD h b 1) f g)) noAfter

/-- The older of two places in queues; of equal ones the first. -/
def olderPlace (l : Loan) (x y : Nat × Nat × QTok) : Nat × Nat × QTok := if tagOlder l y.2.2.e.tag x.2.2.e.tag then y else x

/-- The token that `MERGEO` takes (R196): the oldest of both queues that R192 releases, port `a` before port `b`. -/
def gatherMergeo (s : State) (f : FireCtx) : Gather :=
  if f.info.depth = 0 then gatherMerge s f
  else
    let pl := f.e.active f.ctx
    match eosAt pl f.hnd [0, 1] with
    | some (p, q) => .eos p q
    | none =>
      let places := [0, 1].flatMap (fun p => ((pl.queue p).zipIdx.filter (fun t =>
        t.1.e.hnd.toNat == f.hnd && t.1.e.kind == .data && f.l.releases f.info f.hkey t.1.e.tag)).map (fun t => (p, t.2, t.1)))
      match places with
      | [] => .none
      | x :: xs => let y := xs.foldl (olderPlace f.l) x; .ok (oneOperand y.1 y.2.1 y.2.2)

/-- The innermost loop around a handler. -/
def HInfo.loop (i : HInfo) : Nat := i.loops.getD (i.depth - 1) 0

/-- An order point's own pass bit set for a firing's iteration (R192). -/
def passOwn (f : FireCtx) (g : Got) (s : State) : State :=
  if f.info.depth = 0 then s else s.updLoan f.id (fun l => l.setPass f.info.loop f.info.depth g.tag [f.hkey])

/-- `MERGEO` (R196). -/
def execMergeo (h : Hdr) (b : FD) : State → Host.Outcome State Fault Refusal :=
  fireFrom (shapeD h b 1) gatherMergeo (fun f g => some (mergeEff (shapeD h b 1) f g)) passOwn

/-- `GATE` (R197). -/
def execGate (h : Hdr) (b : FD) : State → Host.Outcome State Fault Refusal := firePlain (shapeD h b 1) (fun g => g.op 0)

/-- `PRIME` (R201). -/
def execPrime (h : Hdr) (b : FI) : State → Host.Outcome State Fault Refusal :=
  firePlain (shapeI h b 1) (fun _ => signExtend32 20 b.imm.toNat)

/-! ### Loops -/

/-- The output tag of a `LOOPIN` before `TAGOP` (R198): `enter` from port `a`, `keep` from port `b`. -/
def loopinTag (d p : Nat) (t : Tag) : Tag := if p = 0 then t.setIt d 0 else t

/-- Whether `LOOPIN` admits a tag at its output depth (R198). -/
def admits (f : FireCtx) (bound p : Nat) (t : Tag) : Bool :=
  let d := f.info.depth
  let ks := f.l.inflight f.info.own t.frame.toNat (t.its d)
  let k := (t.it d).toNat
  if p = 0 then ks == [] || ks.contains 0
  else ks.contains k || decide (ks.length < bound)

/-- Words in the entry log of a region (R253). -/
def Loan.logWords (l : Loan) : Nat := (l.flights.map (fun g => g.log.length)).sum

/-- The head that `LOOPIN` takes: port `b` before port `a`, each when it is admitted (R198). -/
def gatherLoopin (op : TagOp) (bound : Nat) (_ : State) (f : FireCtx) : Gather :=
  let pl := f.e.active f.ctx
  match eosAt pl f.hnd [0, 1] with
  | some (p, q) => .eos p q
  | none =>
    let ok (p : Nat) (t : QTok) : Bool :=
      match applyTagop op (f.info.depth + 1) true (loopinTag f.info.depth p t.e.tag) with
      | some t' => admits f bound p t' && decide (f.l.logWords < 4096)
      | none => true
    match headFor pl 1 f.hnd, headFor pl 0 f.hnd with
    | some b, a => if ok 1 b then .ok (oneOperand 1 0 b) else (match a with
      | some a => if ok 0 a then .ok (oneOperand 0 0 a) else .none
      | none => .none)
    | none, some a => if ok 0 a then .ok (oneOperand 0 0 a) else .none
    | none, none => .none

/-- The port of a firing's only operand. -/
def Got.port (g : Got) : Nat := match g.ops with | (p, _) :: _ => p | [] => 0

/-- The loan with an iteration in flight and the operand that entered it in its log (R142, R253). -/
def Loan.enterLoop (l : Loan) (loop d hkey : Nat) (t : Tag) (q : QEntry) : Loan :=
  let its := t.its (d + 1)
  let hit (g : Flight) : Bool := g.loop == loop && g.frame == t.frame.toNat && g.its == its
  if l.flights.any hit then
    { l with flights := l.flights.map (fun g => if hit g then { g with log := g.log ++ [(hkey, q)] } else g) }
  else { l with flights := l.flights ++ [⟨loop, t.frame.toNat, its, [], false, [(hkey, q)], []⟩] }

/-- Whether an admission would be the ninth word of its iteration (R253). -/
def Loan.logFull (l : Loan) (loop d : Nat) (t : Tag) : Bool :=
  l.flights.any (fun g => g.loop == loop && g.frame == t.frame.toNat && g.its == t.its (d + 1) && decide (8 ≤ g.log.length))

/-- Whether a re-run has entered an iteration at a `LOOPIN` already, so that its back-edge token is discarded (R358); and the loan
without that mark. -/
def Loan.entered (l : Loan) (loop d hkey : Nat) (t : Tag) : Bool :=
  l.flights.any (fun g => g.loop == loop && g.frame == t.frame.toNat && g.its == t.its (d + 1) && g.again.contains hkey)
@[inherit_doc Loan.entered] def Loan.enter (l : Loan) (loop d hkey : Nat) (t : Tag) : Loan :=
  { l with flights := l.flights.map (fun g =>
      if g.loop = loop ∧ g.frame = t.frame.toNat ∧ g.its = t.its (d + 1) then { g with again := g.again.erase hkey } else g) }

/-- `LOOPIN` (R198): `TAGOP` acts after the built-in action, at depth d + 1. -/
def execLoopin (h : Hdr) (b : FI) : State → Host.Outcome State Fault Refusal :=
  let bound := immBits b.imm 0 7
  fireFrom { shapeI h b 1 with ports := [0, 1] } (gatherLoopin h.tagop bound) (fun f g =>
    let d := f.info.depth
    let t := loopinTag d g.port g.tag
    let q := match g.ops with | (_, q) :: _ => q | [] => mkEntry 0 0 .data false 0 0 g.tag
    let v := if g.live then q.operand else 0
    let o : Out := ⟨b.d0, v, g.live, .data, g.cont, t, d + 1, true, false, 0, g.prior⟩
    match applyTagop h.tagop (d + 1) true t with
    | none => some { Eff.none with outs := [o] }
    | some t' =>
      if g.port == 1 && f.l.entered f.info.own d f.hkey t' then
        some { Eff.none with loan := some (f.l.enter f.info.own d f.hkey t') }
      else if f.l.logFull f.info.own d t' then some { Eff.none with outs := [o], bad := some (fILLEGAL, 0) }
      else some { Eff.none with
        outs := [o]
        loan := some (f.l.enterLoop f.info.own d f.hkey t' { q with tag := t', operand := v, pred := g.live, prior := g.prior }) }) noAfter

/-- `NEXT` (R199). -/
def execNext (h : Hdr) (b : FD) : State → Host.Outcome State Fault Refusal :=
  fire (shapeD h b 1) (fun f g =>
    let k := f.info.depth - 1
    let e := valueEff f g ((shapeD h b 1).dests.map (fun d => (d, g.op 0))) Flag.none
    some { e with outs := e.outs.map (fun o => { o with tag := g.tag.setIt k (g.tag.it k + 1) }) }) noAfter

/-- `LOOPOUT` (R199): it clears the innermost field, emits at depth d − 1, and sets its iteration's pass bits (R192). -/
def execLoopout (h : Hdr) (b : FD) : State → Host.Outcome State Fault Refusal :=
  fire (shapeD h b 1) (fun f g =>
    let k := f.info.depth - 1
    let e := valueEff f g ((shapeD h b 1).dests.map (fun d => (d, g.op 0))) Flag.none
    some { e with outs := e.outs.map (fun o => { o with tag := g.tag.setIt k 0, depth := k }) })
    (fun f g s => s.updLoan f.id (fun l => l.setPass f.info.loop f.info.depth g.tag
      (match AMap.find f.img.loops f.info.loop with | some i => i.points | none => [])))

/-- `BOUND` (R200): a token passes only within its bound of the oldest iteration in flight. -/
def execBound (h : Hdr) (b : FI) : State → Host.Outcome State Fault Refusal :=
  fire (shapeI h b 1) (fun f g =>
    let d := f.info.depth - 1
    let ks := f.l.inflight f.info.loop g.tag.frame.toNat (g.tag.its d)
    let k := g.tag.it d
    match oldestIter ks with
    | some o => if ks.contains k.toNat && decide ((k - BitVec.ofNat 7 o).toNat < immBits b.imm 0 7) then
        some (valueEff f g [(b.d0, g.op 0)] Flag.none) else none
    | none => none) noAfter

/-! ### Frames, tags and exits -/

/-- The ports of the entry handler that `CALLF` sends its operands to (R202). -/
def callfOuts (b : FI) (n frame : Nat) (g : Got) : List Out :=
  match b.d0 with
  | .element i p e => (List.range n).map (fun k =>
      ⟨.element i (p + BitVec.ofNat 2 k) e, g.op k, true, .data, 0, Tag.initial frame, 0, true, true, 0, g.prior⟩)
  | _ => []

/-- `CALLF` (R202): a live firing allocates a frame for its operands; a dead one sends one dead token through the return
continuation. -/
def execCallf (h : Hdr) (b : FI) (s : State) : Host.Outcome State Fault Refusal :=
  let lat := match fireCtx? s with | some f => 6 + f.l.hops f.b | none => 6
  let ret := b.imm.extractLsb' 0 6
  let sh := { shapeI h b lat with eosTo := [], dests := [.cont ret] }
  fire sh (fun f g =>
    match applyTagop h.tagop f.info.depth true g.tag with
    | none => some { Eff.none with bad := some (fILLEGAL, 0) }
    | some t =>
      if !g.live then some { Eff.none with outs := [{ Out.dead f g (.cont ret) with tag := t, raw := true }] }
      else
        let act := match f.l.running f.ctx with | some (a, _) => a | none => 0
        let its := handlerIters f.img f.hkey g.tag
        match f.l.allocFrame f.img (f.l.ownImage f.ctx) (immBits b.imm 6 4) act false t ret its s.cycle with
        | none => none
        | some (id, l) => some { Eff.none with outs := callfOuts b h.arity.toNat id g, loan := some (l.addPend its 1) })
    (fun f g s => if g.live then
        -- the frame that this firing has allocated is the last
        match AMap.find s.loans f.id with
        | some l => match l.frames.find? (fun x => x.2.aseq == l.allocs) with
          | some (id, _) => s.startTriggers f.id f.ctx (Tag.initial id)
          | none => s
        | none => s
      else s) s

/-- A `CALLF` that lacks only a frame (R136, R137): its operands are there and live, nothing makes its outputs poison, and its output
buffers have room; the tag of `a`. -/
def callfBlocked (s : State) (h : Hdr) (b : FI) : Option Tag :=
  match fireCtx? s with
  | none => none
  | some f =>
    let sh := { shapeI h b 0 with eosTo := [], dests := [] }
    match gather? s f sh with
    | .ok g =>
      if g.live && (preFault f sh g).isNone && (applyTagop h.tagop f.info.depth true g.tag).isSome &&
          (f.l.allocFrame f.img (f.l.ownImage f.ctx) (immBits b.imm 6 4) 0 false g.tag 0 [] s.cycle).isNone &&
          roomFor s.cycle f.e (entriesNow (emissions f h.tagop false (callfOuts b h.arity.toNat 0 g))) then some g.tag
      else none
    | _ => none

/-- `RETF` (R203): the result goes through `RCONT` with the caller's tag, and the frame is released. -/
def execRetf (h : Hdr) (b : FD) (s : State) : Host.Outcome State Fault Refusal :=
  let lat := match fireCtx? s with | some f => 6 + f.l.hops f.b | none => 6
  fire { shapeD h b lat with eosTo := [], dests := [] } (fun f g =>
    match AMap.find f.l.frames g.tag.frame.toNat with
    | none => some { Eff.none with bad := some (fSTALE, 0) }
    | some fr =>
      if fr.released then some { Eff.none with bad := some (fSTALE, 0) }
      else if fr.first then some { Eff.none with
        bad := some (fILLEGAL, 0)
        loan := some { f.l with frames := AMap.put f.l.frames g.tag.frame.toNat { fr with touched := s.cycle } } }
      else
        let o := if g.live then Out.std f g (.cont fr.rcont) (g.op 0) else Out.dead f g (.cont fr.rcont)
        some { Eff.none with outs := [{ o with tag := fr.caller }] })
    (fun f g s => s.releaseFrame f.id g.tag.frame.toNat f.b) s

/-- `TAGRD` (R204). -/
def execTagrd (h : Hdr) (b : FD) : State → Host.Outcome State Fault Refusal :=
  fire (shapeD h b 1) (fun f g =>
    some (valueEff f g ((b.d0, (Tag.bits g.tag).extractLsb' 32 32) :: (dest1Of b).toList.map (fun d => (d, (Tag.bits g.tag).extractLsb' 0 32)))
      Flag.none)) noAfter

/-- The tag with the field that `TAGWR`'s word selects replaced; `none` where the word is refused (R204). -/
def tagwrTag (w : W32) (t : Tag) : Option Tag :=
  let k := (w.extractLsb' 29 3).toNat
  if k ≤ 5 then (if w.extractLsb' 7 22 = 0 then some (t.setIt k (w.extractLsb' 0 7)) else none)
  else if k = 6 then (if w.extractLsb' 6 23 = 0 then some { t with path := w.extractLsb' 0 6 } else none)
  else none

/-- `TAGWR` (R204): the field is replaced after `TAGOP`. -/
def execTagwr (h : Hdr) (b : FD) : State → Host.Outcome State Fault Refusal :=
  fire (shapeD h b 1) (fun f g =>
    let e := valueEff f g ((shapeD h b 1).dests.map (fun d => (d, g.op 0))) Flag.none
    let outs := e.outs.map (fun o => match applyTagop h.tagop f.info.depth o.taken o.tag with
      | some t => (tagwrTag (g.op 1) t).map (fun t' => { o with tag := t', raw := true })
      | none => none)
    if !g.live then some e
    else if outs.any Option.isNone then some { e with bad := some (fILLEGAL, 0) }
    else some { e with outs := outs.filterMap id }) noAfter

/-- `EXIT` (R205): a live firing sends an exit token with the tag of `a`; a dead one sends nothing. -/
def execExit (h : Hdr) (b : FD) : State → Host.Outcome State Fault Refusal :=
  fire { shapeD h b 1 with eosTo := [], dests := [] } (fun f g =>
    some { Eff.none with outs := if g.live then [{ Out.std f g b.d0 0 with kind := .exit, raw := true }] else [] }) noAfter

/-- `ENDS` (R206): an end-of-stream token with `a`'s operand and `PRED`. -/
def execEnds (h : Hdr) (b : FD) : State → Host.Outcome State Fault Refusal :=
  fire { shapeD h b 1 with eosTo := (shapeD h b 1).dests } (fun f g =>
    let outs := stdOuts f g ((shapeD h b 1).dests.map (fun d => (d, g.op 0)))
    some { Eff.none with outs := outs.map (fun o => { o with kind := .eos, pred := g.live }) }) noAfter

/-! ### Accumulators (R207 to R210) -/

/-- An accumulator of the firing's context. -/
def FireCtx.acc (f : FireCtx) (n : Nat) : W32 := AMap.get f.x.acc 0 n

/-- A single-accumulator update (R207): the new value is written at the end of the latency and emitted. -/
def fireAcc (h : Hdr) (b : FI) (lat : Nat) (op : W32 → W32 → W32 × Flags) : State → Host.Outcome State Fault Refusal :=
  let n := immBits b.imm 0 6
  fire { shapeI h b lat with accs := [n] } (fun f g =>
    let (v, fl) := op (f.acc n) (g.op 0)
    let e := valueEff f g [(b.d0, v)] fl
    some { e with accW := if g.live then [(n, v)] else [] }) noAfter

/-- `ACCADD` (R207). -/
def execAccadd (h : Hdr) (b : FI) : State → Host.Outcome State Fault Refusal :=
  fireAcc h b (if h.ty = .f32 then 3 else 1) (fun x a => if h.ty = .f32 then aluFadd .f32 x a else (x + a, Flag.none))

/-- `ACCMAX` (R207). -/
def execAccmax (h : Hdr) (b : FI) : State → Host.Outcome State Fault Refusal :=
  fireAcc h b 1 (fun x a => if h.ty = .f32 then aluFmax .f32 x a else (aluImax h.ty x a, Flag.none))

/-- `ACCSCL` (R207). -/
def execAccscl (h : Hdr) (b : FI) : State → Host.Outcome State Fault Refusal :=
  fireAcc h b 3 (fun x a => if h.ty = .f32 then aluFmul .f32 x a else (x * a, Flag.none))

/-- The accumulators that `ACCRD` and `ACCZ` name (R208). -/
def accRun (b : FI) : List Nat := (List.range (immBits b.imm 6 6 + 1)).map (fun i => immBits b.imm 0 6 + i)

/-- `ACCRD` (R208): one token a cycle in ascending order. -/
def execAccrd (h : Hdr) (b : FI) : State → Host.Outcome State Fault Refusal :=
  fire { shapeI h b 1 with accs := accRun b } (fun f g =>
    some { Eff.none with outs := (accRun b).zipIdx.map (fun p =>
      { (if g.live then Out.std f g b.d0 (f.acc p.1) else Out.dead f g b.d0) with delay := p.2 }) }) noAfter

/-- `ACCZ` (R208). -/
def execAccz (h : Hdr) (b : FI) : State → Host.Outcome State Fault Refusal :=
  fire { shapeI h b 1 with accs := accRun b, accOnly := true } (fun f g =>
    some { valueEff f g [(b.d0, g.op 0)] Flag.none with accW := if g.live then (accRun b).map (fun n => (n, 0)) else [] }) noAfter

/-- A frame slot emptied. -/
def State.clearSlot (s : State) (id f b n : Nat) : State :=
  s.updLoan id (fun l => match AMap.find l.frames f with
    | some fr => { l with frames := AMap.put l.frames f { fr with slots := AMap.del fr.slots (slotKey b n) } }
    | none => l)

/-- `ORDRED` (R209): terms in iteration order, as the match unit lets them into the ready list; the firing clears its slot and sets its pass bit. -/
def execOrdred (h : Hdr) (b : FI) : State → Host.Outcome State Fault Refusal :=
  let n := immBits b.imm 0 6
  fire { shapeI h b 3 with accs := [n] } (fun f g =>
    let (v, fl) := aluFadd .f32 (f.acc n) (g.op 0)
    let e := valueEff f g [(b.d0, v)] fl
    some { e with accW := if g.live then [(n, v)] else [] })
    (fun f g s => passOwn f g (s.clearSlot f.id g.tag.frame.toNat f.b (slotBase f.info g.tag)))

/-- The six accumulators of a group (R156). -/
def groupAccs (base : Nat) : List Nat := (List.range 6).map (· + base)

/-- `XACC` (R210): every lane of `a` exactly into the group. -/
def execXacc (h : Hdr) (b : FI) : State → Host.Outcome State Fault Refusal :=
  let accs := groupAccs (immBits b.imm 0 6)
  fire { shapeI h b 2 with accs := accs } (fun f g =>
    let (x, fl) := (List.range h.ty.lanes).foldl (fun (p : Int × Flags) i =>
      let (y, fl) := xaccAdd p.1 (laneFV h.ty (g.op 0) i)
      (y, p.2 ||| fl)) (groupInt (accs.map f.acc), Flag.none)
    let e := valueEff f g [(b.d0, g.op 0)] fl
    some { e with accW := if g.live then accs.zip (groupWords x) else [] }) noAfter

/-- `XRND` (R210): the group rounded once to FP32 or BF16. -/
def execXrnd (h : Hdr) (b : FI) : State → Host.Outcome State Fault Refusal :=
  let accs := groupAccs (immBits b.imm 0 6)
  let mode := immBits b.imm 7 3
  fire { shapeI h b 3 with accs := accs } (fun f g =>
    let (rs, next) := randomDraws 1 f.e.random
    let (v, fl) := (if immBits b.imm 6 1 = 1 then bf16 else fp32).write mode (rs.getD 0 0) false
      (ofScaled (groupInt (accs.map f.acc)) (-128))
    let e := valueEff f g [(b.d0, BitVec.ofNat 32 v)] fl
    some { e with rnd := if g.live && mode == 4 then some next else none }) noAfter

/-! ### Tournaments (R211, R212) -/

/-- Shape of `CFWD` and `CFWDX`, which read all four ports (R60). -/
def shapeTournament (h : Hdr) (b : FD) (lat : Nat) : Shape := { shapeD h b lat with ports := [0, 1, 2, 3] }

/-- The winner to `DEST0` and its index to `DEST1`. -/
def tournamentEff (f : FireCtx) (g : Got) (b : FD) (va vc : W32) : Eff :=
  let (v, i, fl) := tournament va (g.op 1) vc (g.op 3)
  valueEff f g ((b.d0, v) :: (dest1Of b).toList.map (fun d => (d, i))) fl

/-- `CFWD` (R211). -/
def execCfwd (h : Hdr) (b : FD) : State → Host.Outcome State Fault Refusal :=
  fire (shapeTournament h b 1) (fun f g => some (tournamentEff f g b (g.op 0) (g.op 2))) noAfter

/-- Whether an index is excluded by the mask in frame slots 0 to 7 of a frame in the firing element's bay (R212). -/
def excluded (f : FireCtx) (frame : Nat) (i : W32) : Bool :=
  match AMap.find f.l.frames frame with
  | some fr => let s := fr.slot f.b (i.toNat / 32); s.p && s.operand.getLsbD (i.toNat % 32)
  | none => false

/-- Whether a write of a frame's mask, in the firing element's bay, by a firing from which the operands descend is still to be made
(R212). -/
def maskAwaited (s : State) (f : FireCtx) (g : Got) (frame : Nat) : Bool :=
  (s.slotWrites f.id).any (fun x => match x.emit with
    | .slotWrite bay n q => bay == f.key / 256 && decide (n < 8) && q.tag.frame.toNat == frame && g.prior.any (fun k => x.writesSlot k)
    | _ => false)

/-- `CFWDX` (R212): an excluded candidate counts as −∞; an index of 256 or more is refused. It fires once the writes of its mask that come
before it along token arcs are made. -/
def execCfwdx (h : Hdr) (b : FD) (s : State) : Host.Outcome State Fault Refusal :=
  fire (shapeTournament h b 4) (fun f g =>
    let frame := g.tag.frame.toNat
    if maskAwaited s f g frame then none
    else if g.live && (decide (256 ≤ (g.op 1).toNat) || decide (256 ≤ (g.op 3).toNat)) then
      some { Eff.none with outs := deadOuts f g (shapeTournament h b 4).dests, bad := some (fILLEGAL, 0) }
    else
      let va := if excluded f frame (g.op 1) then 0xFF800000#32 else g.op 0
      let vc := if excluded f frame (g.op 3) then 0xFF800000#32 else g.op 2
      some (tournamentEff f g b va vc)) noAfter s

end Sys2Proof.Machine
end

