-- ==== Sys2Proof/Machine/Fabric.lean ====
section
/-! DEFINITION. The fabric (R41, R44 to R46, R127 to R138): results into output entries, hops, arrivals, the match unit, frame
slots, spills and refills, weights, sync queues (R301 to R305) and acknowledgements (R382). -/
namespace Sys2Proof.Machine

/-! ### Results into output entries (R127) -/

/-- The number of a side. -/
def sideIdx : Side → Nat
  | .north => 0 | .east => 1 | .south => 2 | .west => 3 | .own => 4 | .outside => 5

/-- The side of a number. -/
def sideOf : Nat → Side
  | 0 => .north | 1 => .east | 2 => .south | 3 => .west | 4 => .own | _ => .outside

/-- The side on which a link in a direction comes in. -/
def opposite (dir : Nat) : Nat := (dir + 2) % 4

/-- A post on its way to bay 0 (R303). -/
def State.sendPost (s : State) (id ctx index hnd : Nat) (p : Post) : State :=
  match AMap.find s.loans id with
  | some l => s.later (l.hops (index / 128) + 1) (.sqPostArrive id ⟨p.sq, ctx, p.tag, index, hnd, p.prior⟩)
  | none => s

/-- Cycles from the memory buffer to where an access is checked: a whole wave outside ordered loops leaves at once, every
other passes the wave buffer in bay 0 (R249). -/
def State.checkDelay (s : State) (n : Nat) : Nat :=
  match AMap.find s.accs n with
  | none => 1
  | some a => match AMap.find s.loans a.loan with
    | none => 1
    | some l => if a.passes l then 2 + l.hops (a.index / 128) else 1

/-- The accumulators that an `STQ` stores, read one cycle after its firing (R283). -/
def State.latchBlock (s : State) (n : Nat) : State :=
  match AMap.find s.accs n with
  | none => s
  | some a => match a.op, a.kind with
    | .store _ mask, .block =>
      let acc := ((s.el a.el).ctx a.ctx).acc
      { s with accs := AMap.put s.accs n { a with op := .store ((List.range 64).map (fun i => AMap.get acc 0 i)) mask } }
    | _, _ => s

/-- One emission leaves the pipeline: into its buffer, with the next stage due in the next cycle, or, when it needs no
hop, to its unit. -/
def State.emitFlit (s : State) (key index : Nat) (buf : Nat) (f : Flit) : State :=
  match f.emit with
  | .exit n q => match AMap.find s.loans f.loan with
    | some l => s.sendExit f.loan index q.hnd.toNat (q.ctx.toNat * 8 + n) (l.hops (index / 128) + 1)
    | none => s
  | .park q =>
    (s.updBay (key / 256) (fun b => { b with parkTrace := (b.parkTrace ++ [q]).drop (b.parkTrace.length + 1 - 16) })).dropFlit (index / 128) f
  | .capture bay tile i q =>
    (s.updBay bay (fun b => { b with captured := s.cycle + 1, colophon := { b.colophon with
      port := b.colophon.port ++ [⟨q.operand, q.pred, BitVec.ofNat 2 tile, BitVec.ofNat 6 i, q.tag, q.cont⟩] } })).dropFlit (index / 128) f
  | e =>
    let s := s.updEl key (fun x => { x with out := AMap.upd x.out [] buf (· ++ [f]) })
    match e with
    | .token _ | .served _ => if buf < 4 then s.later 1 (.tokenHop key (.buf (sideOf buf))) else s.later 1 (.tokenArrive key .own)
    | .slotWrite .. => s.later 1 (.frameSlotWrite key)
    | .request a => (s.latchBlock a).later (s.checkDelay a) (.waveAccessArrive a)
    | _ => s

/-- Whether an earlier output of the same handler has still to be written: outputs leave in ascending order (R208, R233). -/
def Pending.waitsFor (p : Pending) (e : Element) : Bool :=
  e.pending.any (fun q => !q.held && q.ctx == p.ctx && q.hnd == p.hnd && decide (q.due < p.due))

/-- Whether a captured token waits for the result port (R369): full, or entered in this cycle. -/
def State.captureWaits (s : State) (p : Pending) : Bool :=
  p.emits.any (fun x => match x.2.emit with
    | .capture bay _ _ _ => let b := s.bay bay; decide (64 ≤ b.colophon.port.length) || b.captured == s.cycle + 1
    | _ => false)

/-- `FIRING_RESULT_WRITE` (R127, R189, R207, R303): the result and the accumulators are written, and the post is made. An
output beyond the latency waits for a free entry, and that of an SC fence for the fence's place in its order (R328). -/
def execFiringResultWrite (el id : Nat) (s : State) : Host.Outcome State Fault Refusal :=
  let e := s.el el
  match e.pending.find? (fun p => p.id == id) with
  | none => .next s
  | some p =>
    let bufs := p.emits.map Prod.fst
    if (!p.held && (!roomFor s.cycle e bufs || p.waitsFor e)) || s.captureWaits p || s.ringHolds id then .next (s.later 1 (.firingResultWrite el id))
    else
      let ours := (e.ctx p.ctx).loan == some p.loan
      let index := (e.ctx p.ctx).logical
      let e := { e with
        pending := e.pending.filter (fun q => q.id != id)
        reserved := if p.held then bufs.foldl (fun m b => AMap.upd m 0 b (· - 1)) e.reserved else e.reserved }
      let e := if ours then e.updCtx p.ctx (fun x => { x with
          acc := p.accW.foldl (fun m w => AMap.put m w.1 w.2) x.acc
          badAcc := x.badAcc.filter (fun n => !p.accW.any (fun w => w.1 == n))
          emitting := if p.last then AMap.del x.emitting p.hnd else x.emitting }) else e
      let s := s.updEl el (fun _ => e)
      let s := p.emits.foldl (fun s x => s.emitFlit el index x.1 x.2) s
      .next (match p.post with
        | some q => s.sendPost p.loan p.ctx index p.hnd q
        | none => s)

/-! ### Hops (R45, R128, R361) -/

/-- The emissions that stand at a place before a hop. -/
def standing (e : Element) : HopSrc → List Flit
  | .buf d => AMap.get e.out [] (sideIdx d)
  | .link d => AMap.get e.links [] (sideIdx d)

/-- The element without the first emission at a place; an output entry freed counts from the next cycle (R127). -/
def takeStanding (cycle : Nat) (e : Element) : HopSrc → Element
  | .buf d =>
    let i := sideIdx d
    { e with out := AMap.upd e.out [] i (·.drop 1)
             freed := if e.freed.1 = cycle + 1 then (cycle + 1, i :: e.freed.2) else (cycle + 1, [i]) }
  | .link d => { e with links := AMap.upd e.links [] (sideIdx d) (·.drop 1) }

/-- Whether a token fails the check of every hop (R45). -/
def badToken (t : Token) : Bool := t.odd || t.rsvd || t.q.kind == .reserved

/-- A token that failed its check is lost (R361): its frame's count falls, PARITY_TOKEN is written, and the element that sent
it over a link is entered in its bay's bad-node register. -/
def State.lostToken (s : State) (el : Nat) (suspect : Option Nat) (b : Nat) (f : Flit) (t : Token) : State :=
  let s := s.dropFlit b f
  let (s, entry) := match suspect with
    | some p =>
      let (y, v) := addSuspect (s.bay (p / 256)) p
      (s.updBay (p / 256) (fun _ => y), v)
    | none => (s, 0)
  s.raise { Report.of fPARITYTOKEN with loan := some f.loan, el := some el, ctx := t.q.ctx.toNat, hnd := t.q.hnd.toNat,
                                        tag := some t.q.tag, detail := entry.setWidth 64 } [] []

/-- The element at a place of a loan's fabric: the spare that stands there, if one does (R115). -/
def Loan.keyAt (l : Loan) (place : Nat) : Nat :=
  match l.mapping.find? (fun p => l.bayKey (p.1 / 128) * 256 + p.1 % 128 == place) with
  | some (_, k) => k
  | none => place

/-- The element that sent what stands at an element: the element itself, or the neighbour on that side. -/
def senderOf (l : Loan) (key : Nat) : HopSrc → Nat
  | .buf _ => key
  | .link d => l.keyAt (neighbour (l.place key) (sideIdx d))

/-- Whether an arrival or a hop from a link of an element is due in this cycle. -/
def State.linkMoves (s : State) (el side : Nat) : Bool :=
  s.dueNow (fun i => i == .tokenArrive el (sideOf side) || i == .tokenHop el (.link (sideOf side)))

/-- `TOKEN_HOP` (R45, R128): the first token at a place moves one link towards its element, columns first, when the link is
free in this cycle and the next stage accepts it. -/
def execTokenHop (el : Nat) (src : HopSrc) (s : State) : Host.Outcome State Fault Refusal :=
  let e := s.el el
  if s.stopped (.element el) then .next (s.later 1 (.tokenHop el src))
  else match standing e src with
  | [] => .next s
  | f :: _ =>
    let gone := s.updEl el (fun e => takeStanding s.cycle e src)
    match AMap.find s.loans f.loan, f.emit with
    | some l, .token t =>
      let place := l.place el
      let goal := l.place (l.elKey t.el.toNat)
      let b := t.el.toNat / 128
      if badToken t then .next (gone.lostToken el (some (senderOf l el src)) b f t)
      else
        let dir := nextDir place goal
        if dir = 4 then .next (s.later 0 (.tokenArrive el (match src with | .link d => d | .buf _ => .own)))
        else
          let np := neighbour place dir
          let nk := if np = goal then l.elKey t.el.toNat else np
          let cost := stepCycles place np + (if el % 256 ≥ 128 then 1 else 0) + (if nk % 256 ≥ 128 then 1 else 0)
          let side := opposite dir
          let wait := s.later 1 (.tokenHop el src)
          if AMap.get e.linkUsed 0 dir = s.cycle + 1 ∨ AMap.get e.beatLink 0 dir = s.cycle + 1 then .next wait
          else if cost ≤ (AMap.get (s.el nk).links [] side).length then
            .next (if s.linkMoves nk side then s.later 0 (.tokenHop el src) else wait)
          else
            let s := gone.updEl el (fun e => { e with linkUsed := AMap.put e.linkUsed dir (s.cycle + 1) })
            let s := s.updEl nk (fun e => { e with links := AMap.upd e.links [] side (· ++ [f]) })
            .next (s.later cost (if np = goal then .tokenArrive nk (sideOf side) else .tokenHop nk (.link (sideOf side))))
    | _, _ => .next gone

/-! ### Arrivals (R41, R44, R46, R52) -/

/-- What stands on a side of an element and may arrive. -/
def arriving (cycle : Nat) (e : Element) (side : Nat) : Option Flit :=
  if side < 4 then (AMap.get e.links [] side).head?
  else if side = 4 then (AMap.get e.out [] 4).head?
  else match e.outside with
    | (t, f) :: _ => if t ≤ cycle then some f else none
    | [] => none

/-- The element without it. -/
def takeArriving (cycle : Nat) (e : Element) (side : Nat) : Element :=
  if side < 4 then takeStanding cycle e (.link (sideOf side))
  else if side = 4 then takeStanding cycle e (.buf .own)
  else { e with outside := e.outside.drop 1 }

/-- Tokens in a queue for the purpose of an arrival: one freed in the last cycle still counts (R41). -/
def queueFill (cycle : Nat) (e : Element) (c p : Nat) : Nat :=
  ((e.active c).queue p).length + (if e.fired = cycle then e.popped.count (c * 4 + p) else 0)

/-- Whether a queue has taken a token in this cycle. -/
def queueBusy (cycle : Nat) (e : Element) (c p : Nat) : Bool := e.accepted.1 == cycle + 1 && e.accepted.2.contains (c * 4 + p)

/-- A token entered into a queue; a sticky operand that has served comes back as one (R61). -/
def enqueue (cycle : Nat) (e : Element) (c p : Nat) (q : QEntry) (served : Bool) : Element :=
  let e := e.updActive c (fun pl => pl.updQueue p (· ++ [⟨q, cycle, served⟩]))
  { e with accepted := if e.accepted.1 = cycle + 1 then (cycle + 1, (c * 4 + p) :: e.accepted.2) else (cycle + 1, [c * 4 + p]) }

/-- The activation of a frame changed. -/
def Loan.updAct (l : Loan) (a : Nat) (f : Activation → Activation) : Loan :=
  match AMap.find l.acts a with
  | some x => { l with acts := AMap.put l.acts a (f x) }
  | none => l

/-- A token of a released frame is poison and discarded with FRAME_STALE (R52). -/
def State.staleToken (s : State) (el b : Nat) (f : Flit) (t : Token) : State :=
  (s.dropFlit b f).raise { Report.of fSTALE with loan := some f.loan, el := some el, ctx := t.q.ctx.toNat, hnd := t.q.hnd.toNat,
                                                 tag := some t.q.tag } [] []

/-- A token becomes poison where it lands and raises ILLEGAL_HANDLER (R46). -/
def State.poisonToken (s : State) (el b : Nat) (code : Nat) (loops : List Nat) (f : Flit) (t : Token) : State :=
  (s.dropFlit b f).raise { Report.of code with loan := some f.loan, el := some el, ctx := t.q.ctx.toNat, hnd := t.q.hnd.toNat,
                                               tag := some t.q.tag } loops []

/-- Where a token that stands at its element goes: nothing changes when it must wait on its link. -/
inductive Landing where
  | wait
  | discard
  | stale
  | parked
  | landed (act : Nat)
  | held (act : Nat)
  | illegal
  | queue
deriving DecidableEq, Repr

/-- The landing of a token (R41, R44, R46, R52, R342, R352, R355, R384). A queue that is full keeps it on its link, but while
its activation freezes or its loan is switched it goes to the park store. -/
def landing (s : State) (el side : Nat) (l : Loan) (t : Token) : Landing :=
  let e := s.el el
  let c := t.q.ctx.toNat
  let p := t.port.toNat
  if t.q.kind != .data && t.q.kind != .eos then .discard
  else if l.ended then .discard
  else match AMap.find l.frames t.q.tag.frame.toNat with
  | none => .stale
  | some fr =>
    if fr.released then (if (AMap.find l.acts fr.act).isNone || l.thaw.any (fun h => h.callee == fr.act) then .discard else .stale)
    else if fr.parked.isSome then .parked
    else match AMap.find l.acts fr.act with
    | none => .discard
    | some a =>
      let stopped := a.freezing && l.marked.contains (t.el.toNat / 128)
      if a.frozen || (stopped && l.thaw.isSome) then .held fr.act
      else
      -- a re-sent token enters its queue ahead of any new one (R350, R356)
      let behind := (a.landed ++ a.held).any (fun x => match x.2.emit.asToken with
        | some u => u.el == t.el && u.port == t.port && u.q.ctx == t.q.ctx
        | none => false)
      if (!a.freezing || l.thaw.isSome) && l.state == .running && behind then .wait
      else if (e.ctx c).loan.isNone || AMap.get (e.ctx c).handlers nopWord t.q.hnd.toNat == nopWord then .illegal
      else if queueBusy s.cycle e c p then .wait
      else if (behind && (stopped || l.state != .running)) || decide (4 ≤ queueFill s.cycle e c p) then
        (if stopped || l.state != .running then
          (if side = 5 then .held fr.act else .landed fr.act) else .wait)
      else .queue

/-- Whether a block reply is held at its element: a run is armed there, or a firing within its latency, an `MXLDACC` among them, writes an
accumulator (R207, R285). -/
def fillHeld (s : State) (el c : Nat) : Bool :=
  ((s.el el).ctx c).run.isSome || (s.el el).pending.any (fun p => p.ctx == c && p.accW != []) ||
    s.accs.any (fun (a : Nat × Access) => a.2.op == .mxload && a.2.el == el && a.2.ctx == c && !a.2.skip)

/-- The next line of a reply written: into `w0` to `w7`, or into the accumulators from 64 less the words left (R285). -/
def fillLine (e : Element) (c : Nat) (block : Bool) (words : List W32) : Element :=
  let ws := (words.take 8).zipIdx
  if block then e.updCtx c (fun x => { x with acc := ws.foldl (fun m w => AMap.put m (64 - words.length + w.2) w.1) x.acc })
  else e.updActive c (fun pl => { pl with w := ws.foldl (fun m w => AMap.put m w.2 w.1) pl.w })

/-- What a token that has landed does. -/
def State.land (s gone : State) (el : Nat) (side : Side) (b : Nat) (l : Loan) (f : Flit) (t : Token) : Landing → State
  | .wait => s.later 1 (.tokenArrive el side)
  | .discard => gone.dropFlit b f
  | .stale => gone.staleToken el b f t
  | .parked => (gone.updEl el (fun e => e.updCtx t.q.ctx.toNat (fun x => { x with perf := AMap.upd x.perf 0 4 (· + 1) }))).parkFlit b
      t.q.tag.frame.toNat f
  | .landed a =>
    let (place, s) := gone.parkTake f.loan b (some t.q.tag)
    s.updLoan f.loan (fun l => l.updAct a (fun x => { x with landed := x.landed ++ [(place, f)] }))
  | .held a =>
    let (place, s) := gone.parkTake f.loan b (some t.q.tag)
    s.updLoan f.loan (fun l => l.updAct a (fun x => { x with held := x.held ++ [(place, f)] }))
  | .illegal => gone.poisonToken el b fILLEGAL (hinfoOf (l.imageOf t.q.ctx.toNat) (handlerKey t.el.toNat t.q.hnd.toNat)).counted f t
  | .queue => (gone.updEl el (fun e => enqueue s.cycle e t.q.ctx.toNat t.port.toNat t.q (f.emit == .served t))).arrived f.loan

/-- A reply that still has words to write: held, or its next line is written; after the last its token enters or waits. -/
def State.fillStep (s gone : State) (el : Nat) (side : Side) (b : Nat) (l : Loan) (f : Flit) (t : Token) (block : Bool)
    (words : List W32) (w : Landing) : State :=
  let c := t.q.ctx.toNat
  let again (s : State) (now : Bool) (f : Flit) : State :=
    (s.updEl el (fun e => { e with outside := if now then (s.cycle + 1, f) :: e.outside else outsidePut e.outside (s.cycle + 1) f })).later 1
      (.tokenArrive el side)
  if block && fillHeld s el c then again gone false f
  else
    let gone := gone.updEl el (fun e => fillLine e c block words)
    let rest := words.drop 8
    if rest != [] then again gone true { f with emit := .fill t block rest }
    else if w == .wait then again gone true { f with emit := .token t }
    else gone.land gone el side b l { f with emit := .token t } t w

/-- `TOKEN_ARRIVE` (R41, R285): of several arrivals in one cycle those from the north go first, then east, south, west, the
element's own, and those from outside the element. A token at the head of its link that is for another element goes on by a hop. -/
def execTokenArrive (el : Nat) (side : Side) (s : State) : Host.Outcome State Fault Refusal :=
  let i := sideIdx side
  if s.stopped (.element el) then .next (s.later 1 (.tokenArrive el side))
  else if (List.range i).any (fun j => s.dueNow (fun x => x == .tokenArrive el (sideOf j))) then .next (s.later 0 (.tokenArrive el side))
  else match arriving s.cycle (s.el el) i with
  | none => .next s
  | some f =>
    let gone := s.updEl el (fun e => takeArriving s.cycle e i)
    match AMap.find s.loans f.loan, f.emit.asToken with
    | some l, some t =>
      let b := t.el.toNat / 128
      if !badToken t && decide (i < 4) && l.elKey t.el.toNat != el then .next (s.later 0 (.tokenHop el (.link side)))
      else if badToken t then
        .next (gone.lostToken el (if i < 4 then some (l.keyAt (neighbour (l.place el) i)) else if i = 4 then some el else none) b f t)
      else
        let w := landing s el i l t
        match f.emit with
        | .fill _ block (x :: xs) =>
          if w == .wait || w == .queue then .next (s.fillStep gone el side b l f t block (x :: xs) w)
          else .next (s.land gone el side b l f t w)
        | _ => .next (s.land gone el side b l f t w)
    | _, _ => .next gone

/-! ### Weights (R130) -/

/-- The weights that a context takes at its next refill. -/
def newWeights (x : ElCtx) : AMap Nat :=
  let top := (List.range 8).foldl (fun m h => max m (AMap.get x.occupancy 0 h)) 0
  (List.range 8).map (fun h => (h, if top = 0 then 1 else 1 + 15 * AMap.get x.occupancy 0 h / top))

/-- `WEIGHT_RECOMPUTE` (R130). -/
def execWeightRecompute (el : Nat) (s : State) : Host.Outcome State Fault Refusal :=
  .next (s.updEl el (fun e => { e with ctxs := e.ctxs.map (fun (p : Nat × ElCtx) =>
    (p.1, { p.2 with nextWeights := newWeights p.2, occupancy := [] })) }))

/-! ### The match unit (R134, R135, R209) -/

/-- The frame-mode token that the unit takes: of the heads of its queues, the first to arrive, the lower port first. -/
def matchHead (e : Element) : Option (Nat × Nat × QTok) :=
  let heads := (List.range 4).flatMap (fun p => (List.range 4).filterMap (fun c =>
    let x := e.ctx c
    match (e.active c).queue p with
    | t :: _ => if x.loan.isSome && t.e.kind == .data && (AMap.get x.handlers nopWord t.e.hnd.toNat).extractLsb' 54 2 == 1
      then some (c, p, t) else none
    | [] => none))
  heads.foldl (fun best y => match best with
    | none => some y
    | some z => if y.2.2.arr < z.2.2.arr then some y else some z) none

/-- The token that the unit holds while its frame is refilled (R299), or the one that it takes next. -/
def heldHead (e : Element) : Option (Nat × Nat × QTok) :=
  match e.matchHeld with
  | some (c, p) => match (e.active c).queue p with
    | t :: _ => if (e.ctx c).loan.isSome && t.e.kind == .data && (AMap.get (e.ctx c).handlers nopWord t.e.hnd.toNat).extractLsb' 54 2 == 1
      then some (c, p, t) else matchHead e
    | [] => matchHead e
  | none => matchHead e

/-- The slots of a handler in a frame that hold an operand. -/
def heldSlots (fr : Frame) (b base n : Nat) : List (Nat × Slot) :=
  ((List.range n).map (fun i => (base + i, fr.slot b (base + i)))).filter (fun p => p.2.p)

/-- The first of a handler's slots that is free. -/
def freeSlot (fr : Frame) (b base n : Nat) : Option Nat := ((List.range n).map (base + ·)).find? (fun i => !(fr.slot b i).p)

/-- An operand in a slot. -/
def slotEntry (t : QEntry) (s : Slot) : QEntry := { t with operand := s.operand, pred := s.pred, cont := s.cont, kind := .data, tag := s.tag, prior := s.prior }

/-- Operands in ascending port. -/
def byPort (ops : List (Nat × QEntry)) : List (Nat × QEntry) :=
  (List.range 4).flatMap (fun p => ops.filter (fun x => x.1 == p))

/-- Operands that make a firing: the ports that the handler reads (R60). -/
def operandCount (w : W64) : Nat := if w.getLsbD 43 then 1 else (w.extractLsb' 52 2).toNat

/-- What the match unit makes of a token for a frame that is there (R135). A match takes four cycles, to the end of which it touches the
slots that it reads or writes (R298). -/
def matchInto (s : State) (el : Nat) (id : Nat) (l : Loan) (c p : Nat) (t : QTok) (fr : Frame) : State :=
  let e := s.el el
  let x := e.ctx c
  let q := t.e
  let b := x.logical / 128
  let f := q.tag.frame.toNat
  let img := l.imageOf c
  let info := hinfoOf img (handlerKey x.logical q.hnd.toNat)
  let w := AMap.get x.handlers nopWord q.hnd.toNat
  let base := slotBase info q.tag
  let flit := tokenFlit img id x.logical p q
  let token : Token := ⟨BitVec.ofNat 13 x.logical, BitVec.ofNat 2 p, false, q⟩
  let s := s.updEl el (fun e => { (e.updActive c (fun pl => pl.updQueue p (·.drop 1))).updCtx c
    (fun x => { x with perf := AMap.upd x.perf 0 2 (· + 1) }) with matchHeld := none })
  let put (fr : Frame) (s : State) := s.updLoan id (fun l => { l with
    frames := AMap.put l.frames f { fr with touched := if info.nh = 0 then fr.touched else s.cycle + 4 } })
  let held := heldSlots fr b base info.nh
  if base + info.nh > fr.nslot then s.poisonToken el b fILLEGAL info.counted flit token
  else if held.any (fun h => h.2.port.toNat == p) then (put fr s).poisonToken el b fMISMATCH info.counted flit token
  else if w.extractLsb' 56 8 = 0x65 then
    -- `ORDRED` waits in its slot for its release (R209)
    (put { fr with slots := AMap.put fr.slots (slotKey b base) ⟨q.operand, true, q.pred, q.cont, BitVec.ofNat 2 p, false, q.tag, q.prior⟩ }
      (s.updEl el (fun e => { e with matching := e.matching ++ [(s.cycle + 4, ⟨c, q.hnd.toNat, [(p, q)], q.tag⟩)] }))).later 4 (.matchDone el)
  else if held.length < operandCount w - 1 then
    (match freeSlot fr b base info.nh with
      | some n => put { fr with slots := AMap.put fr.slots (slotKey b n) ⟨q.operand, true, q.pred, q.cont, BitVec.ofNat 2 p, false, q.tag, q.prior⟩ } s
      | none => put fr s)
  else
    let ops := byPort ((p, q) :: held.map (fun h => (h.2.port.toNat, slotEntry q h.2)))
    let tag := ((ops.head?).map (fun o => o.2.tag)).getD q.tag
    let s := s.updEl el (fun e => { e with matching := e.matching ++ [(s.cycle + 4, ⟨c, q.hnd.toNat, ops, tag⟩)] })
    (put { fr with slots := held.foldl (fun m h => AMap.del m (slotKey b h.1)) fr.slots } s).later 4 (.matchDone el)

/-- The refill of a spilled frame asked for (R137). -/
def State.askRefill (s : State) (id f : Nat) : State :=
  if s.agenda.any (fun y => y.2 == .frameRefill id f) then s else s.later 1 (.frameRefill id f)

/-- `MATCH_TOKEN` (R135): while the ready list is full the unit takes nothing; a token of a spilled frame stops the unit, which holds it,
until the refill (R137, R299). -/
def execMatchToken (el : Nat) (s : State) : Host.Outcome State Fault Refusal :=
  let e := s.el el
  if 4 ≤ e.ready.length ∨ s.stopped (.element el) then .next s
  else match heldHead e with
  | none => .next s
  | some (c, p, t) => match (e.ctx c).loan with
    | none => .next s
    | some id => match AMap.find s.loans id with
      | none => .next s
      | some l =>
        let f := t.e.tag.frame.toNat
        let x := e.ctx c
        let flit := tokenFlit (l.imageOf c) id x.logical p t.e
        let token : Token := ⟨BitVec.ofNat 13 x.logical, BitVec.ofNat 2 p, false, t.e⟩
        let drop := s.updEl el (fun e => { e.updActive c (fun pl => pl.updQueue p (·.drop 1)) with matchHeld := none })
        let hold := s.updEl el (fun e => { e with matchHeld := some (c, p) })
        match AMap.find l.frames f with
        | none => .next (drop.staleToken el (x.logical / 128) flit token)
        | some fr =>
          if fr.released then .next (drop.staleToken el (x.logical / 128) flit token)
          else if fr.refilling then .next hold
          else if fr.spilled then .next (hold.askRefill id f)
          else .next (matchInto s el id l c p t fr)

/-- An element whose completed matches have entered its ready list as far as its four places go, in order; an operand of `ORDRED` waits
in its slot instead (R135, R209). -/
def Element.matched (e : Element) (now : Nat) : Element :=
  let (done, rest) := e.matching.partition (fun m => decide (m.1 ≤ now))
  let (os, rs) := done.partition (fun m => m.2.isOrdred e)
  let room := 4 - e.ready.length
  { e with
    ready := e.ready ++ (rs.take room).map Prod.snd
    ordered := e.ordered ++ os.map Prod.snd
    matching := rs.drop room ++ rest }

/-- What R192 makes of the operands of `ORDRED` that wait in their slots: those that it releases, oldest first, each with its place and
whether its frame is in the matching store. -/
def releasedOrdered (s : State) (e : Element) : List (Nat × Ready × Bool) :=
  sortBy (fun x y => !(match (e.ctx x.2.1.ctx).loan with
      | some id => (AMap.find s.loans id).any (fun l => (e.ctx y.2.1.ctx).loan == some id && tagOlder l y.2.1.tag x.2.1.tag)
      | none => false))
    (e.ordered.zipIdx.filterMap (fun x =>
      let c := e.ctx x.1.ctx
      match c.loan with
      | none => none
      | some id => match AMap.find s.loans id with
        | none => none
        | some l =>
          let k := handlerKey c.logical x.1.hnd
          match AMap.find l.frames x.1.tag.frame.toNat with
          | none => none
          | some fr =>
            if fr.parked.isNone && (AMap.find l.acts fr.act).any (fun a => a.ctx == x.1.ctx && !a.frozen && !a.freezing) &&
                l.releases (hinfoOf (l.imageOf x.1.ctx) k) k x.1.tag then some (x.2, x.1, !fr.spilled && !fr.refilling)
            else none))

/-- `MATCH_DONE` (R135, R209): completed matches enter the ready list, and then the operands of `ORDRED` whose iterations R192 releases,
while it has a place. A released one whose frame is spilled asks for its refill first. -/
def execMatchDone (el : Nat) (s : State) : Host.Outcome State Fault Refusal :=
  let e := (s.el el).matched s.cycle
  let out := releasedOrdered s e
  let here := (out.filter (fun x => x.2.2)).take (4 - e.ready.length)
  let s := s.updEl el (fun _ => { e with
    ready := e.ready ++ here.map (fun x => x.2.1)
    ordered := (e.ordered.zipIdx.filter (fun x => !here.any (fun y => y.1 == x.2))).map Prod.fst })
  .next ((out.filter (fun x => !x.2.2)).foldl (fun s x => match (e.ctx x.2.1.ctx).loan with
    | some id => match AMap.find s.loans id with
      | some l => if (AMap.find l.frames x.2.1.tag.frame.toNat).any Frame.spilled then s.askRefill id x.2.1.tag.frame.toNat else s
      | none => s
    | none => s) s)

/-- `FRAME_SLOT_WRITE` (R64, R138): the matching store takes the memory buffer's entry and writes the slot; what the match unit
had placed there is discarded. A slot number that the frame does not have raises ILLEGAL_HANDLER. DESIGN CHOICE (log 149): the slot of
a spilled frame is written where the frame is, without a refill, which the spec does not say. -/
def execFrameSlotWrite (el : Nat) (s : State) : Host.Outcome State Fault Refusal :=
  match AMap.get (s.el el).out [] 5 with
  | [] => .next s
  | f :: _ => match f.emit with
    | .slotWrite bay n q =>
      let gone := s.updEl el (fun e => { e with
        out := AMap.upd e.out [] 5 (·.drop 1)
        freed := if e.freed.1 = s.cycle + 1 then (s.cycle + 1, 5 :: e.freed.2) else (s.cycle + 1, [5]) })
      match AMap.find s.loans f.loan with
      | none => .next gone
      | some l =>
        let b := ((List.range (l.w * l.h)).find? (fun b => l.bayKey b == bay)).getD 0
        let k := q.tag.frame.toNat
        let s := gone.dropFlit b f
        match AMap.find (match AMap.find s.loans f.loan with | some l => l.frames | none => []) k with
        | none => .next s
        | some fr =>
          if fr.released then .next s
          else if fr.nslot ≤ n then
            .next (s.raise { Report.of fILLEGAL with loan := some f.loan, el := some el, ctx := q.ctx.toNat, hnd := q.hnd.toNat, tag := some q.tag }
              [] [])
          else
            let old := fr.slot b n
            let s := (s.updLoan f.loan (fun l => { l with frames := AMap.put l.frames k { fr with
              slots := AMap.put fr.slots (slotKey b n) ⟨q.operand, true, q.pred, q.cont, 0, true, q.tag, q.prior⟩, touched := s.cycle } })).arrived f.loan
            .next (if old.p && !old.sw then
              (s.updLoan f.loan (fun l => l.addLive k (-1))).ack f.loan b (slotIters (l.imageOf q.ctx.toNat) n old.tag) else s)
    | _ => .next (s.later 1 (.frameSlotWrite el))

/-! ### Spills and refills (R137, R298, R299) -/

/-- Whether an element has no handler in any context that is lent: nothing waits or fires there. -/
def Element.bare (e : Element) : Bool := e.ctxs.all (fun (p : Nat × ElCtx) => p.2.loan.isNone || p.2.handlers == [])

/-- A `CALLF` of a region that waits for a frame and for nothing else: element, context, handler, and the tag of `a` (R136, R137). -/
def callfWaiting (s : State) (id : Nat) : Option (Nat × Nat × Nat × Tag) :=
  (s.els.filter (fun (p : Nat × Element) => !p.2.bare)).findSome? (fun (p : Nat × Element) => (List.range 32).findSome? (fun n =>
    let c := n / 8
    let h := n % 8
    let x := p.2.ctx c
    if x.loan = some id then
      match handlerInstr? x h with
      | some (.callf hd b) => (callfBlocked (s.focusOn p.1 c h) hd b).map (fun t => (p.1, c, h, t))
      | _ => none
    else none))
where
  /-- The instruction of a handler. -/
  handlerInstr? (x : ElCtx) (h : Nat) : Option Instr := (decodeHandler (AMap.get x.handlers nopWord h)).toOption

/-- Whether a frame has a firing in a ready list or in a match unit's pipeline (R137); an operand of `ORDRED` that waits in its slot is in
neither (R209). -/
def frameInMatch (s : State) (id f : Nat) : Bool :=
  s.els.any (fun (p : Nat × Element) => (p.2.ready ++ p.2.matching.map Prod.snd).any (fun r =>
    (p.2.ctx r.ctx).loan == some id && r.tag.frame.toNat == f))

/-- The frame to spill (R298): the one touched least recently; of equals the one allocated earlier. -/
def spillVictim (s : State) (id : Nat) (l : Loan) (keep : Nat) : Option (Nat × Frame) :=
  let cs := l.frames.filter (fun (p : Nat × Frame) =>
    p.1 != keep && !p.2.spilled && !p.2.released && !p.2.refilling && p.2.spillPlace.isNone && !frameInMatch s id p.1)
  cs.foldl (fun best y => match best with
    | none => some y
    | some z => if y.2.touched < z.2.touched || (y.2.touched == z.2.touched && y.2.aseq < z.2.aseq) then some y else some z) none

/-- Room for the `n` bytes of each bay in its own `ANNEXRES`, and for those of the other bays in the slip's `ANNEX` (R137): the loan that
has taken it, and the bays whose part is in the annex. -/
def Loan.annexTake (l : Loan) (n : Nat) : Option (List Nat × Loan) :=
  let (own, far) := (List.range (l.w * l.h)).partition (fun b => decide (AMap.get l.bayUsed 0 b + n ≤ AMap.get l.annexRes 0 b))
  if l.annexUsed + n * far.length ≤ l.slip.annex * 2 ^ 20 then
    some (far, { l with
      bayUsed := own.foldl (fun m b => AMap.upd m 0 b (· + n)) l.bayUsed
      annexUsed := l.annexUsed + n * far.length })
  else none

/-- The loan with that room given back. -/
def Loan.annexGive (l : Loan) (far : List Nat) (n : Nat) : Loan :=
  let own := (List.range (l.w * l.h)).filter (fun b => !far.contains b)
  { l with
    bayUsed := own.foldl (fun m b => AMap.upd m 0 b (· - n)) l.bayUsed
    annexUsed := l.annexUsed - n * far.length }

/-- Cycles of a spill or refill: 64 bytes a cycle in each bay (R137, R299). -/
def spillCycles (fr : Frame) : Nat := (frameBytes fr.nslot + 63) / 64

/-- An element with one more in a counter of every context that a loan holds there (R358). -/
def Element.countFor (e : Element) (id sel : Nat) : Element :=
  { e with ctxs := e.ctxs.map (fun (p : Nat × ElCtx) =>
      if p.2.loan = some id then (p.1, { p.2 with perf := AMap.upd p.2.perf 0 sel (· + 1) }) else p) }

/-- A spill begun, its end due; with no room anywhere, ANNEX_FULL on the frame that waits (R137). -/
def State.beginSpill (s : State) (id : Nat) (v : Nat × Frame) (waits : Option (Report × List Nat)) (next : Instr) : State :=
  match AMap.find s.loans id with
  | none => s
  | some l => match l.annexTake (frameBytes v.2.nslot) with
    | some (far, l) =>
      let l := { l with
        frames := AMap.put l.frames v.1 { v.2 with spillPlace := some far, spillEnd := s.cycle + spillCycles v.2 }
        spills := l.spills + 1 }
      ({ s with loans := AMap.put s.loans id l, els := s.els.map (fun (p : Nat × Element) => (p.1, p.2.countFor id 5)) }).later
        (spillCycles v.2) next
    | none => match waits with
      | some (r, loops) => s.raise r loops []
      | none => s

/-- Whether a frame's spill is under way. -/
def Frame.spilling (fr : Frame) : Bool := fr.spillPlace.isSome && !fr.spilled && !fr.refilling

/-- The frames whose spill has run its course leave the store. -/
def endSpills (l : Loan) (now : Nat) : Loan :=
  { l with frames := l.frames.map (fun (p : Nat × Frame) =>
      (p.1, if p.2.spilling && decide (p.2.spillEnd ≤ now) then { p.2 with spilled := true } else p.2)) }

/-- What ANNEX_FULL says of a configuration call whose arguments wait for a frame (R352), unless its frame is parked already. -/
def Loan.callWaits (l : Loan) : Option (Report × List Nat) :=
  match l.calling with
  | some c =>
    if l.waitingCall && (AMap.find l.frames c.tag.frame.toNat).any (fun f => f.parked.isNone) then
      some ({ Report.of fANNEX with el := some c.el, ctx := c.ctx, hnd := c.hnd, tag := some c.tag },
        (hinfoOf c.callerImage (handlerKey c.index c.hnd)).counted)
    else none
  | none => none

/-- `FRAME_SPILL` (R137, R298): begins the spill of the least recently touched frame, and ends it when its bytes are
written. -/
def execFrameSpill (loan : Nat) (s : State) : Host.Outcome State Fault Refusal :=
  match AMap.find s.loans loan with
  | none => .next s
  | some l =>
    if l.frames.any (fun p => p.2.spilling) then .next (s.updLoan loan (fun l => endSpills l s.cycle))
    else match spillVictim s loan l 0 with
    | none => .next s
    | some v =>
      let waits := match callfWaiting s loan with
        | some (k, c, h, t) => some ({ Report.of fANNEX with loan := some loan, el := some k, ctx := c, hnd := h, tag := some t },
            (hinfoOf (l.imageOf c) (handlerKey ((s.el k).ctx c).logical h)).counted)
        | none => l.callWaits.map (fun r => ({ r.1 with loan := some loan }, r.2))
      .next (s.beginSpill loan v waits (.frameSpill loan))

/-- The lowest free offset for a frame that is refilled (R299). -/
def Loan.refillPlace (l : Loan) (fr : Frame) : Option Nat :=
  let own := match AMap.find l.acts fr.act with | some a => l.ownImage a.ctx | none => false
  l.placeFrame own fr.cls fr.nslot

/-- `FRAME_REFILL` (R299): spills frames one at a time until the frame fits, copies it back at 64 bytes a cycle, and ends. A spill that is
under way is completed first. -/
def execFrameRefill (loan frame : Nat) (s : State) : Host.Outcome State Fault Refusal :=
  let s := s.updLoan loan (fun l => endSpills l s.cycle)
  match AMap.find s.loans loan with
  | none => .next s
  | some l => match AMap.find l.frames frame with
    | none => .next s
    | some fr =>
      if fr.refilling then
        let l := { l with frames := AMap.put l.frames frame { fr with refilling := false, touched := s.cycle, spillPlace := none } }
        .next { s with loans := AMap.put s.loans loan (l.annexGive (fr.spillPlace.getD []) (frameBytes fr.nslot)) }
      else if !fr.spilled then .next s
      else if l.frames.any (fun p => p.2.spilling) then .next (s.later 1 (.frameRefill loan frame))
      else match l.refillPlace fr with
      | some o =>
        let l := { l with frames := AMap.put l.frames frame { fr with spilled := false, refilling := true, offset := o } }
        .next (({ s with loans := AMap.put s.loans loan l }).later (spillCycles fr) (.frameRefill loan frame))
      | none => match spillVictim s loan l frame with
        | none => .next (s.later 1 (.frameRefill loan frame))
        | some v => .next (s.beginSpill loan v (some ({ Report.of fANNEX with loan := some loan, tag := some (Tag.initial frame) }, []))
            (.frameRefill loan frame))

/-! ### Sync queues (R301 to R305) -/

/-- The sync queue that a handler's word names (R61, R67). -/
def sqNumber (img : Image) (hkey : Nat) (i : Instr) : Nat :=
  match handlerView i with
  | none => 0
  | some v => match v.body with
    | .d b | .di (.d b) => sqOfD b
    | .i b | .di (.i b) => sqOfI b
    | .m _ => match AMap.find img.attrs hkey with | some a => a.sq.toNat | none => 0
    | _ => 0

/-- Claims in the order of their grants (R302): arrival, element index, handler. -/
def claimBefore (a b : Nat × Nat × Nat) : Bool :=
  a.1 < b.1 || (a.1 == b.1 && (a.2.1 < b.2.1 || (a.2.1 == b.2.1 && a.2.2 < b.2.2)))

/-- A claim put in its place. -/
def claimPut (x : Nat × Nat × Nat) : List (Nat × Nat × Nat) → List (Nat × Nat × Nat)
  | [] => [x]
  | y :: ys => if claimBefore x y then x :: y :: ys else y :: claimPut x ys

/-- Grants of a queue while it has credits, each on its way back (R302); the credit is that of the oldest post (R305). -/
def State.grant (s : State) (id q : Nat) : State :=
  match AMap.find s.loans id with
  | none => s
  | some l => match AMap.get l.claims [] q with
    | (_, index, hnd) :: rest =>
      let n := AMap.get l.sq 0 q
      if n = 0 then s
      else ({ s with loans := AMap.put s.loans id { l with
          sq := AMap.put l.sq q (n - 1), claims := AMap.put l.claims q rest, sqPrior := AMap.upd l.sqPrior [] q (·.drop 1)
          creditPrior := match AMap.get l.sqPrior [] q with
            | p :: _ => if p = [] then l.creditPrior else AMap.put l.creditPrior (creditKey (q / 16) (handlerKey index hnd)) p
            | [] => l.creditPrior } }).later
        (l.hops (index / 128) + 1) (.sqGrantArrive id index hnd)
    | [] => s

/-- The context in which a handler of a loan's element has its claim. -/
def claimCtx (e : Element) (loan hnd : Nat) : Option Nat :=
  (List.range 4).find? (fun c => (e.ctx c).loan == some loan && (e.ctx c).claims.contains hnd)

/-- `SQ_CLAIM_ARRIVE` (R302): claims that arrive in one cycle are granted when the last is there, in ascending element index
and handler. A post that arrives in that cycle waits for them. -/
def execSqClaimArrive (loan index hnd : Nat) (s : State) : Host.Outcome State Fault Refusal :=
  match AMap.find s.loans loan with
  | none => .next s
  | some l =>
    let e := s.el (l.elKey index)
    match claimCtx e loan hnd with
    | none => .next s
    | some c => match (decodeHandler (AMap.get (e.ctx c).handlers nopWord hnd)).toOption with
      | none => .next s
      | some i =>
        let q := c * 16 + sqNumber (l.imageOf c) (handlerKey index hnd) i
        let l := { l with claims := AMap.put l.claims q (claimPut (s.cycle, index, hnd) (AMap.get l.claims [] q)) }
        let s := { s with loans := AMap.put s.loans loan l }
        if s.dueNow (fun j => match j with | .sqClaimArrive id _ _ => id == loan | _ => false) then .next s
        else .next ((List.range 64).foldl (fun s q => (AMap.get l.claims [] q).foldl (fun s _ => s.grant loan q) s) s)

/-- `SQ_GRANT_ARRIVE` (R302): the credit latch is set. -/
def execSqGrantArrive (loan index hnd : Nat) (s : State) : Host.Outcome State Fault Refusal :=
  match AMap.find s.loans loan with
  | none => .next s
  | some l =>
    let k := l.elKey index
    match claimCtx (s.el k) loan hnd with
    | none => .next s
    | some c => .next ((s.updEl k (fun e => e.updCtx c (fun x => { x with claims := x.claims.erase hnd, latch := hnd :: x.latch }))).arrived loan)

/-- `SQ_POST_ARRIVE` (R303, R304): one credit more; at 65,535 nothing is added and ILLEGAL_HANDLER names the queue. -/
def execSqPostArrive (loan : Nat) (post : SqPost) (s : State) : Host.Outcome State Fault Refusal :=
  match AMap.find s.loans loan with
  | none => .next s
  | some l =>
    if s.dueNow (fun j => match j with | .sqClaimArrive id _ _ => id == loan | _ => false) then .next (s.later 0 (.sqPostArrive loan post))
    else
    let q := post.ctx * 16 + post.sq
    let n := AMap.get l.sq 0 q
    if n = 65535 then
      .next (s.raise { Report.of fILLEGAL with loan := some loan, el := some (l.elKey post.index), ctx := post.ctx, hnd := post.hnd,
                                               tag := some post.tag, detail := BitVec.ofNat 64 post.sq }
        (hinfoOf (l.imageOf post.ctx) (handlerKey post.index post.hnd)).counted [])
    else .next (({ s with loans := AMap.put s.loans loan { l with
        sq := AMap.put l.sq q (n + 1), sqPrior := AMap.upd l.sqPrior [] q (· ++ [post.prior]) } }).grant loan q)

/-! ### Acknowledgements (R382) -/

/-- `RETIRE_ACK` (R382): pending counts change. -/
def execRetireAck (loan : Nat) (deltas : List AckDelta) (s : State) : Host.Outcome State Fault Refusal :=
  .next (s.updLoan loan (fun l => deltas.foldl (fun l d => l.addPend [(d.frame, d.its)] d.delta) l))

end Sys2Proof.Machine
end

