-- ==== Sys2Proof/Machine/Access.lean ====
section
/-! DEFINITION. Accesses to memory (R237 to R252, R280 to R289, R324): where they fall, what they read and write, the
waves and the commit buffer, faults, replies, and the cells that carry them. -/
namespace Sys2Proof.Machine

/-! ### Places (R237, R240, R241) -/

/-- The record of a window of a loan's context. -/
def Loan.windowAt (l : Loan) (c n : Nat) : Option Window := AMap.find (l.imageOf c).windows n

/-- Address in tile memory of a bay-local address (R237). -/
def tileTr (bay x : Nat) : Nat := bay * 2 ^ 22 + x

/-- Physical address of a virtual one in a square whose physical address is known. -/
def virtTr (w : Window) (q phys x : Nat) : Nat := phys + (x - (w.base + q * squareSize w.ty))

/-- The bay of the requester (R245). -/
def Access.bayOf (a : Access) (l : Loan) : Nat := l.bayKey (a.index / 128)

/-- Translation of an access's line addresses. -/
def Access.tr (a : Access) (l : Loan) (w : Window) : Nat → Nat :=
  if w.virt then virtTr w (a.off / squareSize w.ty) a.phys else tileTr (a.bayOf l)

/-- What the loader knows of the handler of an access. -/
def Access.info (a : Access) (l : Loan) : HInfo := hinfoOf (l.imageOf a.ctx) (handlerKey a.index a.hnd)

/-- The iterations that an access belongs to. -/
def Access.iters (a : Access) (l : Loan) : List (Nat × List Nat) := handlerIters (l.imageOf a.ctx) (handlerKey a.index a.hnd) a.tag

/-- The innermost loop around a handler; 0 at depth 0. -/
def HInfo.innermost (i : HInfo) : Nat := if i.depth = 0 then 0 else i.loops.getD (i.depth - 1) 0

/-- Whether an access stores words (R251). -/
def Access.isStore (a : Access) : Bool := match a.op with | .store .. | .slog _ => true | _ => false

/-- Whether an access is an atomic (R288). -/
def Access.isAtomic (a : Access) : Bool := match a.op with | .atomic .. => true | _ => false

/-- Whether an access is an `AINCB`, and its claimant key (R289). -/
def Access.claimKey (a : Access) : Option Nat := match a.op with | .atomic op _ _ c => if op = 0x8F then some c.toNat else none | _ => none

/-- Whether an access is a decanter's block (R257). -/
def Access.isDecant (a : Access) : Bool := match a.op with | .decant .. => true | _ => false

/-- Whether an access is a store that waits for its iteration to retire (R251). -/
def Access.deferred (a : Access) (l : Loan) : Bool := a.isStore && (a.info l).depth != 0

/-- The places of the words that an access touches, in ascending order. -/
def Access.places (a : Access) (w : Window) : List (Nat × Nat × Nat) :=
  match a.op with
  | .slog _ | .sread => (List.range 4).map (fun i => wordPlace w (a.off + 4 * i))
  | _ => accessPlaces w a.kind a.off

/-- The words that a store writes, with their places (R283, R214). -/
def Access.writes (a : Access) (w : Window) : List ((Nat × Nat × Nat) × W32) :=
  match a.op with
  | .store data mask => (((a.places w).zip data).zipIdx.filter (fun p => maskKeeps a.kind mask p.2)).map Prod.fst
  | .slog ws => (a.places w).zip ws
  | _ => []

/-- The offset of a place, where it is an aligned word of the window. -/
def placeOff (w : Window) (o : Bool) (p : Nat × Nat × Nat) : Nat :=
  if o then p.1 * squareSize w.ty + p.2.2 * 32 + p.2.1 * 4 else p.1 * squareSize w.ty + p.2.1 * 32 + p.2.2 * 4

/-- Translation of a deferred store's line addresses. -/
def Store.tr (t : Store) : Nat → Nat := if t.win.virt then virtTr t.win t.q t.home else tileTr t.home

/-- A word of a deferred store written. -/
def Store.apply (m : List Host.Cell) (t : Store) : List Host.Cell :=
  if t.void then m else writeLineWord m t.tr t.win t.first t.q t.j t.o t.k t.value

/-- Deferred stores that a read of an access sees in the moment in which it is performed (R251, R323): those of its own wave in the commit
buffer, and in an ordered loop those of older iterations of its instance, also of retired ones that have not committed yet. -/
def Loan.seenStores (l : Loan) (a : Access) : List Store :=
  let info := a.info l
  let d := info.depth
  if d = 0 || a.isDecant || a.isStore || a.isAtomic then []
  else
    let ordered := (l.imageOf a.ctx).inOrdered (handlerKey a.index a.hnd)
    let near (t : Store) : Bool := !t.void && t.loop == info.innermost && t.tag.frame == a.tag.frame
    let older (t : Store) : Bool := ordered && t.tag.its (d - 1) == a.tag.its (d - 1) && iterOlder (t.tag.it (d - 1)) (a.tag.it (d - 1))
    l.releasing.filter (fun t => near t && older t) ++ l.commit.filter (fun t => near t && (t.tag.its d == a.tag.its d || older t))

/-! ### What a release waits for (R282, R311) -/

/-- The iterations of callers that a frame holds up, through every caller (R382). -/
def Loan.callerIters (l : Loan) : Nat → Nat → List (Nat × List Nat)
  | 0, _ => []
  | fuel + 1, f => match AMap.find l.frames f with
    | some fr => fr.iters ++ Loan.callerIters l fuel fr.caller.frame.toNat
    | none => []

/-- The iterations that an operation of a handler holds up. -/
def Loan.ownIters (l : Loan) (img : Image) (hkey : Nat) (t : Tag) : List (Nat × List Nat) :=
  handlerIters img hkey t ++ l.callerIters 64 t.frame.toNat

/-! ### ECC (R363, R364) -/

/-- The aligned 64-bit units of tile memory that a word at a place touches. -/
def placeUnits (tr : Nat → Nat) (w : Window) (first : Nat) (o : Bool) (p : Nat × Nat × Nat) : List Nat :=
  ((List.range 32).map (fun i => let b := lineBit w first p.1 p.2.1 o (32 * p.2.2 + i); (tr b.1 + b.2 / 8) / 8)).eraseDups

/-- The units that an access touches. -/
def Access.units (a : Access) (l : Loan) (w : Window) : List Nat :=
  ((a.places w).flatMap (placeUnits (a.tr l w) w l.firstLine a.o)).eraseDups

/-- The memory tile of a tile window. -/
def Window.tile (w : Window) : Nat := w.base / 2 ^ 20 % 4

/-- A counter of a memory tile, saturating at 0xFFFF. -/
def bump16 (v : BitVec 16) : BitVec 16 := if v = 0xFFFF then v else v + 1

/-- A read's single-bit errors corrected and counted (R363). -/
def State.correct (s : State) (bay tile : Nat) (units : List Nat) : State :=
  let hit := s.eccBad.filter (fun e => !e.2 && units.contains e.1)
  if hit = [] then s
  else
    let s := { s with eccBad := s.eccBad.filter (fun e => !hit.contains e) }
    s.updBay bay (fun y => { y with corr := hit.foldl (fun m _ => AMap.upd m 0 tile bump16) y.corr })

/-- Whether a read meets an uncorrectable error (R364). -/
def State.eccFails (s : State) (units : List Nat) : Bool := s.eccBad.any (fun e => e.2 && units.contains e.1)

/-! ### Atomics (R288) -/

/-- What an atomic makes of a word: the new value and the reply; `none` is the poison of `ABIT`. -/
def atomicResult (op : Nat) (ty : Ty) (m b c : W32) : Option (W32 × W32) :=
  match op with
  | 0x88 => some (m + b, m)
  | 0x89 => some ((aluFadd ty m b).1, m)
  | 0x8A => some (aluImin ty m b, m)
  | 0x8B => some (aluImax ty m b, m)
  | 0x8C => some (b, m)
  | 0x8D => some (if m = b then c else m, m)
  | 0x8E =>
    if b.extractLsb' 7 25 ≠ 0 then none
    else
      let bit : W32 := 1 <<< (b.extractLsb' 0 5).toNat
      some ((match (b.extractLsb' 5 2).toNat with
        | 0 => m ||| bit
        | 1 => m &&& ~~~bit
        | 2 => m ^^^ bit
        | _ => m), m)
  | _ =>
    let below := if ty = .i32 then decide (m.toInt < b.toInt) else decide (m.toNat < b.toNat)
    if below && !(ty == .i32 && m == 0xFFFFFFFF) then some (m + 1, m) else some (m, 0xFFFFFFFF)

/-! ### The wave buffer (R246 to R250) -/

/-- Whether a wave record is that of a tag and class. -/
def Wave.isOf (v : Wave) (t : Tag) (cls : Nat) : Bool := v.frame == t.frame.toNat && v.its == t.its 6 && v.cls == cls

/-- The record of an access's wave. -/
def Loan.waveOf (l : Loan) (t : Tag) (cls : Nat) : Option Wave := l.waves.find? (fun v => v.isOf t cls)

/-- Whether an access is performable by the order of its wave (R247). -/
def Loan.inTurn (l : Loan) (a : Access) (now : Nat) : Bool :=
  a.whole ||
  match l.waveOf a.tag (a.info l).innermost with
  | none => a.predd == 7
  | some v => v.cyc != now + 1 && !v.complete &&
      (if a.predd = 7 then false
       else if a.predd = 0 then decide (1 ≤ v.s) && decide (v.s ≤ 6) && v.last + v.s == a.own
       else v.last + a.predd == a.own)

/-- Whether the ordered loop around an access lets its wave begin (R250). -/
def Loan.ordersIn (l : Loan) (a : Access) : Bool :=
  let info := a.info l
  if !(l.imageOf a.ctx).inOrdered (handlerKey a.index a.hnd) || !(a.predd == 7) || a.isDecant then true
  else
    let k := info.depth - 1
    let prev := a.tag.it k - 1
    !(l.inflight info.innermost a.tag.frame.toNat (a.tag.its k)).contains prev.toNat ||
      (match l.waveOf (a.tag.setIt k prev) info.innermost with | some v => v.complete | none => false)

/-- Accesses of a loan that wait in its wave buffer look again in the next cycle. -/
def State.wakeWaves (s : State) (loan : Nat) : State :=
  s.accs.foldl (fun s (p : Nat × Access) =>
    if p.2.loan = loan ∧ p.2.stage = .waiting then s.later 1 (.accessPerform p.1) else s) s

/-- An access settles (R247, R324): its wave's *L* and *s* are set. The record of a complete wave stays only where an
ordered loop asks for it. -/
def State.settle (s : State) (a : Access) : State :=
  if a.isDecant || a.dead then s else
  let s := s.updLoan a.loan (fun l =>
    let cls := (a.info l).innermost
    let rest := l.waves.filter (fun v => !v.isOf a.tag cls)
    let v : Wave := ⟨a.tag.frame.toNat, a.tag.its 6, cls, a.own, a.succd, a.succd == 7, s.cycle + 1⟩
    if a.succd = 7 ∧ ¬(l.imageOf a.ctx).inOrdered (handlerKey a.index a.hnd) then { l with waves := rest }
    else { l with waves := rest ++ [v] })
  s.wakeWaves a.loan

/-! ### Ends of an access -/

/-- An access is gone: it counts no longer (R50, R382). -/
def State.dropAccess (s : State) (id : Nat) : State :=
  match AMap.find s.accs id with
  | none => s
  | some a =>
    let s := { s with accs := AMap.del s.accs id }
    match AMap.find s.loans a.loan with
    | none => s
    | some l => s.gone a.loan (a.index / 128) a.tag (a.iters l)

/-- Whether the frame of an access is there to be parked. -/
def State.frameThere (s : State) (a : Access) : Bool :=
  match AMap.find s.loans a.loan with
  | some l => (AMap.find l.frames a.tag.frame.toNat).any (fun f => !f.released)
  | none => false

/-- A decanter's block is over without a completion (R258): the firing has ended, and the decanter looks for its next
trigger. A trigger that is kept for `RESUME` goes on counting. -/
def State.endDecant (s : State) (id : Nat) (a : Access) (l : Loan) (dec : Nat) (keep : Bool) : State :=
  let bay := a.bayOf l
  let iters := match AMap.find (s.bay bay).decanters dec with | some x => x.iters l | none => []
  let s := { s with accs := AMap.del s.accs id }
  let s := s.updBay bay (fun y => { y with decanters := AMap.del y.decanters dec })
  let s := if keep then s else s.gone a.loan (a.index / 128) a.tag iters
  s.later 1 (.decantBlockDone bay dec)

/-- A fault on a decanter's block (R258, R342): it stops the trigger's frame; at depth 0 the trigger is kept and runs again
from its first block. -/
def State.decantFault (s : State) (id : Nat) (a : Access) (l : Loan) (t : Nat) (u : W32) (dec code addr : Nat) (detail : W64) : State :=
  let keep := (a.info l).ownDepth == 0 && s.frameThere a && [fTRANSLATE, fPROTECT, fPARITYSTORE].contains code
  (s.endDecant id a l dec keep).raise { Report.of code with loan := some a.loan, el := some a.el, ctx := a.ctx, hnd := a.hnd, win := some a.win,
                                                             tag := some a.tag, addr := addr, detail := detail }
    (a.info l).counted (if keep then [.trigger (a.bayOf l) a.ctx u t a.tag a.cont a.prior] else [])

/-- An SC operation that faults gives back its place in the order: it takes another when it is performed after `RESUME`. -/
def State.unplaceSc (s : State) (id : Nat) (a : Access) : State :=
  if a.onRing ∧ a.ringDone then s.updHub (fun h => { h with scOrder := h.scOrder.erase id, domOrder := h.domOrder.erase id }) else s

/-- An access faults (R280, R342): at depth 0 its request is kept for `RESUME` unless it was poison. -/
def State.accFault (s : State) (id : Nat) (code addr : Nat) (detail : W64) (keep : Bool) : State :=
  match AMap.find s.accs id with
  | none => s
  | some a => match AMap.find s.loans a.loan with
    | none => s
    | some l => match a.op with
      | .decant t u _ dec => s.decantFault id a l t u dec code addr detail
      | _ =>
        let keep := keep && (a.info l).ownDepth == 0 && s.frameThere a
        let s := { s with accs := AMap.put s.accs id { a with stage := .kept, ringDone := false } }
        let s := s.unplaceSc id a
        let s := s.raise { Report.of code with loan := some a.loan, el := some a.el, ctx := a.ctx, hnd := a.hnd, win := some a.win,
                                               tag := some a.tag, addr := addr, detail := detail }
          (a.info l).counted (if keep then [.reissue id] else [])
        if keep then s else s.dropAccess id

/-- The address that a record carries for an access (R280). -/
def Access.faultAddr (a : Access) (l : Loan) (w : Window) : Nat := if w.virt then w.base + a.off else recordAddr w l.firstLine a.off

/-- What the reply of an access descends from (R282): the access, what it descends from, and deferred stores whose words it has read. -/
def Access.descends (a : Access) : List Nat := a.seq :: a.prior ++ a.seen.map Store.access

/-- A reply to an access's destination (R245). -/
def State.replyTo (s : State) (a : Access) (d : Nat) (pred : Bool) (v : W32) : State :=
  s.answer a.loan a.index a.ctx a.hnd d a.dest .data pred a.cont v a.outTag a.descends

/-- A reply that writes words into its element first (R285). -/
def State.answerFill (s : State) (a : Access) (d : Nat) (block : Bool) : State :=
  match AMap.find s.loans a.loan, a.dest with
  | some l, .element .. =>
    let img := l.imageOf a.ctx
    (match mkFlit l img a.loan (a.index / 128) a.ctx (handlerKey a.index a.hnd) (directTarget a.dest) .data a.pred a.cont (BitVec.ofNat 32 a.off) a.outTag with
      | some f => match f.emit with
        | .token t => (s.born a.loan a.outTag f.iters).inject d a.index (({ f with emit := .fill t block a.words } : Flit).withPrior a.descends)
        | _ => s
      | none => s)
  | _, _ => s

/-- The four words of a sillage entry, one token a cycle; dead when the entry is dropped, or the firing was dead (R215). -/
def State.answerEntry (s : State) (a : Access) (d : Nat) (dead : Bool) : State :=
  let base := match a.dest with | .cont n => n.toNat | _ => 0
  (List.range 4).foldl (fun s i =>
    s.answer a.loan a.index a.ctx a.hnd (d + i) (.cont (BitVec.ofNat 6 (base + i))) .data (a.pred && !dead) a.cont
      (if dead then 0 else a.words.getD i 0) a.outTag a.descends) s

/-- The reply of a performed access, which is then gone; one whose iteration has faulted is discarded (R342). -/
def State.finishAccess (s : State) (id d : Nat) : State :=
  match AMap.find s.accs id with
  | none => s
  | some a =>
    let s := if a.dead then s else match a.op with
      | .load | .atomic .. => s.replyTo a d a.pred (a.words.getD 0 0)
      | .sread => s.answerEntry a d ((a.words.getD 3 0).getLsbD 3)
      | .loadLine => s.answerFill a (d + 1) false
      | .loadBlock => s.answerFill a (d + 1) true
      | .store .. | .slog _ | .pref | .mxload | .dlay _ => s.replyTo a d a.pred (BitVec.ofNat 32 a.off)
      | .sendc .. | .creq .. | .decant .. => s
    s.dropAccess id

/-- The post of an access with `P` (R282, R303). -/
def State.postAccess (s : State) (a : Access) : State :=
  match a.post with
  | some q => s.sendPost a.loan a.ctx a.index a.hnd ⟨q, a.outTag, a.descends⟩
  | none => s

/-- A skip (R141, R245, R290): nothing is performed, its handler posts (R304), and its reply is dead. -/
def State.skipAccess (s : State) (id d : Nat) : State :=
  match AMap.find s.accs id with
  | none => s
  | some a =>
    let s := if a.dead then s else match a.op with
      | .sread => s.answerEntry { a with pred := false } d true
      | _ => s.replyTo a d false 0
    ((s.settle a).postAccess a).dropAccess id

/-! ### Watches of glaed (R396) -/

/-- A perform, a commit or a discard of a word that a watch names is reported. -/
def State.noteWord (s : State) (what : String) (loan win off : Nat) (v : W32) (extra : List Nat) : State :=
  let runs (g : GWatch) : Bool := match AMap.find s.loans loan with
    | some l => l.ctxs.any (fun c => (l.imageOf c).addr == g.cfg)
    | none => false
  if s.glaed.watches.any (fun g => g.win == win && g.off / 4 == off / 4 && runs g) then
    { s with glaed := { s.glaed with rows := s.glaed.rows ++ [(what, [loan, win, off, v.toNat, s.cycle - s.glaed.base] ++ extra)] } }
  else s

/-- The words that an access stores, reported. -/
def State.noteStores (s : State) (what : String) (a : Access) (w : Window) : State :=
  if s.glaed.watches = [] then s
  else (a.writes w).foldl (fun s p => s.noteWord what a.loan a.win (placeOff w a.o p.1) p.2 (a.tag.its 6)) s

/-! ### The commit buffer (R251, R252) -/

/-- Words that a store takes of the commit buffer. -/
def Access.storeWords (a : Access) : Nat :=
  match a.op with
  | .slog _ => 4
  | .store .. => (match a.kind with | .word => 1 | .line => 8 | .block => 64)
  | _ => 0

/-- The iteration whose retirement commits a deferred store (R251): that of its innermost loop, which in a callee that inherits the
loop is the caller's. -/
def Access.commitIter (a : Access) (l : Loan) : Nat × List Nat :=
  let i := a.info l
  let own := (a.tag.frame.toNat, a.tag.its i.depth)
  if i.ownDepth = 0 then ((l.callerIters 64 a.tag.frame.toNat).find? (fun k => k.2.length == i.depth)).getD own else own

/-- The words of a deferred store; one whose mask leaves none is kept for its post alone (R303). -/
def Access.stores (a : Access) (id : Nat) (l : Loan) (w : Window) : List Store :=
  let ws := a.writes w
  let k := a.commitIter l
  let mk (p : (Nat × Nat × Nat) × W32) (void last : Bool) : Store :=
    { access := id, loop := (a.info l).innermost, frame := k.1, its := k.2, tag := a.tag
      win := w, first := l.firstLine, home := if w.virt then a.phys else a.bayOf l
      o := a.o, q := p.1.1, j := p.1.2.1, k := p.1.2.2, value := p.2, whole := a.kind != .word
      release := decide (2 ≤ a.strength)
      post := if last then a.post.map (fun q => (⟨q, a.outTag, a.descends⟩, a.ctx, a.index, a.hnd)) else none
      winNo := a.win, off := placeOff w a.o p.1, sent := false, prior := a.prior, void := void }
  if ws = [] ∧ a.post.isSome then ((a.places w).take 1).map (fun p => mk (p, 0) true true)
  else ws.zipIdx.map (fun p => mk p.1 false (p.2 + 1 == ws.length))

/-- Words of the commit buffer that are taken: those in it, those on their way home, and those of stores that wait. -/
def State.commitUse (s : State) (loan : Nat) (l : Loan) : Nat :=
  ((l.commit ++ l.releasing).filter (fun t => !t.void)).length +
    (s.accs.map (fun (p : Nat × Access) => if p.2.loan = loan ∧ p.2.stage = .waiting ∧ p.2.deferred l then p.2.storeWords else 0)).sum

/-- The oldest iteration in flight of a region, by R131: frame, then fields. -/
def Loan.oldestFlight (l : Loan) : Option Flight :=
  l.flights.foldl (fun best g => match best with
    | none => some g
    | some b =>
      let older : Bool := if g.frame = b.frame then itersCmp (g.its.map (BitVec.ofNat 7)) (b.its.map (BitVec.ofNat 7)) < 0
        else frameSeq l g.frame < frameSeq l b.frame
      if older then some g else some b) none

/-- Whether the commit buffer takes a deferred store now (R252). -/
def State.commitTakes (s : State) (a : Access) (l : Loan) : Bool :=
  if !a.deferred l || a.skip then true
  else
    let free := 4096 - s.commitUse a.loan l
    let oldest := match l.oldestFlight with
      | some g => let k := a.commitIter l; g.frame == k.1 && g.its == k.2.take g.its.length
      | none => true
    decide (a.storeWords ≤ free) && (decide (512 ≤ free) || oldest)

/-- Whether a kept reply is that of an access whose iteration runs again (R330). -/
def KeptReply.serves (k : KeptReply) (a : Access) : Bool := k.again && k.hkey == handlerKey a.index a.hnd && k.tag == a.tag
@[inherit_doc KeptReply.serves] def Loan.rerun (l : Loan) (a : Access) : Bool := l.kept.any (fun k => k.serves a)

/-- Whether a place for the reply of an atomic at depth 1 or more is free (R330): kept replies and atomics on their way take them. -/
def State.replyPlace (s : State) (a : Access) (l : Loan) : Bool :=
  !a.isAtomic || a.skip || (a.info l).ownDepth == 0 || l.rerun a ||
    decide (l.kept.length + (s.accs.filter (fun (p : Nat × Access) => p.2.loan == a.loan && p.2.isAtomic && !p.2.skip &&
      (p.2.stage == .waiting || p.2.stage == .issued) && (p.2.info l).ownDepth != 0)).length < 1024)

/-! ### Cells on their way (R53, R262) -/

/-- A cell with nothing but zeros. -/
def Cell.blank : Cell :=
  { tag := Tag.zero, live := 0, voqseq := 0, spos := 0, win := 0, note := 0, mc := false, o := false, kind := .data
    hnd := 0, dportDie := 0, dport := 0, group := 0, ctx := 0, cont := 0, dnodeEl := 0, dnodePort := 0, accid := 0
    accn := 0, rsvd := 0, cpar := 0, payload := [] }

/-- The 256 bits of a cell's header (R53). -/
def Cell.header (c : Cell) : BitVec 256 :=
  c.cpar ++ c.rsvd ++ c.accn ++ c.accid ++ c.dnodeEl ++ c.dnodePort ++ c.cont ++ c.ctx ++ c.group ++ c.dportDie ++ c.dport ++ c.hnd ++
    kindCode c.kind ++ bitOf c.o ++ bitOf c.mc ++ c.note ++ c.win ++ c.spos ++ c.voqseq ++ c.live ++ Tag.bits c.tag

/-- The 288 bytes of a cell (R53): its header, and its payload. -/
def Cell.bytes (c : Cell) : List Byte := leBytes 32 (Cell.header c).toNat ++ (c.payload ++ List.replicate 256 0).take 256

/-- Whether a word holds an odd number of ones: its even-parity bit. -/
def oddOnes {n : Nat} (v : BitVec n) : Bool := (List.range n).foldl (fun b i => b != v.getLsbD i) false

/-- `CPAR` as a cell's header and payload give it (R53). -/
def Cell.parity (c : Cell) : BitVec 16 :=
  (List.range 15).foldl (fun v k => if oddOnes ((Cell.header c).extractLsb' (16 * k) 16) then v ||| BitVec.ofNat 16 (2 ^ k) else v) 0 |||
    (if oddOnes (c.payload.foldl (· ^^^ ·) 0) then 0x8000 else 0)

/-- A cell with `CPAR` set right. -/
def Cell.seal (c : Cell) : Cell := { c with cpar := Cell.parity c }

/-- A cell with `VOQSEQ` written and the parity bit of its header bits [143:128] kept up (R53, R262). -/
def Cell.withSeq (c : Cell) (n : BitVec 16) : Cell :=
  { c with voqseq := n, cpar := if oddOnes (c.voqseq ^^^ n) then c.cpar ^^^ 0x100 else c.cpar }

/-- Whether a cell passes the check of a receiving ingress (R54): `CPAR`, `NOTE`, and the reserved field. -/
def Cell.sound (c : Cell) : Bool := c.cpar == Cell.parity c && c.note != 3 && c.rsvd == 0

/-- A cell stands at an input port; it enters a queue in `d` cycles or when there is room (R262). -/
def State.sendCell (s : State) (die port d loan access : Nat) (body : CellBody) (c : Cell) : State :=
  let (n, s) := s.fresh
  ({ s with outgoing := AMap.put s.outgoing n (die * 256 + port,
    { id := n, src := die * 256 + port, loan := loan, access := access, body := body, cell := Cell.seal c, entered := s.cycle + d + 2
      residue := [] }) }).later (d + 2) (.cellEnqueue n)

/-- Whether the producer of an input port stalls that would send a cell of a note (R262): one that could not enter waits there. A heart or
base cell does not hold up a top cell, for which places are kept, nor a multicast cell a unicast one (R275). -/
def State.stalled (s : State) (die port : Nat) (note : BitVec 2) (mc : Bool) : Bool :=
  s.outgoing.any (fun (p : Nat × Nat × QCell) => p.2.1 == die * 256 + port && decide (p.2.2.entered ≤ s.cycle) &&
    (note != 2 || p.2.2.cell.note == 2) && (mc || !p.2.2.cell.mc))

/-- The port of a bay (R259). -/
def bayPort (bay : Nat) : Nat := bay % 128

/-- The bytes of some words. -/
def wordsBytes (ws : List W32) : List Byte := ws.flatMap (fun w => leBytes 4 w.toNat)

/-- The bay that an access's reply goes to first: that of its destination, otherwise the requester's. -/
def Access.replyBay (a : Access) (l : Loan) : Nat :=
  match resolve (l.imageOf a.ctx) a.dest a.cont with
  | .element i _ _ => l.bayKey (l.bayOfEl i)
  | _ => a.bayOf l

/-- Cycles from the wave buffer back to the requester, for an access that passed it (R249). -/
def Access.back (a : Access) (l : Loan) : Nat :=
  if a.isDecant || !a.passes l then 0 else 1 + l.hops (a.index / 128)

/-- The note of an access's cell (R245): the slip's, and for `CREQ`, `SENDC` and `SENDM` through a continuation entry the entry's (R290,
R292). -/
def Access.note (a : Access) (l : Loan) : BitVec 2 :=
  match a.op, a.dest with
  | .creq .., .cont _ | .sendc .., .cont _ => noteOf (l.imageOf a.ctx) a.dest a.cont
  | _, _ => l.slip.note

/-- A request for memory leaves its bay on the deposit plane, at its note (R245, R292). -/
def State.sendRequest (s : State) (id : Nat) (a : Access) (l : Loan) : State :=
  let bay := a.bayOf l
  let c := { Cell.blank with note := a.note l, dportDie := BitVec.ofNat 2 (homeDie a.phys), dport := BitVec.ofNat 8 (s.homePort a.phys) }
  let s := { s with accs := AMap.put s.accs id { a with stage := .issued } }
  s.sendCell (bay / 128) (bayPort bay) (1 + a.back l) a.loan id (.request id) c

/-! ### Distances (R128, R245) -/

/-- The place of the first element of a compute tile. -/
def tileCorner (bay t : Nat) : Nat := bay * 256 + t * 32

/-- Cycles between a compute tile and a memory tile of a bay, beyond those of an adjacent one. -/
def tileReach (bay m bay' t : Nat) : Nat :=
  if bay = bay' ∧ (t = m ∨ t = m ^^^ 1) then 0
  else min (routeCycles (tileCorner bay m) (tileCorner bay' t)) (routeCycles (tileCorner bay (m ^^^ 1)) (tileCorner bay' t))

/-- Cycles of the reply of a tile access (R245). -/
def Access.replyCycles (a : Access) (l : Loan) (w : Window) : Nat :=
  match resolve (l.imageOf a.ctx) a.dest a.cont with
  | .element i _ _ => 3 + tileReach (a.bayOf l) w.tile (l.bayKey (i / 128)) (tileOfIndex i)
  | _ => 3 + tileReach (a.bayOf l) w.tile (a.bayOf l) (tileOfIndex a.index)

end Sys2Proof.Machine
end

