-- ==== Sys2Proof/Machine/Bank.lean ====
section
/-! DEFINITION. Where accesses are performed (R242 to R252, R280 to R289): the wave buffer, translation, the commit buffer,
the banks of memory tiles, and rounds of `AINCB`. -/
namespace Sys2Proof.Machine

/-! ### Layout records (R254, R255, R296) -/

/-- The layout record of a line, and whether its reserved fields are zero (R254). -/
def layoutOf (ws : List W32) : Layout × Bool :=
  let n := leNat (wordsBytes ws)
  let f (lo k : Nat) : Nat := n / 2 ^ lo % 2 ^ k
  (⟨f 0 6, f 6 1 == 1, f 8 32, f 40 32, f 72 32, f 104 8, f 128 32⟩, f 7 1 == 0 && f 112 16 == 0 && decide (n / 2 ^ 160 = 0))

/-- A `DLAY`'s record, checked and sent (R296); a bad one is poison, and it is not kept. -/
def State.sendLayout (s : State) (id : Nat) (a : Access) (l : Loan) (isB : Bool) : State :=
  let (r, ok) := layoutOf a.words
  let good := ok && (match l.windowAt a.ctx r.win with
    | some w => !w.virt && r.base % squareSize w.ty == 0 && decide (r.lstart < squareSide w.ty)
    | none => false)
  if !good then s.accFault id fILLEGAL (match l.windowAt a.ctx a.win with | some w => a.faultAddr l w | none => 0) 0 false
  else
    let bay := a.bayOf l
    let t := layoutTile a.index isB
    let s := { s with accs := AMap.put s.accs id { a with stage := .performed } }
    (s.updBay bay (fun b => b.updFeed (feedKey t a.ctx isB) (fun f => { f with queue := f.queue ++ [.record r id] }))).later 2
      (.layoutRecordApply bay t a.ctx isB)

/-- A stream that has sent nothing. -/
def Lane.empty : Lane := ⟨⟨0, 0, 0, 0, 0, Tag.zero, 0⟩, 0, 0, 0, 0, 0, 0, 0, none, false, 0, false, false⟩

/-- A request joins the run that its feed serves; one of a row or column that has asked for it already begins the next run, where *n* and
*m* carry on (R254, R255). -/
def Feed.join (f : Feed) (r : FeedReq) : Feed :=
  let f := if f.served.contains r.lane then
      { f with n := f.n + f.beats, m := f.m + f.scales, beats := 0, scales := 0, served := [] }
    else f
  { f with
    isOpen := true
    beats := max f.beats r.beats
    scales := max f.scales r.scales
    served := r.lane :: f.served
    lanes := AMap.upd f.lanes Lane.empty r.lane (fun l => { l with
      req := r, owed := r.beats, sent := 0, scaleOwed := r.scales, scaleSent := 0, n := f.n, m := f.m, run := l.run + 1, asked := false
      scaleAsked := false }) }

/-- A record in effect, with *n* 0 (R255). -/
def Feed.apply (f : Feed) (r : Layout) : Feed :=
  { f with record := r, n := 0, m := 0, beats := 0, scales := 0, served := []
           lanes := f.lanes.map (fun (p : Nat × Lane) => (p.1, { p.2 with n := 0, m := 0 })) }

/-- What a feeder serves now (R255): requests open the stream, a marker closes it, and a record takes effect, with *n* 0, once
no stream is open and every beat asked for has been delivered. The accesses of the records that took effect. -/
def Feed.serve : List FeedItem → Feed → Feed × List Nat
  | [], f => ({ f with queue := [] }, [])
  | .req r :: rest, f => Feed.serve rest (f.join r)
  | .marker :: rest, f => Feed.serve rest { f with isOpen := false }
  | .record r a :: rest, f =>
    if f.isOpen || f.lanes.any (fun (p : Nat × Lane) => p.2.owed != 0) then ({ f with queue := .record r a :: rest }, [])
    else
      let (f, ids) := Feed.serve rest (f.apply r)
      (f, a :: ids)

/-- A feed serves what it can; each `DLAY` whose record took effect sends its token (R296). -/
def State.serveFeed (s : State) (bay key : Nat) : State :=
  let f := (s.bay bay).feed key
  let (f, ids) := Feed.serve f.queue f
  ids.foldl (fun s a => s.finishAccess a 3) (s.updBay bay (fun b => b.updFeed key (fun _ => f)))

/-- `LAYOUT_RECORD_APPLY` (R255). -/
def execLayoutRecordApply (bay tile ctx : Nat) (isB : Bool) (s : State) : Host.Outcome State Fault Refusal :=
  .next (s.serveFeed bay (feedKey tile ctx isB))

/-! ### Performing at a home -/

/-- The words that a load reads at its home, with the deferred stores that it sees (R251). -/
def Access.readAt (a : Access) (l : Loan) (w : Window) (m : List Host.Cell) : List W32 :=
  let m := a.seen.foldl Store.apply m
  (a.places w).map (fun p => readLineWord m (a.tr l w) w l.firstLine p.1 p.2.1 a.o p.2.2)

/-- The memory with the words that a store writes. -/
def Access.writeAt (a : Access) (l : Loan) (w : Window) (m : List Host.Cell) : List Host.Cell :=
  writePlaces m (a.tr l w) w l.firstLine a.o (a.writes w)

/-- The memory with one word of an access written. -/
def Access.writeWord (a : Access) (l : Loan) (w : Window) (m : List Host.Cell) (v : W32) : List Host.Cell :=
  writePlaces m (a.tr l w) w l.firstLine a.o (((a.places w).take 1).map (fun p => (p, v)))

/-- The memory of a home: that of the tiles or of the device. -/
def State.memOf (s : State) (virt : Bool) : List Host.Cell := if virt then s.mem else s.tmem
@[inherit_doc State.memOf] def State.setMem (s : State) (virt : Bool) (m : List Host.Cell) : State :=
  if virt then { s with mem := m } else { s with tmem := m }

/-- Device memory as loads see it: pages that the kernel maps onto the timeline store read the timelines (R99). -/
def State.loadMem (s : State) (phys len : Nat) : List Host.Cell :=
  match s.trans.tlBase with
  | none => s.mem
  | some base =>
    if base ≤ phys ∧ phys < base + 524288 then
      (List.range (len / 8 + 1)).foldl (fun m i =>
        let t := (phys - base) / 8 + i
        writeBytes m (base + 8 * t) (leBytes 8 (s.timeline t))) s.mem
    else s.mem

/-- The instance of a scope below device scope that a loan belongs to (R308). -/
def Loan.instanceOf (l : Loan) (id scope : Nat) : Instance :=
  match scope with
  | 0 => .region id
  | 1 => .wing l.slip.space l.slip.wing.toNat
  | _ => .die l.die

/-- An SC operation takes its place in the order of an instance below device scope (R328). -/
def instPlace (i : Instance) (n : Nat) : List (Instance × List Nat) → List (Instance × List Nat)
  | [] => [(i, [n])]
  | (j, ns) :: rest => if j = i then (j, ns ++ [n]) :: rest else (j, ns) :: instPlace i n rest

/-- An SC atomic of an instance below device scope takes its place in the moment in which it is performed (R327, R328). -/
def State.placeSc (s : State) (id : Nat) (a : Access) (l : Loan) : State :=
  if a.strength = 4 ∧ a.scope < 3 then s.updHub (fun h => { h with instOrders := instPlace (l.instanceOf a.loan a.scope) id h.instOrders })
  else s

/-- An atomic performed on its word (R288, R330): the reply is kept when its iteration may run again. -/
def State.performAtomic (s : State) (id : Nat) (a : Access) (l : Loan) (w : Window) (op : Nat) (ty : Ty) (b c : W32) : State :=
  let m := (({ a with seen := [] }).readAt l w (s.memOf w.virt)).getD 0 0
  match atomicResult op ty m b c with
  | none => s.accFault id fILLEGAL (a.faultAddr l w) 0 false
  | some (v, r) =>
    let s := s.setMem w.virt (a.writeWord l w (s.memOf w.virt) v)
    let s := { s with accs := AMap.put s.accs id { a with words := [r], stage := .performed } }
    let s := s.placeSc id a l
    let s := if v = m ∧ op ≠ 0x88 then s else s.noteWord "performed" a.loan a.win a.off v (match a.claimKey with | some k => [k, a.el] | none => [a.el])
    if (a.info l).ownDepth = 0 then s
    else s.updLoan a.loan (fun l => { l with kept := l.kept ++ [⟨handlerKey a.index a.hnd, a.tag, r, a.dead⟩] })

/-- The accumulators that `MXLDACC` loads (R235): word *n* of the block into `acc`*n*; the column lines of `O` 1 make the
transpose. -/
def State.loadAcc (s : State) (a : Access) : State :=
  s.updEl a.el (fun e => e.updCtx a.ctx (fun x => { x with acc := a.words.zipIdx.foldl (fun m p => AMap.put m p.2 p.1) x.acc }))

/-- The cell of `SENDC` and `SENDM`, with its payload (R290, R291): its block takes eight cycles to read, and the cell enters in four beats
(R297). -/
def State.sendBlock (s : State) (id : Nat) (a : Access) (l : Loan) (dst : Nat) (word : W32) : State :=
  let img := l.imageOf a.ctx
  match resolve img a.dest a.cont with
  | .element i p h =>
    let bay := l.bayKey (l.bayOfEl i)
    let acc := word.getLsbD 15
    let accid := (word.extractLsb' 8 6).toNat
    let c := { Cell.blank with
      tag := a.outTag, live := 0xFFFFFFFFFFFFFFFF, spos := BitVec.ofNat 32 (dst / 256), win := BitVec.ofNat 6 a.win
      note := a.note l
      mc := word.getLsbD 14, group := word.extractLsb' 0 8
      accid := BitVec.ofNat 8 accid
      accn := if acc then (match AMap.find img.accords accid with | some g => BitVec.ofNat 2 (g.arity - 1) | none => 0) else 0
      o := a.o, hnd := BitVec.ofNat 3 h, ctx := BitVec.ofNat 2 a.ctx, cont := a.cont
      dportDie := BitVec.ofNat 2 (bay / 128), dport := BitVec.ofNat 8 (bayPort bay)
      dnodeEl := BitVec.ofNat 7 i, dnodePort := BitVec.ofNat 2 p, payload := wordsBytes a.words }
    -- members still to be served (R333)
    let n := if word.getLsbD 14 then (match AMap.find img.mcasts (word.extractLsb' 0 8).toNat with | some g => g.members.length | none => 1) else 1
    let s := { s with accs := AMap.put s.accs id { a with stage := .performed, phys := n } }
    s.sendCell (l.die) (bayPort (a.bayOf l)) 12 a.loan id .payload c
  | _ => s.dropAccess id

/-- The record of a decant template in a loan's image. -/
def Loan.templateAt (l : Loan) (c t : Nat) : Option Template := AMap.find (l.imageOf c).templates t

/-- The bay that a template's tile destination lies in (R256). -/
def Template.destBay (t : Template) (l : Loan) : Nat := if t.dbay = 0xFF then l.bayKey (t.trigEl / 128) else l.bayKey t.dbay

/-- The source and destination offsets of a block, computed exactly (R257). -/
def Template.srcOff (t : Template) (u b : Nat) : Nat := t.sbase + u * t.sstep + b * t.sbstr
@[inherit_doc Template.srcOff] def Template.dstOff (t : Template) (u b : Nat) : Nat := t.dbase + u * t.dstep + b * t.dbstr

/-- A miss of a die's translation unit (R244): the access joins the walk of its page, or begins one; while all 64 walkers of the die are
busy it looks again in the next cycle. -/
def State.joinWalk (s : State) (die loan win space page id : Nat) : State :=
  if s.trans.walks.any (fun (p : Nat × Walk) => p.2.waiting.contains id) then s
  else match s.trans.walks.find? (fun (p : Nat × Walk) => p.2.die == die && p.2.space == space && p.2.page == page) with
    | some (n, k) => { s with trans := { s.trans with walks := AMap.put s.trans.walks n { k with waiting := k.waiting ++ [id] } } }
    | none =>
      if 64 ≤ (s.trans.walks.filter (fun (p : Nat × Walk) => p.2.die == die)).length then s.later 1 (.accessPerform id)
      else
        let (n, s) := s.fresh
        let (d, s) := s.drawNat
        ({ s with trans := { s.trans with walks := AMap.put s.trans.walks n ⟨die, space, page, win, loan, [id]⟩ } }).later d (.tlbWalkDone n)

/-- Whether a physical address lies in the timeline store, which no store or atomic may reach (R99, R243). -/
def State.inTimelines (s : State) (pa : Nat) : Bool :=
  match s.trans.tlBase with
  | some t => decide (t ≤ pa) && decide (pa < t + 524288)
  | none => false

/-- An access that waits for a chunk that moves (R125). -/
def State.holdForMove (s : State) (c id : Nat) (held : List Nat) : State :=
  { s with trans := { s.trans with moving := AMap.put s.trans.moving c (if held.contains id then held else held ++ [id]) } }

/-- `DETAIL` of TRANSLATE and PROTECT (R340). -/
def translateDetail (level : Nat) (write : Bool) : W64 := BitVec.ofNat 64 (level % 4 + (if write then 4 else 0))

/-- A block whose destination's page is known goes out as a cell to the home port of its virt destination, unless its chunk moves (R125,
R257). -/
def State.decantSend (s : State) (id : Nat) (a : Access) (l : Loan) (m : Template) (dw : Window) (u b d : Nat) (p : Page) : State :=
  let va := dw.base + m.dstOff u b
  let pa := p.addr va
  if !p.wr || s.inTimelines pa then s.accFault id fPROTECT va (translateDetail 0 true) true
  else match AMap.find s.trans.moving (chunkOf pa) with
  | some held => s.holdForMove (chunkOf pa) id held
  | none =>
      let s := { s with accs := AMap.put s.accs id { a with phys := pa } }
      s.sendCell (a.bayOf l / 128) (bayPort (a.bayOf l)) d a.loan id .payload { Cell.blank with
        tag := a.tag, live := 0xFFFFFFFFFFFFFFFF, spos := BitVec.ofNat 32 (m.dstOff u b / 256), win := BitVec.ofNat 6 m.dwin, note := m.note
        ctx := BitVec.ofNat 2 a.ctx, cont := a.cont, dportDie := BitVec.ofNat 2 (homeDie pa), dport := BitVec.ofNat 8 (s.homePort pa)
        payload := wordsBytes a.words }

/-- A block that a decanter has read is translated for its virt destination (R244, R257). -/
def State.decantOut (s : State) (id : Nat) (a : Access) (l : Loan) (m : Template) (dw : Window) (u b d : Nat) : State :=
  let page := (dw.base + m.dstOff u b) / 65536
  let space := l.slip.space
  let a := { a with stage := .performed }
  let s := { s with accs := AMap.put s.accs id a }
  match tlbFind (AMap.get s.trans.micro [] (microKey a.loan m.dwin)) space page with
  | some e => s.decantSend id a l m dw u b d e.page'
  | none => match tlbFind (AMap.get s.trans.dieTlb [] l.die) space page with
    | some e => (s.refillTlb l.die a.loan m.dwin space page e).decantSend id a l m dw u b d e.page'
    | none => s.joinWalk l.die a.loan m.dwin space page id

/-- The destination of a decanter's block: its template, the window, the trigger's unit and the block. -/
def Access.decantGoal (a : Access) (l : Loan) : Option (Template × Window × Nat × Nat) :=
  match a.op with
  | .decant t u b _ => match l.templateAt a.ctx t with
    | some m => (l.windowAt a.ctx m.dwin).map (fun dw => (m, dw, u.toNat, b))
    | none => none
  | _ => none

/-- A block that waited for a walk or a moving chunk goes out. -/
def State.decantAgain (s : State) (id : Nat) (a : Access) (l : Loan) : State :=
  match a.decantGoal l with
  | some (m, dw, u, b) => s.decantOut id a l m dw u b 1
  | none => s

/-! ### Banks (R242) -/

/-- Key of a bank of a bay. -/
def bankKey (tile bank : Nat) : Nat := tile * 16 + bank

/-- The bank of a square. -/
def bankOfSquare (w : Window) (first q : Nat) : Nat := lineAddr w first q 0 / 32 % 16

/-- Which line of its bank a line is (R242): a row line by its address, a column line by its square, its number and the square's side. -/
def lineId (w : Window) (first q j : Nat) (o : Bool) : Nat :=
  if o then (lineAddr w first q 0 * 64 + j) * 1024 + squareSide w.ty else lineAddr w first q j

/-- Something that comes to a bank in some cycles. -/
def State.postBank (s : State) (bay tile bank d : Nat) (e : BankEntry) : State :=
  (s.updBay bay (fun b => { b with banks := AMap.upd b.banks [] (bankKey tile bank) (· ++ [{ e with arrived := s.cycle + d }]) })).later d
    (.bankAccess bay tile bank)

/-- A block to be written in a bay once its lines have been read (R242, R257): the decanters rank after the counters. -/
def State.postBlock (s : State) (bay : Nat) (l : Loan) (w : Window) (off dec : Nat) : State :=
  let p := wordPlace w off
  s.postBank bay w.tile (bankOfSquare w l.firstLine p.1) 8 ⟨.block dec, lineId w l.firstLine p.1 p.2.1 false, false, .alone, 8, 1, 0⟩

/-- A block that a decanter has read from a memory tile (R257): within one bay it is written when its lines have passed; otherwise it
travels as a cell. -/
def State.decantRead (s : State) (id : Nat) (a : Access) (l : Loan) (t u b dec : Nat) : State :=
  match l.templateAt a.ctx t with
  | none => s.dropAccess id
  | some m => match l.windowAt a.ctx m.dwin with
    | none => s.dropAccess id
    | some dw =>
      if dw.virt then s.decantOut id a l m dw u b 8
      else
        let bay := m.destBay l
        if bay = a.bayOf l then s.postBlock bay l dw (m.dstOff u b) dec
        else s.sendCell (a.bayOf l / 128) (bayPort (a.bayOf l)) 8 a.loan id .payload { Cell.blank with
          tag := a.tag, live := 0xFFFFFFFFFFFFFFFF, spos := BitVec.ofNat 32 (m.dstOff u b / 256), win := BitVec.ofNat 6 m.dwin, note := m.note
          ctx := BitVec.ofNat 2 a.ctx, cont := a.cont, dportDie := BitVec.ofNat 2 (bay / 128), dport := BitVec.ofNat 8 (bayPort bay)
          payload := wordsBytes a.words }

/-- An access has been performed at its home: `P` posts, and its reply starts `d` cycles from now. -/
def State.performed (s : State) (id d : Nat) : State :=
  match AMap.find s.accs id with
  | none => s
  | some a => (s.postAccess a).finishAccess id d

/-- A tile access performed at its bank (R242, R324): it settles, and its reply leaves after its last cycle there. -/
def State.performTile (s : State) (id : Nat) : State :=
  match AMap.find s.accs id with
  | none => s
  | some a => match AMap.find s.loans a.loan with
    | none => s
    | some l => match l.windowAt a.ctx a.win with
      | none => s
      | some w =>
        let a := { a with seen := l.seenStores a }
        let s := { s with accs := AMap.put s.accs id a }
        let units := if s.eccBad = [] then [] else a.units l w
        let fails := s.eccFails units
        let d := a.replyCycles l w
        let parity := s.accFault id fPARITYSTORE (a.faultAddr l w) (BitVec.ofNat 64 (Config.freeNat s.freeCount % 256)) true
        let parity := { parity.updBay (a.bayOf l) (fun y => { y with unc := AMap.upd y.unc 0 w.tile bump16 }) with freeCount := s.freeCount + 1 }
        match a.op with
        | .store .. | .slog _ =>
          if fails ∧ a.kind = .word then parity
          else
            let s := { s with tmem := a.writeAt l w s.tmem, eccBad := s.eccBad.filter (fun e => !units.contains e.1) }
            ((s.noteStores "performed" a w).settle a).performed id (d + (if a.kind = .block then 7 else 0))
        | .atomic op ty b c =>
          if fails then parity
          else (((s.correct (a.bayOf l) w.tile units).performAtomic id a l w op.toNat ty b c).settle a).performed id (d + 1)
        | _ =>
          if fails then parity
          else
            let s := s.correct (a.bayOf l) w.tile units
            let a := { a with words := a.readAt l w s.tmem, stage := .performed }
            let s := ({ s with accs := AMap.put s.accs id a }).settle a
            let block := if a.kind = .block then 7 else 0
            match a.op with
            | .dlay isB => (s.postAccess a).sendLayout id a l isB
            | .sendc dst word => s.sendBlock id a l dst word
            | .decant t u b dec => s.decantRead id a l t u.toNat b dec
            -- the accumulators are written at 8 a cycle when the block has come back (R207, R235)
            | .mxload => (s.postAccess a).later (d + block + 7) (.accessPerform id)
            | _ => s.performed id (d + block)

/-! ### Accesses at banks (R242, R289) -/

/-- The bank of the line of an access. -/
def Access.bankOf (a : Access) (l : Loan) (w : Window) : Nat := bankOfSquare w l.firstLine (a.off / squareSize w.ty)

/-- Cycles that an access holds its bank (R241, R289). -/
def Access.bankCycles (a : Access) : Nat := if a.kind = .block then 8 else if a.isAtomic then 2 else 1

/-- How an access merges at its bank (R242, R289). -/
def Access.mergeOf (a : Access) (w : Window) : Merge :=
  if a.kind = .block then .alone
  else if a.isAtomic then .atomic (wordPlace w a.off).2.2
  else if a.isStore then .write ((a.writes w).map (fun p => p.1.2.2))
  else .read

/-- The rank of an access's source (R242): the decanters 1, the compute tiles' ports 3 to 6, the pass-through switch 7. -/
def Access.bankRank (a : Access) (l : Loan) (w : Window) : Nat :=
  if a.isDecant then 1 else if tileReach (a.bayOf l) w.tile (a.bayOf l) (tileOfIndex a.index) = 0 then 3 + tileOfIndex a.index else 7

/-- Cycles of an access's way to its bank (R128, R249). -/
def Access.reach (a : Access) (l : Loan) (w : Window) : Nat :=
  1 + (if a.isDecant then 0 else tileReach (a.bayOf l) w.tile (a.bayOf l) (tileOfIndex a.index)) + a.back l

/-- An access on its way to its bank (R242). -/
def State.toBank (s : State) (id : Nat) (a : Access) (l : Loan) (w : Window) : State :=
  let p := wordPlace w a.off
  ({ s with accs := AMap.put s.accs id { a with stage := .issued } }).postBank (a.bayOf l) w.tile (a.bankOf l w) (a.reach l w)
    ⟨.access id, lineId w l.firstLine p.1 p.2.1 a.o, a.o, a.mergeOf w, a.bankCycles, a.bankRank l w, 0⟩

/-- The order of a bank's accesses (R242): arrival, then source. -/
def bankBefore (a b : BankEntry) : Bool := decide (a.arrived < b.arrived) || (a.arrived == b.arrived && decide (a.rank < b.rank))

/-- The first of a bank's accesses. -/
def bankFirst : List BankEntry → Option BankEntry
  | [] => none
  | e :: es => match bankFirst es with
    | none => some e
    | some x => if bankBefore x e then some x else some e

/-- Whether two accesses may be performed together (R242): reads of one line in one orientation, or writes in one
orientation to disjoint words of a line. -/
def mayMerge (x y : BankEntry) : Bool :=
  x.line == y.line && x.o == y.o && (match x.merge, y.merge with
    | .read, .read => true
    | .write p, .write q => p.all (fun k => !q.contains k)
    | _, _ => false)

/-- A bay's Colophon asks the bank of its next store, as the Exchange port does (R373). -/
def State.postEstore (s : State) (bay : Nat) : State :=
  match (s.bay bay).estores with
  | [] => s
  | (x, _) :: _ => s.postBank bay (x / 2 ^ 20) (x / 32 % 16) 1 ⟨.estore, x / 32 * 32, false, .write [x % 32 / 4], 1, 2, 0⟩

/-- A Colophon's next store performed at its bank, in program order (R373). -/
def State.performEstore (s : State) (bay : Nat) : State :=
  match (s.bay bay).estores with
  | [] => s
  | (x, v) :: rest =>
    let u := tileTr bay x / 8
    let s := s.updBay bay (fun b => { b with estores := rest })
    let s := if s.eccBad.any (fun e => e.1 == u && e.2) then s
      else { s with tmem := writeW32 s.tmem (tileTr bay x) v, eccBad := s.eccBad.filter (fun e => e.1 != u) }
    s.postEstore bay

/-- Number of a tile bank, or of a memory port, whose round of `AINCB` ends (R289). -/
def bankPlace (bay tile bank : Nat) : Nat := bay * 64 + bankKey tile bank
@[inherit_doc bankPlace] def portPlace (die port : Nat) : Nat := 2 ^ 20 + die * 256 + port

/-- The claimant key of an `AINCB` at a bank. -/
def State.claimOf (s : State) (e : BankEntry) : Option Nat :=
  match e.job with
  | .access id => (AMap.find s.accs id).bind Access.claimKey
  | _ => none

/-- The claim of the lowest key; of equal keys the one that the bank takes first. -/
def State.lowestClaim (s : State) (e : BankEntry) (es : List BankEntry) : BankEntry :=
  es.foldl (fun best x => match s.claimOf best, s.claimOf x with
    | some k, some k' => if k' < k ∨ (k' = k ∧ bankBefore x best) then x else best
    | _, _ => best) e

/-- What a bank performs next (R242, R289): the first in its order; of the atomics on one word that came in one cycle, those of another
kind before the claims, and the claims in ascending key. -/
def State.bankNext (s : State) (es : List BankEntry) : Option BankEntry :=
  match bankFirst es with
  | none => none
  | some e =>
    if (s.claimOf e).isNone then some e
    else
      let peers := es.filter (fun x => x.arrived == e.arrived && x.line == e.line && x.o == e.o && x.merge == e.merge)
      match bankFirst (peers.filter (fun x => (s.claimOf x).isNone)) with
      | some x => some x
      | none => some (s.lowestClaim e peers)

/-! ### The commit buffer (R251, R380) -/

/-- A deferred store performed into the commit buffer: it settles, and its reply leaves. One whose iteration has faulted is discarded
(R330). -/
def State.performDeferred (s : State) (id : Nat) (a : Access) (l : Loan) (w : Window) : State :=
  if a.dead then s.dropAccess id
  else
    let s := s.updLoan a.loan (fun l => { l with commit := l.commit ++ a.stores id l w })
    let s := s.noteStores "performed" a w
    (s.settle a).finishAccess id (if w.virt then 3 else a.replyCycles l w)

/-! ### Releases and SC operations (R282, R327, R328) -/

/-- Whether everything in the prior set of a release has been performed and has committed (R282): the accesses of its wave
that have settled and are not performed yet, and the deferred stores from which its operands descend. -/
def State.priorDone (s : State) (id : Nat) (a : Access) (l : Loan) : Bool :=
  (a.whole || s.accs.all (fun (p : Nat × Access) =>
    !(p.1 != id && !p.2.isDecant && p.2.loan == a.loan && p.2.tag == a.tag && p.2.stage == .issued && (p.2.info l).innermost == (a.info l).innermost))) &&
  l.committedPrior a.prior []

/-- The node of the order ring of an Exchange port (R328); 832 is the Curator port. -/
def ringNode (die port : Nat) : Nat := die * 208 + port

/-- An operation waits at a node for the token (R328). -/
def State.ringWait (s : State) (node id : Nat) (domain : Bool) : State :=
  s.updHub (fun h => if h.ringWaiting.any (fun p => p.id == id) then h
    else { h with ringWaiting := h.ringWaiting ++ [⟨node, id, s.cycle, domain⟩] })

/-! ### Translation of an access (R243, R244) -/

/-- Whether an access stores or is an atomic. -/
def Access.writesMem (a : Access) : Bool := a.isStore || a.isAtomic

/-- An access whose page is known goes on (R124, R125, R243, R380). -/
def State.accessPage (s : State) (id : Nat) (a : Access) (l : Loan) (w : Window) (p : Page) : State :=
  let va := w.base + a.off
  if a.op = .pref then (s.settle a).performed id 3
  else if a.writesMem && (!p.wr || s.inTimelines (p.addr va)) then s.accFault id fPROTECT va (translateDetail 0 true) true
  else
    let q := a.off / squareSize w.ty
    let a := { a with phys := p.addr (w.base + q * squareSize w.ty) }
    let c := chunkOf a.phys
    let s := { s with accs := AMap.put s.accs id a }
    match AMap.find s.trans.moving c with
    | some held => s.holdForMove c id held
    | none =>
      if a.deferred l then s.performDeferred id a l w
      -- an SC atomic that is performed on another device takes its place at its bay's port
      else if isRemote a.phys && a.onRing && !a.ringDone then s.ringWait (ringNode l.die (bayPort (a.bayOf l))) id (a.scope == 4)
      else if s.stalled l.die (bayPort (a.bayOf l)) (a.note l) false then s.later 1 (.accessPerform id)
      else s.sendRequest id a l

/-- A virt access is translated: by its window's micro-TLB, its die's unit, or a walk that it joins or begins (R244). -/
def State.translateAccess (s : State) (id : Nat) (a : Access) (l : Loan) (w : Window) : State :=
  let page := (w.base + a.off) / 65536
  let space := l.slip.space
  let key := microKey a.loan a.win
  match tlbFind (AMap.get s.trans.micro [] key) space page with
  | some e =>
    ({ s with trans := { s.trans with micro := AMap.upd s.trans.micro [] key (fun es => tlbPut 16 es e) } }).accessPage id a l w e.page'
  | none => match tlbFind (AMap.get s.trans.dieTlb [] l.die) space page with
    | some e => (s.refillTlb l.die a.loan a.win space page e).accessPage id a l w e.page'
    | none => s.joinWalk l.die a.loan a.win space page id

/-- A decanter's block whose destination waited for a walk: it goes out, or faults. -/
def State.decantWalked (s : State) (id : Nat) (a : Access) (l : Loan) (r : Except Nat Page) : State :=
  match a.decantGoal l with
  | none => s
  | some (m, dw, u, b) =>
    let va := dw.base + m.dstOff u b
    match r with
    | .ok p => (s.refillTlb l.die a.loan m.dwin l.slip.space (va / 65536) (tlbEntry l.slip.space (va / 65536) p)).decantSend id a l m dw u b 1 p
    | .error n => s.accFault id fTRANSLATE va (translateDetail n true) true

/-- An access that waited for a walk: it goes on, or faults; `PREF` performs nothing and raises nothing (R286). -/
def State.afterWalk (s : State) (id : Nat) (r : Except Nat Page) : State :=
  match AMap.find s.accs id with
  | none => s
  | some a => match AMap.find s.loans a.loan with
    | none => s
    | some l =>
      if a.isDecant && a.stage == .performed then s.decantWalked id a l r
      else match l.windowAt a.ctx a.win with
      | none => s
      | some w => match r with
        | .ok p =>
          let page := (w.base + a.off) / 65536
          (s.refillTlb l.die a.loan a.win l.slip.space page (tlbEntry l.slip.space page p)).accessPage id a l w p
        | .error level =>
          if a.op = .pref then (s.settle a).performed id 3
          else s.accFault id fTRANSLATE (w.base + a.off) (translateDetail level a.writesMem) true

/-- `TLB_WALK_DONE` (R243, R244): the walk of a page serves every access that waits for it. -/
def execTlbWalkDone (id : Nat) (s : State) : Host.Outcome State Fault Refusal :=
  match AMap.find s.trans.walks id with
  | none => .next s
  | some k =>
    let r := walk s k.space (k.page * 65536)
    let s := { s with trans := { s.trans with walks := AMap.del s.trans.walks id } }
    .next (k.waiting.foldl (fun s n => s.afterWalk n r) s)

/-! ### The wave buffer (R249) -/

/-- The memory buffers without the entry of a request (R127). -/
def State.leaveBuffer (s : State) (id el : Nat) : State :=
  s.updEl el (fun e =>
    let fs := AMap.get e.out [] 5
    if fs.any (fun x => x.emit == Emit.request id) then { e with
      out := AMap.put e.out 5 (fs.filter (fun x => !(x.emit == Emit.request id)))
      freed := if e.freed.1 = s.cycle + 1 then (s.cycle + 1, 5 :: e.freed.2) else (s.cycle + 1, [5]) }
    else e)

/-- Whether the wave buffer has room for an access (R249): below 64 free entries, only for the oldest wave that waits. -/
def State.waveRoom (s : State) (a : Access) (l : Loan) : Bool :=
  let mine := s.accs.filter (fun (p : Nat × Access) => p.2.loan == a.loan && p.2.stage == .waiting && p.2.passes l)
  if 64 ≤ 1024 - mine.length then true
  else decide (mine.length < 1024) &&
    s.accs.all (fun (p : Nat × Access) => !(p.2.loan == a.loan && (p.2.stage == .waiting || p.2.stage == .buffered) && p.2.passes l) ||
      !tagOlder l p.2.tag a.tag)

/-- `WAVE_ACCESS_ARRIVE` (R249, R252, R330): the access leaves its memory buffer, unless it must stay there. -/
def execWaveAccessArrive (id : Nat) (s : State) : Host.Outcome State Fault Refusal :=
  match AMap.find s.accs id with
  | none => .next (s.els.foldl (fun s (p : Nat × Element) => s.leaveBuffer id p.1) s)
  | some a => match AMap.find s.loans a.loan with
    | none => .next s
    | some l =>
      if a.stage != .buffered then .next s
      else if !(s.commitTakes a l) || !s.replyPlace a l || (a.passes l && !s.waveRoom a l) then .next (s.later 1 (.waveAccessArrive id))
      else
        let s := s.leaveBuffer id a.el
        let s := { s with accs := AMap.put s.accs id { a with stage := .waiting } }
        .next (s.later 0 (.accessPerform id))

/-- Whether the cell that an access makes is multicast (R291). -/
def Access.multicasts (a : Access) : Bool := match a.op with | .sendc _ word => word.getLsbD 14 | _ => false

/-- Whether an access makes a cell of what it reads (R290). -/
def Access.sends (a : Access) : Bool := match a.op with | .sendc .. => true | _ => false

/-- Whether a re-run's atomic must wait for the one of the same handler and tag that its iteration had on its way when it faulted: that one
is performed, and its reply is kept (R330). -/
def State.deadTwin (s : State) (id : Nat) (a : Access) : Bool :=
  a.isAtomic && !a.dead && s.accs.any (fun (p : Nat × Access) => p.1 != id && p.2.dead && p.2.isAtomic && p.2.loan == a.loan &&
    p.2.index == a.index && p.2.hnd == a.hnd && p.2.tag == a.tag && (p.2.stage == .waiting || p.2.stage == .issued))

/-- `ACCESS_PERFORM` (R247, R250, R282): an access whose turn it is goes to where it is performed; one that waits for a
release or for the order ring looks again. An `MXLDACC` whose words have come back has written its accumulators (R235). -/
def execAccessPerform (id : Nat) (s : State) : Host.Outcome State Fault Refusal :=
  match AMap.find s.accs id with
  | none => .next s
  | some a => match AMap.find s.loans a.loan with
    | none => .next s
    | some l => match l.windowAt a.ctx a.win with
      | none => .next s
      | some w =>
        if a.op == .mxload && a.stage == .performed then .next ((s.loadAcc a).finishAccess id 1)
        else if a.isDecant && a.stage == .performed then .next (s.decantAgain id a l)
        else if a.stage != .waiting || !(l.inTurn a s.cycle) then .next s
        else if !(l.ordersIn a) then .next s
        else if a.skip then .next (s.skipAccess id (1 + l.hops (a.index / 128)))
        else if 2 ≤ a.strength ∧ !a.deferred l ∧ !s.priorDone id a l then .next (s.later 1 (.accessPerform id))
        else if s.deadTwin id a then .next (s.later 1 (.accessPerform id))
        else match (if a.isAtomic then l.kept.find? (fun k => k.serves a) else none) with
        | some k =>
          let s := { s with accs := AMap.put s.accs id { a with words := [k.value] } }
          let s := s.updLoan a.loan (fun l => { l with kept := l.kept.map (fun y => if y.serves a then { y with again := false } else y) })
          .next ((s.settle a).finishAccess id 3)
        | none =>
          if a.onRing && !a.ringDone && !w.virt then .next (s.ringWait (ringNode l.die (bayPort (a.bayOf l))) id (a.scope == 4))
          else
            if a.op = .pref ∧ (a.off % 4 ≠ 0 ∨ w.size < a.off + 4) then .next ((s.settle a).performed id 3)
            else if w.virt then .next (s.translateAccess id a l w)
            else if a.op = .pref then .next ((s.settle a).performed id (a.replyCycles l w + 1))
            else if a.deferred l then .next (s.performDeferred id a l w)
            else if a.sends && s.stalled l.die (bayPort (a.bayOf l)) (a.note l) a.multicasts then .next (s.later 1 (.accessPerform id))
            else .next (s.toBank id a l w)

end Sys2Proof.Machine
end

