-- ==== Sys2Proof/Machine/Memory.lean ====
section
/-! DEFINITION. The memory instructions (R214, R215, R279 to R293, R296): loads, stores, prefetch, fences, atomics, cells, drop
counters and layout records. Each gives the request that its firing places in the memory buffer. -/
namespace Sys2Proof.Machine

/-! ### The memory handler (R245, R280) -/

/-- What a live firing of a memory handler asks for: the operation, the offset, whether its operands are refused, the
offsets that must be aligned with their alignment, and those that must lie in a window with their size and its size. -/
structure MemAsk where
  op : AccOp
  off : Nat
  illegal : Bool
  aligns : List (Nat × Nat)
  bounds : List (Nat × Nat × Nat)
deriving DecidableEq, Repr

/-- Strength, scope and sync queue of a memory handler (R67): plain at its window's scope when `AX` is 0. -/
def memAttrs (img : Image) (hkey : Nat) (w : Window) (b : FM) : AttrRec :=
  match (if b.ax then AMap.find img.attrs hkey else none) with
  | some r => r
  | none => ⟨0, w.scope, 0⟩

/-- Shape of a format M word. -/
def shapeM (h : Hdr) (b : FM) (accs : List Nat) : Shape :=
  { h := h, ports := portsRead h, latency := 1, eosTo := [b.d0], dests := [b.d0], accs := accs, iterative := false, sq := 0
    accOnly := false, marker := none }

/-- The request of a firing (R245). -/
def memRequest (f : FireCtx) (g : Got) (h : Hdr) (b : FM) (w : Window) (kind : AccKind) (out : Tag) (op : AccOp) (off : Nat) (o : Bool) :
    Access :=
  let r := memAttrs f.img f.hkey w b
  { op := op, kind := kind, loan := f.id, ctx := f.ctx, el := f.key, index := f.index, hnd := f.hnd, win := b.window.toNat
    off := off, o := o, own := b.own.toNat, predd := b.predd.toNat, succd := b.succd.toNat
    strength := r.strength.toNat, scope := r.scope.toNat, post := if h.fP then some r.sq.toNat else none
    dest := b.d0, tag := g.tag, outTag := out, cont := g.cont, pred := g.live, skip := !g.live, stage := .buffered
    seq := 0, phys := 0, words := [], seen := [], ringDone := false, dead := false, prior := g.prior }

/-- The fault of a live firing at its element: code and offset; alignment first, then the window (R280). -/
def MemAsk.fault (m : MemAsk) : Option (Nat × Nat) :=
  match m.aligns.find? (fun x => x.1 % x.2 != 0) with
  | some x => some (fALIGN, x.1)
  | none => (m.bounds.find? (fun x => decide (x.2.2 < x.1 + x.2.1))).map (fun x => (fWINDOW, x.1))

/-- Code of a kind in `DETAIL` (R340). -/
def kindNumber : AccKind → Nat
  | .word => 0 | .line => 1 | .block => 2

/-- A firing that raises ALIGN or WINDOW_BOUND (R280, R342): at depth 0 its request is kept and goes to its wave as a skip at
`RESUME`. -/
def memFault (f : FireCtx) (g : Got) (a : Access) (w : Window) (code off : Nat) (s : State) : State :=
  let keep := f.info.ownDepth == 0 && (AMap.find f.l.frames g.tag.frame.toNat).isSome
  let (n, t) := if keep then (s.addAccess { a with skip := true, stage := .kept }) else (0, s)
  let t := if keep then t.born f.id g.tag (handlerIters f.img f.hkey g.tag) else t
  t.raise { Report.of code with
      loan := some f.id, el := some f.key, ctx := f.ctx, hnd := f.hnd, win := some a.win, tag := some g.tag
      addr := if w.virt then w.base + off else recordAddr w f.l.firstLine off
      detail := BitVec.ofNat 64 (off % 2 ^ 32 + kindNumber a.kind * 2 ^ 32) }
    f.info.counted (if keep then [.skip n] else [])

/-- The sync queue of a memory handler with `P` or `W` (R67). -/
def memSq (s : State) (b : FM) : Nat :=
  match fireCtx? s with
  | some f => if b.ax then (match AMap.find f.img.attrs f.hkey with | some r => r.sq.toNat | none => 0) else 0
  | none => 0

/-- A FIRING OF A MEMORY HANDLER (R245, R280): poison, or a fault at the element, or its request. A dead firing is a skip. -/
def fireMem (sh : Shape) (h : Hdr) (b : FM) (kind : AccKind) (o : Bool) (ask : FireCtx → Got → Window → MemAsk) (s : State) :
    Host.Outcome State Fault Refusal :=
  let at0 (f : FireCtx) (g : Got) : Option (Window × Access × Option MemAsk) :=
    match f.l.windowAt f.ctx b.window.toNat, applyTagop h.tagop f.info.depth true g.tag with
    | some w, some out =>
      let m := ask f g w
      some (w, memRequest f g h b w kind out m.op (if g.live then m.off else (g.op 0).toNat) o, if g.live then some m else none)
    | _, _ => none
  let poison (f : FireCtx) (g : Got) : Eff := { Eff.none with outs := deadOuts f g [b.d0], bad := some (fILLEGAL, 0) }
  fire { sh with sq := memSq s b } (fun f g => some (match at0 f g with
      | none => poison f g
      | some (_, a, none) => { Eff.none with req := some a, ownPost := true }
      | some (w, a, some m) =>
        if m.illegal then
          { poison f g with place := some (a.win, if w.virt then w.base + m.off else recordAddr w f.l.firstLine m.off) }
        else if m.fault.isSome then { Eff.none with ownPost := true }
        else { Eff.none with req := some a, ownPost := true }))
    (fun f g s => match at0 f g with
      | some (w, a, some m) => (match m.fault with
        | some (code, off) => if m.illegal then s else memFault f g a w code off s
        | none => s)
      | _ => s) s

/-- The plain ask: one access of a kind at offset `a`. -/
def askAt (kind : AccKind) (op : AccOp) (illegal : Bool) (g : Got) (w : Window) : MemAsk :=
  let x := (g.op 0).toNat
  let n := match kind with | .word => 4 | .line => 32 | .block => 256
  ⟨op, x, illegal, [(x, kindAlign kind)], [(x, n, w.size)]⟩

/-! ### Loads, stores and prefetch (R283 to R286) -/

/-- `LD` (R283). -/
def execLd (h : Hdr) (b : FM) : State → Host.Outcome State Fault Refusal :=
  fireMem (shapeM h b []) h b .word b.o (fun _ g w => askAt .word .load false g w)

/-- `ST` (R283). -/
def execSt (h : Hdr) (b : FM) : State → Host.Outcome State Fault Refusal :=
  fireMem (shapeM h b []) h b .word b.o (fun _ g w => askAt .word (.store [g.op 1] 0xFF) false g w)

/-- `LDS` (R283, R285). -/
def execLds (h : Hdr) (b : FM) : State → Host.Outcome State Fault Refusal :=
  fireMem (shapeM h b []) h b .line b.o (fun _ g w => askAt .line .loadLine false g w)

/-- `STS` (R283, R284): the `w` registers of the cycle of firing under a word mask. -/
def execSts (h : Hdr) (b : FM) : State → Host.Outcome State Fault Refusal :=
  fireMem (shapeM h b []) h b .line b.o (fun f g w =>
    let pl := f.e.active f.ctx
    askAt .line (.store ((List.range 8).map (fun i => AMap.get pl.w 0 i)) ((g.op 1).extractLsb' 0 8)) ((g.op 1).extractLsb' 8 24 != 0) g w)

/-- `LDQ` (R283, R285). -/
def execLdq (h : Hdr) (b : FM) : State → Host.Outcome State Fault Refusal :=
  fireMem (shapeM h b []) h b .block b.o (fun _ g w => askAt .block .loadBlock false g w)

/-- `STQ` (R283, R284): the accumulators, read one cycle after the firing, under a line mask. -/
def execStq (h : Hdr) (b : FM) : State → Host.Outcome State Fault Refusal :=
  fireMem (shapeM h b (List.range 64)) h b .block b.o (fun f g w =>
    askAt .block (.store ((List.range 64).map (fun i => AMap.get f.x.acc 0 i)) ((g.op 1).extractLsb' 0 8))
      ((g.op 1).extractLsb' 8 24 != 0) g w)

/-- `PREF` (R286): no fault of any kind; where there is nothing to fetch it is a member of its wave that performs nothing. -/
def execPref (h : Hdr) (b : FM) : State → Host.Outcome State Fault Refusal :=
  fireMem (shapeM h b []) h b .word b.o (fun _ g _ => ⟨.pref, (g.op 0).toNat, false, [], []⟩)

/-! ### The sillage (R213 to R215) -/

/-- Position of a choice: the innermost iteration (R214). -/
def slogK (f : FireCtx) (g : Got) : Nat := if f.info.depth = 0 then 0 else (g.tag.it (f.info.depth - 1)).toNat

/-- `SLOG` (R214). -/
def execSlog (h : Hdr) (b : FM) : State → Host.Outcome State Fault Refusal :=
  fireMem (shapeM h b []) h b .word false (fun f g w =>
    let k := slogK f g
    let off := ((g.op 0).toNat * 8 + k) * 16
    let drop := if (g.op 1).extractLsb' 16 16 = 0xFFFF then 8 else 0
    ⟨.slog [g.op 0, g.op 1, g.op 2, BitVec.ofNat 32 (k + drop)], off, decide (7 < k), [], [(off, 16, w.size)]⟩)

/-- The four destinations of `SREAD` (R215). -/
def sreadDests (b : FM) : List Dest :=
  match b.d0 with
  | .cont n => (List.range 4).map (fun i => .cont (BitVec.ofNat 6 (n.toNat + i)))
  | d => [d]

/-- `SREAD` (R215). -/
def execSread (h : Hdr) (b : FM) : State → Host.Outcome State Fault Refusal :=
  fireMem { shapeM h b [] with eosTo := (sreadDests b).take 1, dests := sreadDests b } h b .word false (fun _ g w =>
    let off := (g.op 0).toNat * 16
    ⟨.sread, off, false, [], [(off, 16, w.size)]⟩)

/-! ### Fences (R287) -/

/-- Die crossings that the wing of a loan spans: those between the dies on which the loans of its `WING` and address space stand (R287,
R308). -/
def wingCrossings (s : State) (l : Loan) : Nat :=
  ((List.range 4).filter (fun d => s.loans.any (fun (p : Nat × Loan) =>
    p.2.slip.wing == l.slip.wing && p.2.slip.space == l.slip.space && p.2.die == d))).length - 1

/-- Cycles of a fence of a loan at a scope. -/
def fenceCycles (s : State) (l : Loan) (scope : Nat) : Nat :=
  match scope with
  | 0 => 1
  | 1 => 16 + 24 * wingCrossings s l
  | 2 => 16
  | 3 => 64
  | _ => 540

/-- Cycles until the token of the order ring stands at a node (R328). -/
def ringCycles (s : State) (node : Nat) : Nat := (node + 833 - s.hub.ringPos) % 833

/-- Whether a release of the firing handler may take place: the deferred stores in its prior set have committed (R282). -/
def FireCtx.releaseReady (f : FireCtx) (g : Got) : Bool := f.l.committedPrior g.prior []

/-- The node of the order ring of a firing element's bay (R328). -/
def FireCtx.node (f : FireCtx) : Nat := ringNode f.l.die (bayPort (f.key / 256))

/-- The latency of an instruction that emits dead at once when an operand is dead (R287, R295). -/
def liveLatency (s : State) (f : FireCtx) (sh : Shape) (n : Nat) : Nat :=
  match gather? s f sh with
  | .ok g => if g.live then n else 1
  | _ => n

/-- Cycles from a fence's firing to its output (R287): those of its scope, after the order ring's token at device scope or above when its
strength is 4; 1 when its operands are dead. -/
def fenceLatency (s : State) (f : FireCtx) (sh : Shape) (scope strength : Nat) : Nat :=
  liveLatency s f sh (fenceCycles s f.l scope + (if strength = 4 ∧ 3 ≤ scope then ringCycles s f.node else 0))

/-- `FENCE` (R282, R287, R327): with a release strength it fires once everything in its prior set has committed; strength 4
also takes its place among the SC operations of its instance, under the number of its firing. A dead one orders nothing and emits at
once. -/
def execFence (h : Hdr) (b : FY) (s : State) : Host.Outcome State Fault Refusal :=
  let scope := b.scode.toNat % 8
  let strength := b.scode.toNat / 8 % 8
  let lat := match fireCtx? s with
    | some f => fenceLatency s f (shapeY h b 1) scope strength
    | none => 1
  fire (shapeY h b lat) (fun f g =>
    if g.live && decide (2 ≤ strength) && !f.releaseReady g then none
    else some (valueEff f g [(b.d0, g.op 0)] Flag.none))
    (fun f g s =>
      if !g.live || strength != 4 then s
      else if scope < 3 then s.updHub (fun h => { h with instOrders := instPlace (f.l.instanceOf f.id scope) f.num h.instOrders })
      else s.ringWait f.node f.num (scope == 4)) s

/-! ### Atomics (R288, R289) -/

/-- An atomic: one word with its operands. -/
def fireAtomic (op : BitVec 8) (h : Hdr) (b : FM) : State → Host.Outcome State Fault Refusal :=
  fireMem (shapeM h b []) h b .word b.o (fun _ g w => askAt .word (.atomic op h.ty (g.op 1) (g.op 2)) false g w)

/-- `AADD` (R288). -/
def execAadd (h : Hdr) (b : FM) : State → Host.Outcome State Fault Refusal := fireAtomic 0x88 h b
/-- `AFADD` (R288). -/
def execAfadd (h : Hdr) (b : FM) : State → Host.Outcome State Fault Refusal := fireAtomic 0x89 h b
/-- `AMIN` (R288). -/
def execAmin (h : Hdr) (b : FM) : State → Host.Outcome State Fault Refusal := fireAtomic 0x8A h b
/-- `AMAX` (R288). -/
def execAmax (h : Hdr) (b : FM) : State → Host.Outcome State Fault Refusal := fireAtomic 0x8B h b
/-- `AXCHG` (R288). -/
def execAxchg (h : Hdr) (b : FM) : State → Host.Outcome State Fault Refusal := fireAtomic 0x8C h b
/-- `ACAS` (R288). -/
def execAcas (h : Hdr) (b : FM) : State → Host.Outcome State Fault Refusal := fireAtomic 0x8D h b
/-- `ABIT` (R288). -/
def execAbit (h : Hdr) (b : FM) : State → Host.Outcome State Fault Refusal := fireAtomic 0x8E h b
/-- `AINCB` (R288, R289). -/
def execAincb (h : Hdr) (b : FM) : State → Host.Outcome State Fault Refusal := fireAtomic 0x8F h b

/-! ### Cells (R290 to R293) -/

/-- The ask of `SENDC` and `SENDM`: a block read at `a`, to be written at offset `b` (R290). -/
def sendAsk (g : Got) (w : Window) (word : W32) (illegal : Bool) : MemAsk :=
  let x := (g.op 0).toNat
  let d := (g.op 1).toNat
  ⟨.sendc d word, x, illegal, [(x, 256), (d, 256)], [(x, 256, w.size), (d, 256, w.size)]⟩

/-- `SENDC` (R290). -/
def execSendc (h : Hdr) (b : FM) : State → Host.Outcome State Fault Refusal :=
  fireMem (shapeM h b []) h b .block b.o (fun _ g w => sendAsk g w 0 false)

/-- Whether a cell word is refused (R291). -/
def cellWordBad (img : Image) (c : W32) : Bool :=
  let mc := c.getLsbD 14
  let acc := c.getLsbD 15
  c.extractLsb' 16 16 != 0 || (!mc && c.extractLsb' 0 8 != 0) || (!acc && c.extractLsb' 8 6 != 0) ||
    (mc && (AMap.find img.mcasts (c.extractLsb' 0 8).toNat).isNone) || (acc && (AMap.find img.accords (c.extractLsb' 8 6).toNat).isNone)

/-- `SENDM` (R290, R291). -/
def execSendm (h : Hdr) (b : FM) : State → Host.Outcome State Fault Refusal :=
  fireMem (shapeM h b []) h b .block b.o (fun f g w => sendAsk g w (g.op 2) (cellWordBad f.img (g.op 2)))

/-- `CREQ` (R292). -/
def execCreq (h : Hdr) (b : FM) : State → Host.Outcome State Fault Refusal :=
  fireMem (shapeM h b []) h b .block b.o (fun f g w =>
    let x := (g.op 0).toNat
    let doff := ((g.op 1).extractLsb' 0 20).toNat
    let dwin := ((g.op 1).extractLsb' 20 6).toNat
    let dw := f.l.windowAt f.ctx dwin
    let size := match dw with | some v => v.size | none => 0
    let bad := (g.op 1).extractLsb' 26 6 != 0 || (match dw with | some v => v.virt | none => true)
    ⟨.creq doff dwin, x, bad, [(x, 256), (doff, 256)], [(x, 256, w.size), (doff, 256, size)]⟩)

/-- Key of a member's drop counter (R277). -/
def dropKey (group member : Nat) : Nat := group * 32 + member

/-- `CGRP` (R293). -/
def execCgrp (h : Hdr) (b : FY) (s : State) : Host.Outcome State Fault Refusal :=
  let lat := match fireCtx? s with | some f => 2 * f.l.hops f.b + 2 | none => 2
  let parts (f : FireCtx) (g : Got) : Option Nat :=
    let grp := (g.op 0).toNat % 256
    let m := (g.op 0).toNat / 256 % 32
    if (g.op 0).toNat / 8192 ≠ 0 then none
    else match AMap.find f.img.mcasts grp with
      | some x => if m < x.members.length then some (dropKey grp m) else none
      | none => none
  fire (shapeY h b lat) (fun f g =>
    if !g.live then some { Eff.none with outs := deadOuts f g [b.d0] }
    else match parts f g with
      | none => some { Eff.none with outs := deadOuts f g [b.d0], bad := some (fILLEGAL, 0) }
      | some k =>
        let e := valueEff f g [(b.d0, AMap.get f.l.drops 0 k)] Flag.none
        some (if b.scode.getLsbD 0 then { e with loan := some { f.l with drops := AMap.del f.l.drops k } } else e)) noAfter s

/-! ### Layout records (R296) -/

/-- `DLAY` (R296): the row line at `a`, whatever `O`, which names the record. -/
def execDlay (h : Hdr) (b : FM) : State → Host.Outcome State Fault Refusal :=
  fireMem { shapeM h b [] with marker := some b.o } h b .line false (fun _ g w => askAt .line (.dlay b.o) false g w)

/-! ### Rounds of `AINCB` (R289) -/

/-- Claims in ascending key; of equal keys in the order in which they stand. -/
def byClaimKey (s : State) (ids : List Nat) : List Nat :=
  sortBy (fun a b =>
    let k (i : Nat) : Nat := match AMap.find s.accs i with | some x => x.claimKey.getD 0 | none => 0
    decide (k a ≤ k b)) ids

/-- An atomic of a virt window performed at its home port; its reply leaves for the requester's die (R245). -/
def State.performVirtAtomic (s : State) (id die port : Nat) : State :=
  match AMap.find s.accs id with
  | none => s
  | some a => match AMap.find s.loans a.loan with
    | none => s
    | some l => match l.windowAt a.ctx a.win, a.op with
      | some w, .atomic op ty b c =>
        let s := s.performAtomic id a l w op.toNat ty b c
        (match AMap.find s.accs id with
          | some a' => if a'.stage = .kept then s else
            let bay := a.replyBay l
            let (d, s) := (s.postAccess a).drawNat
            s.sendCell die port d a.loan id (.reply id) { Cell.blank with
              note := l.slip.note, dportDie := BitVec.ofNat 2 (bay / 128), dport := BitVec.ofNat 8 (bayPort bay) }
          | none => s)
      | _, _ => s

/-- The physical address of the word that a successful claim has taken. -/
def State.claimedWord (s : State) (id : Nat) : Option Nat :=
  match AMap.find s.accs id with
  | none => none
  | some a => match AMap.find s.loans a.loan with
    | none => none
    | some l => match l.windowAt a.ctx a.win with
      | some w => if a.words.getD 0 0xFFFFFFFF = 0xFFFFFFFF then none else some (a.phys + a.off % squareSize w.ty)
      | none => none

/-- `AINCB_ROUND_END` (R289, R336): the claims held at a bank or at a memory port are performed in ascending key, and the pool
guards look at the counters they claimed. -/
def execAincbRoundEnd (place : Nat) (s : State) : Host.Outcome State Fault Refusal :=
  if place < 2 ^ 20 then
    let bay := place / 64
    let held := (s.bay bay).heldClaims
    let s := s.updBay bay (fun b => { b with heldClaims := [] })
    .next ((byClaimKey s held).foldl (fun s id => s.performTile id) s)
  else
    let die := place % 2 ^ 20 / 256
    let port := place % 256
    let x := AMap.get s.xch Exchange.empty die
    let held := AMap.get x.portClaims [] port
    let s := { s with xch := AMap.put s.xch die { x with portClaims := AMap.del x.portClaims port } }
    let s := (byClaimKey s held).foldl (fun s id => s.performVirtAtomic id die port) s
    .next ((held.filterMap s.claimedWord).eraseDups.foldl (fun s p => s.poolsAfter p) s)

end Sys2Proof.Machine
end

