-- ==== Sys2Proof/Machine/Exchange.lean ====
section
/-! DEFINITION. The Cell Exchange (R259 to R278): queues of input ports, the matching of a slot, bridges between dies,
multicast residues, and what a cell does at a memory port and at a bay's ingress. -/
namespace Sys2Proof.Machine

/-! ### Ports and bridges (R259 to R261) -/

/-- A die's Exchange. -/
def State.xchOf (s : State) (die : Nat) : Exchange := AMap.get s.xch Exchange.empty die
@[inherit_doc State.xchOf] def State.updXch (s : State) (die : Nat) (f : Exchange → Exchange) : State :=
  { s with xch := AMap.upd s.xch Exchange.empty die f }

/-- The groups of bridge ports: to the die of its own row, of its own column, to the hub. -/
inductive Bridge where
  | row | col | hub
deriving DecidableEq, Repr

/-- First port and size of a group of a die (R261). -/
def bridgeGroup (die : Nat) : Bridge → Nat × Nat
  | .row => (208, 12)
  | .col => if die % 2 = 0 then (220, 12) else (220, 20)
  | .hub => (232, 8)

/-- The port of a group by which a cell leaves a die: member (input + destination) mod half, of its plane's half. -/
def bridgePort (die : Nat) (b : Bridge) (deposit : Bool) (inp dport : Nat) : Nat :=
  let (start, n) := bridgeGroup die b
  start + (if deposit then n / 2 else 0) + (inp + dport) % (n / 2)

/-- Whether a destination (die × 256 + port) is reached on the deposit plane (R260). -/
def onDeposit (dest : Nat) : Bool := decide (128 ≤ dest % 256)

/-- Whether a port is a hub port: a bridge port of die 0 or 2 at or above 232. -/
def isHubPort (die port : Nat) : Bool := die % 2 == 0 && decide (232 ≤ port)

/-- The output of a die towards a destination (R261): the port itself, or a member of a group, of the hub's for a hub port of the die; the
diagonal die lies behind the die of the own row. -/
def outputFor (die inp dest : Nat) : Nat :=
  let dd := dest / 256
  if dd = die then (if isHubPort die (dest % 256) then bridgePort die .hub true inp dest else dest % 256)
  else bridgePort die (if dd = die ^^^ 2 then .col else .row) (onDeposit dest) inp dest

/-- The die and input port that a bridge output feeds (R261); `none` for a hub port. -/
def bridgeFeeds (die port : Nat) : Option (Nat × Nat) :=
  if port < 220 then some (die ^^^ 1, port)
  else if isHubPort die port then none
  else
    -- the facing group of the die of the own column has the same size
    some (die ^^^ 2, port)

/-! ### Queues (R262) -/

/-- The time slot of a cycle. -/
def slotOf (cycle : Nat) : Nat := cycle / 4

/-- Cells in the buffer of an input. -/
def Exchange.buffered (x : Exchange) (inp : Nat) : Nat := ((x.voqs.filter (fun v => v.inp == inp)).map (fun v => v.cells.length)).sum

/-- Whether a cell of a note may enter an input's buffer: sixteen places are kept for top cells. -/
def Exchange.admits (x : Exchange) (inp note : Nat) : Bool :=
  let free := 256 - x.buffered inp
  if note = 2 then decide (0 < free) else decide (16 < free)

/-- Multicast cells with residue at an input (R275). -/
def Exchange.multicasts (x : Exchange) (inp : Nat) : Nat := ((x.voqs.filter (fun v => v.inp == inp && v.mc)).map (fun v => v.cells.length)).sum

/-- The members of a cell's group. -/
def State.groupOf (s : State) (q : QCell) : Option McastGroup :=
  match AMap.find s.loans q.loan with
  | some l => AMap.find (l.imageOf q.cell.ctx.toNat).mcasts q.cell.group.toNat
  | none => none

/-- Whether a cell comes to its first die at an input: at a bay, a memory port, or a hub bridge. -/
def firstDie (die inp : Nat) : Bool := decide (inp < 208) || isHubPort die inp

/-- The residue of a multicast cell that enters a die at an input (R274, R278): members on the die, and the bridges towards
the dies further on. -/
def residueAt (die inp group : Nat) (members : List Nat) : List Nat :=
  let own := (members.filter (fun m => m / 256 == die)).map (· % 256)
  let far (d : Nat) : Bool := members.any (fun m => m / 256 == d)
  let row := if firstDie die inp ∧ (far (die ^^^ 1) ∨ far (die ^^^ 3)) then [bridgePort die .row false inp group] else []
  let col := if (firstDie die inp ∨ inp < 220) ∧ far (die ^^^ 2) then [bridgePort die .col false inp group] else []
  own ++ row ++ col

/-- A cell put at the tail of its queue. -/
def enterQueue (slot inp dest : Nat) (q : QCell) : List Voq → List Voq
  | [] => [⟨inp, q.cell.mc, if q.cell.mc then 0 else dest, q.cell.note.toNat, 1, [{ q with entered := slot, cell := Cell.withSeq q.cell 0 }], slot⟩]
  | v :: vs =>
    if v.inp = inp ∧ v.mc = q.cell.mc ∧ v.note = q.cell.note.toNat ∧ (v.mc ∨ v.dest = dest) then
      { v with
        seq := v.seq + 1
        cells := v.cells ++ [{ q with entered := slot, cell := Cell.withSeq q.cell v.seq }]
        headSince := if v.cells = [] then slot else v.headSince } :: vs
    else v :: enterQueue slot inp dest q vs

/-- Cells of a lag-drop group leave 4,096 slots after they have entered (R277). -/
def lagCycles : Nat := 4096 * 4

/-- Whether two cells at an input go into one queue (R262). -/
def QCell.sameQueue (q r : QCell) : Bool :=
  q.cell.mc == r.cell.mc && q.cell.note == r.cell.note && (q.cell.mc || (q.cell.dportDie == r.cell.dportDie && q.cell.dport == r.cell.dport))

/-- Whether an earlier cell for the same queue still waits to enter at an input (R263, R276). -/
def State.behind (s : State) (src : Nat) (q : QCell) : Bool :=
  s.outgoing.any (fun (p : Nat × Nat × QCell) => p.2.1 == src && p.2.2.sameQueue q &&
    (decide (p.2.2.entered < q.entered) || (p.2.2.entered == q.entered && decide (p.2.2.id < q.id))))

/-- `CELL_ENQUEUE` (R262, R275, R278, R324): a cell enters its queue, at most one a slot and in order; a virt access settles then. -/
def execCellEnqueue (id : Nat) (s : State) : Host.Outcome State Fault Refusal :=
  match AMap.find s.outgoing id with
  | none => .next s
  | some (src, q) =>
    let die := src / 256
    let inp := src % 256
    let x := s.xchOf die
    let slot := slotOf s.cycle
    let dest := q.cell.dportDie.toNat * 256 + q.cell.dport.toNat
    let wait := s.later (4 - s.cycle % 4) (.cellEnqueue id)
    if AMap.get x.lastEntry 0 inp = slot + 1 ∨ !x.admits inp q.cell.note.toNat then .next wait
    else if (q.cell.mc ∧ 8 ≤ x.multicasts inp) ∨ s.behind src q then .next wait
    else
      let g := s.groupOf q
      let q := if q.cell.mc then { q with residue := (match g with
        | some g => residueAt die inp q.cell.group.toNat g.members
        | none => []) } else q
      let s := { s with outgoing := AMap.del s.outgoing id }
      let s := s.updXch die (fun x => { x with lastEntry := AMap.put x.lastEntry inp (slot + 1) })
      -- a multicast cell without members is served as it enters
      let s := if q.cell.mc && q.residue == [] then s
        else s.updXch die (fun x => { x with voqs := enterQueue slot inp dest q x.voqs })
      let s := match q.cell.mc, g with
        | true, some g => if g.lag then s.later lagCycles (.lagDrop die inp id) else s
        | _, _ => s
      .next (match q.body with
        | .request n => (match AMap.find s.accs n with
          | some a => (match a.op with | .decant .. => s | _ => s.settle a)
          | none => s)
        | _ => s)

/-! ### Matching (R264, R265, R272, R274, R276, R334) -/

/-- A request of an input to an output: class (0 base, 1 heart, 2 escalated, 3 top), note, age of the head in slots, and the
queue and cell that it is for. -/
structure XReq where
  inp : Nat
  out : Nat
  deposit : Bool
  cls : Nat
  note : Nat
  age : Nat
  mc : Bool
  queue : Nat
  cell : Nat
deriving DecidableEq, Repr

/-- The class of a head in an iteration (R264, R265): escalated heads count in the first. -/
def headClass (note age iter : Nat) : Nat :=
  if note = 2 then 3
  else if iter = 0 ∧ ((note = 1 ∧ 256 < age) ∨ (note = 0 ∧ 1024 < age)) then 2
  else if note = 1 then 1 else 0

/-- The outputs that the cells of a multicast queue request (R276): those that no earlier cell of the queue still holds. -/
def mcOffers : List QCell → List Nat → List (QCell × Nat)
  | [], _ => []
  | c :: cs, held => (c.residue.filter (fun o => !held.contains o)).map (fun o => (c, o)) ++ mcOffers cs (held ++ c.residue)

/-- Whether a queue's cells are for bays, on the fetch plane: multicast cells always are. -/
def Voq.deposit (v : Voq) : Bool := !v.mc && onDeposit v.dest

/-- Every head that asks for an output on a die. -/
def Exchange.asks (x : Exchange) (die slot iter : Nat) : List XReq :=
  x.voqs.zipIdx.flatMap (fun p =>
    let v := p.1
    let age := slot - v.headSince
    match v.cells with
    | [] => []
    | c :: _ =>
      if v.mc then (mcOffers v.cells []).map (fun o =>
        ⟨v.inp, o.2, false, headClass v.note (if o.1.id = c.id then age else 0) iter, v.note, age, true, p.2, o.1.id⟩)
      else [⟨v.inp, outputFor die v.inp v.dest, v.deposit, headClass v.note age iter, v.note, age, false, p.2, c.id⟩])

/-- The accord cells at queue heads that ask for a bay's port, with their loans. -/
def Exchange.accordHeads (x : Exchange) (asks : List XReq) (out : Nat) : List QCell :=
  asks.filterMap (fun r => if r.out = out ∧ !r.deposit then
      (match (x.voqs[r.queue]?) with
        | some v => (v.cells.find? (fun c => c.id == r.cell && c.cell.accn != 0))
        | none => none)
    else none)

/-- The oldest tag of some accords (R272): of one loan by R131, otherwise the earlier loan. -/
def oldestTag (s : State) : List (Nat × Tag × Nat) → Option (Nat × Tag × Nat)
  | [] => none
  | x :: xs => match oldestTag s xs with
    | none => some x
    | some y =>
      if x.1 = y.1 then (match AMap.find s.loans x.1 with
        | some l => if tagOlder l y.2.1 x.2.1 then some y else some x
        | none => some x)
      else if y.1 < x.1 then some y else some x

/-- Whether a bay's output may grant an accord cell (R272). -/
def accordOk (s : State) (x : Exchange) (asks : List XReq) (die out : Nat) (c : QCell) : Bool :=
  let b := s.bay (die * 128 + out)
  if c.cell.accn = 0 then true
  else
    let coming := (b.ingress.filter (fun q => q.cell.accn != 0 &&
      !b.accords.any (fun a => a.accid == q.cell.accid.toNat && a.tag == q.cell.tag && a.loan == q.loan))).map (fun q => (q.loan, q.cell.tag, q.cell.accid.toNat))
    let isOpen := b.accords.map (fun a => (a.loan, a.tag, a.accid)) ++ coming.eraseDups
    let mine := (c.loan, c.cell.tag, c.cell.accid.toNat)
    let free := 16 - isOpen.length
    if isOpen.contains mine then true
    else
      let heads := (x.accordHeads asks out).map (fun q => (q.loan, q.cell.tag, q.cell.accid.toNat))
      let anchor := oldestTag s (isOpen ++ heads)
      if anchor = some mine then decide (1 ≤ free) else decide (2 ≤ free)

/-- Payloads that wait for their bank in a bay. -/
def Bay.payloads (b : Bay) : Nat :=
  (b.banks.map (fun (p : Nat × List BankEntry) => (p.2.filter (fun e => match e.job with | .payload _ => true | _ => false)).length)).sum

/-- Whether an output takes one more cell of a note (R269): at a bay a cell whose payload is not written yet still holds its place (R270),
and a bridge input holds at most eight multicast cells (R275). A stopped port takes none (R30). -/
def accepting (s : State) (die out note : Nat) (mc : Bool) : Bool :=
  !s.stopped (.port (die * 256 + out)) &&
  if out < 128 then
    let b := s.bay (die * 128 + out)
    decide (b.ingress.length + b.payloads + (b.writing.filter (fun t => decide (s.cycle < t))).length < 64)
  else if out < 208 then decide ((AMap.get (s.xchOf die).memQueues [] out).length < 64)
  else match bridgeFeeds die out with
    | none => true
    | some (d, inp) =>
      let coming := s.outgoing.filter (fun (p : Nat × Nat × QCell) => p.2.1 == d * 256 + inp)
      let used := (s.xchOf d).buffered inp + coming.length
      (if note = 2 then decide (used < 256) else decide (used < 240)) &&
        (!mc || decide ((s.xchOf d).multicasts inp + (coming.filter (fun p => p.2.2.cell.mc)).length < 8))

/-- What has been matched in a slot: inputs with the queue and cell that they send, and outputs. -/
structure Match where
  inp : Nat
  out : Nat
  deposit : Bool
  mc : Bool
  queue : Nat
  cell : Nat
deriving DecidableEq, Repr

/-- Key of a pointer: port, note and plane. -/
def ptrKey (port note : Nat) (deposit : Bool) : Nat := port * 8 + note * 2 + (if deposit then 1 else 0)

/-- Distance of a port from a pointer in ascending order, modulo 240. -/
def fromPtr (ptr port : Nat) : Nat := (port + 240 - ptr % 240) % 240

/-- The better of two requests at an output (R264): class, then age among escalated ones, then the pointer. -/
def grantBetter (x : Exchange) (a b : XReq) : Bool :=
  decide (b.cls < a.cls) || (a.cls == b.cls &&
    (if a.cls = 2 then decide (b.age < a.age) || (a.age == b.age && decide (a.inp < b.inp))
     else
      let p := AMap.get x.grantPtr 0 (ptrKey a.out a.note a.deposit)
      decide (fromPtr p a.inp < fromPtr p b.inp)))

/-- The best of some requests. -/
def bestReq (better : XReq → XReq → Bool) : List XReq → Option XReq
  | [] => none
  | r :: rs => match bestReq better rs with
    | none => some r
    | some q => if better q r then some q else some r

/-- Of the heads of one input for one output only the best asks; of equal ones the kind that was not served last. -/
def onePerPair (x : Exchange) (rs : List XReq) : List XReq :=
  rs.filter (fun r => !rs.any (fun q => q.inp == r.inp && q.out == r.out && q.deposit == r.deposit && q != r &&
    (decide (r.cls < q.cls) || (q.cls == r.cls &&
      (if q.mc == r.mc then decide (q.cell < r.cell)
       else q.mc != AMap.get x.lastMc true q.inp)))))

/-- The grants of an iteration among its requests; `all` holds every head of the slot (R272). -/
def grants (s : State) (x : Exchange) (die : Nat) (all asks : List XReq) (taken : List (Nat × Bool)) : List XReq :=
  let outs := (asks.map (fun r => (r.out, r.deposit))).eraseDups.filter (fun o => !taken.contains o)
  outs.filterMap (fun o =>
    bestReq (grantBetter x) (asks.filter (fun r => r.out == o.1 && r.deposit == o.2 && accepting s die r.out r.note r.mc &&
      (decide (128 ≤ r.out) || (match x.voqs[r.queue]? with
        | some v => (match v.cells.find? (fun c => c.id == r.cell) with
          | some c => accordOk s x all die r.out c
          | none => false)
        | none => false)))))

/-- The better of two grants at an input (R264): class, the plane that was not accepted last, the kind that was not served
last, the older multicast cell, the pointer. -/
def acceptBetter (x : Exchange) (a b : XReq) : Bool :=
  decide (b.cls < a.cls) || (a.cls == b.cls &&
    (if a.deposit != b.deposit then a.deposit != AMap.get x.lastPlane true a.inp
     else if a.mc != b.mc then a.mc != AMap.get x.lastMc true a.inp
     else if a.mc then decide (a.cell < b.cell)
     else
      let p := AMap.get x.acceptPtr 0 (ptrKey a.inp a.note a.deposit)
      decide (fromPtr p a.out < fromPtr p b.out)))

/-- Pointers after an acceptance in iteration 1 of a grant made by pointer (R264, R334). -/
def movePointers (x : Exchange) (iter : Nat) (r : XReq) : Exchange :=
  if iter ≠ 0 ∨ r.cls = 2 then x
  else
    { x with
      grantPtr := AMap.put x.grantPtr (ptrKey r.out r.note r.deposit) ((r.inp + 1) % 240)
      acceptPtr := if r.mc then x.acceptPtr else AMap.put x.acceptPtr (ptrKey r.inp r.note r.deposit) ((r.out + 1) % 240) }

/-- The acceptances of an input of its grants: one unicast, or every grant of one multicast cell. -/
def acceptsOf (x : Exchange) (gs : List XReq) : List XReq :=
  match bestReq (acceptBetter x) gs with
  | none => []
  | some r => if r.mc then gs.filter (fun q => q.mc && q.cell == r.cell) else [r]

/-- One iteration on both planes (R264): an input that sends a multicast cell goes on for that cell alone, and a stopped one sends nothing
(R30). -/
def matchIter (s : State) (die slot iter : Nat) (x : Exchange) (ms : List Match) : Exchange × List Match :=
  let all := (x.asks die slot iter).filter (fun r => !s.stopped (.port (die * 256 + r.inp)))
  let asks := all.filter (fun r =>
    match ms.find? (fun m => m.inp == r.inp) with
    | none => true
    | some m => m.mc && r.mc && m.cell == r.cell)
  let asks := onePerPair x (asks.filter (fun r => !ms.any (fun m => m.out == r.out && m.deposit == r.deposit)))
  let gs := grants s x die all asks (ms.map (fun m => (m.out, m.deposit)))
  let inps := (gs.map XReq.inp).eraseDups
  inps.foldl (fun p i =>
    let acc := acceptsOf x (gs.filter (fun g => g.inp == i))
    let x' := acc.foldl (fun y r =>
      let y := movePointers y iter r
      { y with lastPlane := AMap.put y.lastPlane i r.deposit, lastMc := AMap.put y.lastMc i r.mc }) p.1
    (x', p.2 ++ acc.map (fun r => ⟨r.inp, r.out, r.deposit, r.mc, r.queue, r.cell⟩))) (x, ms)

/-! ### Sending the matched heads -/

/-- A cell reaches an output of a die (R266, R297): a bay's ingress, a memory port, the next die, or the hub. After the slot of its match it
crosses in one slot and leaves in four beats; a die crossing adds 24 cycles. -/
def State.crossed (s : State) (die out : Nat) (q : QCell) : State :=
  if out < 128 then
    (s.updBay (die * 128 + out) (fun b => { b with ingress := b.ingress ++ [{ q with entered := s.cycle + 12 }] })).later 12
      (.ingressCell (die * 128 + out))
  else if out < 208 then
    (s.updXch die (fun x => { x with memQueues := AMap.upd x.memQueues [] out (· ++ [{ q with entered := s.cycle + 12 }]) })).later 12
      (.memoryPortCell die out)
  else match bridgeFeeds die out with
    | none => s.updHub (fun h => { h with cellsOut := h.cellsOut ++ [q] })
    | some (d, inp) =>
      let (n, s) := s.fresh
      ({ s with outgoing := AMap.put s.outgoing n (d * 256 + inp, { q with id := n, entered := s.cycle + 24 }) }).later 24 (.cellEnqueue n)

/-- A queue without what a match sends: its head, or one output of a multicast cell's residue (R274). -/
def Voq.send (v : Voq) (slot : Nat) (m : Match) : Voq :=
  if m.mc then
    let cells := (v.cells.map (fun c => if c.id = m.cell then { c with residue := c.residue.erase m.out } else c)).filter (fun c => c.residue != [])
    { v with cells := cells, headSince := if cells.head?.map QCell.id = v.cells.head?.map QCell.id then v.headSince else slot + 1 }
  else { v with cells := v.cells.drop 1, headSince := slot + 1 }

/-- A match carried out. -/
def State.sendMatch (s : State) (die slot : Nat) (m : Match) : State :=
  let x := s.xchOf die
  match x.voqs[m.queue]? with
  | none => s
  | some v => match v.cells.find? (fun c => c.id == m.cell) with
    | none => s
    | some c => (s.updXch die (fun x => { x with voqs := x.voqs.set m.queue (v.send slot m) })).crossed die m.out c

/-- A member of a cell's group, or its one destination, is served: after the last the handler posts and the access ends (R277, R333). -/
def State.cellServed (s : State) (id : Nat) : State :=
  match AMap.find s.accs id with
  | none => s
  | some a =>
    match a.op, AMap.find s.loans a.loan with
    | .decant _ _ _ dec, some l => s.endDecant id a l dec false
    | _, _ =>
    if a.phys ≤ 1 then (if a.dead then s else s.postAccess a).dropAccess id
    else { s with accs := AMap.put s.accs id { a with phys := a.phys - 1 } }

/-- A cell that fails the check of its receiver is discarded there, and PARITY_TOKEN logs the port that sent it (R54). What it carried is
lost: a request or a reply with its access, the words of a commit. -/
def State.discardCell (s : State) (port : Nat) (q : QCell) : State :=
  let s := s.raise { Report.of fPARITYTOKEN with
    loan := some q.loan, ctx := q.cell.ctx.toNat, hnd := q.cell.hnd.toNat, tag := some q.cell.tag, unit := some (.port port)
    detail := BitVec.ofNat 64 (q.src % 256 * 2 ^ 16) } [] []
  match q.body with
  | .payload => s.cellServed q.access
  | .request id | .reply id => s.dropAccess id
  | .commit ws => s.updLoan q.loan (fun l => { l with releasing := l.releasing.filter (fun t => !ws.contains t) })
  | .fetch _ | .prefetch _ | .agentOnly => s

/-- A queue without the cells that their receivers on this die discard (R54), and those cells with each receiver: the head of a
unicast queue, and every multicast cell for the members here that it is offered to. -/
def Voq.checked (v : Voq) (die slot : Nat) : Voq × List (Nat × QCell) :=
  if v.mc then
    let bad (c : QCell) : List Nat := if Cell.sound c.cell then [] else c.residue.filter (fun o => decide (o < 208))
    let cells := (v.cells.map (fun c => { c with residue := c.residue.filter (fun o => !(bad c).contains o) })).filter (fun c => c.residue != [])
    ({ v with cells := cells, headSince := if cells.head?.map QCell.id = v.cells.head?.map QCell.id then v.headSince else slot },
      v.cells.flatMap (fun c => (bad c).map (fun o => (die * 256 + o, c))))
  else match v.cells with
    | c :: rest => if !Cell.sound c.cell && decide (outputFor die v.inp v.dest < 208) then
        ({ v with cells := rest, headSince := slot }, [(die * 256 + outputFor die v.inp v.dest, c)])
      else (v, [])
    | [] => (v, [])

/-- The checks of a die's receivers before they grant (R54). -/
def State.checkCells (s : State) (die slot : Nat) : State :=
  let vs := (s.xchOf die).voqs.map (fun v => v.checked die slot)
  if vs.all (fun p => p.2 == []) then s
  else (vs.flatMap Prod.snd).foldl (fun s x => s.discardCell x.1 x.2) (s.updXch die (fun x => { x with voqs := vs.map Prod.fst }))

/-- Whether the head of a queue has nowhere to go: no destination of it accepts (R316). -/
def headRefused (s : State) (die : Nat) (v : Voq) : Bool :=
  match v.cells with
  | c :: _ => if v.mc then c.residue.all (fun o => !accepting s die o v.note v.mc) else !accepting s die (outputFor die v.inp v.dest) v.note v.mc
  | [] => false

/-- Heads of a die's queues (die, input, cell) that have nowhere to go. -/
def State.refusedHeads (s : State) (die : Nat) : List (Nat × Nat × Nat) :=
  ((s.xchOf die).voqs.filter (headRefused s die)).filterMap (fun v => v.cells.head?.map (fun c => (die, v.inp, c.id)))

/-- A stocktake that runs leaves out of its refused heads what a slot finds accepted (R316). -/
def State.keepRefused (s : State) (die : Nat) : State :=
  match s.hub.stocktake with
  | none => s
  | some t =>
    if t.stuck = [] then s
    else
      let now := s.refusedHeads die
      s.updHub (fun h => { h with stocktake := some { t with stuck := t.stuck.filter (fun x => x.1 != die || now.contains x) } })

/-- `EXCHANGE_SLOT` (R54, R264): the receivers check what asks for them; three iterations on both planes, then the matched heads are sent. -/
def execExchangeSlot (die : Nat) (s : State) : Host.Outcome State Fault Refusal :=
  let slot := slotOf s.cycle
  let s := (s.keepRefused die).checkCells die slot
  let (x, ms) := (List.range 3).foldl (fun (p : Exchange × List Match) i => matchIter s die slot i p.1 p.2) (s.xchOf die, [])
  let s := s.updXch die (fun _ => x)
  .next (ms.foldl (fun s m => s.sendMatch die slot m) s)

/-! ### Members served (R277, R333) -/

/-- The members of a group that an output of a die stands for. -/
def membersBehind (die inp out : Nat) (members : List Nat) : List Nat :=
  if out < 208 then members.filter (fun m => m == die * 256 + out)
  else if out < 220 then members.filter (fun m => m / 256 == die ^^^ 1 || (m / 256 == die ^^^ 3 && firstDie die inp))
  else members.filter (fun m => m / 256 == die ^^^ 2)

/-- A member dropped from a cell (R277): its counter rises, saturating, and MCAST_LAG is written. -/
def State.dropMember (s : State) (port : Nat) (q : QCell) (g : McastGroup) (m : Nat) : State :=
  let i := (g.members.zipIdx.find? (fun p => p.1 == m)).map Prod.snd |>.getD 0
  let k := dropKey q.cell.group.toNat i
  let n := match AMap.find s.loans q.loan with | some l => AMap.get l.drops 0 k | none => 0
  let n := if n = 0xFFFFFFFF then n else n + 1
  let s := s.updLoan q.loan (fun l => { l with drops := AMap.put l.drops k n })
  let s := s.updHub (fun h => h.record (mkRecord s { Report.of fMCASTLAG with
    loan := some q.loan, ctx := q.cell.ctx.toNat, hnd := q.cell.hnd.toNat, tag := some q.cell.tag, unit := some (.port port)
    detail := BitVec.ofNat 64 (q.cell.group.toNat + i * 2 ^ 8 + q.cell.voqseq.toNat * 2 ^ 16 + n.toNat * 2 ^ 32) } false))
  s.cellServed q.access

/-- `LAG_DROP` (R277): what is left of a lag-drop cell's residue is dropped from it. -/
def execLagDrop (die port id : Nat) (s : State) : Host.Outcome State Fault Refusal :=
  let x := s.xchOf die
  match x.voqs.zipIdx.find? (fun p => p.1.inp == port && p.1.mc && p.1.cells.any (fun c => c.id == id)) with
  | none => .next s
  | some (v, i) => match v.cells.find? (fun c => c.id == id), (v.cells.find? (fun c => c.id == id)).bind s.groupOf with
    | some c, some g =>
      let cells := v.cells.filter (fun c => c.id != id)
      let v := { v with cells := cells, headSince := if (v.cells.head?.map QCell.id) = some id then slotOf s.cycle else v.headSince }
      let s := s.updXch die (fun x => { x with voqs := x.voqs.set i v })
      .next ((c.residue.flatMap (fun o => membersBehind die port o g.members)).foldl (fun s m => s.dropMember (die * 256 + port) c g m) s)
    | _, _ => .next s

/-! ### Memory ports (R271, R289, R292) -/

/-- A reply cell leaves a memory port for a bay after a free latency: about 90 ns from stacked DRAM, 140 ns from LPDDR6
(R245). -/
def State.replyCell (s : State) (die port id : Nat) (a : Access) (l : Loan) : State :=
  let bay := a.replyBay l
  let (d, s) := s.drawNat
  s.sendCell die port d a.loan id (.reply id) { Cell.blank with
    note := l.slip.note, dportDie := BitVec.ofNat 2 (bay / 128), dport := BitVec.ofNat 8 (bayPort bay) }

/-- The payload cell of a block that a port has read, for a bay of the region (R257, R292). -/
def State.payloadCell (s : State) (die port id : Nat) (a : Access) (bay win off : Nat) (note : BitVec 2) (node : Nat × Nat × Nat)
    (tag : Tag) : State :=
  let (d, s) := s.drawNat
  let (i, p, h) := node
  let s := { s with accs := AMap.put s.accs id { a with phys := 1, stage := .performed } }
  s.sendCell die port d a.loan id .payload { Cell.blank with
    tag := tag, live := 0xFFFFFFFFFFFFFFFF, spos := BitVec.ofNat 32 (off / 256), win := BitVec.ofNat 6 win, note := note
    hnd := BitVec.ofNat 3 h, ctx := BitVec.ofNat 2 a.ctx, cont := a.cont, dportDie := BitVec.ofNat 2 (bay / 128)
    dport := BitVec.ofNat 8 (bayPort bay), dnodeEl := BitVec.ofNat 7 i, dnodePort := BitVec.ofNat 2 p, payload := wordsBytes a.words }

/-- A request performed at its home port (R271, R288, R289, R292). -/
def State.portRequest (s : State) (die port id : Nat) : State :=
  match AMap.find s.accs id with
  | none => s
  | some a => match AMap.find s.loans a.loan with
    | none => s
    | some l => match l.windowAt a.ctx a.win with
      | none => s
      | some w =>
        let a := { a with seen := l.seenStores a }
        let s := { s.countChunk a.phys with accs := AMap.put s.accs id a }
        match a.op with
        | .store .. | .slog _ =>
          let s := { s with mem := a.writeAt l w s.mem, accs := AMap.put s.accs id { a with stage := .performed } }
          ((s.noteStores "performed" a w).postAccess a).replyCell die port id a l
        | .atomic .. =>
          if a.claimKey.isSome then
            (s.updXch die (fun x => { x with portClaims := AMap.upd x.portClaims [] port (· ++ [id]) })).later (32 - s.cycle % 32)
              (.aincbRoundEnd (portPlace die port))
          else s.performVirtAtomic id die port
        | op =>
          let a := { a with words := a.readAt l w (s.loadMem a.phys (squareSize w.ty)), stage := .performed }
          let s := { s with accs := AMap.put s.accs id a }
          match op with
          | .creq doff dwin =>
            (match resolve (l.imageOf a.ctx) a.dest a.cont with
              | .element i p h =>
                let note := match a.dest with | .cont _ => noteOf (l.imageOf a.ctx) a.dest a.cont | _ => l.slip.note
                s.payloadCell die port id a (l.bayKey (l.bayOfEl i)) dwin doff note (i % 128, p, h) a.outTag
              | _ => s.dropAccess id)
          | .decant t u b _ =>
            (match l.templateAt a.ctx t with
              | some m =>
                let bay := if m.dir = 1 then m.destBay l else a.bayOf l
                s.payloadCell die port id a bay m.dwin (m.dstOff u.toNat b) m.note (0, 0, 0) a.tag
              | none => s.dropAccess id)
          | _ => (s.postAccess a).replyCell die port id a l

/-- A commit of deferred stores at its home (R251, R282): the words are written, and the post of the store is made. -/
def State.commitWords (s : State) (loan : Nat) (ws : List Store) : State :=
  let s := match ws with | t :: _ => if t.win.virt then s.countChunk t.home else s | [] => s
  ws.foldl (fun s t =>
    let s := s.setMem t.win.virt (t.apply (s.memOf t.win.virt))
    let s := if t.win.virt then s else { s with eccBad := if t.whole then s.eccBad.filter (fun e => !(placeUnits t.tr t.win t.first t.o (t.q, t.j, t.k)).contains e.1) else s.eccBad }
    let s := s.noteWord "committed" loan t.winNo t.off t.value t.its
    let s := s.updLoan loan (fun l => { l with releasing := l.releasing.filter (fun x => !(x == t)) })
    match t.post with
    | some (p, c, i, h) => s.sendPost loan c i h p
    | none => s) s

/-- A payload cell of a decanter written at its home port (R257). -/
def State.portPayload (s : State) (q : QCell) : State :=
  match AMap.find s.accs q.access with
  | some a => (match a.op with
    | .decant _ _ _ dec =>
      let s := s.countChunk a.phys
      let words := (List.range 64).map (fun i => BitVec.ofNat 32 (field q.cell.payload (4 * i) 4))
      let s := { s with mem := words.zipIdx.foldl (fun m (p : W32 × Nat) => if q.cell.live.getLsbD p.2 then writeW32 m (a.phys + 4 * p.2) p.1 else m) s.mem }
      s.later 1 (.decantBlockDone (match AMap.find s.loans a.loan with | some l => a.bayOf l | none => 0) dec)
    | _ => s)
  | none => s

/-- The answer of another device to an access of this one (R16), given what its memory held: the access is performed with it, as a home port
of this device would do. -/
def State.remoteReply (s : State) (id : Nat) (bytes : List Host.Cell) : State :=
  match AMap.find s.accs id with
  | none => s
  | some a =>
    let die := homeDie a.phys
    let port := s.homePort a.phys
    let there := { s with mem := bytes.foldl (fun m (c : Host.Cell) => writeByte m c.1 c.2) [] }
    match a.op, AMap.find s.loans a.loan with
    | .decant _ _ _ dec, some l =>
      if a.stage == .performed then s.later 1 (.decantBlockDone (a.bayOf l) dec) else { there.portRequest die port id with mem := s.mem }
    | .atomic .., _ => { there.performVirtAtomic id die port with mem := s.mem }
    | _, _ => { there.portRequest die port id with mem := s.mem }

/-- The answer of another device to a commit of deferred stores of an access (R16, R251). -/
def State.remoteCommitted (s : State) (loan access : Nat) : State :=
  match AMap.find s.loans loan with
  | none => s
  | some l => { (s.commitWords loan (l.releasing.filter (fun t => t.access == access && t.sent && t.win.virt && isRemote t.home))) with mem := s.mem }

/-- `MEMORY_PORT_CELL` (R262, R271): a port performs its next cell, but no request while a cell of its own cannot enter the Exchange; an SC atomic first takes its place as the token passes
(R328). -/
def execMemoryPortCell (die port : Nat) (s : State) : Host.Outcome State Fault Refusal :=
  match AMap.get (s.xchOf die).memQueues [] port with
  | [] => .next s
  | q :: _ =>
    if s.cycle < q.entered then .next (s.later (q.entered - s.cycle) (.memoryPortCell die port))
    else if s.stopped (.port (die * 256 + port)) then .next (s.later 1 (.memoryPortCell die port))
    else
      let gone := s.updXch die (fun x => { x with memQueues := AMap.upd x.memQueues [] port (·.drop 1) })
      match q.body with
      | .request id =>
        if s.stalled die port q.cell.note false then .next (s.later 1 (.memoryPortCell die port))
        else
        let ring := match AMap.find s.accs id with | some a => a.onRing && !a.ringDone | none => false
        if ring then .next ((s.ringWait (ringNode die port) id (match AMap.find s.accs id with | some a => a.scope == 4 | none => false)).later 1 (.memoryPortCell die port))
        else if s.scBehind id then .next (s.later 1 (.memoryPortCell die port))
        else .next (gone.portRequest die port id)
      | .commit ws => .next (gone.commitWords q.loan ws)
      | .payload => .next (gone.portPayload q)
      -- the image comes back in a time that the spec leaves open (R118)
      | .fetch id => let (d, s) := gone.drawNat; .next (s.later (1 + d) (.imageFetchDone id))
      | .prefetch id => let (d, s) := gone.drawNat; .next (s.later (1 + d) (.prefetchDone id))
      | .reply _ | .agentOnly => .next gone

/-! ### Ingress (R54, R55, R270, R272, R273, R291) -/

/-- The bay of a region with a physical bay. -/
def Loan.bayNumber (l : Loan) (bay : Nat) : Option Nat := (List.range (l.w * l.h)).find? (fun b => l.bayKey b == bay)

/-- The loops around the handler that sent a cell (R342). -/
def State.senderLoops (s : State) (q : QCell) : List Nat :=
  match AMap.find s.accs q.access with
  | some a => (match AMap.find s.loans a.loan with | some l => (a.info l).counted | none => [])
  | none => []

/-- A cell refused at an ingress, with a record on the frame of its tag; it counts as served. -/
def State.refuseCell (s : State) (bay : Nat) (q : QCell) (code : Nat) : State :=
  (s.raise { Report.of code with loan := some q.loan, ctx := q.cell.ctx.toNat, hnd := q.cell.hnd.toNat, win := some q.cell.win.toNat,
                                 tag := some q.cell.tag, unit := some (bayUnit bay) } (s.senderLoops q) []).cellServed q.access

/-- Live words of a payload written as a block of row lines (R55, R270). -/
def writePayload (m : List Host.Cell) (bay : Nat) (w : Window) (first : Nat) (c : Cell) : List Host.Cell :=
  writePlaces m (tileTr bay) w first false (((accessPlaces w .block (c.spos.toNat * 256)).zipIdx.filter (fun p => c.live.getLsbD p.2)).map
    (fun p => (p.1, BitVec.ofNat 32 (field c.payload (4 * p.2) 4))))

/-- A completion token in a bay (R270). -/
def State.complete (s : State) (l : Loan) (b : Nat) (q : QCell) : State :=
  let acc := AMap.find s.accs q.access
  if acc.any (fun a => a.dead) then s
  else
    let c := q.cell
    let index := b * 128 + c.dnodeEl.toNat
    let pred := c.live != 0
    match mkFlit l (l.imageOf c.ctx.toNat) q.loan b c.ctx.toNat (handlerKey index c.hnd.toNat) (.element index c.dnodePort.toNat c.hnd.toNat)
      c.kind pred c.cont (c.spos <<< 8) c.tag with
    | some f => (s.born q.loan c.tag f.iters).inject 11 index (f.withPrior ((acc.map Access.descends).getD []))
    | none => s

/-- An accord that has all its cells (R139, R273): its handler gets a firing. -/
def State.accordComplete (s : State) (bay : Nat) (l : Loan) (a : Accord) (g : AccordGroup) : State :=
  let s := s.updBay bay (fun b => { b with accords := b.accords.filter (fun x => !(x.accid == a.accid && x.tag == a.tag && x.loan == a.loan)) })
  let cells := ([0, 1, 2, 3] : List Nat).flatMap (fun p => a.cells.filter (fun x => x.1 == p))
  let its := handlerIters (l.imageOf a.ctx) (handlerKey g.el g.hnd) a.tag
  let s := cells.foldl (fun s _ => s.born a.loan a.tag its) s
  s.updBay bay (fun b => { b with readyAccords := b.readyAccords ++ [⟨l.elKey g.el, a.ctx, g.hnd, a.tag, cells, a.prior⟩] })

/-- A cell of an accord whose payload is written (R273): a wrong arity or a port twice makes the accord poison. -/
def State.accordCell (s : State) (bay : Nat) (l : Loan) (b : Nat) (q : QCell) : State :=
  let c := q.cell
  let p := c.dnodePort.toNat
  match AMap.find (l.imageOf c.ctx.toNat).accords c.accid.toNat with
  | none => s.refuseCell bay q fILLEGAL
  | some g =>
    if g.el / 128 ≠ b then s.refuseCell bay q fILLEGAL
    else
      let prior := ((AMap.find s.accs q.access).map Access.descends).getD []
      let s := s.cellServed q.access
      let old := (s.bay bay).accords.find? (fun x => x.accid == c.accid.toNat && x.tag == c.tag && x.loan == q.loan)
      let a := old.getD ⟨c.accid.toNat, c.tag, q.loan, c.ctx.toNat, [], []⟩
      let bad := c.accn.toNat + 1 != g.arity || a.cells.any (fun x => x.1 == p)
      let others := (s.bay bay).accords.filter (fun x => !(x.accid == c.accid.toNat && x.tag == c.tag && x.loan == q.loan))
      if bad then
        (s.updBay bay (fun y => { y with accords := others })).raise
          { Report.of fILLEGAL with
            loan := some q.loan, ctx := c.ctx.toNat, hnd := c.hnd.toNat, win := some c.win.toNat, tag := some c.tag, unit := some (bayUnit bay) }
          (hinfoOf (l.imageOf c.ctx.toNat) (handlerKey g.el g.hnd)).counted []
      else
        let a := { a with cells := a.cells ++ [(p, c)], prior := a.prior ++ prior }
        if a.cells.length = g.arity then s.accordComplete bay l a g
        else s.updBay bay (fun y => { y with accords := others ++ [a] })

/-- A reply that has come back to a bay (R245, R285, R296). -/
def State.replyArrives (s : State) (id : Nat) : State :=
  match AMap.find s.accs id with
  | none => s
  | some a => match AMap.find s.loans a.loan with
    | none => s
    | some l => match a.op with
      | .dlay isB => s.sendLayout id a l isB
      | .mxload => s.later 8 (.accessPerform id)
      | _ => s.finishAccess id 1

/-- A decanter's block that has come to an ingress (R257): from a virt window on its way to another, it goes out again. -/
def State.decantPasses (s : State) (q : QCell) : Option State :=
  match AMap.find s.accs q.access with
  | none => none
  | some a => match a.op, AMap.find s.loans a.loan with
    | .decant t u b _, some l => (match l.templateAt a.ctx t with
      | some m => (match l.windowAt a.ctx m.dwin with
        | some dw => if m.dir = 3 then some (s.decantOut q.access a l m dw u.toNat b 1) else none
        | none => none)
      | none => none)
    | _, _ => none

/-- Whether the handler of a cell's accord group stands in a bay of the region (R291); a cell of no accord has none. -/
def Loan.accordHere (l : Loan) (b : Nat) (c : Cell) : Bool :=
  c.accn == 0 || (AMap.find (l.imageOf c.ctx.toNat).accords c.accid.toNat).any (fun g => g.el / 128 == b)

/-- A payload is written as a block of row lines, and its cell is completed (R270, R273). The buffer cell is free once the write has been
performed. -/
def State.payloadWritten (s : State) (bay : Nat) (q : QCell) : State :=
  let c := q.cell
  match AMap.find s.loans q.loan with
  | none => s
  | some l => match l.bayNumber bay, l.windowAt c.ctx.toNat c.win.toNat with
    | some b, some w =>
      let units := (accessPlaces w .block (c.spos.toNat * 256)).flatMap (placeUnits (tileTr bay) w l.firstLine false)
      let s := { s with tmem := writePayload s.tmem bay w l.firstLine c
                        eccBad := if s.eccBad = [] then [] else s.eccBad.filter (fun e => !units.contains e.1) }
      let s := s.updBay bay (fun y => { y with writing := (s.cycle + 8) :: y.writing.filter (fun t => decide (s.cycle < t)) })
      (match AMap.find s.accs q.access with
      | some a => (match a.op with
        | .decant _ _ _ dec => s.later 8 (.decantBlockDone (a.bayOf l) dec)
        | _ => if c.accn = 0 then (s.complete l b q).cellServed q.access else s.accordCell bay l b q)
      | none => if c.accn = 0 then s.complete l b q else s.accordCell bay l b q)
    | _, _ => s

/-- A payload cell at its ingress: checked, and sent to its bank (R54, R242, R270); an accord cell whose handler does not stand there is
discarded (R291). -/
def State.payloadArrives (s : State) (bay : Nat) (q : QCell) : State :=
  let c := q.cell
  match s.decantPasses q with
  | some s => s
  | none => match AMap.find s.loans q.loan with
  | none => s
  | some l => match l.bayNumber bay, l.ctxs.contains c.ctx.toNat with
    | some b, true => (match l.windowAt c.ctx.toNat c.win.toNat with
      | none => s.refuseCell bay q fILLEGAL
      | some w =>
        if w.virt || decide (w.size < c.spos.toNat * 256 + 256) then s.refuseCell bay q fWINDOW
        else if !l.accordHere b c then s.refuseCell bay q fILLEGAL
        else
          let p := wordPlace w (c.spos.toNat * 256)
          s.postBank bay w.tile (bankOfSquare w l.firstLine p.1) 0 ⟨.payload q, lineId w l.firstLine p.1 p.2.1 false, false, .alone, 8, 2, 0⟩)
    | _, _ => s.refuseCell bay q fILLEGAL

/-- `INGRESS_CELL` (R270): a bay's ingress takes its next cell, at most one a slot, when the payload before it has its bank. -/
def execIngressCell (bay : Nat) (s : State) : Host.Outcome State Fault Refusal :=
  match (s.bay bay).ingress with
  | [] => .next s
  | q :: _ =>
    let die := bay / 128
    let key := 256 + bayPort bay
    if s.cycle < q.entered then .next (s.later (q.entered - s.cycle) (.ingressCell bay))
    else if s.stopped (bayUnit bay) then .next (s.later 1 (.ingressCell bay))
    else if AMap.get (s.xchOf die).lastEntry 0 key = slotOf s.cycle + 1 then .next (s.later (4 - s.cycle % 4) (.ingressCell bay))
    else if (s.bay bay).payloads != 0 then .next (s.later 1 (.ingressCell bay))
    else
      let s := s.updBay bay (fun b => { b with ingress := b.ingress.drop 1 })
      let s := s.updXch die (fun x => { x with lastEntry := AMap.put x.lastEntry key (slotOf s.cycle + 1) })
      .next (match q.body with
        | .reply id => s.replyArrives id
        | .payload => s.payloadArrives bay q
        | .commit ws => s.commitWords q.loan ws
        | .request _ | .fetch _ | .prefetch _ | .agentOnly => s)

end Sys2Proof.Machine
end

