-- ==== Sys2Proof/Machine/Decant.lean ====
section
/-! DEFINITION. Decanters (R256 to R258, R294, R295): triggers, blocks, completions, and the commands on templates. -/
namespace Sys2Proof.Machine

/-- Key of a template in its bay: its context and number. -/
def templKey (ctx t : Nat) : Nat := ctx * 16 + t

/-- A template as its bay keeps it; one that nothing has touched is not armed and has completed nothing. -/
def Bay.template (b : Bay) (k : Nat) : TemplState := AMap.get b.templates ⟨false, 0⟩ k
@[inherit_doc Bay.template] def Bay.updTemplate (b : Bay) (k : Nat) (f : TemplState → TemplState) : Bay :=
  { b with templates := AMap.upd b.templates ⟨false, 0⟩ k f }

/-! ### Completions (R257) -/

/-- The completion of a firing: one token to `CDEST` with operand *u* and the trigger's tag and `CONT`. -/
def State.sendCompletion (s : State) (x : Firing) (live : Bool) : State :=
  match AMap.find s.loans x.loan with
  | none => s
  | some l => match l.templateAt x.ctx x.template with
    | none => s
    | some m =>
      let d := match resolve (l.imageOf x.ctx) m.cdest x.cont with
        | .element i _ _ => routeCycles (l.place (l.elKey m.trigEl)) (l.place (l.elKey i))
        | _ => 0
      s.answer x.loan m.trigEl x.ctx m.trigHnd (d + 1) m.cdest .data live x.cont (if live then x.u else 0) x.tag x.prior

/-- A firing has ended: it counts no longer. -/
def State.firingGone (s : State) (b : Nat) (x : Firing) : State :=
  match AMap.find s.loans x.loan with
  | some l => s.gone x.loan b x.tag (x.iters l)
  | none => s

/-! ### Blocks (R257, R258) -/

/-- The next block of a decanter: both offsets are checked, and its read begins. -/
def State.startBlock (s : State) (bay dec : Nat) : State :=
  match AMap.find (s.bay bay).decanters dec with
  | none => s
  | some x => match AMap.find s.loans x.loan with
    | none => s.updBay bay (fun y => { y with decanters := AMap.del y.decanters dec })
    | some l => match l.templateAt x.ctx x.template with
      | none => s.updBay bay (fun y => { y with decanters := AMap.del y.decanters dec })
      | some m => match l.windowAt x.ctx m.swin, l.windowAt x.ctx m.dwin with
        | some sw, some dw =>
          let src := m.srcOff x.u.toNat x.block
          let dst := m.dstOff x.u.toNat x.block
          let a : Access :=
            { op := .decant x.template x.u x.block dec, kind := .block, loan := x.loan, ctx := x.ctx, el := l.elKey m.trigEl, index := m.trigEl
              hnd := m.trigHnd, win := m.swin, off := src, o := m.o, own := 1, predd := 7, succd := 7, strength := 0, scope := m.scope.toNat
              post := none, dest := m.cdest, tag := x.tag, outTag := x.tag, cont := x.cont, pred := true, skip := false, stage := .waiting
              seq := 0, phys := 0, words := [], seen := [], ringDone := false, dead := x.halted, prior := x.prior }
          let (n, s) := s.addAccess a
          if sw.size < src + 256 then
            s.accFault n fWINDOW (if sw.virt then sw.base + src else recordAddr sw l.firstLine src) (BitVec.ofNat 64 (src % 2 ^ 32 + 2 * 2 ^ 32)) false
          else if dw.size < dst + 256 then
            s.accFault n fWINDOW (if dw.virt then dw.base + dst else recordAddr dw l.firstLine dst) (BitVec.ofNat 64 (dst % 2 ^ 32 + 2 * 2 ^ 32)) false
          else s.later 1 (.accessPerform n)
        | _, _ => s.updBay bay (fun y => { y with decanters := AMap.del y.decanters dec })

/-- Free decanters of a bay begin the triggers of its fire queue in order of arrival (R258). -/
def State.feedDecanters (s : State) (bay : Nat) : State :=
  ([0, 1, 2, 3] : List Nat).foldl (fun s dec =>
    let b := s.bay bay
    match AMap.find b.decanters dec, b.fireQueue with
    | none, x :: rest =>
      let running : Bool := match AMap.find s.loans x.loan with | some l => l.state == .running | none => true
      if running then
        (s.updBay bay (fun y => { y with fireQueue := rest, decanters := AMap.put y.decanters dec x })).startBlock bay dec
      else s
    | _, _ => s) s

/-- The answers of `DCAN`s for which every firing that had begun before them has ended (R295). -/
def State.answerCommands (s : State) (bay : Nat) : State :=
  let b := s.bay bay
  let done := b.commands.filter (fun (p : Nat × DCommand) => p.2.waits.any (fun ns =>
    !b.decanters.any (fun (q : Nat × Firing) => ns.contains q.2.num)))
  let s := s.updBay bay (fun y => { y with commands := y.commands.filter (fun (p : Nat × DCommand) => !done.any (fun d => d.1 == p.1)) })
  done.foldl (fun s (p : Nat × DCommand) => match p.2.flit with
    | some f => s.inject 1 p.2.index f
    | none => s) s

/-- The access of a decanter's block. -/
def State.blockOf (s : State) (bay dec : Nat) : Option (Nat × Access) :=
  s.accs.find? (fun (p : Nat × Access) => (match p.2.op with | .decant _ _ _ d => d == dec | _ => false) &&
    (match AMap.find s.loans p.2.loan with | some l => p.2.bayOf l == bay | none => false))

/-- A block within one bay is written as rows at its bank (R242, R257); `DECANT_BLOCK_DONE` comes after its 8 cycles there. -/
def State.writeBlock (s : State) (bay dec : Nat) : State :=
  match s.blockOf bay dec with
  | none => s
  | some (_, a) => match AMap.find s.loans a.loan with
    | none => s
    | some l => match a.decantGoal l with
      | none => s
      | some (m, dw, u, b) =>
        let places := accessPlaces dw .block (m.dstOff u b)
        let units := places.flatMap (placeUnits (tileTr bay) dw l.firstLine false)
        ({ s with tmem := writePlaces s.tmem (tileTr bay) dw l.firstLine false (places.zip a.words)
                  eccBad := if s.eccBad = [] then [] else s.eccBad.filter (fun e => !units.contains e.1) }).later 8 (.decantBlockDone bay dec)

/-- `DECANT_BLOCK_DONE` (R257, R258): a block has been written; the next begins, and after the last the completion is sent: a release, which
waits until the deferred stores from which the trigger descends have committed (R251, R282). A decanter that a context switch has stopped
waits at its next block (R346). -/
def execDecantBlockDone (bay decanter : Nat) (s : State) : Host.Outcome State Fault Refusal :=
  match AMap.find (s.bay bay).decanters decanter with
  | none => .next ((s.answerCommands bay).feedDecanters bay)
  | some x =>
    let s := match s.blockOf bay decanter with | some (n, _) => { s with accs := AMap.del s.accs n } | none => s
    match AMap.find s.loans x.loan with
    | none => .next ((s.updBay bay (fun y => { y with decanters := AMap.del y.decanters decanter })).feedDecanters bay)
    | some l => match l.templateAt x.ctx x.template with
      | none => .next s
      | some m =>
        let x := { x with block := min m.nblk (x.block + 1) }
        if x.block = m.nblk ∧ !x.halted ∧ !l.committedPrior x.prior [] then
          .next ((s.updBay bay (fun y => { y with decanters := AMap.put y.decanters decanter x })).later 1 (.decantBlockDone bay decanter))
        else if x.block < m.nblk then
          let s := s.updBay bay (fun y => { y with decanters := AMap.put y.decanters decanter x })
          .next (if l.state == .switching then s else s.startBlock bay decanter)
        else
          let s := s.updBay bay (fun y => { y with decanters := AMap.del y.decanters decanter }.updTemplate (templKey x.ctx x.template)
            (fun t => { t with completed := (t.completed + 1) % 65536 }))
          let s := if x.halted then s else s.sendCompletion x true
          .next (((s.firingGone (m.trigEl / 128) x).answerCommands bay).feedDecanters bay)

/-! ### Triggers (R257, R295) -/

/-- A trigger put in its bay's fire queue; a free decanter begins it at once. -/
def State.placeTrigger (s : State) (bay : Nat) (x : Firing) : State :=
  (s.updBay bay (fun y => { y with fireQueue := y.fireQueue ++ [x] })).feedDecanters bay

/-- An armed template whose trigger stands at the head of its queue at an element: context, loan, template, and the token. -/
def armedTrigger (s : State) (el : Nat) : Option (Nat × Nat × Nat × Template × QTok) :=
  let e := s.el el
  let b := s.bay (el / 256)
  (List.range 64).findSome? (fun n =>
    let c := n / 16
    let t := n % 16
    match (e.ctx c).loan with
    | none => none
    | some id => match AMap.find s.loans id with
      | none => none
      | some l => match l.templateAt c t with
        | none => none
        | some m =>
          if m.trigEl = (e.ctx c).logical ∧ (b.template (templKey c t)).arm then
            (match headFor (e.active c) 0 m.trigHnd with
              | some q => if q.e.kind = .data then some (c, id, t, m, q) else none
              | none => none)
          else none)

/-- `DECANT_TRIGGER` (R257, R258): the token at the head of an armed template's trigger queue is taken; a dead one sends its
completion dead at once. While the fire queue is full it stays. -/
def execDecantTrigger (el : Nat) (s : State) : Host.Outcome State Fault Refusal :=
  match armedTrigger s el with
  | none => .next s
  | some (c, id, t, _, q) =>
    let bay := el / 256
    let x : Firing := ⟨id, t, q.e.operand, q.e.tag, q.e.cont, c, 0, false, s.stillPrior id q.e.prior, s.nextId⟩
    let taken := { s with nextId := s.nextId + 1 }.updEl el (fun e => e.updActive c (fun pl => pl.updQueue 0 (·.drop 1)))
    if !q.e.pred then
      .next ((taken.sendCompletion x false).firingGone (((s.el el).ctx c).logical / 128) x)
    else if 16 ≤ (s.bay bay).fireQueue.length then .next s
    else .next (taken.placeTrigger bay x)

/-! ### The commands (R294, R295) -/

/-- The template that a command names, of the firing's image. -/
def FireCtx.template (f : FireCtx) (b : FY) : Option (Nat × Template) :=
  let t := b.scode.toNat % 16
  (AMap.find f.img.templates t).map (fun m => (t, m))

/-- The bay that keeps a template. -/
def FireCtx.templateBay (f : FireCtx) (m : Template) : Nat := f.l.bayKey (m.trigEl / 128)

/-- `DFIRE` (R258, R295): with `MODE` 00 only while its template is not armed and the fire queue has room; in `MODE` 10 *u* is the
`SPOS` of the cell with the lowest port. -/
def execDfire (h : Hdr) (b : FY) : State → Host.Outcome State Fault Refusal := fun s =>
  fire { shapeY h b 1 with eosTo := [], dests := [] } (fun f _ => match f.template b with
      | none => some { Eff.none with bad := some (fILLEGAL, 0) }
      | some (t, m) =>
        let y := s.bay (f.templateBay m)
        if (h.mode = .queue ∧ (y.template (templKey f.ctx t)).arm) ∨ 16 ≤ y.fireQueue.length then none else some Eff.none)
    (fun f g s => match f.template b with
      | none => s
      | some (t, m) =>
        let u : W32 := match g.cells with | (_, c) :: _ => c.spos | [] => g.op 0
        let x : Firing := ⟨f.id, t, u, g.tag, g.cont, f.ctx, 0, false, g.prior, f.num⟩
        if g.live then (s.born f.id g.tag (x.iters f.l)).placeTrigger (f.templateBay m) x
        else s.sendCompletion x false) s

/-- Cycles of a command's route to its template's `TRIG` element (R294). -/
def FireCtx.commandRoute (f : FireCtx) (b : FY) : Nat :=
  match f.template b with
  | some (_, m) => routeCycles (f.l.place f.key) (f.l.place (f.l.elKey m.trigEl))
  | none => 0

/-- The emission of an output that comes later than its firing, as an answer does. -/
def FireCtx.lateFlit (f : FireCtx) (h : Hdr) (o : Out) : Option Flit := (o.emission f h.tagop false).map Emission.flit

/-- The effect of a firing whose output comes later: poison at once where its tag or its destination makes it so (R37, R48);
a dead one emits dead at once. -/
def lateEff (f : FireCtx) (g : Got) (h : Hdr) (d : Dest) : Eff :=
  let o := Out.std f g d 0
  if !g.live then { Eff.none with outs := deadOuts f g [d] }
  else if (o.finalTag h.tagop).isNone || o.badTarget f then { Eff.none with outs := [o], bad := some (fILLEGAL, 0) }
  else Eff.none

/-- A command sent to its template's bay; it counts by its output until that comes. -/
def State.sendCommand (s : State) (f : FireCtx) (b : FY) (op : DOp) (flit : Option Flit) : State :=
  match f.template b with
  | none => s
  | some (t, m) =>
    let (n, s) := s.fresh
    let s := match flit with
      | some x => (match x.emit.entry with | some q => s.born f.id q.tag x.iters | none => s)
      | none => s
    (s.updBay (f.templateBay m) (fun y => { y with commands := AMap.put y.commands n ⟨op, f.id, f.ctx, t, f.index, flit, none⟩ })).later
      (f.commandRoute b + 1) (.decantArmApply n)

/-- The latency of a command (R294, R295): its route and a cycle; a dead one emits at once. -/
def commandLatency (h : Hdr) (b : FY) (s : State) : Nat :=
  match fireCtx? s with
  | some f => liveLatency s f (shapeY h b 1) (f.commandRoute b + 1)
  | none => 1

/-- `DARM` (R295). -/
def execDarm (h : Hdr) (b : FY) (s : State) : Host.Outcome State Fault Refusal :=
  fire (shapeY h b (commandLatency h b s)) (fun f g => some (valueEff f g [(b.d0, g.op 0)] Flag.none))
    (fun f g s => if g.live then s.sendCommand f b .arm none else s) s

/-- A command whose output waits for its bay. -/
def fireCommand (h : Hdr) (b : FY) (op : DOp) (s : State) : Host.Outcome State Fault Refusal :=
  fire (shapeY h b (commandLatency h b s)) (fun f g => some (lateEff f g h b.d0))
    (fun f g s => if g.live then s.sendCommand f b op (f.lateFlit h (Out.std f g b.d0 (g.op 0))) else s) s

/-- `DCAN` (R295). -/
def execDcan (h : Hdr) (b : FY) (s : State) : Host.Outcome State Fault Refusal := fireCommand h b (.disarm (b.scode.getLsbD 4)) s

/-- `DSTAT` (R295). -/
def execDstat (h : Hdr) (b : FY) (s : State) : Host.Outcome State Fault Refusal := fireCommand h b .status s

/-- The status word of a template (R295). -/
def Bay.statusWord (b : Bay) (c : DCommand) : W32 :=
  let t := b.template (templKey c.ctx c.template)
  let mine (x : Firing) : Bool := x.loan == c.loan && x.ctx == c.ctx && x.template == c.template
  BitVec.ofNat 32 ((if t.arm then 1 else 0) + 2 * (b.fireQueue.filter mine).length +
    (if b.decanters.any (fun (p : Nat × Firing) => mine p.2) then 64 else 0) + 65536 * t.completed)

/-- The bay in which a command is. -/
def State.commandBay (s : State) (id : Nat) : Option (Nat × DCommand) :=
  s.bays.findSome? (fun (p : Nat × Bay) => (AMap.find p.2.commands id).map (fun c => (p.1, c)))

/-- `DECANT_ARM_APPLY` (R295): a command has reached its template's `TRIG` element: `ARM` changes from this cycle on, and an abort
removes the triggers that no decanter has begun. -/
def execDecantArmApply (id : Nat) (s : State) : Host.Outcome State Fault Refusal :=
  match s.commandBay id with
  | none => .next s
  | some (bay, c) =>
    let k := templKey c.ctx c.template
    let done := s.updBay bay (fun y => { y with commands := AMap.del y.commands id })
    match c.op with
    | .arm => .next (done.updBay bay (fun y => y.updTemplate k (fun t => { t with arm := true })))
    | .status => .next (match c.flit with
        | some f => done.inject 1 c.index (f.withOperand ((s.bay bay).statusWord c))
        | none => done)
    | .disarm abort =>
      let mine (x : Firing) : Bool := abort && x.loan == c.loan && x.ctx == c.ctx && x.template == c.template
      let lost := (s.bay bay).fireQueue.filter mine
      let s := s.updBay bay (fun y => { y with
        fireQueue := y.fireQueue.filter (fun x => !mine x)
        commands := AMap.put y.commands id { c with waits := some (((y.decanters.map Prod.snd).filter (fun (x : Firing) =>
          x.loan == c.loan && x.ctx == c.ctx && x.template == c.template)).map Firing.num) } }.updTemplate k (fun t => { t with arm := false }))
      let s := lost.foldl (fun s x => (s.sendCompletion x false).firingGone (c.index / 128) x) s
      .next (s.answerCommands bay)

end Sys2Proof.Machine
end

