-- ==== Sys2Proof/Machine/Matrix.lean ====
section
/-! DEFINITION. Matrix mode (R216 to R236): the tiles' modes, runs and steps, feeders and scale tokens, and the matrix
instructions. -/
namespace Sys2Proof.Machine

/-! ### Where things stand (R216, R217) -/

/-- Row and column of an element in its compute tile (R217). -/
def mxRow (index : Nat) : Nat := index % 32 / 8
@[inherit_doc mxRow] def mxCol (index : Nat) : Nat := index % 8

/-- The first element of the compute tile of an element, as a region index. -/
def tileBase (index : Nat) : Nat := index / 32 * 32

/-- The element that takes an A word which passes east, with its cycles (R216, R219). -/
def eastOf (l : Loan) (index : Nat) : Option (Nat × Nat) :=
  let b := index / 128
  if mxCol index < 7 then some (index + 1, 1)
  else if tileOfIndex index < 3 then some (tileBase index + 32 + mxRow index * 8, 3)
  else if b % l.w + 1 < l.w then some ((b + 1) * 128 + mxRow index * 8, 3)
  else none

/-- The element that takes a B word which passes south. -/
def southOf (l : Loan) (index : Nat) : Option (Nat × Nat) :=
  let b := index / 128
  if mxRow index < 3 then some (index + 8, 1)
  else if b / l.w + 1 < l.h then some ((b + l.w) * 128 + tileOfIndex index * 32 + mxCol index, 3)
  else none

/-- A compute tile's matrix state at a context load (R220). -/
def Tile.empty : Tile := ⟨.scalar, ⟨.i32, .i32, false, false⟩, []⟩

/-- Key of a compute tile's state in a bay. -/
def tileKey (t ctx : Nat) : Nat := t * 4 + ctx

/-- The matrix state of the compute tile of an element. -/
def State.mxTile (s : State) (key ctx : Nat) : Tile := AMap.get (s.bay (key / 256)).tiles Tile.empty (tileKey (key % 128 / 32) ctx)
@[inherit_doc State.mxTile] def State.updTile (s : State) (bay t ctx : Nat) (f : Tile → Tile) : State :=
  s.updBay bay (fun b => { b with tiles := AMap.upd b.tiles Tile.empty (tileKey t ctx) f })

/-- Beats of a step (R218). -/
def stepBeats (t : Ty) : Nat := if t = .bf16x2 ∨ t = .f16x2 then 4 else 1

/-- Steps of a block of scales (R224); 0 for types without scales. -/
def scaleBlock (t : Ty) : Nat := match t with | .e4m3x4 | .e5m2x4 => 32 | .e2m1x8 => 16 | _ => 0

/-! ### Outputs that come later -/

/-- Emissions of an element that come later than its firing, each in its own cycle from `d` on: each reserves an output entry when it
comes, and the handler is not a candidate until the last has been sent (R127, R226, R233). -/
def State.emitRow (s : State) (key ctx id hnd d : Nat) (l : Loan) (fs : List Flit) : State :=
  let n := fs.length
  let bufOf (f : Flit) : Nat := match f.emit with | .capture .. => 6 | _ => bufferOf l key f
  let ps : List Pending := fs.zipIdx.map (fun p =>
    ⟨s.nextId + p.2, s.cycle + d + p.2, ctx, id, hnd, [(bufOf p.1, p.1)], [], none, false, p.2 + 1 == n⟩)
  let s := { s with nextId := s.nextId + n }
  let s := s.updEl key (fun e => ({ e with pending := e.pending ++ ps }).updCtx ctx (fun x => { x with
    emitting := if n = 0 then x.emitting else AMap.put x.emitting hnd 1 }))
  let s := fs.foldl (fun s f => match f.emit.entry with | some q => s.born id q.tag f.iters | none => s) s
  ps.foldl (fun s p => s.later (p.due - s.cycle) (.firingResultWrite key p.id)) s

/-- One emission of an element in the next cycle, which counts already. -/
def State.emitHeld (s : State) (key ctx id hnd : Nat) (f : Flit) : State :=
  match AMap.find s.loans id with
  | none => s
  | some l =>
    let (n, s) := s.fresh
    (s.updEl key (fun e => { e with pending := e.pending ++
      [⟨n, s.cycle + 1, ctx, id, hnd, [(bufferOf l key f, f)], [], none, false, false⟩] })).later 1 (.firingResultWrite key n)

/-- The ports that a handler word reads (R60). -/
def wordReads (w : W64) : List Nat :=
  match (decodeHandler w).toOption.bind handlerView with
  | some v => if v.op = 0x68 ∨ v.op = 0x69 then [0, 1, 2, 3] else portsRead v.hdr
  | none => []

/-- The handler of a drain target (R68). -/
def Image.drainHandler (img : Image) (dtel dtport : Nat) : Nat :=
  ((List.range 8).find? (fun h => (wordReads (AMap.get img.handlers nopWord (handlerKey dtel h))).contains dtport)).getD 0

/-- The destination that a format X word's drain target is (R68). -/
def drainDest (b : FX) (img : Image) : Dest :=
  .element b.dtel b.dtport (BitVec.ofNat 3 (img.drainHandler b.dtel.toNat b.dtport.toNat))

/-- Shape of a format X word, whose drain target needs the image. -/
def shapeX (h : Hdr) (b : FX) (img : Image) (latency : Nat) : Shape :=
  { h := h, ports := portsRead h, latency := latency, eosTo := [drainDest b img], dests := [drainDest b img], accs := [], iterative := false, sq := 0
    accOnly := false, marker := none }

/-- The image of the handler in focus. -/
def focusImage (s : State) : Image := match fireCtx? s with | some f => f.img | none => Image.empty

/-! ### Drains (R226, R233, R369) -/

/-- Whether the bay's Colophon captures the drains of a context (R369). -/
def State.captures (s : State) (bay ctx : Nat) : Bool :=
  let c := (s.bay bay).colophon
  c.cap && c.cctx.toNat == ctx

/-- The words of a drain (R233): accumulators from `first`, one a token, or two as lanes of a 16-bit type. -/
def drainWords (t : Ty) (acc : Nat → W32) (first count : Nat) : List W32 × Flags :=
  if t = .bf16x2 ∨ t = .f16x2 then
    (List.range (count / 2)).foldl (fun (p : List W32 × Flags) i =>
      let (x, f) := writeLane t 0 0 false (laneValue .f32 (acc (first + 2 * i)).toNat)
      let (y, g) := writeLane t 0 0 false (laneValue .f32 (acc (first + 2 * i + 1)).toNat)
      (p.1 ++ [BitVec.ofNat 32 (packLanes 16 [x, y])], p.2 ||| f ||| g)) ([], Flag.none)
  else ((List.range count).map (fun i => acc (first + i)), Flag.none)

/-- The emission of a drained word: to the drain target, or into the Colophon's port. -/
def drainFlit (l : Loan) (img : Image) (id key index ctx hnd : Nat) (d : Dest) (pred : Bool) (cont : BitVec 6) (tag : Tag)
    (capture : Bool) (v : W32) (i : Nat) : Option Flit :=
  if capture then some ⟨id, .capture (key / 256) (tileOfIndex index) i (mkEntry ctx hnd .data pred cont v tag), []⟩
  else mkFlit l img id (index / 128) ctx (handlerKey index hnd) (directTarget d) .data pred cont v tag

/-! ### Modes (R221, R222) -/

/-- A tile that ramps put in the order of turns. -/
def rampPut (x : Nat × Nat × Nat × Nat) : List (Nat × Nat × Nat × Nat) → List (Nat × Nat × Nat × Nat)
  | [] => [x]
  | y :: ys =>
    if x.1 < y.1 ∨ (x.1 = y.1 ∧ (x.2.1 < y.2.1 ∨ (x.2.1 = y.2.1 ∧ x.2.2.1 < y.2.2.1))) then x :: y :: ys else y :: rampPut x ys

/-- The fields and edge bits of a change of state put into effect, and the outputs of the counted `MXCFG`s sent. -/
def State.applyMx (s : State) (id bay t ctx : Nat) (mode : TileMode) : State :=
  let x := AMap.get (s.bay bay).tiles Tile.empty (tileKey t ctx)
  let s := s.updTile bay t ctx (fun _ => ⟨mode, match x.counted with | c :: _ => if mode == .matrix then c.fields else x.fields | [] => x.fields, []⟩)
  x.counted.foldl (fun s c =>
    let s := if mode == .matrix then s.updEl c.el (fun e => e.updCtx ctx (fun y => { y with
      ain := c.edges.1, aout := c.edges.2.1, bin := c.edges.2.2.1, bout := c.edges.2.2.2 })) else s
    match c.flit with
    | some f => s.emitHeld c.el ctx id c.hnd f
    | none => s) s

/-- A tile whose 32 elements have each fired a live `MXCFG` changes its state (R221). -/
def State.changeTile (s : State) (f : FireCtx) (g : Got) (bay t : Nat) : State :=
  let x := AMap.get (s.bay bay).tiles Tile.empty (tileKey t f.ctx)
  match x.counted with
  | [] => s
  | c :: cs =>
    let same := cs.all (fun d => d.leave == c.leave && (c.leave || d.fields == c.fields))
    if !same then
      let s := s.updTile bay t f.ctx (fun y => { y with counted := [] })
      let s := x.counted.foldl (fun s d => match d.flit with | some y => s.dropFlit f.b y | none => s) s
      s.raise (f.report g fILLEGAL 0) f.info.counted []
    else if c.leave then s.applyMx f.id bay t f.ctx .scalar
    else if x.mode == .matrix then s.applyMx f.id bay t f.ctx .matrix
    else
      let first := f.l.ramps == []
      let s := s.updTile bay t f.ctx (fun y => { y with mode := .ramping })
      let s := s.updLoan f.id (fun l => { l with ramps := rampPut (s.cycle, bay, t, f.ctx) l.ramps })
      if first then s.later 16 (.rampTurnEnd f.id) else s

/-- `RAMP_TURN_END` (R222): the tile whose turn ends enters matrix mode, and the next takes its turn. A tile that ramps again after a switch
keeps the `MXCFG`s counted so far (R227). -/
def execRampTurnEnd (loan : Nat) (s : State) : Host.Outcome State Fault Refusal :=
  match AMap.find s.loans loan with
  | none => .next s
  | some l => match l.ramps with
    | [] => .next s
    | (_, bay, t, c) :: rest =>
      let s := s.updLoan loan (fun l => { l with ramps := rest })
      let full := (AMap.get (s.bay bay).tiles Tile.empty (tileKey t c)).counted.length = 32
      let s := if full then s.applyMx loan bay t c .matrix else s.updTile bay t c (fun x => { x with mode := .matrix })
      .next (if rest = [] then s else s.later 16 (.rampTurnEnd loan))

/-- Whether a run of a context is armed in some element of a tile. -/
def State.runInTile (s : State) (l : Loan) (index ctx : Nat) : Bool :=
  (List.range 32).any (fun i => ((s.el (l.elKey (tileBase index + i))).ctx ctx).run.isSome)

/-- Whether an `MXCFG` may not fire (R221). -/
def State.mxcfgBlocked (s : State) (f : FireCtx) : Bool :=
  let bay := f.l.bayKey f.b
  let t := tileOfIndex f.index
  let mode (c : Nat) : TileMode := (AMap.get (s.bay bay).tiles Tile.empty (tileKey t c)).mode
  ([0, 1, 2, 3] : List Nat).any (fun c => c != f.ctx && mode c != .scalar) || mode f.ctx == .ramping || s.runInTile f.l f.index f.ctx

/-- The fields that an `MXCFG` gives (R229), and its edge bits. -/
def mxFieldsOf (h : Hdr) (b : FI) : MxFields := ⟨h.ty, (Ty.ofCode (b.imm.extractLsb' 0 4)).getD .i32, b.imm.getLsbD 5, b.imm.getLsbD 6⟩

/-- A live `MXCFG` is counted towards its tile's change, with the output that it holds back; the 32nd changes the tile (R221). -/
def countMxcfg (h : Hdr) (b : FI) (f : FireCtx) (g : Got) (s : State) : State :=
  if !g.live then s
  else
    let bay := f.l.bayKey f.b
    let t := tileOfIndex f.index
    let flit := f.lateFlit h (Out.std f g b.d0 (g.op 0))
    let s := match flit with
      | some y => (match y.emit.entry with | some q => s.born f.id q.tag y.iters | none => s)
      | none => s
    let c : MxCount :=
      ⟨f.key, b.imm.getLsbD 4, mxFieldsOf h b, (b.imm.getLsbD 7, b.imm.getLsbD 8, b.imm.getLsbD 9, b.imm.getLsbD 10), f.hnd, flit⟩
    let s := s.updTile bay t f.ctx (fun x => { x with counted := x.counted ++ [c] })
    if (AMap.get (s.bay bay).tiles Tile.empty (tileKey t f.ctx)).counted.length = 32 then s.changeTile f g bay t else s

/-- `MXCFG` (R221, R229). -/
def execMxcfg (h : Hdr) (b : FI) (s : State) : Host.Outcome State Fault Refusal :=
  fire (shapeI h b 1) (fun f g =>
    let x := AMap.get (s.bay (f.l.bayKey f.b)).tiles Tile.empty (tileKey (tileOfIndex f.index) f.ctx)
    if s.mxcfgBlocked f then none
    else if g.live && x.counted.any (fun c => c.el == f.key) then some { Eff.none with outs := [Out.std f g b.d0 0], bad := some (fILLEGAL, 0) }
    else some (lateEff f g h b.d0))
    (countMxcfg h b) s

/-! ### The writes of steps (R225) -/

/-- Accumulators with the writes of a step (R225). -/
def MxWrite.into (m : AMap W32) (w : MxWrite) : AMap W32 := w.accs.foldl (fun m p => AMap.put m p.1 p.2) (if w.clear then [] else m)

/-- A context with the writes of a step: accumulators, their parity bits, and the flags (R153, R225). -/
def ElCtx.mxWrite (x : ElCtx) (w : MxWrite) : ElCtx :=
  { x with acc := w.into x.acc, badAcc := if w.clear then [] else x.badAcc, status := gather x.status w.flags }

/-- A context whose run's writes that are due have been made (R225). -/
def ElCtx.mxDue (x : ElCtx) (now : Nat) : ElCtx :=
  match x.run with
  | none => x
  | some r =>
    let x := (r.writes.filter (fun w => decide (w.due ≤ now))).foldl ElCtx.mxWrite x
    { x with run := some { r with writes := r.writes.filter (fun w => !decide (w.due ≤ now)) } }

/-! ### Runs (R223, R226, R230) -/

/-- The tile state of a firing's element. -/
def State.fireTile (s : State) (f : FireCtx) : Tile :=
  AMap.get (s.bay (f.l.bayKey f.b)).tiles Tile.empty (tileKey (tileOfIndex f.index) f.ctx)

/-- A feed request put among what a feeder serves (R223, R255). -/
def State.askFeed (s : State) (f : FireCtx) (isB : Bool) (r : FeedReq) : State :=
  let k := feedKey (layoutTile f.index isB) f.ctx isB
  let s := s.updBay (f.l.bayKey f.b) (fun b => b.updFeed k (fun g => { g with queue := g.queue ++ [.req r] }))
  (s.serveFeed (f.l.bayKey f.b) k).later 5 (.feedBeat f.id f.index isB)

/-- Steps that a format X word asks for. -/
def runSteps (b : FX) : Nat := (b.shape.extractLsb' 0 12).toNat + 1

/-- A run armed, with its feed requests (R223). -/
def State.armRun (s : State) (h : Hdr) (b : FX) (f : FireCtx) (g : Got) : State :=
  let x := s.fireTile f
  let tag := (applyTagop h.tagop f.info.depth true g.tag).getD g.tag
  let n := runSteps b
  let run : Run := ⟨n, 0, 0, b.z, b.f, b.s, b.k, tag, g.cont, g.live, b.dtel, b.dtport, f.hnd, 0, g.prior, []⟩
  let s := s.updEl f.key (fun e => e.updCtx f.ctx (fun y => { y with run := some run }))
  let s := s.born f.id tag (handlerIters f.img f.hkey g.tag)
  let beats := n * stepBeats x.fields.aty
  let scales := if x.fields.scl && !x.fields.ssrc && scaleBlock x.fields.aty != 0 then (n + scaleBlock x.fields.aty - 1) / scaleBlock x.fields.aty else 0
  let req (lane : Nat) : FeedReq := ⟨f.index, lane, beats, scales, s.cycle + 5, g.tag, f.hnd⟩
  let s := if mxCol f.index = 0 ∧ !f.x.ain then s.askFeed f false (req (mxRow f.index)) else s
  if mxRow f.index = 0 ∧ !f.x.bin then s.askFeed f true (req (mxCol f.index)) else s

/-- `MXSTEP` (R223, R230): a live firing arms its run; a dead one sends as many dead tokens as its run's drain would. -/
def execMxstep (h : Hdr) (b : FX) (s : State) : Host.Outcome State Fault Refusal :=
  fire (shapeX h b (focusImage s) 1) (fun f g =>
    let x := s.fireTile f
    let d := drainDest b f.img
    if f.x.run.isSome then none
    else if !g.live then
      some { Eff.none with outs := (List.range (if b.k then 1 else 64)).map (fun i => { Out.dead f g d with delay := i }) }
    else if x.mode != .matrix || (b.f && x.fields.aty == .i8x4) || (b.s && !x.fields.scl) then
      some { Eff.none with outs := [Out.std f g d 0], bad := some (fILLEGAL, 0) }
    else if (applyTagop h.tagop f.info.depth true g.tag).isNone then some { Eff.none with outs := [Out.std f g d 0] }
    else some Eff.none)
    (fun f g s => if g.live then s.armRun h b f g else s) s

/-- The tag that a run counts with towards its iterations. -/
def Run.iters (r : Run) (img : Image) (index : Nat) : List (Nat × List Nat) := handlerIters img (handlerKey index r.hnd) r.tag

/-- `RUN_END` (R226): after the last write the run drains its accumulators, or sends its keep token. -/
def execRunEnd (el ctx : Nat) (s : State) : Host.Outcome State Fault Refusal :=
  let x := ((s.el el).ctx ctx).mxDue s.cycle
  match x.run, x.loan with
  | some r, some id => (match AMap.find s.loans id with
    | none => .next s
    | some l =>
      let img := l.imageOf ctx
      let bay := l.bayKey (x.logical / 128)
      let tile := AMap.get (s.bay bay).tiles Tile.empty (tileKey (tileOfIndex x.logical) ctx)
      let d : Dest := .element r.dtel r.dtport (BitVec.ofNat 3 (img.drainHandler r.dtel.toNat r.dtport.toNat))
      let ty : Ty := if tile.fields.aty = .i8x4 then .i32 else .f32
      let words := if r.k then [BitVec.ofNat 32 r.total] else (drainWords ty (AMap.get x.acc 0) 0 64).1
      let cap := !r.k && s.captures bay ctx
      let fs := words.zipIdx.filterMap (fun p => (drainFlit l img id el x.logical ctx r.hnd d r.pred r.cont r.tag cap p.1 p.2).map (Flit.withPrior r.prior))
      let s := s.updEl el (fun e => e.updCtx ctx (fun _ => { x with run := none }))
      let s := s.emitRow el ctx id r.hnd 1 l fs
      .next (s.gone id (x.logical / 128) r.tag (r.iters img x.logical)))
  | _, _ => .next s

/-! ### The feeders (R219, R223, R224, R254) -/

/-- Square and line of beat *n* of a record (R254): square offset, and line. -/
def Layout.beatPlace (r : Layout) (w : Window) (n : Nat) (second : Bool) : Nat × Nat :=
  let side := squareSide w.ty
  (r.base + (r.lstart + n) / side * r.kstr + (if second then r.nstr else 0), (r.lstart + n) % side)

/-- Whether a line of a square lies in its window. -/
def lineInside (w : Window) (o : Bool) (sq j : Nat) : Bool :=
  decide (sq / squareSize w.ty * squareSize w.ty + (if o then squareSize w.ty else j * 32 + 32) ≤ w.size)

/-- A lane of a feed changed. -/
def State.updLane (s : State) (bay key n : Nat) (f : Lane → Lane) : State :=
  s.updBay bay (fun b => b.updFeed key (fun g => { g with lanes := AMap.upd g.lanes Lane.empty n f }))

/-- A feeder's fault stops the frame of the requesting `MXSTEP` (R223); its stream is halted, and the run waits. -/
def State.feedFault (s : State) (id : Nat) (l : Loan) (bay key ctx : Nat) (n : Nat) (a : Lane) (code win addr : Nat) (detail : W64) : State :=
  (s.updLane bay key n (fun a => { a with halted := true, asked := false, scaleAsked := false })).raise
    { Report.of code with loan := some id, el := some (l.elKey a.req.index), ctx := ctx, hnd := a.req.hnd, win := some win
                          tag := some a.req.tag, addr := addr, detail := detail }
    (hinfoOf (l.imageOf ctx) (handlerKey a.req.index a.req.hnd)).counted []

/-- Entry delay of a stream at its element (R223), and what its operand and scale buffers hold, with what is on its way there. -/
def entryRoom (s : State) (l : Loan) (ctx : Nat) (isB : Bool) (a : Lane) : Nat × Nat × Nat :=
  let e := s.el (l.elKey a.req.index)
  let x := e.ctx ctx
  let cost := 1 + a.req.lane + (if isB then x.bdly.toNat else x.adly.toNat)
  (cost, (if isB then e.opB else e.opA).length, (if isB then e.scB else e.scA).length)

/-- The next scale token of a stream asked of its bank (R224, R254): token *m* at `SBASE` + 16*m*, eight cycles of the side lane, into a buffer
of two tokens. -/
def State.askScale (s : State) (id : Nat) (l : Loan) (bay key ctx : Nat) (isB : Bool) (n : Nat) (a : Lane) : State :=
  let r := ((s.bay bay).feed key).record
  let (cost, _, have_) := entryRoom s l ctx isB a
  if a.scaleOwed ≤ a.scaleSent ∨ a.scaleAsked ∨ a.lim = some 0 ∨ a.halted ∨ s.cycle < a.req.start ∨ s.cycle < a.side ∨ 2 + (cost - 1) / 8 ≤ have_ then s
  else match l.windowAt ctx r.win with
  | none => s.feedFault id l bay key ctx n a fWINDOW r.win 0 0
  | some w =>
    let off := r.sbase + 16 * a.m
    if w.virt ∨ w.size < off + 16 then s.feedFault id l bay key ctx n a fWINDOW r.win (recordAddr w l.firstLine off) (BitVec.ofNat 64 (off % 2 ^ 32))
    else
      let p := wordPlace w off
      (s.updLane bay key n (fun a => { a with scaleAsked := true })).postBank bay w.tile (bankOfSquare w l.firstLine p.1) 0
        ⟨.scale id a.req.index ctx isB n, lineId w l.firstLine p.1 p.2.1 false, false, .read, 1, 0, 0⟩

/-- The part of its line that a stream's word is, whether it comes from the B feed's second line, and the square and line of its next beat
(R254). -/
def Lane.place (a : Lane) (r : Layout) (w : Window) (isB : Bool) : Nat × Bool × Nat × Nat :=
  let second := isB && decide (4 ≤ a.req.lane)
  let (sq, j) := r.beatPlace w a.n second
  (if second then a.req.lane - 4 else a.req.lane, second, sq, j)

/-- The next operand beat of a stream asked of its bank (R219, R254): it waits for room at its element, and for the scale token of its
block. -/
def State.askBeat (s : State) (id : Nat) (l : Loan) (bay key ctx : Nat) (isB : Bool) (blk : Nat) (n : Nat) (a : Lane) : State :=
  let r := ((s.bay bay).feed key).record
  let (cost, have_, _) := entryRoom s l ctx isB a
  if a.owed = 0 ∨ a.asked ∨ a.lim = some 0 ∨ a.halted ∨ s.cycle < a.req.start ∨ 1 + cost ≤ have_ then s
  else if a.scaleOwed ≠ 0 ∧ a.scaleSent + (if a.scaleAsked then 1 else 0) ≤ a.sent / blk then s
  else match l.windowAt ctx r.win with
  | none => s.feedFault id l bay key ctx n a fWINDOW r.win 0 0
  | some w =>
    let (_, _, sq, j) := a.place r w isB
    let off := sq + j * 32
    if w.virt ∨ !lineInside w r.o sq j then
      s.feedFault id l bay key ctx n a fWINDOW r.win (recordAddr w l.firstLine off) (BitVec.ofNat 64 (off % 2 ^ 32 + 2 ^ 32))
    else
      let q := sq / squareSize w.ty
      (s.updLane bay key n (fun a => { a with asked := true })).postBank bay w.tile (bankOfSquare w l.firstLine q) 0
        ⟨.beat id a.req.index ctx isB n, lineId w l.firstLine q j r.o, r.o, .read, 1, 0, 0⟩

/-- A feeder's read of storage whose check bits are wrong beyond repair (R23, R362). -/
def State.feedParity (s : State) (id : Nat) (l : Loan) (bay key ctx tile n : Nat) (a : Lane) (win addr : Nat) : State :=
  let s := { s.updBay bay (fun y => { y with unc := AMap.upd y.unc 0 tile bump16 }) with freeCount := s.freeCount + 1 }
  s.feedFault id l bay key ctx n a fPARITYSTORE win addr (BitVec.ofNat 64 (Config.freeNat (s.freeCount - 1) % 256))

/-- What a feeder's read at its bank is about: bay, feed, lane, record and window, while the stream still asks for it. -/
def State.feedRead (s : State) (l : Loan) (index ctx : Nat) (isB : Bool) (n : Nat) : Option (Nat × Nat × Lane × Layout × Window) :=
  let bay := l.bayKey (index / 128)
  let key := feedKey (layoutTile index isB) ctx isB
  let f := (s.bay bay).feed key
  match AMap.find f.lanes n, l.windowAt ctx f.record.win with
  | some a, some w => if a.halted || a.lim == some 0 || l.ended then none else some (bay, key, a, f.record, w)
  | _, _ => none

/-- A scale token read at its bank (R224, R254): its headers enter as eight side beats. -/
def State.performScale (s : State) (id index ctx : Nat) (isB : Bool) (n : Nat) : State :=
  match AMap.find s.loans id with
  | none => s
  | some l => match s.feedRead l index ctx isB n with
    | none => s
    | some (bay, key, a, r, w) =>
      if !a.scaleAsked then s
      else
        let off := r.sbase + 16 * a.m
        let p := wordPlace w off
        let units := if s.eccBad = [] then [] else
          ((List.range 4).flatMap (fun i => placeUnits (tileTr bay) w l.firstLine false (p.1, p.2.1, p.2.2 + i))).eraseDups
        if s.eccFails units then s.feedParity id l bay key ctx w.tile n a r.win (recordAddr w l.firstLine off)
        else
          let s := s.correct bay w.tile units
          let (cost, _, _) := entryRoom s l ctx isB a
          let bytes := (List.range 4).flatMap (fun i => leBytes 4 (readW32 s.tmem (tileTr bay (tileAddr w l.firstLine (off + 4 * i)))).toNat)
          let tok : ScaleTok :=
            ⟨(List.range 8).map (fun i => (s.cycle + cost + i, BitVec.ofNat 16 (leNat ((bytes.drop (2 * i)).take 2)))), 0, false⟩
          let s := s.updEl (l.elKey index) (fun e => if isB then { e with scB := e.scB ++ [tok] } else { e with scA := e.scA ++ [tok] })
          s.updLane bay key n (fun a => { a with scaleSent := a.scaleSent + 1, m := a.m + 1, side := s.cycle + 8, scaleAsked := false })

/-- An operand beat read at its bank (R219, R254), on its way into its element's buffer. -/
def State.performBeat (s : State) (id index ctx : Nat) (isB : Bool) (n : Nat) : State :=
  match AMap.find s.loans id with
  | none => s
  | some l => match s.feedRead l index ctx isB n with
    | none => s
    | some (bay, key, a, r, w) =>
      if !a.asked then s
      else
        let (part, _, sq, j) := a.place r w isB
        let q := sq / squareSize w.ty
        let units := if s.eccBad = [] then [] else
          (placeUnits (tileTr bay) w l.firstLine r.o (q, j, 2 * part) ++ placeUnits (tileTr bay) w l.firstLine r.o (q, j, 2 * part + 1)).eraseDups
        if s.eccFails units then s.feedParity id l bay key ctx w.tile n a r.win (recordAddr w l.firstLine (sq + j * 32))
        else
          let s := s.correct bay w.tile units
          let (cost, _, _) := entryRoom s l ctx isB a
          let word (i : Nat) : W32 := readLineWord s.tmem (tileTr bay) w l.firstLine q j r.o (2 * part + i)
          let beat : Beat := ⟨s.cycle + cost, word 1 ++ word 0⟩
          let s := s.updEl (l.elKey index) (fun e => if isB then { e with opB := e.opB ++ [beat] } else { e with opA := e.opA ++ [beat] })
          s.updLane bay key n (fun a => { a with owed := a.owed - 1, sent := a.sent + 1, n := a.n + 1, lim := a.lim.map (· - 1), asked := false })

/-- The streams of one feed in one cycle: each asks for its next scale token and its next beat. -/
def State.feedCycle (s : State) (id : Nat) (l : Loan) (bay key ctx : Nat) (isB : Bool) (blk : Nat) : State :=
  (List.range 8).foldl (fun s n =>
    let lane (s : State) : Option Lane := AMap.find ((s.bay bay).feed key).lanes n
    let s := match lane s with
      | some a => s.askScale id l bay key ctx isB n a
      | none => s
    match lane s with
    | some a => s.askBeat id l bay key ctx isB blk n a
    | none => s) s

/-- Whether a stream has something to ask for yet. -/
def Lane.wants (a : Lane) : Bool := (a.owed != 0 || decide (a.scaleSent < a.scaleOwed)) && !a.halted && a.lim != some 0

/-- `FEED_BEAT` (R254): the feeder of an element's tile asks for what it can in this cycle, and serves what waits for it. -/
def execFeedBeat (loan index : Nat) (isB : Bool) (s : State) : Host.Outcome State Fault Refusal :=
  match AMap.find s.loans loan with
  | none => .next s
  | some l =>
    if l.ended then .next s
    else
      let bay := l.bayKey (index / 128)
      let s := l.ctxs.foldl (fun s c =>
        let key := feedKey (layoutTile index isB) c isB
        let tile := AMap.get (s.bay bay).tiles Tile.empty (tileKey (tileOfIndex index) c)
        let blk := max 1 (scaleBlock tile.fields.aty)
        (s.serveFeed bay key).feedCycle loan l bay key c isB blk) s
      let more := l.ctxs.any (fun c => ((s.bay bay).feed (feedKey (layoutTile index isB) c isB)).lanes.any (fun (p : Nat × Lane) => p.2.wants))
      .next (if more && !s.agenda.any (fun x => x.2 == Instr.feedBeat loan index isB) then s.later 1 (.feedBeat loan index isB) else s)

/-! ### Steps (R218, R224, R225) -/

/-- The value of a part of a word under a header (R218, R224); `hi` selects the second K of e2m1x8. -/
def mxPart (t : Ty) (v : W64) (hdr : BitVec 16) (i : Nat) (hi : Bool) : FV :=
  let byte := v.toNat / 2 ^ (8 * i) % 256
  match t with
  | .e2m1x8 => decodeE2M1S (if hi then byte / 16 else byte % 16) hdr
  | .bf16x2 | .f16x2 => laneValue t (v.toNat / 2 ^ (16 * i) % 65536)
  | _ =>
    let scale := (hdr.extractLsb' 8 8).toNat
    if scale = 0xFF then .nan false
    else match laneValue t byte with
      | .fin n m e => .fin n m (e + ((scale : Int) - 127))
      | x => x

/-- The new value of an accumulator after one beat (R154, R225). -/
def mxAcc (f : MxFields) (fade : Option W32) (c : W32) (a b : W64) (ha hb : BitVec 16) (i j : Nat) : W32 × Flags :=
  if f.aty = .i8x4 then
    (BitVec.ofInt 32 (c.toInt + signedLane 8 (a.toNat / 2 ^ (8 * i) % 256) * signedLane 8 (b.toNat / 2 ^ (8 * j) % 256)), Flag.none)
  else
    let cv := laneValue .f32 c.toNat
    let cv := match fade with | some x => (FV.mul cv (laneValue .f32 x.toNat)).1 | none => cv
    let ks := if f.aty = .e2m1x8 then [false, true] else [false]
    latticeStep false (cv :: ks.map (fun k => (FV.mul (mxPart f.aty a ha i k) (mxPart f.bty b hb j k)).1))

/-- Where an element's words and side beats of a stream go on (R216, R219): the next element of the row or column, and the cycles of the
way. -/
def onwardOf (l : Loan) (x : ElCtx) (isB : Bool) : Option (Nat × Nat) :=
  (if isB then (if mxRow x.logical = 3 ∧ !x.bout then none else southOf l x.logical)
    else (if mxCol x.logical = 7 ∧ !x.aout then none else eastOf l x.logical)).map (fun p => (l.elKey p.1, p.2))

/-- What an element needs for its next beat: the words, the tokens that it takes, and where it forwards the words. -/
structure StepPlan where
  a : W64
  b : W64
  sa : Option (List (BitVec 16))
  sb : Option (List (BitVec 16))
  east : Option (Nat × Nat)
  south : Option (Nat × Nat)
deriving DecidableEq, Repr

/-- The token that a step may take (R224): the first that no step has taken, once its eight headers are there. -/
def nextToken (now : Nat) (ts : List ScaleTok) : Option (List (BitVec 16)) :=
  match ts.find? (fun t => !t.taken) with
  | some t => if t.headers.length = 8 ∧ t.headers.all (fun h => decide (h.1 ≤ now)) then some (t.headers.map Prod.snd) else none
  | none => none

/-- A token taken by a step. -/
def takeToken : List ScaleTok → List ScaleTok
  | [] => []
  | t :: ts => if t.taken then t :: takeToken ts else { t with taken := true } :: ts

/-- Tokens that are neither to be taken nor to be forwarded any more leave the buffer (R219). -/
def spentTokens (goal : Bool) (ts : List ScaleTok) : List ScaleTok := ts.filter (fun t => !(t.taken && (!goal || t.sent == 8)))

/-- Whether an operand buffer of 2 beats has room for a beat that comes over a link of `d` cycles, whose own stages hold beats too
(R219). -/
def beatRoom (bs : List Beat) (d : Nat) : Bool := decide (bs.length < 2 + (d - 1))

/-- The next beat of a run, when everything for it is there (R225). -/
def planStep (s : State) (l : Loan) (el ctx : Nat) (r : Run) : Option StepPlan :=
  let e := s.el el
  let x := e.ctx ctx
  let tile := AMap.get (s.bay (l.bayKey (x.logical / 128))).tiles Tile.empty (tileKey (tileOfIndex x.logical) ctx)
  let takes := r.s && r.beat == 0 && decide (r.done % max 1 (scaleBlock tile.fields.aty) = 0)
  let east := onwardOf l x false
  let south := onwardOf l x true
  let roomE := match east with | some (k, d) => beatRoom (s.el k).opA d | none => true
  let roomS := match south with | some (k, d) => beatRoom (s.el k).opB d | none => true
  match e.opA, e.opB with
  | a :: _, b :: _ =>
    if !(decide (a.due ≤ s.cycle) && decide (b.due ≤ s.cycle) && roomE && roomS) then none
    else if !takes then some ⟨a.value, b.value, none, none, east, south⟩
    else match nextToken s.cycle e.scA, nextToken s.cycle e.scB with
      | some p, some q => some ⟨a.value, b.value, some p, some q, east, south⟩
      | _, _ => none
  | _, _ => none

/-- The accumulators that a beat updates (R218): those of its quadrant in the 16-bit modes, otherwise all. -/
def beatAccs (t : Ty) (beat : Nat) : List (Nat × Nat × Nat × Nat) :=
  if stepBeats t = 4 then
    (List.range 4).flatMap (fun i => (List.range 4).map (fun j => (i, j, 4 * (beat / 2) + i, 4 * (beat % 2) + j)))
  else (List.range 8).flatMap (fun i => (List.range 8).map (fun j => (i, j, i, j)))

/-- The accumulators as the lattice passes them on (R225): with the writes that are still to come. -/
def ElCtx.lattice (x : ElCtx) (r : Run) : AMap W32 := r.writes.foldl MxWrite.into x.acc

/-- The element's context after a beat (R225): its write comes 3 cycles later; scale tokens and the run's position follow at once. -/
def stepCtx (x : ElCtx) (r : Run) (f : MxFields) (p : StepPlan) (now : Nat) : ElCtx :=
  let sa := p.sa.getD x.scaleA
  let sb := p.sb.getD x.scaleB
  let hdr (hs : List (BitVec 16)) (i : Nat) : BitVec 16 := if f.scl then hs.getD i implicitHeader else implicitHeader
  let clear := r.done == 0 && r.beat == 0 && r.z
  let acc0 : AMap W32 := if clear then [] else x.lattice r
  let fade := if r.done = 0 ∧ r.f then some x.fade else none
  let (ws, fl) := (beatAccs f.aty r.beat).foldl (fun (m : List (Nat × W32) × Flags) q =>
    let n := 8 * q.2.2.1 + q.2.2.2
    let (v, g) := mxAcc f fade (AMap.get acc0 0 n) p.a p.b (hdr sa q.2.2.1) (hdr sb q.2.2.2) q.1 q.2.1
    (m.1 ++ [(n, v)], m.2 ||| g)) ([], Flag.none)
  let last := r.beat + 1 = stepBeats f.aty
  { x with
    scaleA := sa
    scaleB := sb
    perf := if last then AMap.upd x.perf 0 3 (· + 1) else x.perf
    run := some { r with
      beat := if last then 0 else r.beat + 1
      done := if last then r.done + 1 else r.done
      lastStep := now
      writes := r.writes ++ [⟨now + 3, ws, fl, clear⟩] } }

/-- A link marked for the cycle in which a beat uses it (R219). -/
def linkBeat (goal : Option (Nat × Nat)) (dir n : Nat) (m : AMap Nat) : AMap Nat := if goal.isSome then AMap.put m dir n else m

/-- The scale buffers of a stream. -/
def Element.scales (e : Element) (isB : Bool) : List ScaleTok := if isB then e.scB else e.scA
@[inherit_doc Element.scales] def Element.setScales (e : Element) (isB : Bool) (ts : List ScaleTok) : Element :=
  if isB then { e with scB := ts } else { e with scA := ts }

/-- A header that arrives over a link: the next of the token that is coming, or the first of another. -/
def headerIn (h : Nat × BitVec 16) (ts : List ScaleTok) : List ScaleTok :=
  match ts.getLast? with
  | some t => if t.headers.length < 8 then ts.dropLast ++ [{ t with headers := t.headers ++ [h] }] else ts ++ [⟨[h], 0, false⟩]
  | none => [⟨[h], 0, false⟩]

/-- Whether a scale buffer of 2 tokens has room for the next header that comes (R219). -/
def headerRoom (ts : List ScaleTok) : Bool := decide (ts.length < 2) || ts.getLast?.any (fun t => decide (t.headers.length < 8))

/-- The next header of an element's scale tokens that may go on: the token's place, the element it goes to with the cycles of the way, and
the header. -/
def State.sideNext (s : State) (l : Loan) (el ctx : Nat) (isB : Bool) : Option (Nat × Nat × Nat × BitVec 16) :=
  let e := s.el el
  let ts := e.scales isB
  match onwardOf l (e.ctx ctx) isB, ts.findIdx? (fun t => t.sent < 8) with
  | some (k, d), some i =>
    (match (ts[i]?).bind (fun t => t.headers[t.sent]?) with
      | some (due, h) => if due ≤ s.cycle ∧ headerRoom ((s.el k).scales isB) then some (i, k, d, h) else none
      | none => none)
  | _, _ => none

/-- The next header of an element's scale tokens as a side beat to the next element of its row or column (R219, R224): one a cycle, into
free space. -/
def State.sideBeat (s : State) (l : Loan) (el ctx : Nat) (isB : Bool) : State :=
  let goal := onwardOf l ((s.el el).ctx ctx) isB
  match s.sideNext l el ctx isB with
  | some (i, k, d, h) =>
    let s := s.updEl el (fun e => { e.setScales isB (spentTokens true ((e.scales isB).modify i (fun t => { t with sent := t.sent + 1 }))) with
      beatLink := linkBeat goal (if isB then 2 else 1) (s.cycle + 2) e.beatLink })
    s.updEl k (fun e => e.setScales isB (headerIn (s.cycle + d, h) (e.scales isB)))
  | none => if goal.isSome then s else s.updEl el (fun e => e.setScales isB (spentTokens false (e.scales isB)))

/-- One beat of a run, planned. -/
def State.performStep (s : State) (l : Loan) (el ctx : Nat) (r : Run) (p : StepPlan) : State :=
  let x := (s.el el).ctx ctx
  let tile := AMap.get (s.bay (l.bayKey (x.logical / 128))).tiles Tile.empty (tileKey (tileOfIndex x.logical) ctx)
  let y := stepCtx x r tile.fields p s.cycle
  let s := s.updEl el (fun e => { e.updCtx ctx (fun _ => y) with
    opA := e.opA.drop 1, opB := e.opB.drop 1
    scA := if p.sa.isSome then spentTokens p.east.isSome (takeToken e.scA) else e.scA
    scB := if p.sb.isSome then spentTokens p.south.isSome (takeToken e.scB) else e.scB
    beatLink := linkBeat p.east 1 (s.cycle + 2) (linkBeat p.south 2 (s.cycle + 2) e.beatLink) })
  let s := match p.east with
    | some (k, d) => s.updEl k (fun e => { e with opA := e.opA ++ [⟨s.cycle + d, p.a⟩] })
    | none => s
  let s := match p.south with
    | some (k, d) => s.updEl k (fun e => { e with opB := e.opB ++ [⟨s.cycle + d, p.b⟩] })
    | none => s
  match y.run with
  | some r' => if r'.total ≤ r'.done then s.later 3 (.runEnd el ctx) else s
  | none => s

/-- `MATRIX_STEP` (R219, R224, R225): the writes that are due are made, side beats go on, and one beat of the run is performed when everything
for it is there; its words go on in the next cycle, and the last write ends the run. -/
def execMatrixStep (el ctx : Nat) (s : State) : Host.Outcome State Fault Refusal :=
  match ((s.el el).ctx ctx).loan with
  | none => .next s
  | some id => match AMap.find s.loans id with
    | none => .next s
    | some l =>
      let s := s.updEl el (fun e => e.updCtx ctx (fun x => x.mxDue s.cycle))
      let x := (s.el el).ctx ctx
      let tile := AMap.get (s.bay (l.bayKey (x.logical / 128))).tiles Tile.empty (tileKey (tileOfIndex x.logical) ctx)
      let s := if tile.mode == .matrix && !l.ended then (s.sideBeat l el ctx false).sideBeat l el ctx true else s
      match x.run with
      | none => .next s
      | some r =>
        if r.total ≤ r.done ∨ l.ended then .next s
        else match planStep s l el ctx r with
        | none => .next s
        | some p => .next (s.performStep l el ctx r p)

/-! ### Stopping and resuming arrays (R227) -/

/-- The compute tiles of a region in matrix mode of a context, by tile index: 4 times the region's bay, and the tile. -/
def State.matrixTiles (s : State) (l : Loan) (ctx : Nat) : List Nat :=
  (List.range (4 * l.w * l.h)).filter (fun n => (AMap.get (s.bay (l.bayKey (n / 4))).tiles Tile.empty (tileKey (n % 4) ctx)).mode == .matrix)

/-- The tiles to which a tile forwards its words (R216, R219). -/
def State.tileJoins (s : State) (l : Loan) (ctx n : Nat) : List (Nat × Nat) :=
  let goals (isB : Bool) (is : List Nat) : List Nat := is.filterMap (fun i =>
    let x := (s.el (l.elKey i)).ctx ctx
    if isB then (if x.bout then (southOf l i).map Prod.fst else none) else (if x.aout then (eastOf l i).map Prod.fst else none))
  let base := n / 4 * 128 + n % 4 * 32
  (goals false ((List.range 4).map (fun r => base + 8 * r + 7)) ++ goals true ((List.range 8).map (fun c => base + 24 + c))).map
    (fun i => (n, i / 128 * 4 + tileOfIndex i))

/-- The arrays of joined tiles: each tile with the number of its array. -/
def State.arrays (s : State) (l : Loan) (ctx : Nat) : List (Nat × Nat) :=
  let ts := s.matrixTiles l ctx
  (ts.flatMap (s.tileJoins l ctx)).foldl (fun m p =>
    let a := AMap.get m p.1 p.1
    let b := AMap.get m p.2 p.2
    m.map (fun x => if x.2 = b then (x.1, a) else x)) (ts.map (fun n => (n, n)))

/-- The feeds of a compute tile (R216): the bay and the keys of its A feed and of its B feed. -/
def tileFeeds (l : Loan) (ctx n : Nat) : List (Nat × Nat) :=
  [(l.bayKey (n / 4), feedKey (n % 4) ctx false), (l.bayKey (n / 4), feedKey (n % 4 ^^^ 1) ctx true)]

/-- How far a stream has begun to send: its run, and the steps of it that it has begun. -/
def Lane.reached (a : Lane) (bps : Nat) : Nat × Nat := (a.run, (a.sent + bps - 1) / bps)

/-- The later of two places in a stream. -/
def laterPlace (p q : Nat × Nat) : Nat × Nat := if p.1 < q.1 ∨ (p.1 = q.1 ∧ p.2 < q.2) then q else p

/-- A stream that is to stop at a common place (R227): it sends the steps up to there, and nothing that it has asked for beyond. -/
def Lane.stopAt (a : Lane) (top : Nat × Nat) (bps : Nat) : Lane :=
  { a with lim := some (if a.run = top.1 then top.2 * bps - a.sent else a.owed), asked := false, scaleAsked := false }

/-- The feeders of the arrays of a loan that have a tile in some bays stop, each array's at a common step: the highest that any of them had
begun to send (R227). -/
def State.stopArrays (s : State) (id : Nat) (inBay : Nat → Bool) : State :=
  match AMap.find s.loans id with
  | none => s
  | some l => l.ctxs.foldl (fun s c =>
      let arr := s.arrays l c
      ((arr.filter (fun p => inBay (l.bayKey (p.1 / 4)))).map Prod.snd).eraseDups.foldl (fun s k =>
        let ts := (arr.filter (fun p => p.2 == k)).map Prod.fst
        let feeds := ts.flatMap (tileFeeds l c)
        let bps := match ts with
          | n :: _ => stepBeats (AMap.get (s.bay (l.bayKey (n / 4))).tiles Tile.empty (tileKey (n % 4) c)).fields.aty
          | [] => 1
        let top := (feeds.flatMap (fun p => ((s.bay p.1).feed p.2).lanes.map Prod.snd)).foldl (fun m (a : Lane) => laterPlace m (a.reached bps)) (0, 0)
        feeds.foldl (fun s p => if ((s.bay p.1).feed p.2).lanes == [] then s
          else s.updBay p.1 (fun y => y.updFeed p.2 (fun g => { g with lanes := g.lanes.map (fun (q : Nat × Lane) => (q.1, q.2.stopAt top bps)) }))) s) s) s

/-- The feeders of a loan stop (R227). -/
def State.stopFeeds (s : State) (id : Nat) : State := s.stopArrays id (fun _ => true)

/-- The feeders of a loan go on. -/
def State.goFeeds (s : State) (id : Nat) : State :=
  match AMap.find s.loans id with
  | none => s
  | some l =>
    (List.range (l.w * l.h)).foldl (fun s b =>
      let bay := l.bayKey b
      l.ctxs.foldl (fun s c => (List.range 4).foldl (fun s t => [false, true].foldl (fun s isB =>
        let k := feedKey (if isB then t ^^^ 1 else t) c isB
        if ((s.bay bay).feed k).lanes == [] then s
        else (s.updBay bay (fun y => y.updFeed k (fun g =>
          { g with lanes := g.lanes.map (fun (p : Nat × Lane) => (p.1, { p.2 with lim := none })) }))).later 1
          (.feedBeat id (b * 128 + t * 32) isB)) s) s) s) s

/-! ### The other matrix instructions (R231 to R235) -/

/-- `MXFADE` (R231). -/
def execMxfade (h : Hdr) (b : FI) : State → Host.Outcome State Fault Refusal :=
  fire (shapeI h b 1) (fun f g => if f.x.run.isSome then none else some (valueEff f g [(b.d0, g.op 0)] Flag.none))
    (fun f g s => if g.live then s.updEl f.key (fun e => e.updCtx f.ctx (fun x => { x with fade := g.op 0 })) else s)

/-- `MXPASS` (R234). -/
def execMxpass (h : Hdr) (b : FI) : State → Host.Outcome State Fault Refusal :=
  fire (shapeI h b 1) (fun f g => if f.x.run.isSome then none else some (valueEff f g [(b.d0, g.op 0)] Flag.none))
    (fun f g s => if g.live then s.updEl f.key (fun e => e.updCtx f.ctx (fun x => { x with
      adly := b.imm.extractLsb' 0 10, bdly := b.imm.extractLsb' 10 10 })) else s)

/-- The positions of a scale token after a write of `MXSCL` (R232). -/
def partPut (m : AMap (BitVec 16)) (all : Bool) (pos : Nat) (v : BitVec 16) : AMap (BitVec 16) :=
  if all then (List.range 8).map (fun i => (i, v)) else AMap.put m pos v

/-- The token that all eight positions make. -/
def partToken (m : AMap (BitVec 16)) : Option (List (BitVec 16)) :=
  if (List.range 8).all (fun i => (AMap.find m i).isSome) then some ((List.range 8).map (AMap.get m 0)) else none

/-- The tokens of an accord's cell for an element row (`isB` false) or column (R232): a word that is dead supplies zero bits. -/
def cellToken (c : Cell) (isB : Bool) (j : Nat) : List (BitVec 16) :=
  (List.range 8).map (fun p =>
    let off := 32 * j + (if isB then 16 else 0) + 2 * p
    if c.live.getLsbD (off / 4) then BitVec.ofNat 16 (field c.payload off 2) else 0)

/-- The edge elements of a firing's tile: those of column 0 for A, those of row 0 for B. -/
def FireCtx.edge (f : FireCtx) (isB : Bool) : List (Nat × Nat) :=
  if isB then (List.range 8).map (fun j => (j, f.l.elKey (tileBase f.index + j)))
  else (List.range 4).map (fun j => (j, f.l.elKey (tileBase f.index + 8 * j)))

/-- A scale token put in an element's buffer. -/
def State.putScale (s : State) (key : Nat) (isB : Bool) (hs : List (BitVec 16)) : State :=
  s.updEl key (fun e => e.setScales isB (e.scales isB ++ [⟨hs.map (fun h => (s.cycle + 1, h)), 0, false⟩]))

/-- What a live `MXSCL` puts into the scale buffers (R232): a position of its element's next token, or whole tokens from an accord's cells
for every edge element of its tile. -/
def loadScales (h : Hdr) (b : FX) (f : FireCtx) (g : Got) (s : State) : State :=
  let isB := b.shape.getLsbD 0
  if !g.live then s
  else if h.mode == .accord then
    g.cells.foldl (fun s c =>
      let s := (f.edge false).foldl (fun s p => s.putScale p.2 false (cellToken c.2 false p.1)) s
      (f.edge true).foldl (fun s p => s.putScale p.2 true (cellToken c.2 true p.1)) s) s
  else
    let x := (s.el f.key).ctx f.ctx
    let m := partPut (if isB then x.partB else x.partA) (b.shape.getLsbD 4) (b.shape.extractLsb' 1 3).toNat ((g.op 0).extractLsb' 0 16)
    match partToken m with
    | some hs => (s.updEl f.key (fun e => e.updCtx f.ctx (fun x => if isB then { x with partB := [] } else { x with partA := [] }))).putScale f.key isB hs
    | none => s.updEl f.key (fun e => e.updCtx f.ctx (fun x => if isB then { x with partB := m } else { x with partA := m }))

/-- `MXSCL` (R232): scale tokens from the fabric, position by position or from an accord. -/
def execMxscl (h : Hdr) (b : FX) (s : State) : Host.Outcome State Fault Refusal :=
  let isB := b.shape.getLsbD 0
  let accord := h.mode == .accord
  fire (shapeX h b (focusImage s) 1) (fun f g =>
    let x := s.fireTile f
    let d := drainDest b f.img
    -- without room it is no candidate, whatever else holds (R232)
    let room := if accord then
        (f.edge false).all (fun p => decide ((s.el p.2).scA.length + g.cells.length ≤ 2)) &&
          (f.edge true).all (fun p => decide ((s.el p.2).scB.length + g.cells.length ≤ 2))
      else decide ((f.e.scales isB).length < 2)
    if !room then none
    else if !g.live then some (valueEff f g [(d, 0)] Flag.none)
    else if x.mode != .matrix || !x.fields.scl || !x.fields.ssrc then some { Eff.none with outs := [Out.std f g d 0], bad := some (fILLEGAL, 0) }
    else some (valueEff f g [(d, if accord then 0 else g.op 0)] Flag.none))
    (loadScales h b) s

/-- The words of a captured `MXDRN` on their way to the result port (R369). -/
def captureDrain (h : Hdr) (b : FX) (f : FireCtx) (g : Got) (s : State) : State :=
  let first := (b.shape.extractLsb' 0 6).toNat
  let count := (b.shape.extractLsb' 6 6).toNat + 1
  if !s.captures (f.key / 256) f.ctx then s
  else
    let tag := (applyTagop h.tagop f.info.depth true g.tag).getD g.tag
    let (ws, _) := drainWords h.ty f.acc first count
    let fs := ws.zipIdx.filterMap (fun p => drainFlit f.l f.img f.id f.key f.index f.ctx f.hnd (drainDest b f.img) g.live g.cont tag true
      (if g.live then p.1 else 0) p.2)
    s.emitRow f.key f.ctx f.id f.hnd 2 f.l (fs.map (Flit.withPrior g.prior))

/-- `MXDRN` (R233, R369): a run of accumulators to the drain target, one token a cycle. -/
def execMxdrn (h : Hdr) (b : FX) (s : State) : Host.Outcome State Fault Refusal :=
  let first := (b.shape.extractLsb' 0 6).toNat
  let count := (b.shape.extractLsb' 6 6).toNat + 1
  fire { shapeX h b (focusImage s) 2 with accs := (List.range count).map (first + ·) } (fun f g =>
    let d := drainDest b f.img
    let (ws, fl) := drainWords h.ty f.acc first count
    let outs := ws.zipIdx.map (fun p => { (if g.live then Out.std f g d p.1 else Out.dead f g d) with delay := p.2 })
    let cap := s.captures (f.key / 256) f.ctx
    if cap && (applyTagop h.tagop f.info.depth true g.tag).isSome then some { Eff.none with flags := if g.live then fl else Flag.none }
    else some { Eff.none with outs := outs, flags := if g.live then fl else Flag.none })
    (captureDrain h b) s

/-- `MXLDACC` (R235): a load of one square into the 64 accumulators. -/
def execMxldacc (h : Hdr) (b : FM) : State → Host.Outcome State Fault Refusal :=
  fireMem { shapeM h b (List.range 64) with accOnly := true } h b .block b.o (fun _ g w => askAt .block .mxload false g w)

end Sys2Proof.Machine
end

