-- ==== Sys2Proof/Machine/Arbiter.lean ====
section
/-! DEFINITION. The arbiters of the memory tiles' banks (R237, R241, R242, R289): what a bank performs in a cycle, of the accesses of all
sources. -/
namespace Sys2Proof.Machine

/-- Whether what an entry is about is still there. -/
def State.jobAlive (s : State) (bay : Nat) (e : BankEntry) : Bool :=
  match e.job with
  | .access id => (AMap.find s.accs id).isSome
  | .estore => (s.bay bay).estores != []
  | .beat loan index ctx isB n =>
    (AMap.find s.loans loan).any (fun l => (s.feedRead l index ctx isB n).any (fun p => p.2.2.1.asked))
  | .scale loan index ctx isB n =>
    (AMap.find s.loans loan).any (fun l => (s.feedRead l index ctx isB n).any (fun p => p.2.2.1.scaleAsked))
  | .payload _ => true
  | .block dec => (s.blockOf bay dec).isSome
  | .commit loan _ => (AMap.find s.loans loan).isSome

/-- The stores of a loan that are on their way to banks, in the order in which they commit (R251, R383). -/
def Loan.tileCommits (l : Loan) : List Store := l.releasing.filter (fun t => t.sent && !t.win.virt)

/-- Whether an entry may be performed now: SC operations keep to their order (R327), and stores of a region commit in theirs (R251). -/
def State.jobReady (s : State) (e : BankEntry) : Bool :=
  match e.job with
  | .access id => !((AMap.find s.accs id).any Access.onRing && s.scBehind id)
  | .commit loan ws => (match AMap.find s.loans loan, ws with
    | some l, t :: _ => (match l.tileCommits with | u :: _ => u == t | [] => true)
    | _, _ => true)
  | _ => true

/-- Entries of a bank in their order (R242). -/
def bankInsert (e : BankEntry) : List BankEntry → List BankEntry
  | [] => [e]
  | x :: xs => if bankBefore e x then e :: x :: xs else x :: bankInsert e xs
@[inherit_doc bankInsert] def bankSort (es : List BankEntry) : List BankEntry := es.foldl (fun m e => bankInsert e m) []

/-- What an entry of a bank does when it is performed. -/
def State.performJob (s : State) (bay : Nat) (e : BankEntry) : State :=
  match e.job with
  | .access id => s.performTile id
  | .estore => s.performEstore bay
  | .beat loan index ctx isB n => s.performBeat loan index ctx isB n
  | .scale loan index ctx isB n => s.performScale loan index ctx isB n
  | .payload q => s.payloadWritten bay q
  | .block dec => s.writeBlock bay dec
  | .commit loan ws => s.commitWords loan ws

/-- Whether a step that may still bring something to a bank in this cycle is due: a feeder's read or a cell's payload. -/
def State.bankComing (s : State) : Bool :=
  s.agenda.any (fun x => decide (x.1 ≤ s.cycle) && (match x.2 with | .feedBeat .. => true | .ingressCell .. => true | _ => false))

/-- Whether a store that a bank may perform has still to be performed in this cycle. -/
def State.storeDue (s : State) (u : Store) : Bool :=
  let n := bankOfSquare u.win u.first u.q
  let b := s.bay u.home
  s.agenda.any (fun x => decide (x.1 ≤ s.cycle) && x.2 == Instr.bankAccess u.home u.win.tile n) &&
    decide (AMap.get b.bankBusy 0 (bankKey u.win.tile n) ≤ s.cycle) &&
    (AMap.get b.banks [] (bankKey u.win.tile n)).any (fun e => decide (e.arrived ≤ s.cycle) && (match e.job with
      | .commit _ (t :: _) => t == u
      | _ => false))

/-- Whether the store that the stores of a bank wait for is performed in this cycle at another. -/
def State.firstCommitDue (s : State) (es : List BankEntry) : Bool :=
  es.any (fun e => match e.job with
    | .commit loan _ => (AMap.find s.loans loan).any (fun l => l.tileCommits.head?.any s.storeDue)
    | _ => false)

/-- `BANK_ACCESS` (R237, R242, R289): a free bank performs one line access, or those that merge with it: the first of those that have come
and may be performed. An `AINCB` is a claim, whose round ends in the same cycle. -/
def execBankAccess (bay tile bank : Nat) (s : State) : Host.Outcome State Fault Refusal :=
  let k := bankKey tile bank
  let s := s.updBay bay (fun b => { b with banks := AMap.upd b.banks [] k (fun es => es.filter (s.jobAlive bay)) })
  let b := s.bay bay
  let busy := AMap.get b.bankBusy 0 k
  let here := (AMap.get b.banks [] k).filter (fun e => decide (e.arrived ≤ s.cycle))
  if here = [] then .next s
  else if s.cycle < busy then .next (s.later (busy - s.cycle) (.bankAccess bay tile bank))
  else if s.bankComing then .next (s.later 0 (.bankAccess bay tile bank))
  else match s.bankNext (here.filter s.jobReady) with
  | none => .next (s.later (if s.firstCommitDue here then 0 else 1) (.bankAccess bay tile bank))
  | some e =>
    let group := e :: (bankSort (here.filter s.jobReady)).filter (fun x => x != e && mayMerge e x)
    let claim := match e.job with | .access id => if (s.claimOf e).isSome then some id else none | _ => none
    let s := s.updBay bay (fun b => { b with
      banks := AMap.upd b.banks [] k (fun es => es.filter (fun x => !group.contains x))
      bankBusy := AMap.put b.bankBusy k (s.cycle + e.cycles)
      heldClaims := b.heldClaims ++ claim.toList })
    let s := match claim with
      | some _ => s.later 0 (.aincbRoundEnd (bankPlace bay tile bank))
      | none => group.foldl (fun s x => s.performJob bay x) s
    .next (if here.length ≤ group.length then s else s.later 1 (.bankAccess bay tile bank))

end Sys2Proof.Machine
end

