-- ==== Sys2Proof/Machine/Image.lean ====
section
/-! DEFINITION. The configuration image (R77 to R80): its CRC, header, directory and sections, read into an `Image`, and the
checks of its header, directory and tables in the order of R81. -/
namespace Sys2Proof.Machine

/-- A failure of an image (R75): `REASON`, `SECTION`, `ENTRY` and `OFFSET`. -/
structure CfgBad where
  reason : Nat
  sect : Nat
  entry : Nat
  offset : Nat
deriving DecidableEq, Repr

/-- The detail word of a failure (R75). -/
def CfgBad.detail (x : CfgBad) : W64 := cfgDetail x.reason x.sect x.entry x.offset

/-- The first failure of a list of checks, each a condition that must hold and what is wrong when it does not. -/
def firstBad (cs : List (Bool × CfgBad)) : Option CfgBad := (cs.find? (fun c => !c.1)).map Prod.snd

/-! ### CRC-32 (R77, R347) -/

/-- A reflected CRC-32 register after some message bits. -/
def crcBits : Nat → List Bool → Nat
  | c, [] => c
  | c, b :: bs => if (c % 2 == 1) != b then crcBits (c / 2 ^^^ 0xEDB88320) bs else crcBits (c / 2) bs

/-- The IEEE 802.3 CRC-32 of some bytes, each from its low bit on. -/
def crc32 (bs : List Byte) : W32 := ~~~BitVec.ofNat 32 (crcBits 0xFFFFFFFF (bs.flatMap (fun b => (List.range 8).map (fun i => b.getLsbD i))))

/-- The CRC of an image, its own field as zero (R77). -/
def imageCrc (bs : List Byte) : W32 := crc32 (bs.take 12 ++ leBytes 4 0 ++ bs.drop 16)

/-! ### Header and directory (R77, R78) -/

/-- Bytes of a record of a section (R79, R80). -/
def recordSize (sid : Nat) : Nat :=
  match sid with
  | 1 => 72 | 2 => 16 | 3 => 32 | 4 => 4 | 5 => 8 | 6 => 16 | 7 => 8 | 8 => 8 | 9 => 8 | 10 => 72 | 11 => 64 | _ => 48

/-- Whether a section of a shape may hold so many records (R79). -/
def countOk (bays sid n : Nat) : Bool :=
  match sid with
  | 1 => n ≤ bays * 128 | 2 => n ≤ bays | 3 => n ≤ 64 | 4 => n == 64 | 5 => n == 8
  | 8 => n ≤ 16 | 9 => n ≤ 64 | 10 => n ≤ 64 | 11 => n ≤ 16 | _ => true

/-- A directory entry: section, offset, length, records. -/
structure DirEntry where
  index : Nat
  sid : Nat
  off : Nat
  len : Nat
  count : Nat
deriving DecidableEq, Repr

/-- The directory of an image (R78). -/
def directory (bs : List Byte) : List DirEntry :=
  (List.range (field bs 16 2)).map (fun i =>
    let o := 64 + 16 * i
    ⟨i, field bs o 2, field bs (o + 4) 4, field bs (o + 8) 4, field bs (o + 12) 4⟩)

/-- A record of a section: index, offset in the image, bytes. -/
structure Record where
  index : Nat
  off : Nat
  bs : List Byte
deriving DecidableEq, Repr

/-- The records of a section. -/
def records (bs : List Byte) (sid : Nat) : List Record :=
  match (directory bs).find? (fun e => e.sid == sid) with
  | none => []
  | some e => (List.range e.count).map (fun i =>
      let o := e.off + i * recordSize sid
      ⟨i, o, (bs.drop o).take (recordSize sid)⟩)

/-- Whether some bytes of a record are zero. -/
def zeroAt (bs : List Byte) (off n : Nat) : Bool := field bs off n == 0

/-- Who names an image, as far as the checks of the image need it: the shape that it must have, the privilege right (R72), and
the slip's `MSTORE` in 16 KiB when it replaces the image's (R92). -/
structure Asker where
  w : Nat
  h : Nat
  priv : Bool
  mstore : Nat
deriving DecidableEq, Repr

/-- The checks of the header before the image is read (R77, R81 step 1). -/
def headerChecks (bs : List Byte) (a : Asker) : List (Bool × CfgBad) :=
  let w := field bs 6 1
  let h := field bs 7 1
  let size := field bs 8 4
  [(field bs 0 4 == 0x4B434647, ⟨0x01, 0, 0, 0⟩),
   (field bs 4 2 == 1, ⟨0x02, 0, 0, 4⟩),
   (decide (1 ≤ w) && decide (w ≤ 16), ⟨0x03, 0, 0, 6⟩),
   (decide (1 ≤ h) && decide (h ≤ 8) && decide (w * h ≤ 64), ⟨0x03, 0, 0, 7⟩),
   (w == a.w, ⟨0x03, 0, 0, 6⟩),
   (h == a.h, ⟨0x03, 0, 0, 7⟩),
   (size % 64 == 0 && decide (64 + 16 * field bs 16 2 ≤ size), ⟨0x08, 0, 0, 8⟩)]

/-- The checks of the header that need the whole image (R77, R72). -/
def imageChecks (bs : List Byte) (a : Asker) : List (Bool × CfgBad) :=
  [(field bs 12 4 == (imageCrc bs).toNat, ⟨0x04, 0, 0, 12⟩),
   (decide (1 ≤ field bs 16 2) && decide (field bs 16 2 ≤ 12), ⟨0x05, 0, 0, 16⟩),
   (decide (field bs 18 2 < 4), ⟨0x06, 0, 0, 18⟩),
   (field bs 20 4 % 4096 == 0, ⟨0x06, 0, 0, 20⟩),
   (field bs 24 4 % 4096 == 0, ⟨0x06, 0, 0, 24⟩)] ++
  (List.range 4).map (fun i => (field bs (28 + 4 * i) 4 / 2 ^ 20 % 2 ^ 11 == 0 &&
      (decide (field bs (28 + 4 * i) 4 < 2 ^ 31) || field bs (28 + 4 * i) 4 / 2 ^ 18 % 4 == 0), ⟨0x06, 0, 0, 28 + 4 * i⟩)) ++
  [(zeroAt bs 44 20, ⟨0x06, 0, 0, 44⟩),
   (field bs 18 2 % 2 == 0 || a.priv, ⟨0x19, 0, 0, 18⟩)]

/-- The checks of the directory (R78, R81 step 2): an entry is known, in ascending order, aligned, of its records' length,
inside the image and apart from the header, the directory and the sections before it. -/
def directoryChecks (bs : List Byte) : List (Bool × CfgBad) :=
  let dir := directory bs
  let bays := field bs 6 1 * field bs 7 1
  let first := 64 + 16 * dir.length
  dir.flatMap (fun e =>
    let before := dir.take e.index
    let bad : CfgBad := ⟨0x05, e.sid, e.index, 64 + 16 * e.index⟩
    [(decide (1 ≤ e.sid) && decide (e.sid ≤ 12) && before.all (fun d => decide (d.sid < e.sid)) &&
        e.off % 64 == 0 && e.len == e.count * recordSize e.sid && decide (first ≤ e.off) &&
        decide (e.off + e.len ≤ field bs 8 4) && before.all (fun d => decide (d.off + d.len ≤ e.off) || decide (e.off + e.len ≤ d.off)) &&
        countOk bays e.sid e.count, bad),
     (zeroAt bs (64 + 16 * e.index + 2) 2, { bad with reason := 0x06 })]) ++
  [1, 4, 5].map (fun sid => (dir.any (fun e => e.sid == sid), ⟨0x05, sid, dir.length, 64 + 16 * dir.length⟩))

/-! ### Records read -/

/-- The destination of 20 bits of a table; the sink where it is none. -/
def tableDest (n : Nat) : Dest := (decodeDest (BitVec.ofNat 20 n)).getD .sink

/-- A window record (R239). -/
def windowOf (r : List Byte) : Window :=
  let b1 := field r 1 1
  { virt := b1 % 2 == 1
    layout := BitVec.ofNat 2 (b1 / 2)
    scope := BitVec.ofNat 3 (b1 / 8)
    ty := (Ty.ofCode (BitVec.ofNat 4 (field r 2 1))).getD .i32
    wlog := field r 2 1 / 16
    base := field r 8 8
    size := field r 16 8 }

/-- A decant template record (R256). -/
def templateOf (r : List Byte) : Template :=
  let fl := field r 1 1
  let (el, hnd) := match tableDest (field r 4 4) with | .element i _ h => (i.toNat, h.toNat) | _ => (0, 0)
  { dir := BitVec.ofNat 2 fl
    o := fl / 4 % 2 == 1
    arm := fl / 8 % 2 == 1
    note := BitVec.ofNat 2 (fl / 16)
    swin := field r 2 1
    dwin := field r 3 1
    trigEl := el
    trigHnd := hnd
    cdest := tableDest (field r 8 4)
    dbay := field r 12 1
    scope := BitVec.ofNat 3 (field r 13 1)
    nblk := field r 14 2
    sbase := field r 16 4
    sstep := field r 20 4
    sbstr := field r 24 4
    dbase := field r 28 4
    dstep := field r 32 4
    dbstr := field r 36 4 }

/-- The members of a multicast group record (R332). -/
def membersOf (r : List Byte) : List Nat := (List.range (field r 1 1)).map (fun i => field r (8 + 2 * i) 2)

/-- What the sections of an image say, before the loader's own computations (R77 to R80). -/
def readImage (bs : List Byte) (space addr : Nat) : Image :=
  let w := field bs 6 1
  let h := field bs 7 1
  let m := if field bs 20 4 = 0 then 262144 else field bs 20 4
  let put {β : Type} (sid : Nat) (f : Record → Option (Nat × β)) : AMap β :=
    (records bs sid).foldl (fun t r => match f r with | some (k, v) => AMap.put t k v | none => t) []
  { Image.empty with
    space := space
    addr := addr
    exitOff := match (directory bs).find? (fun d => d.sid == 5) with | some d => d.off | none => 0
    winOff := match (directory bs).find? (fun d => d.sid == 3) with | some d => d.off | none => 0
    size := field bs 8 4
    crc := BitVec.ofNat 32 (field bs 12 4)
    w := w
    h := h
    priv := field bs 18 2 % 2 == 1
    callee := field bs 18 2 / 2 % 2 == 1
    mstore := m
    annexRes := field bs 24 4
    entries := ((List.range 4).filter (fun i => decide (2 ^ 31 ≤ field bs (28 + 4 * i) 4))).map (fun i => tableDest (field bs (28 + 4 * i) 4))
    handlers := (records bs 1).foldl (fun t r => (List.range 8).foldl (fun t k =>
      let v := field r.bs (8 + 8 * k) 8
      if BitVec.ofNat 64 v = nopWord then t else AMap.put t (handlerKey (field r.bs 0 2) k) (BitVec.ofNat 64 v)) t) []
    prio := put 1 (fun r => some (field r.bs 0 2, BitVec.ofNat 2 (field r.bs 2 1)))
    bayMem := put 2 (fun r => some (field r.bs 0 1,
      (if field r.bs 4 4 = 0 then m else field r.bs 4 4), (if field r.bs 8 4 = 0 then field bs 24 4 else field r.bs 8 4)))
    windows := put 3 (fun r => some (field r.bs 0 1, windowOf r.bs))
    conts := put 4 (fun r => if field r.bs 0 4 / 2 ^ 22 % 2 = 1 then
      some (r.index, ⟨tableDest (field r.bs 0 4), BitVec.ofNat 2 (field r.bs 0 4 / 2 ^ 20)⟩) else none)
    exits := put 5 (fun r => some (r.index, ⟨field r.bs 0 8 % 2 == 1, field r.bs 0 8 % 2 ^ 52 / 64 * 64⟩))
    primes := (records bs 6).map (fun r => ⟨field r.bs 0 2, field r.bs 2 1, field r.bs 3 1, field r.bs 4 1, BitVec.ofNat 32 (field r.bs 8 4)⟩)
    attrs := put 7 (fun r => if field r.bs 3 1 = 0 then some (handlerKey (field r.bs 0 2) (field r.bs 2 1),
      ⟨BitVec.ofNat 3 (field r.bs 4 1), BitVec.ofNat 3 (field r.bs 4 1 / 8), BitVec.ofNat 4 (field r.bs 5 1)⟩) else none)
    orderedLoops := (records bs 7).filterMap (fun r =>
      if field r.bs 3 1 = 1 ∧ field r.bs 6 1 = 1 then some (handlerKey (field r.bs 0 2) (field r.bs 2 1)) else none)
    classes := put 8 (fun r => some (field r.bs 0 1, ⟨field r.bs 2 2, field r.bs 4 2⟩))
    accords := put 9 (fun r => match tableDest (field r.bs 2 3) with
      | .element i _ k => some (field r.bs 0 1, ⟨field r.bs 1 1, i.toNat, k.toNat⟩)
      | _ => none)
    mcasts := put 10 (fun r => some (field r.bs 0 1, ⟨field r.bs 2 1 % 2 == 1, membersOf r.bs⟩))
    templates := put 11 (fun r => some (field r.bs 0 1, templateOf r.bs))
    tileData := (records bs 12).map (fun r => ⟨field r.bs 0 1, field r.bs 1 1, field r.bs 4 4, (r.bs.drop 8).take 32⟩) }

/-! ### The tables (R79, R80, R81 step 3) -/

/-- The key of a record (R79), fields in order; sections 4 and 5 have none. -/
def recordKey (sid : Nat) (r : List Byte) : List Nat :=
  match sid with
  | 1 => [field r 0 2]
  | 4 | 5 => []
  | 6 => [field r 0 2, field r 2 1]
  | 7 => [field r 0 2, field r 2 1]
  | 12 => [field r 0 1, field r 1 1, field r 4 4]
  | _ => [field r 0 1]

/-- Lexicographic order of keys. -/
def keyLt : List Nat → List Nat → Bool
  | a :: as, b :: bs => decide (a < b) || (a == b && keyLt as bs)
  | [], _ :: _ => true
  | _, [] => false

/-- Whether a record stands in the order of its section (R79, R80): ascending, without a duplicate but in section 6. -/
def orderOk (sid : Nat) (rs : List Record) (r : Record) : Bool :=
  match r.index with
  | 0 => true
  | i + 1 => match rs[i]? with
    | none => true
    | some p =>
      let a := recordKey sid p.bs
      let b := recordKey sid r.bs
      sid == 4 || sid == 5 || keyLt a b || (sid == 6 && a == b)

/-- Whether 20 bits are a destination that a table may hold (R35, R64). -/
def destFieldOk (els n : Nat) : Bool :=
  match decodeDest (BitVec.ofNat 20 n) with
  | some (.element i _ _) => decide (i.toNat < els)
  | some _ => true
  | none => false

/-- A tile or virt window's fields (R239). -/
def windowOk (r : List Byte) : Bool :=
  let w := windowOf r
  let sq := squareSize w.ty
  let b2 := field r 2 1
  decide (field r 0 1 < 64) && decide (field r 1 1 < 64) && decide (w.scope.toNat ≤ 4) && (Ty.ofCode (BitVec.ofNat 4 b2)).isSome &&
  zeroAt r 3 5 && zeroAt r 24 8 && decide (1 ≤ w.size) &&
  (if w.layout = 2 then decide (4 ≤ w.wlog) && decide (w.wlog ≤ 12) else w.wlog == 0) &&
  (if w.virt then decide (w.layout.toNat ≤ 1) && w.base % 256 == 0 && w.base % sq == 0 && decide (w.size ≤ 2 ^ 32) &&
      decide (w.base + w.size ≤ 2 ^ 52)
   else decide (w.layout.toNat ≤ 2) && decide (w.base < 2 ^ 22) && w.base % 512 == 0 && decide (w.size ≤ 2 ^ 20 - w.base % 2 ^ 20) &&
      w.size % (if w.layout = 0 then 4 else sq) == 0)

/-- What a record of a section must satisfy, with the reason of its refusal (R36, R38, R67, R79, R80, R136, R239, R256, R332). -/
def recordChecks (img : Image) (sid : Nat) (r : List Byte) : List (Bool × Nat) :=
  let bays := img.w * img.h
  let els := bays * 128
  match sid with
  | 2 => [(decide (field r 0 1 < bays) && zeroAt r 1 3 && zeroAt r 12 4 && field r 4 4 % 4096 == 0 && field r 8 4 % 4096 == 0, 0x06)]
  | 3 => [(windowOk r, 0x06)]
  | 4 =>
    let v := field r 0 4
    [(decide (v < 2 ^ 23) && v / 2 ^ 20 % 4 != 3 && v / 2 ^ 18 % 4 != 2 && destFieldOk els v, 0x1B)]
  | 5 =>
    let v := field r 0 8
    [(v / 2 % 32 == 0 && decide (v < 2 ^ 52) && (v % 2 == 0 || decide (v < 64)), 0x1C)]
  | 6 => [(decide (field r 2 1 < 4) && decide (field r 3 1 < 8) && decide (1 ≤ field r 4 1) && decide (field r 4 1 ≤ 4) && zeroAt r 5 3 &&
      zeroAt r 12 4, 0x06)]
  | 7 =>
    let ok := decide (field r 0 2 < els) && decide (field r 2 1 < 8) && zeroAt r 7 1
    if field r 3 1 = 0 then
      [(ok && decide (field r 4 1 < 64) && decide (field r 5 1 < 16) && zeroAt r 6 1, 0x06),
       (decide (field r 4 1 % 8 ≤ 4) && decide (field r 4 1 / 8 ≤ 4), 0x1D)]
    else [(ok && field r 3 1 == 1 && zeroAt r 4 2 && decide (field r 6 1 ≤ 1), 0x06)]
  | 8 => [(zeroAt r 1 1 && zeroAt r 6 2, 0x06),
      (decide (field r 0 1 < 16) && decide (1 ≤ field r 2 2) && decide (field r 2 2 ≤ 4096), 0x27)]
  | 9 => [(zeroAt r 5 3, 0x06),
      (decide (field r 0 1 < 64) && decide (2 ≤ field r 1 1) && decide (field r 1 1 ≤ 4) && decide (field r 2 3 < 2 ^ 18) &&
        destFieldOk els (field r 2 3), 0x25)]
  | 10 => [(decide (field r 2 1 < 2) && zeroAt r 3 5, 0x06),
      (decide (1 ≤ field r 1 1) && decide (field r 1 1 ≤ 32) &&
        (List.range 32).all (fun i =>
          let m := field r (8 + 2 * i) 2
          if field r 1 1 ≤ i then m == 0
          else if m < 2 ^ 15 then decide (m < 2 ^ 10) && decide (m % 256 < 240)
          else m % 2 ^ 15 / 64 == 0 && decide (m % 64 < bays)), 0x25)]
  | 11 =>
    let t := templateOf r
    let win (n : Nat) (virt : Bool) : Bool := match AMap.find img.windows n with | some w => w.virt == virt | none => false
    [(zeroAt r 40 24, 0x06),
     (decide (field r 0 1 < 16) && decide (field r 1 1 < 64) && decide (t.note.toNat ≤ 2) && win t.swin (t.dir.getLsbD 0) &&
        win t.dwin (t.dir.getLsbD 1) &&
        (!t.o || (match AMap.find img.windows t.swin with | some w => w.layout != 0 | none => false)) &&
        decide (field r 4 4 < 2 ^ 18) && destFieldOk els (field r 4 4) && decide (field r 8 4 < 2 ^ 20) &&
        (match t.cdest with | .element .. | .cont _ => true | _ => false) && destFieldOk els (field r 8 4) &&
        (decide (t.dbay < bays) || t.dbay == 255) && decide (field r 13 1 ≤ 4) && decide (1 ≤ t.nblk) && decide (t.nblk ≤ 4096) &&
        [t.sbase, t.sstep, t.sbstr, t.dbase, t.dstep, t.dbstr].all (fun v => v % 256 == 0), 0x26)]
  | 12 =>
    let off := field r 4 4
    [(zeroAt r 2 2 && zeroAt r 40 8, 0x06),
     (match AMap.find img.windows (field r 0 1) with
      | none => false
      | some w => !w.virt && (decide (field r 1 1 < bays) || field r 1 1 == 255) && off % 32 == 0 && decide (off < w.size) &&
          ((r.drop 8).take 32).drop (w.size - off) == List.replicate (32 - (w.size - off)) 0, 0x2C)]
  | _ => []

/-- The checks of a section's records, in order. -/
def sectionChecks (bs : List Byte) (img : Image) (sid : Nat) : List (Bool × CfgBad) :=
  let rs := records bs sid
  rs.flatMap (fun r =>
    (orderOk sid rs r, ⟨0x07, sid, r.index, r.off⟩) ::
      (recordChecks img sid r.bs).map (fun c => (c.1, ⟨c.2, sid, r.index, r.off⟩)))

/-- Bytes of the tile windows of an image in each bay (R79). -/
def Image.tileBytes (img : Image) : Nat := ((img.windows.filter (fun w => !w.2.virt)).map (fun w => w.2.size)).sum

/-- `MSTORE` of a bay, or the slip's when it gives one (R92). -/
def Image.storeOf (img : Image) (slipStore b : Nat) : Nat :=
  if slipStore ≠ 0 then slipStore * 16384 else (AMap.get img.bayMem (img.mstore, img.annexRes) b).1

/-- `ANNEXRES` of a bay. -/
def Image.annexOf (img : Image) (b : Nat) : Nat := (AMap.get img.bayMem (img.mstore, img.annexRes) b).2

/-- Bytes that a loan of an image takes of a bay's memory tiles. -/
def Image.bayBytes (img : Image) (slipStore b : Nat) : Nat := img.storeOf slipStore b + img.annexOf b + img.tileBytes

/-- The check of the per-bay memory reserves (R79, R92): 4 MiB a bay. -/
def reserveChecks (bs : List Byte) (img : Image) (slipStore : Nat) : List (Bool × CfgBad) :=
  (List.range (img.w * img.h)).map (fun b =>
    (decide (img.bayBytes slipStore b ≤ 2 ^ 22),
      if slipStore ≠ 0 ∧ img.annexOf b + img.tileBytes ≤ 2 ^ 22 then ⟨0x28, 0, 0xFFFF, 15⟩
      else match (records bs 2).find? (fun r => field r.bs 0 1 == b) with
        | some r => ⟨0x28, 2, r.index, r.off⟩
        | none => ⟨0x28, 0, 0, if 2 ^ 22 < img.mstore + img.tileBytes then 20 else 24⟩))

/-- The checks of the tables (R81 step 3). -/
def tableChecks (bs : List Byte) (img : Image) (slipStore : Nat) : List (Bool × CfgBad) :=
  ((List.range 11).flatMap (fun i => sectionChecks bs img (i + 2))) ++ reserveChecks bs img slipStore

end Sys2Proof.Machine
end

