-- ==== Sys2Proof/Machine/Check.lean ====
section
/-! DEFINITION. What the loader checks of the handler words (R56 to R74) and of the graph that they make (R48, R81 to R86, R134,
R192, R198, R248, R300, R397), and what it computes from it for each handler and loop. -/
namespace Sys2Proof.Machine

/-! ### Words (R81 step 4) -/

/-- Why a word of the opcode of `NOP` is not `NOP` (R71). -/
def nopReason (w : W64) : Nat :=
  if w.extractLsb' 54 2 != 0 then 0x11 else if w.extractLsb' 52 2 != 0 then 0x12 else if w.extractLsb' 48 4 != 0 then 0x13
  else if w.extractLsb' 44 4 != 0 then 0x14 else if w.extractLsb' 40 4 != 0 then 0x15 else 0x18

/-- Whether an instruction is privileged (R72). -/
def isPrivileged : Instr → Bool
  | .tlset .. | .evwatch .. | .resume .. | .scanout .. | .scanin .. => true
  | _ => false

/-- Whether the fields of a word that depend on its element's place are allowed there (R229, R232, R234). -/
def placeOk (index : Nat) : Instr → Bool
  | .mxcfg _ b =>
    b.imm.getLsbD 4 ||
      ((!b.imm.getLsbD 7 || index % 8 == 0) && (!b.imm.getLsbD 8 || index % 8 == 7) &&
       (!b.imm.getLsbD 9 || index % 32 / 8 == 0) && (!b.imm.getLsbD 10 || index % 32 / 8 == 3))
  | .mxscl h b => h.mode == .accord || (if b.shape.getLsbD 0 then index % 32 / 8 == 0 else index % 8 == 0)
  | .mxpass _ b => (immBits b.imm 0 10 == 0 || index % 8 == 0) && (immBits b.imm 10 10 == 0 || index % 32 / 8 == 0)
  | _ => true

/-- The reason why a word is refused at an element (R73), 0 when it is accepted. -/
def wordReason (priv : Bool) (index : Nat) (w : W64) : Nat :=
  if w = nopWord then 0
  else if w.extractLsb' 56 8 = 0xBD then nopReason w
  else match decodeHandler w with
    | .error e => e.code
    | .ok i => if isPrivileged i && !priv then 0x19 else if placeOk index i then 0 else 0x18

/-- The checks of the handler section (R79, R81 step 4). -/
def wordChecks (bs : List Byte) (img : Image) : List (Bool × CfgBad) :=
  let rs := records bs 1
  rs.flatMap (fun r =>
    let el := field r.bs 0 2
    [(orderOk 1 rs r, ⟨0x07, 1, el * 8, r.off⟩),
     (decide (el < img.w * img.h * 128) && decide (field r.bs 2 1 < 4) && zeroAt r.bs 3 5, ⟨0x06, 1, el * 8, r.off⟩)] ++
    (List.range 8).map (fun k =>
      let n := wordReason img.priv el (BitVec.ofNat 64 (field r.bs (8 + 8 * k) 8))
      (n == 0, ⟨n, 1, el * 8 + k, r.off + 8 + 8 * k⟩)))

/-! ### The nodes (R82) -/

/-- A node of the graph: a handler that is not `NOP`. -/
structure Node where
  key : Nat
  i : Instr
  v : Handler
deriving DecidableEq, Repr

/-- The nodes of an image in ascending `ENTRY`. -/
def Image.nodes (img : Image) : List Node :=
  img.handlers.filterMap (fun p => match (decodeHandler p.2).toOption with
    | some i => (handlerView i).map (fun v => ⟨p.1, i, v⟩)
    | none => none)

/-- The failure of a handler word (R75). -/
def badWord (bs : List Byte) (reason key : Nat) : CfgBad :=
  ⟨reason, 1, key, match (records bs 1).find? (fun r => field r.bs 0 2 == key / 8) with
    | some r => r.off + 8 + 8 * (key % 8)
    | none => 0⟩

/-- Whether a handler of an image reads a port (R60). -/
def Image.reads (img : Image) (key port : Nat) : Bool := (wordReads (AMap.get img.handlers nopWord key)).contains port

/-- Whether a continuation entry is defined. -/
def Image.contOk (img : Image) (n : Nat) : Bool := (AMap.find img.conts n).isSome

/-- Whether a destination of kind 00 names a port that its handler reads, within the region (R64). -/
def Image.elementOk (img : Image) : Dest → Bool
  | .element i p h => decide (i.toNat < img.w * img.h * 128) && img.reads (handlerKey i.toNat h.toNat) p.toNat
  | _ => true

/-- The largest `NSLOT` of the frame classes that an image declares; none when it declares none. DESIGN CHOICE (log 147): the spec does not say
whether the class 0 that the loader makes (R134) counts; here it does not, and a slot number is then accepted whatever it is. -/
def Image.maxSlots (img : Image) : Option Nat :=
  if img.classes = [] then none else some (img.classes.foldl (fun m c => max m c.2.nslot) 0)

/-- The reason why a destination of a word is refused (R35, R37, R64), 0 when it is accepted. -/
def Image.destReason (img : Image) (d : Dest) : Nat :=
  match d with
  | .element .. => if img.elementOk d then 0 else 0x16
  | .cont n => if n = 63 ∨ img.contOk n.toNat then 0 else 0x1B
  | .slot n => match img.maxSlots with | some m => if n.toNat < m then 0 else 0x16 | none => 0
  | _ => 0

/-- The element that faces one in the neighbouring compute tile of R216, one tile-column east or west, or one tile-row south
or north. -/
def facing (w h index : Nat) (east south : Int) : Option Nat :=
  let b := index / 128
  let tr : Int := (b / w : Nat) + south
  let tc : Int := (4 * (b % w) + index % 128 / 32 : Nat) + east
  if tr < 0 ∨ tc < 0 ∨ (h : Int) ≤ tr ∨ (4 * w : Nat) ≤ tc then none
  else
    let row := if south = 0 then index % 32 / 8 else if south = 1 then 0 else 3
    let col := if east = 0 then index % 8 else if east = 1 then 0 else 7
    some ((tr.toNat * w + tc.toNat / 4) * 128 + tc.toNat % 4 * 32 + row * 8 + col)

/-- The fields of the `MXCFG`s with `LEAVE` 0 of an element. -/
def mxcfgsAt (ns : List Node) (index : Nat) : List (BitVec 20) :=
  (ns.filter (fun n => n.key / 8 == index)).filterMap (fun n => match n.i with
    | .mxcfg _ b => if b.imm.getLsbD 4 then none else some b.imm
    | _ => none)

/-- Whether the edge bits of an `MXCFG` match those of the tiles beside it (R229): bit, the other's bit, steps east and south. -/
def edgesMatch (img : Image) (ns : List Node) (index : Nat) (imm : BitVec 20) : Bool :=
  ([(8, 7, 1, 0), (7, 8, -1, 0), (10, 9, 0, 1), (9, 10, 0, -1)] : List (Nat × Nat × Int × Int)).all (fun (p : Nat × Nat × Int × Int) =>
    !imm.getLsbD p.1 || (match facing img.w img.h index p.2.2.1 p.2.2.2 with
      | none => false
      | some other => (mxcfgsAt ns other).all (fun v => v.getLsbD p.2.1)))

/-- Handlers of an element that read a port (R68). -/
def Image.readers (img : Image) (index port : Nat) : List Nat := (List.range 8).filter (fun k => img.reads (handlerKey index k) port)

/-- The window, type and orientation that a memory handler needs (R214, R215, R235, R241, R280, R290, R292, R296), and its
attribute entry (R67): the reason of its refusal, or 0. -/
def Image.memReason (img : Image) (n : Node) (b : FM) : Nat :=
  match AMap.find img.windows b.window.toNat with
  | none => 0x1A
  | some w =>
    let op := n.v.op.toNat
    let typed := (0x80 ≤ op ∧ op ≤ 0x86) ∨ (0x88 ≤ op ∧ op ≤ 0x8F)
    if typed ∧ n.v.hdr.ty ≠ w.ty then 0x1A
    else if (op = 0x6A ∨ op = 0x6B) ∧ w.ty ≠ .i32 then 0x1A
    else if op = 0x76 ∧ ¬([Ty.i32, .n32, .f32, .b32].contains w.ty) then 0x1A
    else if (op = 0x90 ∨ op = 0x91) ∧ w.virt then 0x1A
    else if op = 0x92 ∧ ¬w.virt then 0x1A
    else if b.o ∧ w.layout = 0 ∧ op ≠ 0x96 then 0x18
    else if b.ax ≠ (AMap.find img.attrs n.key).isSome then 0x1D
    else if (op == 0x90 || op == 0x91 || op == 0x92) && (match b.d0 with
        | .cont c => c != 63 && (match AMap.find img.conts c.toNat with | some ⟨.element .., _⟩ => false | _ => true)
        | _ => false) then 0x16
    else 0

/-- What an entry asks of a word beside R64 (R68, R194, R202, R215, R229, R294, R351, R357): the reason of its refusal, or 0. -/
def Image.entryReason (img : Image) (ns : List Node) (n : Node) : Nat :=
  let arms (lo k : Nat) : Nat := if (List.range k).all (fun j => decide (lo + j < 64) && img.contOk (lo + j)) then 0 else 0x1B
  match n.i, n.v.body with
  | .steerx _ b, _ => arms (immBits b.imm 0 6) (immBits b.imm 6 3 + 1)
  | .sread _ b, .m m => match img.memReason n m, b.d0 with
    | 0, .cont c => arms c.toNat 4
    | r, _ => r
  | .callf h b, _ =>
    (match b.d0 with
      | .element i p k => if (List.range h.arity.toNat).all (fun j => img.reads (handlerKey i.toNat k.toNat) (p.toNat + j)) then
          (if immBits b.imm 6 4 = 0 ∨ (AMap.find img.classes (immBits b.imm 6 4)).isSome then
            (if img.contOk (immBits b.imm 0 6) then 0 else 0x1B) else 0x27) else 0x16
      | _ => 0x16)
  | .ccall _ b, _ =>
    if (match AMap.find img.exits (b.scode.toNat % 8) with | some e => e.ret | none => true) then 0x1C
    else arms (b.sarg.toNat % 64) (b.scode.toNat / 32 % 4 + 1)
  | .darm _ b, _ | .dfire _ b, _ | .dstat _ b, _ | .dcan _ b, _ =>
    if (AMap.find img.templates (b.scode.toNat % 16)).isSome then 0 else 0x26
  | .mxcfg _ b, _ => if b.imm.getLsbD 4 || edgesMatch img ns (n.key / 8) b.imm then 0 else 0x18
  | _, .m m => img.memReason n m
  | _, .x m => if m.dtel.toNat < img.w * img.h * 128 ∧ (img.readers m.dtel.toNat m.dtport.toNat).length = 1 then 0 else 0x16
  | _, _ => 0

/-- The cross-references (R81 step 5): the words in ascending `ENTRY`, then the tables. -/
def crossChecks (bs : List Byte) (img : Image) : List (Bool × CfgBad) :=
  let ns := img.nodes
  let at' (sid : Nat) (f : Record → Bool × Nat) : List (Bool × CfgBad) :=
    (records bs sid).map (fun r => ((f r).1, ⟨(f r).2, sid, r.index, r.off⟩))
  let trigOk (t : Nat) (r : Record) : Bool := match tableDest (field r.bs 4 4) with
    | .element i p k => p == 0 && (match (decodeHandler (AMap.get img.handlers nopWord (handlerKey i.toNat k.toNat))).toOption with
      | some (.dfire _ b) => b.scode.toNat % 16 == t
      | _ => false)
    | _ => false
  ns.flatMap (fun n =>
    let ds := n.v.body.dest0?.toList ++ n.v.body.dest1?.toList
    ds.map (fun d => (img.destReason d == 0, badWord bs (img.destReason d) n.key)) ++
      [(img.entryReason ns n == 0, badWord bs (img.entryReason ns n) n.key)]) ++
  (List.range 4).map (fun j => (decide (field bs (28 + 4 * j) 4 < 2 ^ 31) || img.elementOk (tableDest (field bs (28 + 4 * j) 4)),
    ⟨0x16, 0, 0, 28 + 4 * j⟩)) ++
  at' 4 (fun r => (field r.bs 0 4 / 2 ^ 22 % 2 == 0 || img.elementOk (tableDest (field r.bs 0 4)), 0x1B)) ++
  at' 6 (fun r => (decide (field r.bs 0 2 < img.w * img.h * 128) &&
    img.reads (handlerKey (field r.bs 0 2) (field r.bs 3 1)) (field r.bs 2 1), 0x16)) ++
  at' 7 (fun r =>
    let i := (decodeHandler (AMap.get img.handlers nopWord (handlerKey (field r.bs 0 2) (field r.bs 2 1)))).toOption
    (if field r.bs 3 1 = 0 then (match i.bind handlerView with | some ⟨_, _, .m b⟩ => b.ax | _ => false)
     else (match i with | some (.loopin ..) => true | _ => false), 0x1D)) ++
  at' 9 (fun r => (match tableDest (field r.bs 2 3) with
    | .element i _ k => (match (decodeHandler (AMap.get img.handlers nopWord (handlerKey i.toNat k.toNat))).toOption.bind handlerView with
      | some v => v.hdr.mode == .accord
      | none => false)
    | _ => false, 0x25)) ++
  at' 11 (fun r => (trigOk (field r.bs 0 1) r && img.destReason (tableDest (field r.bs 8 4)) == 0, 0x26))

/-! ### The graph (R82) -/

/-- The edges of a destination: the handler and the port whose queue it enters; index 63 may be any entry. -/
def Image.destEdges (img : Image) : Dest → List (Nat × Nat)
  | .element i p h => [(handlerKey i.toNat h.toNat, p.toNat)]
  | .cont n =>
    (if n = 63 then img.conts.map Prod.snd else (AMap.find img.conts n.toNat).toList).flatMap (fun e => match e.dest with
      | .element i p h => [(handlerKey i.toNat h.toNat, p.toNat)]
      | _ => [])
  | _ => []

/-- The edges of a node. -/
def Image.nodeEdges (img : Image) (n : Node) : List (Nat × Nat) :=
  let arms (lo k : Nat) := (List.range k).flatMap (fun j => img.destEdges (.cont (BitVec.ofNat 6 (lo + j))))
  match n.i with
  | .steerx _ b => arms (immBits b.imm 0 6) (immBits b.imm 6 3 + 1)
  | .sread _ b => (match b.d0 with | .cont c => arms c.toNat 4 | _ => [])
  | _ => (n.v.body.dest0?.toList ++ n.v.body.dest1?.toList).flatMap img.destEdges

/-- The graph: nodes, and the edges out of each and into each with the port entered. -/
structure Graph where
  nodes : List Node
  succ : AMap (List (Nat × Nat))
  pred : AMap (List (Nat × Nat))
deriving DecidableEq, Repr

/-- The graph of an image. -/
def Image.graph (img : Image) : Graph :=
  let ns := img.nodes
  let succ := ns.foldl (fun m n => AMap.put m n.key (img.nodeEdges n)) ([] : AMap (List (Nat × Nat)))
  let pred := ns.foldl (fun m n => (AMap.get succ [] n.key).foldl (fun m e => AMap.upd m [] e.1 (· ++ [(n.key, e.2)])) m)
    ([] : AMap (List (Nat × Nat)))
  ⟨ns, succ, pred⟩

/-- Edges out of a node, and into it. -/
def Graph.out (g : Graph) (k : Nat) : List (Nat × Nat) := AMap.get g.succ [] k
@[inherit_doc Graph.out] def Graph.into (g : Graph) (k : Nat) : List (Nat × Nat) := AMap.get g.pred [] k

/-- The node of a key. -/
def Graph.node (g : Graph) (k : Nat) : Option Node := g.nodes.find? (fun n => n.key == k)

/-- Opcode of a node; 0xFF where there is none. -/
def Graph.op (g : Graph) (k : Nat) : Nat := match g.node k with | some n => n.v.op.toNat | none => 0xFF

/-- `bound` of a `LOOPIN` or a `BOUND`; 0 for another node. -/
def Graph.bound (g : Graph) (k : Nat) : Nat :=
  match g.node k with
  | some ⟨_, .loopin _ b, _⟩ | some ⟨_, .bound _ b, _⟩ => b.imm.toNat
  | _ => 0

/-- Distances in edges by breadth-first search: the nodes still to be expanded, and those reached. The start is reached only when a
route leads back to it. -/
def bfs (next : Nat → List Nat) : Nat → List (Nat × Nat) → AMap Nat → AMap Nat
  | 0, _, seen => seen
  | _, [], seen => seen
  | n + 1, (x, d) :: rest, seen =>
    let new := ((next x).eraseDups).filter (fun y => (AMap.find seen y).isNone)
    bfs next n (rest ++ new.map (fun y => (y, d + 1))) (new.foldl (fun m y => AMap.put m y (d + 1)) seen)

/-- The nodes reached from one by one edge or more, with the fewest edges. -/
def Graph.search (g : Graph) (next : Nat → List Nat) (x : Nat) : AMap Nat := bfs next (g.nodes.length + 2) [(x, 0)] []

/-- Whether a route leads from one node to another. -/
def Graph.leads (g : Graph) (x y : Nat) : Bool := (AMap.find (g.search (fun k => (g.out k).map Prod.fst) x) y).isSome

/-! ### Depths (R48, R83, R300) -/

/-- The change of depth along an edge: one deeper out of a `LOOPIN`, one shallower out of a `LOOPOUT`; port `b` of a `LOOPIN`
stands one deeper than the node; the handler that a `CALLF` enters stands at the depth of the `CALLF`. -/
def Graph.shift (g : Graph) (u v port : Nat) : Int :=
  if g.op u = 0x5A then 0
  else (if g.op u = 0x56 then 1 else if g.op u = 0x58 then -1 else 0) - (if g.op v = 0x56 ∧ port = 1 then 1 else 0)

/-- Depths of the part of the graph joined to some nodes, from those that have one. -/
def Graph.spread (g : Graph) : Nat → List Nat → AMap Int → AMap Int
  | 0, _, m => m
  | _, [], m => m
  | n + 1, x :: rest, m =>
    let d := AMap.get m 0 x
    let near := ((g.out x).map (fun e => (e.1, d + g.shift x e.1 e.2)) ++ (g.into x).map (fun e => (e.1, d - g.shift e.1 x e.2)))
    let new := near.foldl (fun (acc : List (Nat × Int)) y => if (AMap.find m y.1).isSome || acc.any (fun z => z.1 == y.1) then acc else acc ++ [y]) []
    Graph.spread g n (rest ++ new.map Prod.fst) (new.foldl (fun m y => AMap.put m y.1 y.2) m)

/-- The depth of every handler: within each joined part, the least is 0 (R300). -/
def Graph.depths (g : Graph) : AMap Int :=
  g.nodes.foldl (fun m n =>
    if (AMap.find m n.key).isSome then m
    else
      let part := g.spread (g.nodes.length + 2) [n.key] [(n.key, 0)]
      let low := part.foldl (fun a p => min a p.2) 0
      part.foldl (fun m p => AMap.put m p.1 (p.2 - low)) m) []

/-- Whether every edge into a node agrees with its depth (R48). -/
def Graph.depthsAgree (g : Graph) (m : AMap Int) (k : Nat) : Bool :=
  (g.into k).all (fun e => AMap.get m 0 k == AMap.get m 0 e.1 + g.shift e.1 k e.2)

/-- The strengths that an attribute entry may carry at a depth (R281). -/
def strengthsOf (op : Nat) (deep : Bool) : List Nat :=
  if [0x80, 0x82, 0x84, 0x92, 0x6B, 0x76].contains op then [0, 1]
  else if [0x81, 0x83, 0x85, 0x6A].contains op then [0, 2]
  else if op = 0x86 ∨ op = 0x96 then [0]
  else if op = 0x90 ∨ op = 0x91 then (if deep then [0] else [0, 2])
  else (if deep then [0, 1] else [0, 1, 2, 3, 4])

/-- Why a handler may not stand at its depth (R48, R62, R192, R199, R200, R281, R287); 0 when it may. -/
def Graph.depthReason (g : Graph) (img : Image) (m : AMap Int) (n : Node) : Nat :=
  let d := AMap.get m 0 n.key
  if !g.depthsAgree m n.key then 0x20
  else if 6 < d ∨ (g.op n.key = 0x56 ∧ 5 < d) then 0x20
  else if d = 0 ∧ [0x57, 0x58, 0x59, 0x65].contains (g.op n.key) then 0x20
  else if d = 0 ∧ (n.v.hdr.tagop = .next ∨ n.v.hdr.tagop = .zeroIter) then 0x13
  else if d != 0 && (match n.i with | .fence _ b => b.scode.toNat / 8 != 1 | _ => false) then 0x18
  else match AMap.find img.attrs n.key with
    | some a => if (strengthsOf (g.op n.key) (d ≠ 0)).contains a.strength.toNat then 0 else 0x1D
    | none => 0

/-! ### Loops (R198, R397) -/

/-- A loop as the loader finds it: identifier (lowest key of its `LOOPIN`s plus one), `LOOPIN`s, depth, and the nodes of its
back-edge cycles. -/
structure FoundLoop where
  id : Nat
  heads : List Nat
  depth : Int
  body : List Nat
deriving DecidableEq, Repr

/-- The nodes of the cycles through a `LOOPIN`'s back edge: those from which it is reached without passing the `LOOPIN` before. -/
def Graph.body (g : Graph) (x : Nat) : List Nat :=
  let fwd := g.search (fun k => (g.out k).map Prod.fst) x
  let srcs := ((g.into x).filter (fun e => e.2 == 1)).map Prod.fst
  let back := bfs (fun k => if k = x then [] else (g.into k).map Prod.fst) (g.nodes.length + 2) (srcs.map (fun u => (u, 0))) (srcs.foldl (fun m u => AMap.put m u 0) [])
  (fwd.filter (fun p => (AMap.find back p.1).isSome)).map Prod.fst

/-- A `LOOPIN` joined to the loops of its depth with which its cycles share a node. -/
def joinLoop (l : FoundLoop) (ls : List FoundLoop) : List FoundLoop :=
  let meet (o : FoundLoop) : Bool := o.depth == l.depth && o.body.any (fun k => l.body.contains k)
  let m := ls.filter meet
  let heads := m.flatMap FoundLoop.heads ++ l.heads
  ls.filter (fun o => !meet o) ++ [⟨(heads.foldl min (heads.headD 0)) + 1, heads, l.depth, (m.flatMap FoundLoop.body ++ l.body).eraseDups⟩]

/-- The loops of an image. -/
def Graph.loops (g : Graph) (m : AMap Int) : List FoundLoop :=
  (g.nodes.filter (fun n => n.v.op == 0x56)).foldl (fun ls n => joinLoop ⟨n.key + 1, [n.key], AMap.get m 0 n.key, g.body n.key⟩ ls) []

/-- The nodes reached from some nodes along edges that stay deeper than a depth, with the fewest edges. -/
def Graph.within (g : Graph) (m : AMap Int) (k : Int) (xs : List Nat) : AMap Nat :=
  bfs (fun x => ((g.out x).map Prod.fst).filter (fun y => k < AMap.get m 0 y)) (g.nodes.length * 2 + 2) (xs.map (fun x => (x, 0))) []

/-- The nearest of some loops going back along edges from a node: fewest edges to a node of the loop's cycles. -/
def Graph.nearest (g : Graph) (x : Nat) (ls : List FoundLoop) : List FoundLoop :=
  let back := g.search (fun k => (g.into k).map Prod.fst) x
  let dist (l : FoundLoop) : Nat := l.body.foldl (fun d k => match AMap.find back k with | some n => min d n | none => d) 1000000
  let best := ls.foldl (fun d l => min d (dist l)) 1000000
  ls.filter (fun l => dist l == best)

/-- The loops at depth `k` that enclose a node which their outputs reach (R397): the one whose cycles hold it; else the loops that
reach it, those with a back edge before those without, and of several the nearest. -/
def Graph.enclosers (g : Graph) (m : AMap Int) (ls : List FoundLoop) (x : Nat) (k : Int) : List FoundLoop :=
  let here := ls.filter (fun l => l.depth == k)
  match here.filter (fun l => l.body.contains x && !l.heads.contains x) with
  | l :: _ => [l]
  | [] =>
    let reach := here.filter (fun l => (AMap.find (g.within m k l.heads) x).isSome)
    let real := reach.filter (fun l => l.body != [])
    if real = [] then reach else if real.length = 1 then real else g.nearest x real

/-- The loop at depth `k` of a node that no `LOOPIN` reaches: that of the nearest handler that its edges reach (R397); a back edge
leads into the loop itself. -/
def Graph.loopAhead (g : Graph) (m : AMap Int) (ls : List FoundLoop) (k : Int) : Nat → List Nat → List Nat → Option FoundLoop
  | 0, _, _ => none
  | _, [], _ => none
  | n + 1, x :: rest, seen =>
    let own := (g.out x).filterMap (fun e => if e.2 = 1 ∧ AMap.get m 0 e.1 = k then ls.find? (fun l => l.heads.contains e.1) else none)
    let next := ((g.out x).filter (fun e => decide (k < AMap.get m 0 e.1))).map Prod.fst
    match own ++ next.flatMap (fun y => g.enclosers m ls y k) with
    | l :: _ => some l
    | [] =>
      let new := next.eraseDups.filter (fun y => !seen.contains y)
      Graph.loopAhead g m ls k n (rest ++ new) (seen ++ new)

/-- The loops around a handler at each depth below its own, outermost first; `none` when two loops enclose it at one depth. -/
def Graph.loopsOf (g : Graph) (m : AMap Int) (ls : List FoundLoop) (x : Nat) : Option (List Nat) :=
  (List.range (AMap.get m 0 x).toNat).foldl (fun acc (k : Nat) => match acc with
    | none => none
    | some ids => match g.enclosers m ls x k with
      | [l] => some (ids ++ [l.id])
      | [] => some (ids ++ [match g.loopAhead m ls k (g.nodes.length + 2) [x] [x] with | some l => l.id | none => 0])
      | _ => none) (some [])

/-! ### What the loader computes (R134, R192, R250) -/

/-- The smallest power of two that is at least a number up to 64. -/
def pow2Above (n : Nat) : Nat := ([1, 2, 4, 8, 16, 32, 64].find? (fun p => decide (n ≤ p))).getD 128

/-- The nodes joined to one by edges other than those of a `CALLF`. -/
def Graph.joined (g : Graph) (x : Nat) : List Nat :=
  let near (k : Nat) : List Nat := (if g.op k = 0x5A then [] else (g.out k).map Prod.fst) ++
    ((g.into k).map Prod.fst).filter (fun j => g.op j != 0x5A)
  x :: (g.search near x).map Prod.fst

/-- The depths that the handlers of callees inherit: those of the deepest `CALLF` that enters the callee (R300). -/
def Graph.inherits (g : Graph) (m : AMap Int) : AMap Nat :=
  (g.nodes.filter (fun n => g.op n.key == 0x5A)).foldl (fun acc n => (g.out n.key).foldl (fun acc e =>
    (g.joined e.1).foldl (fun acc k => AMap.upd acc 0 k (max (AMap.get m 0 n.key).toNat)) acc) acc) []

/-- Slots of an operand set of a handler (R134, R209). -/
def slotsPer (n : Node) : Nat :=
  if n.v.hdr.mode ≠ .frame then 0 else if n.v.op = 0x65 then 1 else n.v.hdr.arity.toNat - 1

/-- One above the highest slot that a destination of the image names (R64, R134); 8 at least with a `CFWDX` (R212). -/
def Image.firstSlot (img : Image) (g : Graph) : Nat :=
  let ds := g.nodes.flatMap (fun n => n.v.body.dest0?.toList ++ n.v.body.dest1?.toList) ++ img.conts.map (fun c => c.2.dest)
  ds.foldl (fun m d => match d with | .slot n => max m (n.toNat + 1) | _ => m) (if g.nodes.any (fun n => n.v.op == 0x69) then 8 else 0)

/-- The loops by identifier. -/
def loopTable (g : Graph) (img : Image) (ls : List FoundLoop) (info : AMap HInfo) : AMap LoopInfo :=
  ls.foldl (fun t l => AMap.put t l.id
    { bound := g.bound (l.id - 1)
      depth := l.depth.toNat
      inherited := ((l.heads.map (fun k => (AMap.get info ⟨0, [], 0, 0, 0, 0, []⟩ k).inherited)).max?).getD 0
      ordered := l.heads.any (fun k => img.orderedLoops.contains k)
      points := (g.nodes.filter (fun n => (n.v.op == 0x53 || n.v.op == 0x65) &&
        (let i := AMap.get info ⟨0, [], 0, 0, 0, 0, []⟩ n.key; i.depth != 0 && i.loops.getD (i.depth - 1) 0 == l.id))).map Node.key }) []

/-- What the loader knows of each handler, slots assigned in ascending `ENTRY` (R134), and the next free slot. DESIGN CHOICE (log 146): a
frame-mode handler of `ARITY` 01, which takes no slot, has the next free slot number for the test of `NSLOT` in R135. -/
def handlerTable (g : Graph) (m : AMap Int) (ls : List FoundLoop) (first : Nat) : AMap HInfo × Nat :=
  let given := g.inherits m
  g.nodes.foldl (fun (acc : AMap HInfo × Nat) n =>
    let loops := (g.loopsOf m ls n.key).getD []
    let psz := loops.map (fun id => pow2Above (g.bound (id - 1)))
    let nh := slotsPer n
    let own := match ls.find? (fun l => l.heads.contains n.key) with | some l => l.id | none => 0
    (AMap.put acc.1 n.key ⟨(AMap.get m 0 n.key).toNat, loops, min (AMap.get given 0 n.key) loops.length, own, acc.2, nh, psz⟩, acc.2 + nh * psz.foldl (· * ·) 1)) ([], first)

/-- The image with what the loader computes (R48, R134, R198, R397), and its first failure at step 6 of R81. -/
def Image.finish (img : Image) (bs : List Byte) : Option CfgBad × Image :=
  let g := img.graph
  let m := g.depths
  let ls := g.loops m
  let (info, top) := handlerTable g m ls (img.firstSlot g)
  let table := loopTable g img ls info
  let classes := if (AMap.find img.classes 0).isNone then AMap.put img.classes 0 ⟨top, 0⟩ else img.classes
  let cfwdx := g.nodes.any (fun n => n.v.op == 0x69)
  let classBad (c : Nat) : CfgBad := match (records bs 8).find? (fun r => field r.bs 0 1 == c) with
    | some r => ⟨0x27, 8, r.index, r.off⟩
    | none => ⟨0x27, 8, 0, 0⟩
  let perNode := g.nodes.map (fun n => (g.depthReason img m n == 0, badWord bs (g.depthReason img m n) n.key))
  let perLoop := ls.flatMap (fun l =>
    l.heads.map (fun k => (g.bound k == g.bound (l.id - 1), badWord bs 0x2A k)) ++
    [(decide (l.heads.length ≤ 8), badWord bs 0x2B ((sortBy (fun a b => decide (a ≤ b)) l.heads).getD 8 0))])
  let enclosed := g.nodes.map (fun n => ((g.loopsOf m ls n.key).isSome, badWord bs 0x20 n.key))
  let points := table.map (fun (p : Nat × LoopInfo) => (decide (p.2.points.length ≤ 4), badWord bs 0x29 (p.2.points.getD 4 0)))
  let perClass := classes.map (fun (p : Nat × FrameClass) =>
    ((p.1 != 0 || decide (top ≤ p.2.nslot)) && (!cfwdx || decide (8 ≤ p.2.nslot)), classBad p.1))
  (firstBad (perNode ++ perLoop ++ enclosed ++ points ++ perClass), { img with classes := classes, hinfo := info, loops := table })

/-! ### Waves (R248, R81 step 7) -/

/-- Words that a store of a wave takes of the commit buffer (R248). -/
def storeWords (op : Nat) : Nat := if op = 0x81 then 1 else if op = 0x83 then 8 else if op = 0x85 then 64 else if op = 0x6A then 4 else 0

/-- The memory handlers of a graph with their fields. -/
def Graph.mems (g : Graph) : List (Node × FM) :=
  g.nodes.filterMap (fun n => match n.v.body with | .m b => some (n, b) | _ => none)

/-- Whether a route between a handler with `SUCCD` 0 and one of its class with `PREDD` 0 passes no other handler of the class. -/
def Graph.shortcut (g : Graph) (cls : List (Node × FM)) (x : Nat) : Bool :=
  let isMem (k : Nat) : Bool := cls.any (fun y => y.1.key == k)
  let seen := g.search (fun k => if k ≠ x ∧ isMem k then [] else (g.out k).map Prod.fst) x
  cls.any (fun y => y.1.key != x && y.2.predd == 0 && (AMap.find seen y.1.key).isSome)

/-- The checks of the triples of one wave class. -/
def Graph.classChecks (g : Graph) (bs : List Byte) (cls : List (Node × FM)) : List (Bool × CfgBad) :=
  let owner (o : Nat) : Option FM := (cls.find? (fun y => y.2.own.toNat == o)).map Prod.snd
  cls.map (fun x => (decide (1 ≤ x.2.own.toNat) && decide (x.2.own.toNat ≤ 62) &&
      (cls.find? (fun y => y.2.own == x.2.own)).map (fun y => y.1.key) == some x.1.key, badWord bs 0x1E x.1.key)) ++
  cls.flatMap (fun x =>
    let o := x.2.own.toNat
    let p := x.2.predd.toNat
    let q := x.2.succd.toNat
    let bad := badWord bs 0x1E x.1.key
    [(!(1 ≤ p && p ≤ 6) || (decide (p ≤ o) && (match owner (o - p) with | some y => y.succd == 0 || y.succd.toNat == p | none => false)), bad),
     (!(1 ≤ q && q ≤ 6) || (match owner (o + q) with | some y => y.predd == 0 || y.predd.toNat == q | none => false), bad),
     (q != 0 || !g.shortcut cls x.1.key, bad),
     (q == 7 || cls.any (fun y => y.1.key != x.1.key && g.leads x.1.key y.1.key), bad)]) ++
  (List.range cls.length).map (fun i => (decide (((cls.take (i + 1)).map (fun x => storeWords x.1.v.op.toNat)).sum ≤ 512),
    badWord bs 0x1E (match cls[i]? with | some x => x.1.key | none => 0)))

/-- The checks of every wave class: the handlers at depth 0, and those of each loop (R246). -/
def waveChecks (bs : List Byte) (img : Image) (g : Graph) : List (Bool × CfgBad) :=
  let cls (x : Node × FM) : Nat := (hinfoOf img x.1.key).loops.getLast?.getD 0
  ((g.mems.map cls).eraseDups).flatMap (fun c => g.classChecks bs (g.mems.filter (fun x => cls x == c)))

/-! ### Priming, capacity, ordered merges (R84 to R86) -/

/-- Tokens that the prime list puts on a queue (R11). -/
def Image.primed (img : Image) (el port : Nat) : Nat := ((img.primes.filter (fun p => p.el == el && p.port == port)).map PrimeRec.count).sum

/-- Tokens primed on a queue: those of the prime list, and one of each `PRIME` whose destination it is (R84, R85, R201). -/
def Image.primedOn (img : Image) (g : Graph) (el port : Nat) : Nat :=
  img.primed el port +
    (g.nodes.filter (fun n => n.v.op == 0x55 && (g.out n.key).any (fun e => e.1 / 8 == el && e.2 == port))).length

/-- Whether the entry port of a `LOOPIN` has a source of tokens (R12): a token primed on it is one for its handler. -/
def Image.entryFed (img : Image) (g : Graph) (k : Nat) : Bool :=
  img.primes.any (fun p => p.el == k / 8 && p.port == 0 && p.hnd == k % 8) || (g.into k).any (fun e => e.2 == 0) ||
    img.entries.any (fun d => match d with | .element i p h => p == 0 && handlerKey i.toNat h.toNat == k | _ => false)

/-- The edges that no prime makes safe (R84). -/
def Image.unprimed (img : Image) (g : Graph) (k : Nat) : List Nat :=
  ((g.out k).filter (fun e => img.primedOn g (e.1 / 8) e.2 == 0 && !(g.op e.1 == 0x56 && e.2 == 1 && img.entryFed g e.1))).map Prod.fst

/-- The checks of priming (R11, R84, R81 step 8). -/
def primeChecks (bs : List Byte) (img : Image) (g : Graph) : List (Bool × CfgBad) :=
  (records bs 6).map (fun r =>
    (decide ((((img.primes.take (r.index + 1)).filter (fun p => p.el == field r.bs 0 2 && p.port == field r.bs 2 1)).map PrimeRec.count).sum ≤ 4),
      ⟨0x24, 6, r.index, r.off⟩)) ++
  g.nodes.map (fun n => ((AMap.find (g.search (img.unprimed g) n.key) n.key).isNone, badWord bs 0x21 n.key))

/-- Whether a node carries the largest bound of a cycle through it whose capacity is too small (R85): of equal bounds the lower
`ENTRY` is named. -/
def Graph.overBound (g : Graph) (k : Nat) : Bool :=
  let b := g.bound k
  let less (y : Nat) : Bool := decide (g.bound y < b) || (g.bound y == b && decide (k ≤ y))
  b != 0 && (match AMap.find (g.search (fun x => ((g.out x).map Prod.fst).filter less) k) k with
    | some n => decide (4 * n - 1 < b)
    | none => false)

/-- The tokens primed on the queue of an edge less its capacity of 4 (R82, R85). -/
def Image.surplus (img : Image) (g : Graph) (e : Nat × Nat) : Int := (img.primedOn g (e.1 / 8) e.2 : Int) - 4

/-- Edges out of a node to nodes without a bound, with their surplus. -/
def Image.freeEdges (img : Image) (g : Graph) (x : Nat) : List (Nat × Int) :=
  ((g.out x).filter (fun e => g.bound e.1 == 0)).map (fun e => (e.1, img.surplus g e))

/-- A route to a node with a surplus, unless a better one is known. -/
def betterRoute (m : AMap Int) (y : Nat) (w : Int) : AMap Int :=
  match AMap.find m y with
  | some v => if v < w then AMap.put m y w else m
  | none => AMap.put m y w

/-- The greatest surplus of the routes to each node, made longer by an edge some times. -/
def Image.bestRoutes (img : Image) (g : Graph) : Nat → AMap Int → AMap Int
  | 0, m => m
  | n + 1, m => Image.bestRoutes img g n
    (m.foldl (fun m p => (img.freeEdges g p.1).foldl (fun m e => betterRoute m e.1 (p.2 + e.2)) m) m)

/-- Whether a node lies on a way round without a bound whose primed tokens fill its capacity (R85): then a cycle on it is too full. -/
def Image.overPrimed (img : Image) (g : Graph) (k : Nat) : Bool :=
  g.bound k == 0 && g.nodes.any (fun n => (img.freeEdges g n.key).any (fun e => decide (0 ≤ e.2))) &&
    (match AMap.find (img.bestRoutes g g.nodes.length ((img.freeEdges g k).foldl (fun m e => betterRoute m e.1 e.2) [])) k with
      | some w => decide (0 ≤ w)
      | none => false)

/-- The checks of bounds against capacity (R85, R81 step 9). -/
def boundChecks (bs : List Byte) (img : Image) (g : Graph) : List (Bool × CfgBad) :=
  g.nodes.map (fun n => (!g.overBound n.key && !img.overPrimed g n.key, badWord bs 0x22 n.key))

/-- The innermost bound whose cycles contain a node (R86): the deepest, and of those the smallest. -/
def Graph.innerBound (g : Graph) (m : AMap Int) (k : Nat) : Option Nat :=
  let cs := g.nodes.filterMap (fun n =>
    if n.v.op = 0x56 ∧ (g.body n.key).contains k then some (AMap.get m 0 n.key + 1, g.bound n.key)
    else if n.v.op = 0x59 ∧ g.leads n.key k ∧ g.leads k n.key then some (AMap.get m 0 n.key, g.bound n.key)
    else none)
  (cs.foldl (fun (best : Option (Int × Nat)) c => match best with
    | none => some c
    | some b => if b.1 < c.1 ∨ (b.1 = c.1 ∧ c.2 < b.2) then some c else some b) none).map Prod.snd

/-- The capacities of the arms of a `MERGEO` that have a route (R86). A route may begin at the `MERGEO` itself, and does not pass it. -/
def Graph.armCapacities (g : Graph) (k : Nat) : List Nat :=
  let arm (p : Nat) : AMap Nat :=
    let srcs := ((g.into k).filter (fun e => e.2 == p)).map Prod.fst
    bfs (fun x => if x = k then [] else (g.into x).map Prod.fst) (g.nodes.length + 2) (srcs.map (fun u => (u, 1)))
      (srcs.foldl (fun m u => AMap.put m u 1) [])
  let a := arm 0
  let b := arm 1
  let shared := a.filterMap (fun (p : Nat × Nat) => (AMap.find b p.1).map (fun n => (p.2 + n, p.2, n)))
  match shared.foldl (fun (best : Option (Nat × Nat × Nat)) c => match best with
      | none => some c
      | some x => if c.1 < x.1 then some c else some x) none with
  | some (_, x, y) => [4 * x, 4 * y]
  | none => [a, b].filterMap (fun arm =>
      let ends := (arm.filter (fun (p : Nat × Nat) => g.op p.1 == 0x56 || g.op p.1 == 0x59 || (g.into p.1) == [])).map Prod.snd
      match ends with
      | [] => none
      | d :: ds => some (4 * ds.foldl min d))

/-- The checks of ordered merges (R86, R81 step 10). -/
def mergeChecks (bs : List Byte) (g : Graph) (m : AMap Int) : List (Bool × CfgBad) :=
  (g.nodes.filter (fun n => n.v.op == 0x53)).map (fun n =>
    (match g.innerBound m n.key with
      | none => true
      | some b => (g.armCapacities n.key).all (fun c => decide (b ≤ c)), badWord bs 0x23 n.key))

/-! ### The whole (R81) -/

/-- An image of bytes checked in the order of R81: the image, or its first failure. -/
def checkImage (bs : List Byte) (space addr : Nat) (a : Asker) : Except CfgBad Image :=
  match firstBad (headerChecks bs a ++ imageChecks bs a) with
  | some e => .error e
  | none => match firstBad (directoryChecks bs) with
    | some e => .error e
    | none =>
      let img := readImage bs space addr
      match firstBad (tableChecks bs img a.mstore ++ wordChecks bs img) with
      | some e => .error e
      | none => match firstBad (crossChecks bs img) with
        | some e => .error e
        | none => match img.finish bs with
          | (some e, _) => .error e
          | (none, img) =>
            let g := img.graph
            match firstBad (waveChecks bs img g ++ primeChecks bs img g ++ boundChecks bs img g ++ mergeChecks bs g g.depths) with
            | some e => .error e
            | none => .ok img

/-- A slip's arguments against an image's entry ports (R94): no more than four tokens on a queue, and an entry to take them. -/
def argsOk (img : Image) (args : List W32) : Bool :=
  args == [] || (img.entries != [] &&
    (List.range img.entries.length).all (fun j => match img.entries[j]? with
      | some (.element i p _) =>
        let same := (List.range args.length).filter (fun k => match img.entries[k % img.entries.length]? with
          | some (.element i' p' _) => i == i' && p == p'
          | _ => false)
        decide (same.length + img.primed i.toNat p.toNat ≤ 4)
      | _ => true))

end Sys2Proof.Machine
end

