-- ==== Sys2Proof/Machine/Timeline.lean ====
section
/-! DEFINITION. The launch and timeline instructions (R99 to R108), waits that are met, launches that are accepted, and watches. -/
namespace Sys2Proof.Machine

/-- The timeline field of a word (R103). -/
def tlOf (b : FY) : Nat := b.scode.toNat % 16 * 4096 + b.sarg.toNat

/-- The `HI` bit of a word (R103). -/
def hiOf (b : FY) : Bool := b.scode.getLsbD 4

/-- The half of a 64-bit value that a word asks for. -/
def halfOf (b : FY) (v : Nat) : W32 := BitVec.ofNat 32 (if hiOf b then v / 2 ^ 32 else v)

/-- `index(x)` of R104. -/
def tlIndex (b : FY) (x : W32) : Option Nat := if 65535 - tlOf b < x.toNat then none else some (tlOf b + x.toNat)

/-- Cycles of a timeline operation of the handler in focus (R108). -/
def focusCycles (s : State) : Nat := match fireCtx? s with | some f => timelineCycles f.l.die | none => 80

/-- Poison that raises ILLEGAL_HANDLER, at a word's destination. -/
def illegalEff (f : FireCtx) (g : Got) (d : Dest) : Eff := { Eff.none with outs := [Out.std f g d 0], bad := some (fILLEGAL, 0) }

/-- Outputs that come as much later as their operation waits for its turn at the timeline unit (R100). -/
def Eff.later (e : Eff) (d : Nat) : Eff := { e with outs := e.outs.map (fun o => { o with delay := d }) }

/-- `TLINC` (R101, R104): a release at device scope; operations are ordered as their firings take place, and one on a timeline takes its
turn at the unit (R100). None is made while the unit has stopped (R30). -/
def execTlinc (h : Hdr) (b : FY) (s : State) : Host.Outcome State Fault Refusal :=
  fire (shapeY h b (focusCycles s)) (fun f g =>
    if !g.live then some { Eff.none with outs := deadOuts f g [b.d0] }
    else match tlIndex b (g.op 1) with
      | none => some (illegalEff f g b.d0)
      | some t =>
        if !f.releaseReady g || s.stopped .timelines then none
        else some ((valueEff f g [(b.d0, BitVec.ofNat 32 (min (s.timeline t + (g.op 0).toNat) (2 ^ 64 - 1)))] Flag.none).later (s.tlTurn t)))
    (fun f g s => if g.live then (match tlIndex b (g.op 1) with
      | some t => s.incTimeline t (g.op 0).toNat (f.report g fTLSAT 0)
      | none => s) else s) s

/-- `TLRD` (R104): an acquire. -/
def execTlrd (h : Hdr) (b : FY) (s : State) : Host.Outcome State Fault Refusal :=
  fire (shapeY h b (focusCycles s)) (fun f g =>
    if !g.live then some { Eff.none with outs := deadOuts f g [b.d0] }
    else match tlIndex b (g.op 0) with
      | none => some (illegalEff f g b.d0)
      | some t => if s.stopped .timelines then none else some ((valueEff f g [(b.d0, halfOf b (s.timeline t))] Flag.none).later (s.tlTurn t)))
    (fun _ g s => if g.live then (match tlIndex b (g.op 0) with
      | some t => s.tlTake t
      | none => s) else s) s

/-- `TLSET` (R102, R104). -/
def execTlset (h : Hdr) (b : FY) (s : State) : Host.Outcome State Fault Refusal :=
  fire (shapeY h b (focusCycles s)) (fun f g =>
    if g.live && (!f.releaseReady g || s.stopped .timelines) then none
    else some ((valueEff f g [(b.d0, g.op 0)] Flag.none).later (if g.live then s.tlTurn (tlOf b) else 0)))
    (fun _ g s => if g.live then s.setTimeline (tlOf b) (g.op 1 ++ g.op 0) else s) s

/-- A late output counted from its firing (R382). -/
def State.bornFlit (s : State) (id : Nat) : Option Flit → State
  | some x => (match x.emit.entry with | some q => s.born id q.tag x.iters | none => s)
  | none => s

/-- `TLWAIT` (R104, R106): it takes a wait entry of its region and is compared at once. -/
def execTlwait (h : Hdr) (b : FY) (s : State) : Host.Outcome State Fault Refusal :=
  fire (shapeY h b 1) (fun f g => if g.live && (decide (64 ≤ f.l.waits) || s.stopped .timelines) then none else some (lateEff f g h b.d0))
    (fun f g s =>
      if !g.live then s
      else
        let flit := f.lateFlit h (Out.std f g b.d0 0)
        let (n, s) := (s.bornFlit f.id flit).fresh
        let thr := if hiOf b then (g.op 0).toNat * 2 ^ 32 else (g.op 0).toNat
        let s := s.updLoan f.id (fun l => { l with waits := l.waits + 1 })
        ((s.updHub (fun x => { x with waits := AMap.put x.waits n ⟨tlOf b, thr, f.id, f.index, flit, false⟩ })).tlTake (tlOf b)).reevaluate (tlOf b)) s

/-- `TLWAIT_MET` (R104, R106): the answer of a wait that has been met comes, and its entry is free. -/
def execTlwaitMet (id : Nat) (s : State) : Host.Outcome State Fault Refusal :=
  match AMap.find s.hub.waits id with
  | none => .next s
  | some w =>
    if !w.met then .next s
    else
      let s := s.updHub (fun x => { x with waits := AMap.del x.waits id })
      let s := s.updLoan w.loan (fun l => { l with waits := l.waits - 1 })
      .next (match w.flit with
        | some f => s.inject 0 w.index f
        | none => s)

/-! ### Launches (R104, R105) -/

/-- A launch on its way to the hub, whose slip is then read. -/
def State.sendLaunch (s : State) (n : Nat) (x : Launching) : State :=
  let die := match AMap.find s.loans x.loan with | some l => l.die | none => 0
  let (d, s) := s.drawNat
  (s.updHub (fun y => { y with launches := AMap.put y.launches n x })).later (timelineCycles die + d) (.launchAccept n)

/-- A launch put on its way: it holds one of its region's places and an entry of the pool (R105). -/
def State.beginLaunch (s : State) (x : Launching) : State :=
  let (n, s) := s.fresh
  (s.updLoan x.loan (fun l => { l with launches := l.launches + 1 })).sendLaunch n x

/-- A launch gives back its place and its entry (R105). -/
def State.endLaunch (s : State) (n : Nat) (x : Launching) : State :=
  (s.updHub (fun y => { y with launches := AMap.del y.launches n })).updLoan x.loan (fun l => { l with launches := l.launches - 1 })

/-- `LAUNCH` (R104, R105): not a candidate while its region has 16 launches in progress or the pool is full. -/
def execLaunch (h : Hdr) (b : FY) (s : State) : Host.Outcome State Fault Refusal :=
  fire (shapeY h b 1) (fun f g =>
    if g.live && (decide (16 ≤ f.l.launches) || s.hub.freeHolds == 0 || !f.releaseReady g) then none else some (lateEff f g h b.d0))
    (fun f g s =>
      if !g.live then s
      else
        let flit := f.lateFlit h (Out.std f g b.d0 0)
        (s.bornFlit f.id flit).beginLaunch ⟨f.id, f.ctx, f.hnd, f.index, g.tag, (g.op 0).toNat * 128, b.scode.getLsbD 0, flit, false⟩) s

/-- A late output that does not come after all. -/
def State.goneFlit (s : State) (b : Nat) : Option Flit → State
  | some x => s.dropFlit b x
  | none => s

/-- The rank of a launched slip among releases of one cycle (R98): die, bay and element of the `LAUNCH`. -/
def Launching.rank (x : Launching) (s : State) : Nat :=
  match AMap.find s.loans x.loan with | some l => rankLaunch (l.place (l.elKey x.index)) | none => rankLaunch x.index

/-- `LAUNCH_ACCEPT` (R89, R104, R105): the slip is read in the launcher's address space and accepted or refused, and the output
comes; an unmapped address raises TRANSLATE on the launcher's frame, with which the launch waits. -/
def execLaunchAccept (id : Nat) (s : State) : Host.Outcome State Fault Refusal :=
  match AMap.find s.hub.launches id with
  | none => .next s
  | some x =>
    let done := s.endLaunch id x
    if s.stopped .loader then .next (s.later 1 (.launchAccept id))
    else match AMap.find s.loans x.loan with
    | none => .next done
    | some l =>
      let img := l.imageOf x.ctx
      let info := hinfoOf img (handlerKey x.index x.hnd)
      match s.readSlip x.va ⟨l.slip.space, l.slip.priv, 0xF, none⟩ with
      | none =>
        let keep := info.ownDepth == 0 && (AMap.find l.frames x.tag.frame.toNat).isSome
        let level := match walk s l.slip.space x.va with | .error n => n | .ok _ => 3
        let s := if keep then s.updHub (fun y => { y with launches := AMap.put y.launches id { x with stuck := true } }) else done
        let s := s.raise { Report.of fTRANSLATE with loan := some x.loan, el := some (l.elKey x.index), ctx := x.ctx, hnd := x.hnd, tag := some x.tag
                                                     addr := x.va, detail := BitVec.ofNat 64 (level % 4) }
          info.counted (if keep then [.launch id] else [])
        .next (if keep then s else s.goneFlit (x.index / 128) x.flit)
      | some (bs, .error (reason, off)) =>
        let s := done.refuseSlip bs reason off
        .next (match x.flit with | some f => s.inject 0 x.index (f.withOperand 1) | none => s)
      | some (_, .ok slip) =>
        let slip := if x.inhw then { slip with wing := l.slip.wing } else slip
        let s := (done.accept slip (x.rank s) true).getD done
        .next (match x.flit with | some f => s.inject 0 x.index (f.withOperand 0) | none => s)

/-! ### Watches (R104, R107) -/

/-- Whether a counter selector names a counter and an instance of it (R104, R107). -/
def selectorOk (a : W32) : Bool :=
  let kind := a.toNat / 4096 % 16
  let i := a.toNat % 4096
  a.toNat / 65536 == 0 && (match kind with
    | 0 => decide (i < 4)
    | 1 => i == 0
    | 2 => decide (i / 256 < 4) && decide (i % 256 < 240)
    | 3 => i == 0
    | 4 => decide (i < 512)
    | _ => false)

/-- A live `EVWATCH` reads its slip and arms its watch (R107): the slip runs in the kernel's space, with the right that a watch grants (R90,
R91). Its address is taken in the firer's space (DESIGN CHOICE, log 152: R104 names no space for this read). -/
def armWatch (b : FY) (f : FireCtx) (g : Got) (s : State) : State :=
  if !g.live || !selectorOk (g.op 0) then s
  else
    let va := (g.op 2).toNat * 128
    match (s.readVirt f.l.slip.space va 128).map (fun bs => (bs, checkSlip bs ⟨kernelSpace, true, 0xF, none⟩)) with
    | none =>
      let level := match walk s f.l.slip.space va with | .error n => n | .ok _ => 3
      s.raise { f.report g fTRANSLATE (BitVec.ofNat 64 (level % 4)) with addr := va } f.info.counted []
    | some (bs, .error (reason, off)) => s.refuseSlip bs reason off
    | some (_, .ok slip) => s.updHub (fun x => { x with
        watches := AMap.put x.watches (b.sarg.toNat % 64) ⟨g.op 0, g.op 1, b.scode.getLsbD 0, slip⟩ })

/-- `EVWATCH` (R104, R107): the watch is armed with its slip, in place of any armed before; a refused slip arms nothing. -/
def execEvwatch (h : Hdr) (b : FY) (s : State) : Host.Outcome State Fault Refusal :=
  let n := b.sarg.toNat % 64
  fire (shapeY h b (focusCycles s)) (fun f g =>
    if g.live && !selectorOk (g.op 0) then some (illegalEff f g b.d0)
    else some (valueEff f g [(b.d0, BitVec.ofNat 32 n)] Flag.none))
    (armWatch b) s

/-- Whether a token of any loan is in a bay: in a queue, a frame slot, an output buffer, a link, the park buffer or the annex (R107, R314). -/
def State.bayHasTokens (s : State) (bay : Nat) : Bool :=
  s.els.any (fun (p : Nat × Element) => p.1 / 256 == bay &&
    (p.2.planes.any (fun q => q.2.q.any (fun t => t.2 != [])) || p.2.out.any (fun q => q.2 != []) || p.2.links.any (fun q => q.2 != []) ||
      p.2.ready != [] || p.2.ordered != [] || p.2.matching != [])) ||
  s.loans.any (fun (p : Nat × Loan) =>
    let here (b : Nat) : Bool := p.2.state != .switchedOut && p.2.bayKey b == bay
    p.2.frames.any (fun (q : Nat × Frame) => q.2.slots.any (fun x => x.2.p && here (x.1 / 65536)) ||
      q.2.parked.any (fun k => k.tokens.any (fun t => here (t.1 / 4)))) ||
    p.2.acts.any (fun (q : Nat × Activation) => (q.2.landed ++ q.2.held).any (fun t => here (t.1 / 4))))

/-- The counter that a selector names (R107); temperature and power are the world's. Counter 4 of a bay without tokens reads 0 (DESIGN
CHOICE, log 153: R107 names no value for it), so that a `.fall` watch meets at once. -/
def State.counter (s : State) (a : W32) : Nat × State :=
  let kind := a.toNat / 4096 % 16
  let i := a.toNat % 4096
  match kind with
  | 2 =>
    let x := AMap.get s.xch Exchange.empty (i / 256)
    (((x.voqs.filter (fun v => v.inp == i % 256)).map (fun v => v.cells.length)).sum, s)
  | 3 => ((s.hub.ringWaiting.map (fun p => s.cycle - p.since)).foldl max 0, s)
  | 4 =>
    let last := s.els.foldl (fun m (p : Nat × Element) => if p.1 / 256 = i then max m p.2.fired else m) 0
    (if s.bayHasTokens i then s.cycle + 1 - last else 0, s)
  | _ => s.drawNat

/-- `WATCH_SAMPLE` (R107): the counter is sampled; past its threshold the management slip is released and the watch disarmed. -/
def execWatchSample (watch : Nat) (s : State) : Host.Outcome State Fault Refusal :=
  match AMap.find s.hub.watches watch with
  | none => .next s
  | some w =>
    let (v, s) := s.counter w.selector
    if (if w.fall then decide (v ≤ w.threshold.toNat) else decide (w.threshold.toNat ≤ v)) then
      let s := s.updHub (fun x => { x with watches := AMap.del x.watches watch })
      .next (s.acceptOrWait w.slip (rankWatch watch))
    else .next s

end Sys2Proof.Machine
end

