-- ==== Sys2Proof/Machine/Sync.lean ====
section
/-! DEFINITION. Barriers (R310 to R313) and the stocktake (R314 to R321). -/
namespace Sys2Proof.Machine

/-! ### Barriers (R310 to R313) -/

/-- Key of a region's record: context and identifier. -/
def regionBarrier (ctx id : Nat) : Nat := ctx * 16 + id
@[inherit_doc regionBarrier] def wingBarrier (space wing id : Nat) : Nat := (space * 65536 + wing) * 16 + id

/-- Wing arrivals of a die that wait at the hub (R312). -/
def State.wingWaits (s : State) (die : Nat) : Nat :=
  (s.hub.arrivals.filter (fun (p : Nat × Arrival) => p.2.wing && p.2.there &&
    (match AMap.find s.loans p.2.loan with | some l => l.die == die | none => false))).length

/-- Cycles from a firing to its barrier's record, and back (R313). -/
def barrierCycles (l : Loan) (b : Nat) (wing : Bool) : Nat := if wing then timelineCycles l.die else l.hops b + 1

/-- The arrival of a `BARR` on its way to its record, with the output that its release sends (R310, R313). -/
def sendArrival (h : Hdr) (b : FY) (f : FireCtx) (g : Got) (s : State) : State :=
  let wing := b.scode.toNat % 8 == 1
  let k := b.scode.toNat / 8 % 16
  let flit := f.lateFlit h (if g.live then Out.std f g b.d0 (g.op 0) else Out.dead f g b.d0)
  let (n, s) := (s.bornFlit f.id flit).fresh
  let key := if wing then wingBarrier f.l.slip.space f.l.slip.wing.toNat k else regionBarrier f.ctx k
  let a : Arrival := ⟨f.id, f.ctx, f.index, f.hnd, wing, key, b.sarg.toNat, g.tag, g.live, flit, false, false, g.prior⟩
  (s.updHub (fun x => { x with arrivals := AMap.put x.arrivals n a })).later (barrierCycles f.l f.b wing) (.barrierArrive n)

/-- `BARR` (R310, R311): the arrival goes to its record; a dead one is counted too. -/
def execBarr (h : Hdr) (b : FY) (s : State) : Host.Outcome State Fault Refusal :=
  let wing := b.scode.toNat % 8 == 1
  fire (shapeY h b 1) (fun f g =>
    if wing && decide (64 ≤ s.wingWaits f.l.die) then none
    else if g.live then some (lateEff f g h b.d0)
    else if (applyTagop h.tagop f.info.depth true g.tag).isNone then some { Eff.none with outs := [Out.std f g b.d0 0] }
    else some Eff.none)
    (sendArrival h b) s

/-- The record of an arrival, if its episode is open. -/
def State.barrierOf (s : State) (a : Arrival) : Option Barrier :=
  if a.wing then AMap.find s.hub.wingBarriers a.key
  else match AMap.find s.loans a.loan with | some l => AMap.find l.barriers a.key | none => none
@[inherit_doc State.barrierOf] def State.setBarrier (s : State) (a : Arrival) (r : Option Barrier) : State :=
  let put (m : AMap Barrier) : AMap Barrier := match r with | some x => AMap.put m a.key x | none => AMap.del m a.key
  if a.wing then s.updHub (fun x => { x with wingBarriers := put x.wingBarriers })
  else s.updLoan a.loan (fun l => { l with barriers := put l.barriers })

/-- A release token on its way back to its element (R313). -/
def State.releaseParty (s : State) (wing : Bool) (w : Nat × Nat × Option Flit) : State :=
  match AMap.find s.loans w.1, w.2.2 with
  | some l, some f => s.inject (barrierCycles l (w.2.1 / 8 / 128) wing) (w.2.1 / 8) f
  | _, _ => s

/-- Whether an arrival that belongs to a record of an arrival still waits for its release condition (R312). -/
def State.pendingAt (s : State) (id : Nat) (a : Arrival) : Bool :=
  s.hub.arrivals.any (fun (p : Nat × Arrival) => p.1 != id && p.2.tested && p.2.wing == a.wing && p.2.key == a.key && (a.wing || p.2.loan == a.loan))

/-- An arrival that holds its release condition is counted; the last of an episode releases every party (R311). The record is free unless
another arrival is pending, for which it stays, closed, with a count of 0 (R312). -/
def State.countArrival (s : State) (id : Nat) (a : Arrival) (hkey : Nat) : State :=
  let r : Barrier := match s.barrierOf a with | some r => if r.count = 0 then ⟨a.count, 0, []⟩ else r | none => ⟨a.count, 0, []⟩
  let s := s.updHub (fun x => { x with arrivals := AMap.del x.arrivals id })
  let r : Barrier := { r with n := r.n + 1, waiting := r.waiting ++ [(a.loan, hkey, a.flit)] }
  if r.n = r.count then
    r.waiting.foldl (fun s w => s.releaseParty a.wing w) (s.setBarrier a (if s.pendingAt id a then some ⟨0, 0, []⟩ else none))
  else s.setBarrier a (some r)

/-- `BARRIER_ARRIVE` (R311, R312): an arrival is tested once against its record, which it opens if need be and if one is free; it is counted
when its release condition holds, whose prior set is formed from token arcs alone and leaves out its own iterations' deferred stores. -/
def execBarrierArrive (id : Nat) (s : State) : Host.Outcome State Fault Refusal :=
  match AMap.find s.hub.arrivals id with
  | none => .next s
  | some a => match AMap.find s.loans a.loan with
    | none => .next (s.updHub (fun x => { x with arrivals := AMap.del x.arrivals id }))
    | some l =>
      let img := l.imageOf a.ctx
      let hkey := handlerKey a.index a.hnd
      let put (s : State) (a : Arrival) : State := s.updHub (fun x => { x with arrivals := AMap.put x.arrivals id a })
      let there := { a with there := true }
      let count (s : State) : State :=
        if a.live && !l.committedPrior a.prior (l.ownIters img hkey a.tag) then (put s { there with tested := true }).later 1 (.barrierArrive id)
        else s.countArrival id a hkey
      if a.tested then .next (count s)
      else match s.barrierOf a with
      | some r =>
        if r.count = 0 then .next (count (s.setBarrier a (some ⟨a.count, 0, []⟩)))
        else if a.count ≠ r.count then
          let gone := s.updHub (fun x => { x with arrivals := AMap.del x.arrivals id })
          .next ((gone.goneFlit (a.index / 128) a.flit).raise { Report.of fILLEGAL with
              loan := some a.loan, el := some (l.elKey a.index), ctx := a.ctx, hnd := a.hnd, tag := some a.tag } (hinfoOf img hkey).counted [])
        else .next (count s)
      | none =>
        if a.wing && decide (1024 ≤ s.hub.wingBarriers.length) then .next ((put s there).later 1 (.barrierArrive id))
        else .next (count (s.setBarrier a (some ⟨a.count, 0, []⟩)))

/-! ### What a region holds and waits for (R314, R316) -/

/-- Elements of a loan with the contexts that it holds there. -/
def State.loanCtxs (s : State) (id : Nat) : List (Nat × Element × Nat) :=
  s.els.flatMap (fun (p : Nat × Element) => (List.range 4).filterMap (fun c => if (p.2.ctx c).loan = some id then some (p.1, p.2, c) else none))

/-- Tokens of a loan: in queues, frame slots, output buffers, links, the park buffer and the annex (R314); the cells of its accords count with
them (DEDUCED, log 155: the stocktake reports a handler whose accord lost a cell, R320). -/
def State.tokensOf (s : State) (id : Nat) (l : Loan) : Nat :=
  (s.els.map (fun (p : Nat × Element) =>
    let e := p.2
    let mine (fs : List Flit) : Nat := (fs.filter (fun f => f.loan == id)).length
    (e.planes.map (fun (q : Nat × Plane) => match q.2.owner with
      | some (o, _) => if o = id then (q.2.q.map (fun t => t.2.length)).sum else 0
      | none => 0)).sum + (e.out.map (fun q => mine q.2)).sum + (e.links.map (fun q => mine q.2)).sum + mine (e.outside.map Prod.snd) +
    ((e.ready ++ e.ordered ++ e.matching.map Prod.snd).filter (fun r => (e.ctx r.ctx).loan == some id)).length)).sum +
  (l.frames.map (fun (p : Nat × Frame) => (p.2.slots.filter (fun x => x.2.p)).length + (match p.2.parked with
    | some x => x.tokens.length
    | none => 0))).sum +
  (l.acts.map (fun (p : Nat × Activation) => p.2.landed.length + p.2.held.length)).sum +
  (s.bays.map (fun (p : Nat × Bay) => ((p.2.accords.filter (fun a => a.loan == id)).map (fun a => a.cells.length)).sum +
    ((p.2.readyAccords.filter (fun a => ((s.el a.el).ctx a.ctx).loan == some id)).map (fun a => a.cells.length)).sum)).sum

/-- Whether a cell of a loan is at a bay's ingress, or waits at a bank to be written. -/
def Bay.holdsCell (y : Bay) (id : Nat) : Bool :=
  y.ingress.any (fun c => c.loan == id) ||
    y.banks.any (fun (p : Nat × List BankEntry) => p.2.any (fun e => match e.job with | .payload q => q.loan == id | _ => false))

/-- Whether a cell of a loan is in an Exchange, at a port or at an ingress, other than the heads named. -/
def State.cellsOut (s : State) (id : Nat) (stuck : List (Nat × Nat × Nat)) : Bool :=
  s.outgoing.any (fun (p : Nat × Nat × QCell) => p.2.2.loan == id) ||
  s.xch.any (fun (p : Nat × Exchange) => p.2.voqs.any (fun v => v.cells.any (fun c => c.loan == id && !stuck.contains (p.1, v.inp, c.id))) ||
    p.2.memQueues.any (fun q => q.2.any (fun c => c.loan == id))) ||
  s.bays.any (fun (p : Nat × Bay) => p.2.holdsCell id)

/-- Whether something is outstanding for a region (R316), apart from cells at the heads named. -/
def State.outstanding (s : State) (id : Nat) (l : Loan) (stuck : List (Nat × Nat × Nat)) : Bool :=
  s.accs.any (fun (p : Nat × Access) => p.2.loan == id) || s.cellsOut id stuck || l.waits != 0 || l.launches != 0 || l.ramps != [] ||
  s.hub.arrivals.any (fun (p : Nat × Arrival) => p.2.loan == id && p.2.wing) ||
  s.hub.wingBarriers.any (fun (p : Nat × Barrier) => p.2.waiting.any (fun w => w.1 == id)) ||
  l.frames.any (fun (p : Nat × Frame) => p.2.parked.isSome || p.2.refilling || (p.2.spillPlace.isSome && !p.2.spilled)) ||
  (List.range (l.w * l.h)).any (fun b =>
    let y := s.bay (l.bayKey b)
    !y.awake || y.fireQueue.any (fun x => x.loan == id) || y.decanters.any (fun (p : Nat × Firing) => p.2.loan == id)) ||
  (match s.hub.stocktake with | some t => t.joined.any (fun j => j.1 == id) | none => false) ||
  s.agenda.any (fun x => match x.2 with
    | .sqClaimArrive i _ _ | .sqGrantArrive i _ _ => i == id
    | _ => false)

/-- What a region is at a cycle (R314). -/
inductive RegionClass where
  | running | waitingOutside | idle | stalled
deriving DecidableEq, Repr

/-- Whether a region has stalled: tokens present, nothing outstanding, and no handler a candidate (R314, R316). -/
def State.stalls (s : State) (id : Nat) (l : Loan) (stuck : List (Nat × Nat × Nat)) : Bool :=
  l.state == .running && s.tokensOf id l != 0 && !s.outstanding id l stuck && decide (l.lastCandidate < s.cycle)

/-- The class of a region (R314): it is running while a handler has fired in the last 64 cycles, and while one could fire. -/
def State.regionClass (s : State) (id : Nat) (l : Loan) : RegionClass :=
  if s.cycle < l.lastFiring + 64 then .running
  else if s.outstanding id l [] then .waitingOutside
  else if s.tokensOf id l = 0 then .idle
  else if s.stalls id l [] then .stalled
  else .running

/-- The regions that a snapshot finds stalled, with the firings that they have made and the cycle of their last arrival. -/
def State.stalledRegions (s : State) (stuck : List (Nat × Nat × Nat)) : List (Nat × Nat × Nat) :=
  s.loans.filterMap (fun (p : Nat × Loan) => if s.stalls p.1 p.2 stuck then some (p.1, p.2.fires, p.2.lastArrival) else none)

/-- Every head that has nowhere to go. -/
def State.allRefused (s : State) : List (Nat × Nat × Nat) := s.xch.flatMap (fun (p : Nat × Exchange) => s.refusedHeads p.1)

/-- The heads of every queue: die, input and cell. -/
def State.voqHeads (s : State) : List (Nat × Nat × Nat) :=
  s.xch.flatMap (fun (p : Nat × Exchange) => p.2.voqs.filterMap (fun v => v.cells.head?.map (fun c => (p.1, v.inp, c.id))))

/-! ### Reports (R317 to R320) -/

/-- The tokens that a handler holds: those in its queues, its ready firings, and its frame slots by their frame. -/
def handlerTokens (e : Element) (c hnd : Nat) : List Tag :=
  ((e.active c).q.flatMap (fun q => (q.2.filter (fun t => t.e.hnd.toNat == hnd)).map (fun t => t.e.tag))) ++
  ((e.ready ++ e.ordered ++ e.matching.map Prod.snd).filter (fun r => r.ctx == c && r.hnd == hnd)).map Ready.tag

/-- The frame slots of a handler that hold an operand: their tags, and the ports. -/
def handlerSlots (l : Loan) (i : HInfo) (b : Nat) : List (Tag × Nat) :=
  l.frames.flatMap (fun (p : Nat × Frame) => p.2.slots.filterMap (fun x =>
    if x.2.p ∧ x.1 / 65536 = b ∧ i.sigma ≤ x.1 % 65536 ∧ x.1 % 65536 < i.sigma + i.nh * i.psz.foldl (· * ·) 1 then some (x.2.tag, x.2.port.toNat) else none))

/-- The accords of a handler, open or complete (R273): their tags. -/
def handlerAccords (id : Nat) (img : Image) (bay : Bay) (key c index hnd : Nat) : List Tag :=
  ((bay.accords.filter (fun a => a.loan == id && a.ctx == c && (AMap.find img.accords a.accid).any (fun g => g.el == index && g.hnd == hnd))).map
    Accord.tag) ++ ((bay.readyAccords.filter (fun a => a.el == key && a.ctx == c && a.hnd == hnd)).map ReadyAccord.tag)

/-- The oldest of some tags (R131). -/
def oldestOf (l : Loan) : List Tag → Option Tag
  | [] => none
  | t :: ts => match oldestOf l ts with
    | none => some t
    | some u => if tagOlder l u t then some u else some t

/-- What keeps a handler from firing (R318): `WHY` and `SQ`. -/
def whyNot (id : Nat) (l : Loan) (bay : Bay) (e : Element) (c hnd : Nat) (i : Instr) (w : W64) (missing : List Nat) : Nat × Nat :=
  let x := e.ctx c
  let hkey := handlerKey x.logical hnd
  let mode := (w.extractLsb' 54 2).toNat
  match (l.barriers.find? (fun (p : Nat × Barrier) => p.1 / 16 == c && p.2.waiting.any (fun y => y.1 == id && y.2.1 == hkey))) with
  | some (k, _) => (3, k % 16)
  | none =>
    if mode == 2 && (match i with | .mxstep .. => x.run.isNone | _ => true) then (4, 0)
    else if (match i with | .mxstep .. | .mxfade .. | .mxpass .. => x.run.isSome | _ => false) then (5, 0)
    else if mode = 1 ∧ missing ≠ [] then (6, 0)
    else if missing ≠ [] then (0, 0)
    else if w.getLsbD 41 ∧ !x.latch.contains hnd then (2, sqNumber (l.imageOf c) hkey i)
    else match i with
      | .mergeo .. | .ordred .. | .bound .. => (7, 0)
      | .loopin .. => (8, 0)
      | .callf .. => (9, 0)
      | _ => if bay.accords.any (fun a => a.loan == id && a.ctx == c) && mode = 2 then (4, 0) else (1, 0)

/-- The node entry of a handler (R318). -/
def nodeEntry (s : State) (id : Nat) (l : Loan) (key : Nat) (e : Element) (c hnd : Nat) : Option (List Byte) :=
  let x := e.ctx c
  let w := AMap.get x.handlers nopWord hnd
  match (decodeHandler w).toOption with
  | none => none
  | some i =>
    let info := hinfoOf (l.imageOf c) (handlerKey x.logical hnd)
    let slots := handlerSlots l info (x.logical / 128)
    let tags := handlerTokens e c hnd ++ slots.map Prod.fst ++ handlerAccords id (l.imageOf c) (s.bay (key / 256)) key c x.logical hnd
    let waits := l.barriers.any (fun (p : Nat × Barrier) => p.2.waiting.any (fun y => y.1 == id && y.2.1 == handlerKey x.logical hnd))
    match (if waits ∧ tags = [] then some (Tag.initial l.firstFrame) else oldestOf l tags) with
    | none => none
    | some t =>
      let ports := wordReads w
      let has (p : Nat) : Bool := (headFor (e.active c) p hnd).isSome || slots.any (fun y => y.2 == p) ||
        e.ready.any (fun r => r.ctx == c && r.hnd == hnd)
      let missing := ports.filter (fun p => !has p)
      let full := (List.range 6).filter (fun d => decide (2 ≤ (AMap.get e.out [] d).length + AMap.get e.reserved 0 d))
      let (why, sq) := whyNot id l (s.bay (key / 256)) e c hnd i w missing
      let place := l.place key
      let n := place / 256 / 128 % 4 + 4 * (place / 256 % 128) + 2 ^ 9 * (place % 128) + 2 ^ 16 * c + 2 ^ 18 * hnd +
        2 ^ 21 * (missing.map (fun p => 2 ^ p)).sum + 2 ^ 25 * (full.map (fun d => 2 ^ d)).sum + 2 ^ 31 * why + 2 ^ 35 * sq
      some (leBytes 8 n ++ leBytes 8 (Tag.bits t).toNat)

/-- The node entries of a region in deadlock, in ascending die, bay, element and handler. -/
def nodeEntries (s : State) (id : Nat) (l : Loan) : List (Nat × Nat × Nat × List Byte) :=
  (s.loanCtxs id).flatMap (fun x => (List.range 8).filterMap (fun h =>
    (nodeEntry s id l x.1 x.2.1 x.2.2 h).map (fun bs => (l.place x.1, x.2.2, h, bs))))

/-- The VOQ entry of a queue (R319). -/
def voqEntry (slot die : Nat) (v : Voq) : List Byte :=
  let member := match v.cells with | c :: _ => c.residue.getD 0 0 | [] => 0
  let n := die + 4 * v.inp + 2 ^ 10 * (if v.mc then die else v.dest / 256) + 2 ^ 12 * (if v.mc then member else v.dest % 256) + 2 ^ 20 * v.note +
    (if v.mc then 2 ^ 22 else 0) + 2 ^ 32 * v.cells.length + 2 ^ 48 * min 65535 (slot - v.headSince)
  leBytes 8 n

/-- Queues whose head has not moved since the first snapshot, oldest head first. -/
def stillQueues (s : State) (heads : List (Nat × Nat × Nat)) : List (Nat × Voq) :=
  sortBy (fun (a b : Nat × Voq) => decide (a.2.headSince ≤ b.2.headSince))
    (s.xch.flatMap (fun (p : Nat × Exchange) => (p.2.voqs.filter (fun v => match v.cells with
      | c :: _ => heads.contains (p.1, v.inp, c.id)
      | [] => false)).map (fun v => (p.1, v))))

/-- The regions in deadlock (R316): stalled in both snapshots, without a firing or an arrival between them; in ascending die and
bay of their north-west bay. A head that nothing has accepted in the whole interval is not outstanding. -/
def State.deadRegions (s : State) (t : Stocktake) : List (Nat × Loan) :=
  sortBy (fun (a b : Nat × Loan) => decide (a.2.die * 128 + a.2.nwb ≤ b.2.die * 128 + b.2.nwb))
    (((s.stalledRegions t.stuck).filter (fun x => t.first.contains x)).filterMap (fun x => (AMap.find s.loans x.1).map (fun l => (x.1, l))))

/-- Regions that are idle without an exit (R314). -/
def State.idleRegions (s : State) : Nat :=
  (s.loans.filter (fun (p : Nat × Loan) => p.2.state == .running && p.2.exitTaken.isNone && s.regionClass p.1 p.2 == .idle)).length

/-- A stocktake started or joined (R315). -/
def State.startStocktake (s : State) (watchdog : Bool) (joined : List (Nat × Nat × Option Flit)) : State :=
  match s.hub.stocktake with
  | some t => s.updHub (fun x => { x with stocktake := some { t with joined := t.joined ++ joined } })
  | none => (s.updHub (fun x => { x with stocktake := some ⟨s.cycle, watchdog, [], [], false, joined, [], none⟩ })).later 1 .stocktakeSnapshot

/-- Node entries in ascending die, bay, element and handler (R317). -/
def nodeOrder (ns : List (Nat × Nat × Nat × List Byte)) : List (Nat × Nat × Nat × List Byte) :=
  sortBy (fun a b => decide (a.1 < b.1) || (a.1 == b.1 && decide (a.2.2.1 ≤ b.2.2.1))) ns

/-- What a stocktake has found (R317 to R320): the report, the record of each deadlock, and the operand of `STOCK`. -/
def State.stockResult (s : State) (t : Stocktake) : StockResult :=
  let dead := s.deadRegions t
  let nodes := dead.map (fun p => (p, nodeOrder (nodeEntries s p.1 p.2)))
  let all := nodeOrder (nodes.flatMap (fun x => x.2))
  let queues := stillQueues s t.heads
  let ridx := s.hub.reportNext % 16
  let report := leBytes 8 s.cycle ++ leBytes 1 ridx ++ leBytes 1 (min 64 all.length) ++ leBytes 1 (min 32 queues.length) ++
    leBytes 1 (min 255 dead.length) ++ leBytes 1 (if t.watchdog then 1 else 0) ++
    leBytes 1 ((if 64 < all.length then 1 else 0) + (if 32 < queues.length then 2 else 0)) ++ leBytes 2 0 ++
    leBytes 8 (match dead with | (_, l) :: _ => l.slip.sid.toNat | [] => 0) ++ leBytes 4 s.idleRegions ++ List.replicate 36 0 ++
    ((all.take 64).flatMap (fun x => x.2.2.2)) ++ ((queues.take 32).flatMap (fun q => voqEntry (slotOf s.cycle) q.1 q.2))
  let records := nodes.map (fun x => mkRecord s { Report.of fDEADLOCK with
      loan := some x.1.1
      el := (x.2.head?).map (fun y => y.1)
      ctx := match x.2 with | y :: _ => y.2.1 | [] => 0
      hnd := match x.2 with | y :: _ => y.2.2.1 | [] => 0
      tag := (x.2.head?).map (fun y => Tag.ofBits (BitVec.ofNat 64 (leNat (y.2.2.2.drop 8))))
      detail := BitVec.ofNat 64 (ridx + 16 * min 255 x.2.length) } false)
  ⟨ridx, report, records, BitVec.ofNat 32 (min 255 dead.length + 256 * ridx)⟩

/-- The end of a stocktake: its report waits for the token at the hub's node of the order ring (R328). -/
def State.endStocktake (s : State) (t : Stocktake) : State :=
  let r := s.stockResult t
  let (n, s) := s.fresh
  (s.updHub (fun x => { x with stocktake := some { t with result := some (n, r) } })).ringWait 832 n false

/-- A stocktake's report published as the token passes (R317, R320, R321, R328): it is in the store, each deadlock gets its record, and each
`STOCK` its answer. -/
def State.publishStocktake (s : State) (t : Stocktake) (r : StockResult) : State :=
  let s := s.updHub (fun x => { x with
    stocktake := none, reports := AMap.put x.reports r.ridx r.report, reportNext := x.reportNext + 1 })
  let s := r.records.foldl (fun s x => s.updHub (fun h => h.record x)) s
  t.joined.foldl (fun s j => match j.2.2 with
    | some f => s.inject (match AMap.find s.loans j.1 with | some l => timelineCycles l.die | none => 0) j.2.1 (f.withOperand r.answer)
    | none => s) s

/-- `STOCKTAKE_SNAPSHOT` (R316): the first snapshot, and 4,096 cycles later the second, which ends the stocktake. -/
def execStocktakeSnapshot (s : State) : Host.Outcome State Fault Refusal :=
  match s.hub.stocktake with
  | none => .next s
  | some t =>
    if t.result.isSome then .next s
    else if s.stopped .stocktake then .next (s.later 1 .stocktakeSnapshot)
    else if t.second then .next (s.endStocktake t)
    else
      let stuck := s.allRefused
      let t := { t with first := s.stalledRegions stuck, heads := s.voqHeads, second := true, stuck := stuck }
      .next ((s.updHub (fun x => { x with stocktake := some t })).later 4096 .stocktakeSnapshot)

/-- `STOCK` (R321). -/
def execStock (h : Hdr) (b : FY) (s : State) : Host.Outcome State Fault Refusal :=
  fire (shapeY h b 1) (fun f g => some (lateEff f g h b.d0))
    (fun f g s =>
      if !g.live then s
      else
        let flit := f.lateFlit h (Out.std f g b.d0 0)
        (s.bornFlit f.id flit).startStocktake false [(f.id, f.index, flit)]) s

/-- Whether a region has had tokens and no firing for 2^20 cycles, and its watchdog has not started a stocktake since it fired (R315). -/
def Loan.overrun (l : Loan) (now : Nat) : Bool := !l.watchdog && decide (max l.lastFiring l.lastEmpty + 2 ^ 20 ≤ now)

/-- `WATCHDOG_EXPIRE` (R315): a region with tokens and no firing for 2^20 cycles starts a stocktake, once until it fires again. -/
def execWatchdogExpire (loan : Nat) (s : State) : Host.Outcome State Fault Refusal :=
  match AMap.find s.loans loan with
  | none => .next s
  | some l =>
    if !l.overrun s.cycle || s.tokensOf loan l == 0 then .next s
    else .next ((s.updLoan loan (fun l => { l with watchdog := true })).startStocktake true [])

end Sys2Proof.Machine
end

