-- ==== Sys2Proof/Machine/Loader.lean ====
section
/-! DEFINITION. The loader and the Circulation's placement (R80, R94, R109 to R123): reading an image, lendable rectangles, the placing
of a loan, the writing of a context, and the start of a first activation. -/
namespace Sys2Proof.Machine

/-! ### Reading an image (R77, R117, R118) -/

/-- The offset of the first byte of a range that lies in an unmapped page. -/
def State.firstUnmapped (s : State) (space va n : Nat) : Option Nat :=
  ((rangePieces va n).find? (fun p => (s.physOf space p.1).isNone)).map (fun p => p.1 - va)

/-- An image read through an address space and checked: the header first, then its pages, then the whole (R77, R81, R118). -/
def State.loadImage (s : State) (space addr : Nat) (a : Asker) : Except CfgBad Image :=
  match s.readVirt space addr 64 with
  | none => .error ⟨0x09, 0, 0, 0⟩
  | some hd => match firstBad (headerChecks hd a) with
    | some e => .error e
    | none =>
      let n := field hd 8 4
      match s.firstUnmapped space addr n with
      | some o => .error ⟨0x09, 0, 0, o⟩
      | none => match s.readVirt space addr n with
        | some bs => checkImage bs space addr a
        | none => .error ⟨0x09, 0, 0, 0⟩

/-- Whether the header in memory still names a resident image (R117): its space, address, `SIZE` and `CRC`. -/
def State.headerHits (s : State) (space addr : Nat) (img : Image) : Bool :=
  img.space == space && img.addr == addr && (match s.readVirt space addr 64 with
    | some hd => img.size == field hd 8 4 && img.crc == BitVec.ofNat 32 (field hd 12 4)
    | none => false)

/-! ### Rectangles (R34, R109) -/

/-- An empty context of a bay. -/
def BayCtx.empty : BayCtx := ⟨.empty, Image.empty, 0, 0, 0⟩

/-- A context of a bay. -/
def Bay.ctxAt (b : Bay) (c : Nat) : BayCtx := AMap.get b.ctxs BayCtx.empty c

/-- A rectangle of bays of a die. -/
structure Rect where
  die : Nat
  nwb : Nat
  w : Nat
  h : Nat
deriving DecidableEq, Repr

/-- The bays of a rectangle in the order of their numbers. -/
def Rect.bays (r : Rect) : List Nat := (List.range (r.w * r.h)).map (fun b => r.die * 128 + r.nwb + b / r.w * 16 + b % r.w)

/-- The rectangle of a loan. -/
def Loan.rect (l : Loan) : Rect := ⟨l.die, l.nwb, l.w, l.h⟩

/-- Whether two rectangles share a bay. -/
def Rect.meets (a b : Rect) : Bool := a.bays.any (fun x => b.bays.contains x)

/-- The rectangles of a shape on a die. -/
def rectsOn (die w h : Nat) : List Rect :=
  ((List.range 128).filter (fun n => decide (n % 16 + w ≤ 16) && decide (n / 16 + h ≤ 8))).map (fun n => ⟨die, n, w, h⟩)

/-- The state with a context of every bay of a rectangle changed. -/
def State.setCtx (s : State) (r : Rect) (c : Nat) (f : BayCtx → BayCtx) : State :=
  r.bays.foldl (fun s b => s.updBay b (fun y => { y with ctxs := AMap.upd y.ctxs BayCtx.empty c f })) s

/-- What the elements of a bay hold for a context is gone (R116). -/
def State.emptyEls (s : State) (bay c : Nat) : State :=
  { s with els := s.els.map (fun (p : Nat × Element) => if p.1 / 256 = bay then (p.1, { p.2 with ctxs := AMap.del p.2.ctxs c }) else p) }

/-- A context of a bay becomes empty. -/
def State.emptyCtx (s : State) (bay c : Nat) : State :=
  (s.updBay bay (fun y => { y with ctxs := AMap.del y.ctxs c })).emptyEls bay c

/-! ### Bad nodes and spares (R114, R115) -/

/-- The valid entries of a bay's bad-node register. -/
def Bay.badEntries (b : Bay) : List (BitVec 16) := ((List.range 8).map (AMap.get b.badNodes 0)).filter (fun v => v.getLsbD 0)

/-- The bad addressable elements of a compute tile, as row × 8 + column in ascending order; and its good spares. -/
def Bay.badAt (b : Bay) (t : Nat) : List Nat :=
  (List.range 32).filter (fun i => b.badEntries.any (fun v => !v.getLsbD 8 && (v.extractLsb' 1 2).toNat == t &&
    (v.extractLsb' 3 2).toNat * 8 + (v.extractLsb' 5 3).toNat == i))
@[inherit_doc Bay.badAt] def Bay.goodSpares (b : Bay) (t : Nat) : List Nat :=
  [0, 1].filter (fun i => !b.badEntries.any (fun v => v.getLsbD 8 && (v.extractLsb' 1 2).toNat == t && (v.extractLsb' 5 1).toNat == i))

/-- The bad-node flag of an element (R39). -/
def State.badNode (s : State) (key : Nat) : Bool :=
  let b := s.bay (key / 256)
  if key % 256 < 128 then (b.badAt (key % 128 / 32)).contains (key % 32) else !(b.goodSpares (key % 128 / 2)).contains (key % 2)

/-- Whether a bay's bad nodes let it be lent (R110, R115). -/
def Bay.sound (b : Bay) : Bool :=
  ([0, 1, 2, 3] : List Nat).all (fun t => decide ((b.badAt t).length ≤ (b.goodSpares t).length)) && decide (b.badEntries.length < 8)

/-- The spares that stand in for the bad elements of a rectangle, by region index (R115). -/
def State.spareMap (s : State) (r : Rect) : AMap Nat :=
  (r.bays.zipIdx.flatMap (fun p => ([0, 1, 2, 3] : List Nat).flatMap (fun t =>
    (((s.bay p.1).badAt t).zip ((s.bay p.1).goodSpares t)).map (fun q => (p.2 * 128 + t * 32 + q.1, p.1 * 256 + 128 + t * 2 + q.2))))).foldl
    (fun m q => AMap.put m q.1 q.2) []

/-! ### What a loan needs (R110, R113) -/

/-- What a loan of an image takes of each bay of its region: bytes reserved, `ANNEXRES`, the lines of each memory tile that its tile
windows reach, and the matching store. -/
structure Need where
  reserve : AMap Nat
  annexRes : AMap Nat
  parts : List Nat
  store : Nat
deriving DecidableEq, Repr

/-- The need of an image under a slip's `MSTORE`. -/
def Image.need (img : Image) (slipStore : Nat) : Need :=
  let bays := List.range (img.w * img.h)
  { reserve := bays.map (fun b => (b, img.bayBytes slipStore b))
    annexRes := bays.map (fun b => (b, img.annexOf b))
    parts := [0, 1, 2, 3].map (fun t => (img.windows.filter (fun w => !w.2.virt && w.2.base / 2 ^ 20 == t)).foldl
      (fun m w => max m (windowLines w.2)) 0)
    store := bays.foldl (fun m b => min m (img.storeOf slipStore b)) (2 ^ 22) }

/-- The need of an image that is not to be read. -/
def Need.none : Need := ⟨[], [], [0, 0, 0, 0], 0⟩

/-- Loans that hold memory of a bay, but for one. -/
def State.sharers (s : State) (bay but : Nat) : List Loan :=
  (s.loans.filter (fun (p : Nat × Loan) => p.1 != but && (p.2.bayNumber bay).isSome)).map Prod.snd

/-- Whether the memory of a bay takes a need (R113): 4 MiB over every loan on it. -/
def State.memFits (s : State) (bay b but : Nat) (n : Need) : Bool :=
  decide (((s.sharers bay but).map (fun l => AMap.get l.reserve 0 ((l.bayNumber bay).getD 0))).sum + AMap.get n.reserve 0 b ≤ 2 ^ 22)

/-- Whether a part of the memory tiles from a first line is apart from the parts of the other loans on some bays. -/
def State.linesFit (s : State) (bays : List Nat) (but first : Nat) (parts : List Nat) : Bool :=
  parts.zipIdx.all (fun p => p.1 == 0 || (decide (first + p.1 ≤ 2048) && bays.all (fun bay => (s.sharers bay but).all (fun l =>
    let n := l.parts.getD p.2 0
    n == 0 || decide (first + p.1 ≤ l.firstLine) || decide (l.firstLine + n ≤ first)))))

/-- The first line of a new loan's part of each memory tile (R240): the lowest that fits. -/
def State.firstLineFor (s : State) (bays : List Nat) (but : Nat) (parts : List Nat) : Option Nat :=
  let ends := bays.flatMap (fun bay => (s.sharers bay but).flatMap (fun l => l.parts.map (fun n => l.firstLine + n)))
  (sortBy (fun a b => decide (a ≤ b)) (0 :: ends)).find? (fun f => s.linesFit bays but f parts)

/-- The first free plane of an element (R40, R353). -/
def Element.freePlane (e : Element) : Option Nat := (List.range 8).find? (fun i => (e.plane i).owner.isNone)

/-- The elements of an image's region, as region indexes in ascending order: each holds the context and a plane of each activation,
whether or not the image gives it a handler (R40, R350, R352). -/
def Image.elements (img : Image) : List Nat := List.range (128 * (img.w * img.h))

/-- The handler words that an image writes into a bay (R118). -/
def Image.bayWords (img : Image) (b : Nat) : Nat :=
  8 * ((img.handlers.map (fun (p : Nat × W64) => p.1 / 8)).eraseDups.filter (fun i => i / 128 == b)).length

/-- Key of the physical element of a region index in a rectangle under its spares. -/
def Rect.elKey (r : Rect) (spares : AMap Nat) (index : Nat) : Nat :=
  match AMap.find spares index with
  | some k => k
  | none => (r.bays.getD (index / 128) 0) * 256 + index % 128

/-- Whether a reservation for another slip keeps a loan from a rectangle and context (R112). -/
def State.reservedFor (s : State) (x : Released) (r : Rect) (c : Nat) : Bool :=
  match AMap.find s.hub.reservations r.die with
  | none => false
  | some v => !(v.slip == x.slip && v.cycle == x.cycle) && v.ctx == c && (Rect.meets ⟨r.die, v.nwb, v.slip.w, v.slip.h⟩ r)

/-- Whether a rectangle can be lent to a slip, whatever the context: its die is unfenced and open to the slip, its bays are sound and
take the slip's memory, and its elements have a plane for it (R21, R110, R337). -/
def State.rectOpen (s : State) (x : Released) (n : Need) (img : Option Image) (r : Rect) : Bool :=
  !s.boot.fenced.getLsbD r.die && x.slip.dies.getLsbD r.die && r.bays.all (fun b => (s.bay b).sound) &&
  r.bays.zipIdx.all (fun p => s.memFits p.1 p.2 0 n) && (s.firstLineFor r.bays 0 n.parts).isSome &&
  (match img with
    | some i => let m := s.spareMap r; i.elements.all (fun k => (s.el (r.elKey m k)).freePlane.isSome)
    | none => true)

/-- The resident image of a context of a rectangle that a slip hits, and whose entries take its arguments (R94, R117): only the header is
read. -/
def State.hitImage (s : State) (slip : Slip) (r : Rect) (c : Nat) : Option Image :=
  let xs := r.bays.map (fun b => (s.bay b).ctxAt c)
  match xs with
  | x :: _ =>
    if xs.zipIdx.all (fun p => p.1.st == .resident && p.1.part == p.2 && p.1.image.w == r.w && p.1.image.h == r.h) &&
        s.headerHits slip.space slip.cfg x.image && xs.all (fun y => s.headerHits slip.space slip.cfg y.image)
    then some x.image else none
  | [] => none

/-- The classes of R111 for a context of a rectangle: 1 a hit, 2 empty, 3 to be freed; 0 when it holds a loan. -/
def State.ctxClass (s : State) (slip : Slip) (r : Rect) (c : Nat) : Nat :=
  let xs := r.bays.map (fun b => (s.bay b).ctxAt c)
  if xs.any (fun x => x.st == .loaned) then 0
  else if (s.hitImage slip r c).isSome then 1
  else if xs.all (fun x => x.st == .empty) then 2 else 3

/-- Whether every bay of a rectangle is awake. -/
def State.allAwake (s : State) (r : Rect) : Bool := r.bays.all (fun b => (s.bay b).awake)

/-- What the Circulation reads of the image of a slip that it would place: the image when it is in order, and its need (R110, R113). -/
def State.slipImage (s : State) (slip : Slip) : Option Image :=
  match s.loadImage slip.space slip.cfg ⟨slip.w, slip.h, slip.priv, slip.mstore⟩ with
  | .ok img => if argsOk img slip.args then some img else none
  | .error _ => none
@[inherit_doc State.slipImage] def slipNeed (slip : Slip) (img : Option Image) : Need :=
  match img with | some i => i.need slip.mstore | none => Need.none

/-- The image that a slip would run in a context of a rectangle: the resident one of a hit, whatever the memory now holds beside its header
(R117), otherwise the one that memory holds. -/
def State.imageFor (s : State) (slip : Slip) (img : Option Image) (r : Rect) (c : Nat) : Option Image :=
  match s.hitImage slip r c with
  | some i => some i
  | none => img

/-- The rectangles that can be lent to a slip, each with a context and its class. -/
def State.choices (s : State) (x : Released) (img : Option Image) : List (Nat × Rect × Nat) :=
  ((List.range 4).flatMap (fun d => rectsOn d x.slip.w x.slip.h)).flatMap (fun r =>
    let fresh := s.rectOpen x (slipNeed x.slip img) img r
    (List.range 4).filterMap (fun c =>
      let k := s.ctxClass x.slip r c
      let canLend := match s.hitImage x.slip r c with
        | some i => s.rectOpen x (slipNeed x.slip (some i)) (some i) r
        | none => fresh
      if k = 0 ∨ !canLend ∨ s.reservedFor x r c then none else some (k, r, c)))

/-- The rectangle that the Circulation takes (R111): the lowest class, awake before asleep, then the lowest die, bay and context, which is
the order in which they stand. -/
def State.choose (s : State) (x : Released) (img : Option Image) : Option (Nat × Rect × Nat) :=
  let cs := s.choices x img
  [1, 2, 3].findSome? (fun k =>
    let of := cs.filter (fun (p : Nat × Rect × Nat) => p.1 == k)
    match of.find? (fun p => s.allAwake p.2.1) with
    | some p => some p
    | none => of.head?)

/-! ### Placing (R112, R113, R116, R123) -/

/-- Bytes of a save area of a shape (R347). -/
def saveBytes (w h : Nat) : Nat := 4096 + 131072 + w * h * 128 * 3328

/-- The translations of a range locked in a die's TLB (R113), and their pages. -/
def State.pin (s : State) (die space va n : Nat) : List Nat × State :=
  let pages := (rangePieces va n).map (fun p => p.1 / 65536)
  let es := pages.foldl (fun es g => match walk s space (g * 65536) with
    | .ok p => tlbPut 32768 es { tlbEntry space g p with locked := true }
    | .error _ => es) (AMap.get s.trans.dieTlb [] die)
  (pages, { s with trans := { s.trans with dieTlb := AMap.put s.trans.dieTlb die es } })

/-- The translations that a loan has locked are released, but for those that another loan locks. -/
def State.unpin (s : State) (id : Nat) (l : Loan) : State :=
  let keep (e : TlbEntry) : Bool := s.loans.any (fun (p : Nat × Loan) => p.1 != id && p.2.die == l.die && p.2.slip.space == e.space &&
    p.2.pinned.any (fun g => decide (e.page ≤ g) && decide (g < e.page + e.pages)))
  let es := (AMap.get s.trans.dieTlb [] l.die).map (fun e => if e.space = l.slip.space ∧ !keep e then { e with locked := false } else e)
  { s with trans := { s.trans with dieTlb := AMap.put s.trans.dieTlb l.die es } }

/-- Prefetches into a context of a rectangle stop, and their contexts become empty (R123). -/
def State.claimCtx (s : State) (r : Rect) (c : Nat) : State :=
  (s.hub.prefetches.filter (fun (p : Nat × Prefetch) => p.2.ctx == c && Rect.meets ⟨p.2.die, p.2.nwb, p.2.w, p.2.h⟩ r)).foldl (fun s p =>
    let s := s.updHub (fun h => { h with prefetches := AMap.del h.prefetches p.1 })
    (Rect.bays ⟨p.2.die, p.2.nwb, p.2.w, p.2.h⟩).foldl (fun s b => s.emptyCtx b c) s) s

/-- The gated bays of a rectangle wait for their die's wake sequencer (R22). -/
def State.wakeRect (s : State) (r : Rect) : State :=
  r.bays.foldl (fun s b =>
    let q := AMap.get s.boot.wakeQueues [] r.die
    if (s.bay b).awake || q.contains b then s
    else { s with boot := { s.boot with wakeQueues := AMap.put s.boot.wakeQueues r.die (q ++ [b]) } }) s

/-- The loan of a slip on a rectangle and context, before its image is there. -/
def newLoan (s : State) (x : Released) (r : Rect) (c first : Nat) (n : Need) (hit : Bool) : Loan where
  slip := x.slip
  rel := (x.cycle, x.rank)
  die := r.die
  nwb := r.nwb
  w := r.w
  h := r.h
  ctx := c
  ctxs := [c]
  state := .fetching
  placed := s.cycle
  hit := hit
  firstFrame := 0
  image := Image.empty
  images := []
  mapping := s.spareMap r
  firstLine := first
  reserve := n.reserve
  annexRes := n.annexRes
  parts := n.parts
  storeSize := n.store
  acts := []
  nextAct := 0
  frames := []
  nextFrame := 1
  allocs := 0
  waitingCall := false
  lastFiring := s.cycle
  fired := false
  lastArrival := 0
  lastCandidate := 0
  lastEmpty := s.cycle
  flights := []
  pends := []
  waves := []
  buffered := []
  commit := []
  releasing := []
  commitFree := 0
  kept := []
  sq := []
  claims := []
  sqPrior := []
  creditPrior := []
  barriers := []
  waits := 0
  launches := 0
  lock := false
  exits := []
  exitTaken := none
  looked := false
  drops := []
  calling := none
  thaw := none
  annexUsed := 0
  bayUsed := []
  fires := 0
  spills := 0
  planeSpills := 0
  chain := 0
  lastExit := 0
  byKernel := false
  saveFault := false
  restoreMark := false
  marked := []
  watchdog := false
  pinned := []
  ramps := []
  away := []
  switchers := []
  restorers := []

/-- A configuration image asked for at a note (R92, R118): a request of its loan's first bay to the home of its first byte. An image whose
first page is unmapped is refused without a request, and one in the memory of another device is read without one. -/
def State.askImage (s : State) (die bay loan space addr : Nat) (note : BitVec 2) (body : CellBody) (step : Instr) : State :=
  match s.physOf space addr with
  | none => let (d, s) := s.drawNat; s.later (1 + d) step
  | some pa => if isRemote pa then (let (d, s) := s.drawNat; s.later (1 + d) step) else s.sendCell die (bayPort bay) 1 loan 0 body { Cell.blank with
      note := note, dportDie := BitVec.ofNat 2 (homeDie pa), dport := BitVec.ofNat 8 (s.homePort pa) }

/-- The image of a loan, of its successor or of its callee asked for, at its slip's note. -/
def State.fetchFor (s : State) (id : Nat) (l : Loan) (addr : Nat) : State :=
  s.askImage l.die (l.bayKey 0) id l.slip.space addr l.slip.note (.fetch id) (.imageFetchDone id)

/-- A slip placed on a rectangle and context (R113): the loan, its reserves and pins, its contexts claimed, its bays to be woken, and its
image to be fetched. -/
def State.place (s : State) (x : Released) (k : Nat) (r : Rect) (c : Nat) (n : Need) : State :=
  let (id, s) := s.fresh
  let first := (s.firstLineFor r.bays 0 n.parts).getD 0
  let l := newLoan s x r c first n (k == 1)
  let s := s.claimCtx r c
  let (pages, s) := if x.slip.save = 0 then ([], s) else s.pin r.die x.slip.space x.slip.save (saveBytes r.w r.h)
  let s := s.updHub (fun h => { h with
    released := h.released.erase x
    annexTaken := h.annexTaken + x.slip.annex
    reservations := h.reservations.filter (fun (p : Nat × Reserved) => !(p.2.slip == x.slip && p.2.cycle == x.cycle)) })
  let s := { s with loans := AMap.put s.loans id { l with pinned := pages } }
  let s := r.bays.foldl (fun s b => s.updBay b (fun y => { y with ctxs := AMap.put y.ctxs c { y.ctxAt c with st := .loaned, lastLoan := s.cycle } })) s
  (s.wakeRect r).fetchFor id l l.slip.cfg

/-- A slip whose save area is unmapped is not placed, and waits for the kernel (R113). -/
def State.holdSlip (s : State) (x : Released) : State :=
  s.updHub (fun h => ({ h with released := h.released.map (fun y => if y = x then { y with held := true } else y) }).record
    (mkRecord s { Report.of fSAVE with detail := 2, sid := x.slip.sid } false))

/-! ### Writing a context (R80, R118) -/

/-- The words that an image gives an element, and their depths. -/
def Image.wordsAt (img : Image) (index : Nat) : AMap W64 :=
  (List.range 8).filterMap (fun k => (AMap.find img.handlers (handlerKey index k)).map (fun w => (k, w)))
@[inherit_doc Image.wordsAt] def Image.depthsAt (img : Image) (index : Nat) : AMap (BitVec 3) :=
  (List.range 8).filterMap (fun k => (AMap.find img.hinfo (handlerKey index k)).map (fun i => (k, BitVec.ofNat 3 i.depth)))

/-- An element's context as an image loads it (R39, R130, R220): every other register at its reset. Words that are not written keep a
parity bit that is wrong (R74). -/
def loadedCtx (img : Image) (id index : Nat) (bad : List Nat) : ElCtx :=
  { ElCtx.empty with
    handlers := img.wordsAt index
    badWords := bad
    depths := img.depthsAt index
    prio := AMap.get img.prio 0 index
    prioNow := AMap.get img.prio 0 index
    loan := some id
    logical := index }

/-- Multicast members of the region replaced by the die and port of their bay (R332). -/
def Image.placed (img : Image) (r : Rect) : Image :=
  { img with mcasts := img.mcasts.map (fun (p : Nat × McastGroup) => (p.1, { p.2 with
      members := p.2.members.map (fun m => if 32768 ≤ m then r.die * 256 + (r.bays.getD (m % 64) 0) % 128 else m) })) }

/-- What a bay keeps for a context begins anew with a context load: feeds, matrix state, templates (R220, R254, R256). -/
def State.resetBayCtx (s : State) (bay c : Nat) : State :=
  s.updBay bay (fun y => { y with
    feeds := y.feeds.filter (fun (p : Nat × Feed) => p.1 / 2 % 4 != c)
    tiles := y.tiles.filter (fun (p : Nat × Tile) => p.1 % 4 != c)
    templates := y.templates.filter (fun (p : Nat × TemplState) => p.1 / 16 != c) })

/-- The handler words of an image written into a context of a loan's region, and its templates armed as they say (R118 step 3, R256).
A hit writes no word. -/
def State.writeContext (s : State) (id : Nat) (l : Loan) (c : Nat) (img : Image) (hit : Bool) : State :=
  let r := l.rect
  let old (k : Nat) : List Nat := if hit then ((s.el k).ctx c).badWords else []
  let new := img.elements.map (fun i => (l.elKey i, loadedCtx img id i (old (l.elKey i))))
  let s := r.bays.zipIdx.foldl (fun s p => (s.emptyEls p.1 c).resetBayCtx p.1 c) s
  let s := new.foldl (fun s p => s.updEl p.1 (fun e => e.updCtx c (fun _ => p.2))) s
  let held (y : Bay) (part : Nat) : BayCtx := ⟨.loaned, img, part, (y.ctxAt c).lastLoan, if hit then (y.ctxAt c).loadedAt else s.cycle⟩
  let s := r.bays.zipIdx.foldl (fun s p => s.updBay p.1 (fun y => { y with ctxs := AMap.put y.ctxs c (held y p.2) })) s
  img.templates.foldl (fun s (p : Nat × Template) => s.updBay (l.bayKey (p.2.trigEl / 128)) (fun y =>
    { y with templates := AMap.put y.templates (c * 16 + p.1) ⟨p.2.arm, 0⟩ })) s

/-- The offset of a bay-local address in a tile window, if it is in it (R240). -/
def windowOffset (w : Window) (first x : Nat) : Option Nat :=
  let lines := squareSize w.ty / 32
  let line := x % 2 ^ 20 / 512
  if x / 2 ^ 20 ≠ w.tile then none
  else
    let n := (line + 4096 - first - w.base % 2 ^ 20 / 512) % 2048
    match (List.range 16).find? (fun i => tileLine w first (n / lines * 16 + i) (n % lines) == x / 32 * 32) with
    | none => none
    | some i =>
      let off := (n / lines * 16 + i) * squareSize w.ty + n % lines * 32 + x % 32
      if off < w.size then some off else none

/-- The tile windows of an image cleared in every bay of its loan (R13, R118 step 4). -/
def State.clearWindows (s : State) (l : Loan) (img : Image) : State :=
  let ws := (img.windows.filter (fun (p : Nat × Window) => !p.2.virt)).map Prod.snd
  let inside (a : Nat) : Bool := l.rect.bays.contains (a / 2 ^ 22) && ws.any (fun w => (windowOffset w l.firstLine (a % 2 ^ 22)).isSome)
  { s with tmem := s.tmem.filter (fun (p : Host.Cell) => !inside p.1), eccBad := s.eccBad.filter (fun e => !inside (e.1 * 8)) }

/-- One record of section 12 written into a bay (R80). -/
def State.writeRecord (s : State) (l : Loan) (img : Image) (bay : Nat) (d : TileData) : State :=
  match AMap.find img.windows d.win with
  | none => s
  | some w => d.data.zipIdx.foldl (fun s p =>
      if d.off + p.2 < w.size then
        let a := tileTr bay (tileAddr w l.firstLine (d.off + p.2))
        { s with tmem := writeByte s.tmem a p.1, eccBad := s.eccBad.filter (fun e => e.1 != a / 8) }
      else s) s

/-- The records of section 12: those for every bay first, so that those for one bay stand (R80). -/
def State.writeRecords (s : State) (l : Loan) (img : Image) : State :=
  let s := (img.tileData.filter (fun d => d.bay == 0xFF)).foldl (fun s d => l.rect.bays.foldl (fun s b => s.writeRecord l img b d) s) s
  (img.tileData.filter (fun d => d.bay != 0xFF)).foldl (fun s d => s.writeRecord l img (l.bayKey d.bay) d) s

/-- Cycles of a configuration write (R118): a word a cycle in each bay while the windows are cleared at 512 bytes a cycle in each memory
tile, then the records of section 12 at that rate. -/
def Image.writeCycles (img : Image) (words clears : Bool) : Nat :=
  let bays := List.range (img.w * img.h)
  let most (f : Nat → Nat) : Nat := bays.foldl (fun m b => max m (f b)) 0
  let inTile (t : Nat) (n : Nat) : Bool := match AMap.find img.windows n with | some w => w.tile == t | none => false
  let ws := if words then most img.bayWords else 0
  let cs := if clears then ([0, 1, 2, 3] : List Nat).foldl (fun m t =>
    max m (((img.windows.filter (fun (p : Nat × Window) => !p.2.virt && p.2.tile == t)).map (fun p => (p.2.size + 511) / 512)).sum)) 0 else 0
  let rs := most (fun b => ([0, 1, 2, 3] : List Nat).foldl (fun m t =>
    max m (((img.tileData.filter (fun d => inTile t d.win && (d.bay == 0xFF || d.bay == b))).length * 32 + 511) / 512)) 0)
  max ws cs + rs

/-! ### The start of an activation (R11, R94, R136, R140) -/

/-- A plane given to every element of a context, for an activation (R40); `none` when an element has none free. -/
def State.givePlanes (s : State) (id act c : Nat) : Option State :=
  let mine := s.els.filter (fun (p : Nat × Element) => (p.2.ctx c).loan == some id)
  if mine.any (fun (p : Nat × Element) => p.2.freePlane.isNone) then none
  else some (mine.foldl (fun s (p : Nat × Element) => match p.2.freePlane with
    | some i => s.updEl p.1 (fun e => { e with planes := AMap.put e.planes i ⟨[], [], some (id, act)⟩ }.updCtx c (fun x => { x with plane := some i }))
    | none => s) s)

/-- A token put into a queue of a loan's element by the loader: it counts from now. -/
def State.putToken (s : State) (id c index port hnd : Nat) (q : QEntry) : State :=
  match AMap.find s.loans id with
  | none => s
  | some l =>
    let s := s.updEl (l.elKey index) (fun e => e.updActive c (fun pl => pl.updQueue port (· ++ [⟨q, s.cycle, false⟩])))
    s.born id q.tag (portIters (l.imageOf c) (handlerKey index hnd) port q.tag)

/-- The primes of an image, in the order of its records (R11). -/
def State.putPrimes (s : State) (id c : Nat) (img : Image) (t : Tag) : State :=
  img.primes.foldl (fun s p => (List.range p.count).foldl (fun s _ =>
    s.putToken id c p.el p.port p.hnd (mkEntry c p.hnd .data true 0 p.operand t)) s) s

/-- Argument words, in turn to the valid entries (R94, R352), with what they descend from. -/
def State.putArgs (s : State) (id c : Nat) (img : Image) (t : Tag) (args : List W32) (prior : List Nat) : State :=
  args.zipIdx.foldl (fun s p => match img.entries[p.2 % img.entries.length]? with
    | some (.element i port h) => s.putToken id c i.toNat port.toNat h.toNat { mkEntry c h.toNat .data true 0 p.1 t with prior := prior }
    | _ => s) s

/-- A loan's first activation begins in its context (R94, R118 step 5, R140, R385): a frame of class 0, planes, primes, arguments and
start triggers; `none` while there is no frame or no plane for it. The activation of a successor is looked up at its own first firing
(DESIGN CHOICE, log 148: R122 speaks of a loan's first firing, and names no rule for the successors of its exit chain). -/
def State.startFirst (s : State) (id : Nat) : Option State :=
  match AMap.find s.loans id with
  | none => none
  | some l =>
    let act := l.nextAct
    match l.allocFrame l.image true 0 act true Tag.zero 0 [] s.cycle with
    | none => none
    | some (f, l) =>
      let l := { l with
        acts := [(act, ⟨l.ctx, f, none, false, false, [], [], s.cycle⟩)]
        nextAct := act + 1
        firstFrame := f
        state := .running
        exitTaken := none
        looked := false
        fired := false
        lastFiring := s.cycle
        chain := l.chain + 1
        exits := [] }
      let t := Tag.initial f
      match { s with loans := AMap.put s.loans id l }.givePlanes id act l.ctx with
      | none => none
      | some s => some ((((s.putPrimes id l.ctx l.image t).putArgs id l.ctx l.image t l.slip.args [])).startTriggers id l.ctx t)

end Sys2Proof.Machine
end

