-- ==== Sys2Proof/Machine/Retire.lean ====
section
/-! DEFINITION. Retirement and return (R382 to R387): iterations that retire, the release of their stores, exits and their drain, the
application of an exit, and the return of a loan. -/
namespace Sys2Proof.Machine

/-! ### Iterations that retire (R383) -/

/-- Whether an iteration is the oldest of its instance in flight. -/
def Loan.oldestOfInstance (l : Loan) (g : Flight) : Bool :=
  match oldestIter (l.inflight g.loop g.frame g.its.dropLast) with
  | some k => g.its.getLast? == some k
  | none => false

/-- Whether every wave of an iteration is complete, or holds no access. -/
def Loan.wavesDone (l : Loan) (g : Flight) : Bool :=
  l.waves.all (fun v => v.complete || !(v.frame == g.frame && v.cls == g.loop && v.its.take g.its.length == g.its))

/-- Whether an iteration in flight lies within another. -/
def Loan.inside (l : Loan) (g o : Flight) : Bool :=
  decide (o.its.length < g.its.length) && (l.chainOf g.loop g.frame g.its).contains (o.frame, o.its)

/-- Whether an iteration may retire (R383). -/
def Loan.mayRetire (l : Loan) (g : Flight) : Bool :=
  !g.faulting && l.oldestOfInstance g && l.pendOf (g.frame, g.its) == 0 && l.wavesDone g && !l.flights.any (fun i => l.inside i g)

/-- The iteration of a region that retires next: of several that are ready, the oldest (R131). -/
def Loan.retirable (l : Loan) : Option Flight :=
  if l.state == .running || l.state == .switching then { l with flights := l.flights.filter l.mayRetire }.oldestFlight else none

/-- A kept reply that belongs to an iteration (R330). -/
def Loan.replyOf (l : Loan) (g : Flight) (k : KeptReply) : Bool :=
  let i := hinfoOf (l.imageOfFrame g.frame) k.hkey
  k.tag.frame.toNat == g.frame && i.innermost == g.loop && k.tag.its g.its.length == g.its

/-- An iteration retires (R383): its deferred stores are released in the order in which they were performed, and its log, kept replies
and place among the iterations in flight are free. -/
def Loan.retire (l : Loan) (g : Flight) : Loan :=
  let mine (t : Store) : Bool := t.loop == g.loop && t.frame == g.frame && t.its == g.its
  { l with
    commit := l.commit.filter (fun t => !mine t)
    releasing := l.releasing ++ l.commit.filter mine
    kept := l.kept.filter (fun k => !l.replyOf g k)
    waves := l.waves.filter (fun v => !(v.frame == g.frame && v.cls == g.loop && v.its.take g.its.length == g.its))
    flights := l.flights.erase g }

/-! ### Stores on their way home (R251, R282, R383) -/

/-- Stores in groups that leave together: words of one access for one square of one home. -/
def storeGroups : List Store → List (List Store)
  | [] => []
  | t :: rest => match storeGroups rest with
    | (u :: us) :: gs => if t.access = u.access ∧ t.home = u.home ∧ t.q = u.q then (t :: u :: us) :: gs else [t] :: (u :: us) :: gs
    | gs => [t] :: gs

/-- Whether a retired store may leave for its home: one with release strength waits until the stores of its wave made before it, and those
from which its operands descend, have committed (R282). -/
def Loan.storeMayGo (l : Loan) (t : Store) : Bool :=
  !t.release || ((l.releasing.takeWhile (fun u => u.access != t.access)).all (fun u => !(u.loop == t.loop && u.tag == t.tag)) &&
    l.committedPrior t.prior [])

/-- Whether two stores belong to iterations of one instance. -/
def Store.sameInstance (t u : Store) : Bool := t.loop == u.loop && t.frame == u.frame && t.its.dropLast == u.its.dropLast

/-- The group of retired stores that leaves next: the first that may go, after others of its instance that wait (R282, R383). -/
def nextGroup (may : Store → Bool) : List (List Store) → List Store → Option (List Store)
  | [], _ => none
  | [] :: gs, held => nextGroup may gs held
  | (t :: ts) :: gs, held => if may t && !held.any t.sameInstance then some (t :: ts) else nextGroup may gs (t :: held)

/-- Stores of a group at their bank (R242, R251): a line's words merge with other writes of it, a block takes its lines. -/
def State.postCommit (s : State) (id : Nat) (l : Loan) (t : Store) (ts : List Store) : State :=
  let block := ts.any (fun u => u.j != t.j)
  s.postBank t.home t.win.tile (bankOfSquare t.win t.first t.q) (1 + l.hops ((l.bayNumber t.home).getD 0))
    ⟨.commit id (t :: ts), lineId t.win t.first t.q t.j t.o, t.o,
      if block || t.void then .alone else .write ((t :: ts).map Store.k), if block then 8 else 1, 7, 0⟩

/-- A group of retired stores sent home: a tile's words to their bank, a virt square's as a cell (R251, R262). -/
def State.sendStores (s : State) (id : Nat) (l : Loan) (g : List Store) : State :=
  match g with
  | [] => s
  | t :: _ =>
    let sent := g.map (fun u => { u with sent := true })
    let s := s.updLoan id (fun l => { l with releasing := l.releasing.map (fun u => if g.contains u then { u with sent := true } else u) })
    if t.win.virt then
      s.sendCell l.die (bayPort (l.bayKey 0)) 1 id 0 (.commit sent) { Cell.blank with
        note := l.slip.note, dportDie := BitVec.ofNat 2 (homeDie t.home), dport := BitVec.ofNat 8 (s.homePort t.home) }
    else s.postCommit id l { t with sent := true } (sent.drop 1)

/-- Whether a store's way home is closed: its port waits, or its chunk moves (R125, R262). -/
def State.homeClosed (s : State) (l : Loan) (t : Store) : Bool :=
  t.win.virt && (s.stalled l.die (bayPort (l.bayKey 0)) l.slip.note false || (AMap.find s.trans.moving (chunkOf t.home)).isSome)

/-- Retired stores leave in order, up to 8 words in this cycle (R383); a longer group keeps the next from leaving. -/
def State.releaseStores (s : State) (id : Nat) : Nat → Nat → State
  | 0, _ => s
  | fuel + 1, n => match AMap.find s.loans id with
    | none => s
    | some l =>
      let waiting := l.releasing.filter (fun t => !t.sent)
      match nextGroup l.storeMayGo (storeGroups waiting) [] with
      | some (t :: ts) =>
        if 8 ≤ n ∨ s.cycle < l.commitFree ∨ s.homeClosed l t then s
        else
          let n := n + (t :: ts).length
          let s := if n ≤ 8 then s else s.updLoan id (fun l => { l with commitFree := s.cycle + (n + 7) / 8 })
          (s.sendStores id l (t :: ts)).releaseStores id fuel n
      | _ => s

/-- Whether retirement has something to do in this cycle. -/
def Loan.retires (l : Loan) : Bool := l.retirable.isSome || l.releasing.any (fun t => !t.sent)

/-- `ITERATION_RETIRE` (R383): at most one iteration of a region retires in a cycle, and stores that have been released leave. -/
def execIterationRetire (loan : Nat) (s : State) : Host.Outcome State Fault Refusal :=
  let s := match AMap.find s.loans loan with
    | some l => (match l.retirable with
      | some g => (s.updLoan loan (fun l => l.retire g)).wakeWaves loan
      | none => s)
    | none => s
  .next (s.releaseStores loan 9 0)

/-! ### The predictor (R120, R121) -/

/-- The entry index and tag of a configuration and an exit. -/
def predictIndex (cfg exit : Nat) : Nat := (cfg / 64 % 256) ^^^ (exit * 32)
@[inherit_doc predictIndex] def predictTag (cfg : Nat) : Nat := cfg / 2 ^ 14 % 2 ^ 38

/-- The predictor after an exit has been taken from a configuration (R121). -/
def predictTaken (p : AMap Predict) (cfg exit : Nat) : AMap Predict :=
  let tag := predictTag cfg
  let k := predictIndex cfg exit
  let e : Predict := match AMap.find p k with
    | some e => if e.tag = tag then { e with count := if e.count = 3 then 3 else e.count + 1 } else ⟨tag, 1⟩
    | none => ⟨tag, 1⟩
  ((List.range 8).filter (· != exit)).foldl (fun p n =>
    let i := predictIndex cfg n
    match AMap.find p i with
    | some x => if x.tag = tag then AMap.put p i { x with count := if x.count = 0 then 0 else x.count - 1 } else p
    | none => p) (AMap.put p k e)

/-! ### Taking an exit (R205, R384) -/

/-- The first of the exit tokens that have arrived: lower element, then lower handler. -/
def firstExit (now : Nat) : List (Nat × Nat × Nat × Nat) → Option (Nat × Nat × Nat × Nat)
  | [] => none
  | x :: xs => match firstExit now xs with
    | none => if x.1 ≤ now then some x else none
    | some y => if x.1 ≤ now ∧ (x.2.1 < y.2.1 ∨ (x.2.1 = y.2.1 ∧ x.2.2.1 ≤ y.2.2.1)) then some x else some y

/-- `EXIT_TAKEN` (R121, R205, R384): the first exit token is taken; firing stops and the drain begins in the next cycle. Tokens that
arrive in the same cycle are all there before one is taken. -/
def execExitTaken (loan : Nat) (s : State) : Host.Outcome State Fault Refusal :=
  match AMap.find s.loans loan with
  | none => .next s
  | some l =>
    if l.exitTaken.isSome || !(l.state == .running || l.state == .switching) then .next s
    else match firstExit s.cycle l.exits with
    | none => .next s
    | some (_, _, _, x) =>
      let cfg := (l.imageOf (x / 8)).addr
      let s := s.updLoan loan (fun l => { l with exitTaken := some x, lastExit := x % 8 })
      let s := s.updBay (l.bayKey 0) (fun y => { y with predictor := predictTaken y.predictor cfg (x % 8) })
      .next (s.later 1 (.exitDrainDone loan))

/-! ### The drain (R384) -/

/-- Whether an access that a drain finds is performed all the same: it has left its bay, or it is performable in the wave buffer; a
deferred store belongs to an iteration that has not retired. -/
def Access.drains (a : Access) (l : Loan) (now : Nat) : Bool :=
  match a.stage with
  | .buffered | .kept => false
  | .waiting => a.isDecant || (!a.skip && !a.deferred l && l.inTurn a now)
  | .issued | .performed => true

/-- An element without what a loan has in it: its context keeps only what the image loaded, its planes are free, and its tokens that
stand still are gone. -/
def Element.strip (e : Element) (id : Nat) (clearBeats : Bool) : Element :=
  let ours (c : Nat) : Bool := (e.ctx c).loan == some id
  { e with
    ctxs := e.ctxs.map (fun (p : Nat × ElCtx) => if p.2.loan = some id then
      (p.1, { p.2 with plane := none, frozen := [], triggers := [], latch := [], claims := [], emitting := [], run := none }) else p)
    planes := e.planes.filter (fun (p : Nat × Plane) => match p.2.owner with | some (o, _) => o != id | none => true)
    ready := e.ready.filter (fun r => !ours r.ctx)
    ordered := e.ordered.filter (fun r => !ours r.ctx)
    matching := e.matching.filter (fun m => !ours m.2.ctx)
    opA := if clearBeats then [] else e.opA
    opB := if clearBeats then [] else e.opB
    scA := if clearBeats then [] else e.scA
    scB := if clearBeats then [] else e.scB }

/-- A bay without what a loan has waiting in it: triggers, commands, streams, accords, and its contexts' park trace. -/
def Bay.strip (y : Bay) (id : Nat) (ctxs : List Nat) : Bay :=
  { y with
    fireQueue := y.fireQueue.filter (fun x => x.loan != id)
    commands := y.commands.filter (fun (p : Nat × DCommand) => p.2.loan != id)
    feeds := y.feeds.map (fun (p : Nat × Feed) => if ctxs.contains (p.1 / 2 % 4) then (p.1, { p.2 with queue := [], lanes := [], isOpen := false }) else p)
    accords := y.accords.filter (fun a => a.loan != id)
    readyAccords := y.readyAccords.filter (fun a => !ctxs.contains a.ctx)
    parkTrace := y.parkTrace.filter (fun q => !ctxs.contains q.ctx.toNat) }

/-- Whether an element's tile is in matrix mode for a context that a loan holds. -/
def State.inMatrix (s : State) (key : Nat) (e : Element) (id : Nat) : Bool :=
  (List.range 4).any (fun c => (e.ctx c).loan == some id && (s.mxTile key c).mode != .scalar)

/-- The places of the park stores that a loan's tokens hold given back. -/
def State.giveParkStores (s : State) (id : Nat) (l : Loan) : State :=
  let places := l.frames.flatMap (fun (p : Nat × Frame) => match p.2.parked with | some k => k.tokens.map Prod.fst | none => []) ++
    l.acts.flatMap (fun (p : Nat × Activation) => (p.2.landed ++ p.2.held).map Prod.fst)
  places.foldl (fun s p => s.parkGive id p) s

/-- Everything of a loan that its end discards without a record (R384). Parked frames and frozen activations go with it. -/
def Loan.discard (l : Loan) : Loan :=
  { l with
    acts := []
    frames := []
    flights := []
    pends := []
    waves := []
    buffered := []
    commit := []
    kept := []
    sq := []
    sqPrior := []
    creditPrior := []
    claims := []
    barriers := []
    waits := 0
    exits := []
    calling := none
    thaw := none
    marked := []
    ramps := []
    away := []
    annexUsed := 0
    bayUsed := [] }

/-- The answers of some `SCANOUT`s or `SCANIN`s. -/
def State.answerScans (s : State) (ws : List (Nat × Nat × Option Flit)) (v : W32) : State :=
  ws.foldl (fun s w => match w.2.2 with | some f => s.inject 1 w.2.1 (f.withOperand v) | none => s) s

/-- A decanter that a switch had stopped goes on to its firing's end. -/
def State.goDecanters (s : State) (id : Nat) (l : Loan) : State :=
  l.rect.bays.foldl (fun s bay => (s.bay bay).decanters.foldl (fun s (p : Nat × Firing) =>
    let busy := s.accs.any (fun (a : Nat × Access) => a.2.loan == id && (match a.2.op with | .decant _ _ _ d => d == p.1 | _ => false) &&
      a.2.bayOf l == bay)
    if p.2.loan = id ∧ !busy then s.startBlock bay p.1 else s) s) s

/-- Wing records that are closed and for which no arrival is pending are free (R312). -/
def Hub.dropClosed (h : Hub) : Hub :=
  { h with wingBarriers := h.wingBarriers.filter (fun (p : Nat × Barrier) =>
      p.2.count != 0 || h.arrivals.any (fun (q : Nat × Arrival) => q.2.wing && q.2.tested && q.2.key == p.1)) }

/-- The drain begins (R384): no handler of the loan fires from now on, and what it discards is gone. -/
def State.beginExit (s : State) (id : Nat) (l : Loan) : State :=
  let s := s.giveParkStores id l
  let s := { s with accs := s.accs.filter (fun (p : Nat × Access) => p.2.loan != id || p.2.drains l s.cycle) }
  let s := { s with els := s.els.map (fun (p : Nat × Element) => (p.1, p.2.strip id (s.inMatrix p.1 p.2 id))) }
  let s := { s with els := s.els.map (fun (p : Nat × Element) => (p.1, { p.2 with
      out := AMap.upd p.2.out [] 5 (fun fs => fs.filter (fun f => match f.emit with
        | .request n => (AMap.find s.accs n).isSome || f.loan != id
        | _ => true)) })) }
  let s := l.rect.bays.foldl (fun s b => s.updBay b (fun y => y.strip id l.ctxs)) s
  let mine (x : Launching) : Bool := x.loan == id
  let s := s.updHub (fun h => { h with
    waits := h.waits.filter (fun (p : Nat × TlWait) => p.2.loan != id)
    launches := h.launches.filter (fun (p : Nat × Launching) => !(mine p.2 && p.2.stuck))
    arrivals := h.arrivals.filter (fun (p : Nat × Arrival) => p.2.loan != id)
    parkList := h.parkList.filter (fun x => x.1 != id) }.dropClosed)
  let going := (s.hub.launches.filter (fun (p : Nat × Launching) => mine p.2)).length
  let s := s.updLoan id (fun l => { l.discard with state := .exiting, launches := going, switchers := [], restorers := [] })
  let s := s.answerScans l.switchers 3
  let s := if l.state == .switching then s.goDecanters id l else s
  s.wakeWaves id

/-- Whether a cell of a loan is in an Exchange, at a port or at an ingress. -/
def State.cellsLeft (s : State) (id : Nat) : Bool := s.cellsOut id []

/-- Whether an element has an emission of a loan on its way. -/
def Element.emits (e : Element) (id : Nat) : Bool :=
  let mine (f : Flit) : Bool := f.loan == id
  e.out.any (fun p => p.2.any mine) || e.links.any (fun p => p.2.any mine) || e.outside.any (fun p => mine p.2) ||
    e.pending.any (fun p => p.loan == id)

/-- Whether a loan's decanter is at work. -/
def State.decants (s : State) (id : Nat) : Bool := s.bays.any (fun (p : Nat × Bay) => p.2.decanters.any (fun (q : Nat × Firing) => q.2.loan == id))

/-- Whether nothing of a loan is outstanding (R384, R386 step 1). -/
def State.drained (s : State) (id : Nat) (l : Loan) : Bool :=
  !s.accs.any (fun (p : Nat × Access) => p.2.loan == id) && !s.cellsLeft id && l.releasing == [] && l.launches == 0 &&
    !s.els.any (fun (p : Nat × Element) => p.2.emits id) && !s.decants id

/-! ### The exit entry applied (R38, R385) -/

/-- A context that a loan holds becomes resident (R116): its words stay, everything else is gone. -/
def State.makeResident (s : State) (id : Nat) (l : Loan) (c : Nat) : State :=
  let s := l.rect.bays.foldl (fun s b => (s.updBay b (fun y => { y with
    ctxs := AMap.upd y.ctxs BayCtx.empty c (fun x => if x.image.handlers = [] then BayCtx.empty else { x with st := .resident })
    readyAccords := y.readyAccords.filter (fun a => a.ctx != c) })).resetBayCtx b c) s
  { s with els := s.els.map (fun (p : Nat × Element) => if (p.2.ctx c).loan = some id then
      (p.1, p.2.updCtx c (fun x => { ElCtx.empty with handlers := x.handlers, badWords := x.badWords, depths := x.depths, prio := x.prio, prioNow := x.prio })) else p) }

/-- The exit entry that has been taken: its number, and what its image says of it. -/
def Loan.exitEntry (l : Loan) : Option (Nat × ExitEntry) :=
  match l.exitTaken with
  | none => none
  | some x => (AMap.find (l.imageOf (x / 8)).exits (x % 8)).map (fun e => (x % 8, e))

/-- Whether a prefetch of an image on a loan's rectangle is in progress (R123). -/
def State.prefetchesOn (s : State) (l : Loan) (addr : Nat) : Bool :=
  s.hub.prefetches.any (fun (p : Nat × Prefetch) => p.2.space == l.slip.space && p.2.addr == addr && p.2.ctx < 4 &&
    (⟨p.2.die, p.2.nwb, p.2.w, p.2.h⟩ : Rect) == l.rect)

/-- The context of a loan's rectangle, other than its own, that holds a resident image of an address and no loan in any bay (R117). -/
def State.residentAt (s : State) (l : Loan) (addr : Nat) : Option Nat :=
  (List.range 4).find? (fun c => c != l.ctx && l.rect.bays.zipIdx.all (fun p =>
    let x := (s.bay p.1).ctxAt c
    x.st == .resident && x.part == p.2 && x.image.w == l.w && x.image.h == l.h && s.headerHits l.slip.space addr x.image))

/-- The successor's image is fetched: into a context where it is resident, or into the loan's own (R385). The loan's other contexts
become resident. -/
def State.beginSuccessor (s : State) (id : Nat) (l : Loan) (addr : Nat) : State :=
  let found := s.residentAt l addr
  let c := found.getD l.ctx
  let s := (l.ctxs.filter (· != c)).foldl (fun s k => s.makeResident id l k) s
  let s := s.setCtx l.rect c (fun x => { x with st := .loaned, lastLoan := s.cycle })
  (s.updLoan id (fun l => { l with state := .fetching, hit := found.isSome, ctx := c, ctxs := [c] })).fetchFor id l addr

/-- `EXIT_DRAIN_DONE` (R384, R385): the drain begins, goes on until nothing is outstanding, and the exit entry that was taken is
applied. -/
def execExitDrainDone (loan : Nat) (s : State) : Host.Outcome State Fault Refusal :=
  match AMap.find s.loans loan with
  | none => .next s
  | some l =>
    if l.state == .running || l.state == .switching then .next ((s.beginExit loan l).later 1 (.exitDrainDone loan))
    else if l.state != .exiting then .next s
    else if !s.drained loan l then .next (s.later 1 (.exitDrainDone loan))
    else
      let returns := (s.updLoan loan (fun l => { l with state := .returning })).later 1 (.loanReturn loan)
      if l.byKernel then .next returns
      else match l.exitEntry with
      | none => .next returns
      | some (_, e) =>
        if e.ret then .next returns
        else if s.prefetchesOn l e.addr then .next (s.later 1 (.exitDrainDone loan))
        else .next (s.beginSuccessor loan l e.addr)

/-! ### Return (R386, R387) -/

/-- A release of a fault-handler slip has run its course (R93). -/
def Hub.handlerDone (h : Hub) (slip : Slip) : Hub :=
  match slip.handlerOf with
  | some va => { h with handlersBusy := h.handlersBusy.erase (slip.space, va) }
  | none => h

/-- The return record of a loan (R387). -/
def Loan.returnRec (l : Loan) (now : Nat) (cmpd sat : Bool) : ReturnRec where
  sid := l.slip.sid
  stamp := now
  placed := l.placed
  fires := l.fires
  spills := min (2 ^ 32 - 1) (l.spills + l.planeSpills)
  chain := l.chain
  xfl := BitVec.ofNat 8 (l.lastExit % 8 + (if l.byKernel then 8 else 0) + (if cmpd then 16 else 0) + (if sat then 32 else 0))
  die := l.die
  nwb := l.nwb

/-- Steps 3 and 4 of R386: contexts, reserves and translations are free, and the return is on record. -/
def State.releaseLoan (s : State) (id : Nat) (l : Loan) (cmpd sat : Bool) : State :=
  let s := l.ctxs.foldl (fun s c => s.makeResident id l c) s
  let s := { s with els := s.els.map (fun (p : Nat × Element) => (p.1, p.2.strip id false)) }
  let s := s.unpin id l
  let s := { s with
    loans := AMap.del s.loans id
    trans := { s.trans with
      micro := s.trans.micro.filter (fun (p : Nat × List TlbEntry) => p.1 / 64 != id)
      lastMiss := s.trans.lastMiss.filter (fun p => p.1 / 64 != id) } }
  s.updHub (fun h => { h.handlerDone l.slip with
    annexTaken := h.annexTaken - l.slip.annex
    returns := (h.returns ++ [l.returnRec s.cycle cmpd sat]).drop (h.returns.length + 1 - 256) })

/-- `LOAN_RETURN` (R386): the completion increment is made when an exit has been taken and the kernel has not ended the loan; contexts,
reserves and translations are free, and the return record is written. -/
def execLoanReturn (loan : Nat) (s : State) : Host.Outcome State Fault Refusal :=
  match AMap.find s.loans loan with
  | none => .next s
  | some l =>
    let cmpd := l.slip.cmpv && l.exitTaken.isSome && !l.byKernel
    let t := l.slip.cmp.1.toNat
    let sat := cmpd && decide (2 ^ 64 ≤ s.timeline t + l.slip.cmp.2)
    if cmpd && s.stopped .timelines then .next (s.later 1 (.loanReturn loan))
    else
      let s := if cmpd then s.incTimeline t l.slip.cmp.2 { Report.of fTLSAT with loan := some loan } else s
      .next (s.releaseLoan loan l cmpd sat)

end Sys2Proof.Machine
end

