-- ==== Sys2Proof/Machine/System.lean ====
section
/-! DEFINITION. The system instructions (R357 to R360) but for the full switch: traps, `PARK` and the resuming of frames (R342, R358),
and configuration calls (R351 to R356, R399). -/
namespace Sys2Proof.Machine

/-! ### Traps (R340, R358) -/

/-- A firing that parks its own frame: its output is kept until `RESUME`. -/
def State.parkOwn (s : State) (f : FireCtx) (g : Got) (h : Hdr) (b : FY) (stop : List Kept → State → State) : State :=
  if !g.live then s
  else
    let flit := f.lateFlit h (Out.std f g b.d0 (g.op 0))
    if (AMap.find f.l.frames g.tag.frame.toNat).any (fun x => !x.released) then
      stop (match flit with | some x => [.emit f.index [x]] | none => []) (s.bornFlit f.id flit)
    else stop [] s

/-- A trap: the record with the operand and the trap code, and the frame parked without a faulting iteration. -/
def fireTrap (h : Hdr) (b : FY) (code : Nat) : State → Host.Outcome State Fault Refusal :=
  fire (shapeY h b 1) (fun f g => some (lateEff f g h b.d0))
    (fun f g s => s.parkOwn f g h b (fun kept s =>
      s.raise (f.report g code (BitVec.ofNat 64 ((g.op 0).toNat + b.sarg.toNat * 2 ^ 32))) f.info.counted kept))

/-- `TRAP` (R358). -/
def execTrap (h : Hdr) (b : FY) (s : State) : Host.Outcome State Fault Refusal := fireTrap h b fTRAP s

/-- `BRK` (R358). -/
def execBrk (h : Hdr) (b : FY) (s : State) : Host.Outcome State Fault Refusal := fireTrap h b fBRK s

/-- `PARK` (R358): the frame is parked without a record and entered in the hub's park list, which has 64 entries. -/
def execPark (h : Hdr) (b : FY) (s : State) : Host.Outcome State Fault Refusal :=
  fire (shapeY h b 1) (fun f g => if g.live && decide (64 ≤ s.hub.parkList.length) then none else some (lateEff f g h b.d0))
    (fun f g s => s.parkOwn f g h b (fun kept s =>
      if (AMap.find f.l.frames g.tag.frame.toNat).any (fun x => !x.released) then
        (s.parkFrame f.id g.tag f.info.counted false kept).updHub (fun x => { x with
          parkList := x.parkList ++ [(f.id, g.tag.frame.toNat, b.sarg.toNat, g.op 0)] })
      else s)) s

/-! ### Reads and writes of the element and the device (R358, R360) -/

/-- `PRIO` (R345, R358): nothing is written while the loan's priority lock is set. -/
def execPrio (h : Hdr) (b : FY) (s : State) : Host.Outcome State Fault Refusal :=
  fire (shapeY h b 1) (fun f g => some (valueEff f g [(b.d0, g.op 0)] Flag.none))
    (fun f g s => if !g.live || f.l.lock then s
      else s.updEl f.key (fun e => e.updCtx f.ctx (fun x => { x with
        prio := if b.scode.getLsbD 2 then (g.op 0).extractLsb' 0 2 else b.scode.extractLsb' 0 2 }))) s

/-- `FLTRD` (R358): with `CLR` the flags that it reads are cleared. -/
def execFltrd (h : Hdr) (b : FY) (s : State) : Host.Outcome State Fault Refusal :=
  fire (shapeY h b 1) (fun f g => some (valueEff f g [(b.d0, f.x.status)] Flag.none))
    (fun f g s => if g.live && b.scode.getLsbD 0 then
        s.updEl f.key (fun e => e.updCtx f.ctx (fun x => { x with status := x.status &&& ~~~f.x.status }))
      else s) s

/-- A half of a 64-bit value. -/
def half64 (hi : Bool) (v : W64) : W32 := if hi then v.extractLsb' 32 32 else v.extractLsb' 0 32

/-- `PERFRD` (R358). -/
def execPerfrd (h : Hdr) (b : FY) (s : State) : Host.Outcome State Fault Refusal :=
  fire (shapeY h b 1) (fun f g =>
    some (valueEff f g [(b.d0, half64 (b.sarg.getLsbD 4) (AMap.get f.x.perf 0 (b.sarg.toNat % 16)))] Flag.none)) noAfter s

/-- `TIMERD` (R358, R360). -/
def execTimerd (h : Hdr) (b : FY) (s : State) : Host.Outcome State Fault Refusal :=
  fire (shapeY h b 1) (fun f g => some (valueEff f g [(b.d0, half64 (b.scode.getLsbD 0) (BitVec.ofNat 64 s.cycle))] Flag.none)) noAfter s

/-- The contexts of a rectangle that are prefetching become empty, and with `all` those that are resident (R358). -/
def State.flush (s : State) (r : Rect) (all : Bool) : State :=
  let s := (List.range 4).foldl (fun s c => s.claimCtx r c) s
  if !all then s
  else r.bays.foldl (fun s b => (List.range 4).foldl (fun s c => if ((s.bay b).ctxAt c).st = .resident then s.emptyCtx b c else s) s) s

/-- `CFLUSH` (R358). -/
def execCflush (h : Hdr) (b : FY) (s : State) : Host.Outcome State Fault Refusal :=
  fire (shapeY h b 64) (fun f g => some (valueEff f g [(b.d0, g.op 0)] Flag.none))
    (fun f g s => if g.live then s.flush f.l.rect (b.scode.getLsbD 0) else s) s

/-! ### What a frame keeps (R342 step 4) -/

/-- Operands put back at the front of their queues in the plane of an activation. -/
def Element.putBack (e : Element) (id act now : Nat) (ops : List (Nat × QEntry)) : Element :=
  match e.planes.find? (fun (p : Nat × Plane) => p.2.owner == some (id, act)) with
  | some (i, _) => { e with planes := AMap.upd e.planes Plane.empty i (fun pl =>
      ops.foldr (fun o pl => pl.updQueue o.1 (fun q => (⟨o.2, now, false⟩ : QTok) :: q)) pl) }
  | none => e

/-- Operands that go back to their queues count again (R50, R382). -/
def State.bornOps (s : State) (id ctx hkey : Nat) (l : Loan) (ops : List (Nat × QEntry)) : State :=
  ops.foldl (fun s o => s.born id o.2.tag (portIters (l.imageOf ctx) hkey o.1 o.2.tag)) s
@[inherit_doc State.bornOps] def State.goneOps (s : State) (id ctx hkey : Nat) (l : Loan) (ops : List (Nat × QEntry)) : State :=
  ops.foldl (fun s o => s.gone id (hkey / 1024) o.2.tag (portIters (l.imageOf ctx) hkey o.1 o.2.tag)) s

/-- A request of a loan's element withdrawn from its memory buffer. -/
def State.withdrawRequest (s : State) (n : Nat) (a : Access) : State :=
  (s.updEl a.el (fun e => { e with out := AMap.upd e.out [] 5 (fun fs => fs.filter (fun x => !(x.emit == Emit.request n))) })).dropAccess n

/-- What a parked frame holds is discarded: its tokens and its kept work. -/
def State.discardParked (s : State) (id : Nat) (l : Loan) (p : Parked) : State :=
  let s := p.tokens.foldl (fun s x => (s.parkGive id x.1).dropFlit (x.1 / 4) x.2) s
  p.kept.foldl (fun s k => match k with
    | .reissue n | .skip n => s.dropAccess n
    | .trigger bay ctx u t tag cont prior => s.firingGone ((l.bayNumber bay).getD 0) ⟨id, t, u, tag, cont, ctx, 0, false, prior, 0⟩
    | .refire index ctx ops => s.goneOps id ctx (handlerKey index ((ops.head?.map (fun o => o.2.hnd.toNat)).getD 0)) l ops
    | .emit index fs => fs.foldl (fun s f => s.dropFlit (index / 128) f) s
    | .launch n => (match AMap.find s.hub.launches n with
      | some x => (s.endLaunch n x).goneFlit (x.index / 128) x.flit
      | none => s)) s

/-- Kept work goes on at `RESUME`: re-issued, skipped, fired again or emitted. -/
def State.goOn (s : State) (id act : Nat) (l : Loan) : Kept → State
  | .reissue n => (match AMap.find s.accs n with
    | some a => ({ s with accs := AMap.put s.accs n { a with stage := .waiting } }).later 1 (.accessPerform n)
    | none => s)
  | .skip n => (match AMap.find s.accs n with
    | some a => ({ s with accs := AMap.put s.accs n { a with stage := .waiting, skip := true } }).later 1 (.accessPerform n)
    | none => s)
  | .trigger bay ctx u t tag cont prior => let (n, s) := s.fresh; s.placeTrigger bay ⟨id, t, u, tag, cont, ctx, 0, false, prior, n⟩
  | .refire index _ ops => s.updEl (l.elKey index) (fun e => e.putBack id act s.cycle ops)
  | .emit index fs => fs.foldl (fun s f => s.inject 1 index f) s
  | .launch n => (match AMap.find s.hub.launches n with
    | some x => s.sendLaunch n { x with stuck := false }
    | none => s)

/-! ### Resuming a frame (R253, R342, R355, R358, R359) -/

/-- A logged operand enters again at its `LOOPIN`'s output, `d` cycles after the first. -/
def State.reenter (s : State) (id ctx d hkey : Nat) (l : Loan) (q : QEntry) : State :=
  let img := l.imageOf ctx
  match (decodeHandler (AMap.get img.handlers nopWord hkey)).toOption with
  | some (.loopin _ b) =>
    let index := hkey / 8
    (match mkFlit l img id (index / 128) ctx hkey (resolve img b.d0 q.cont) .data q.pred q.cont q.operand q.tag with
      | some x =>
        let r := match x.emit.asToken with
          | some t => routeCycles (l.place (l.elKey index)) (l.place (l.elKey t.el.toNat))
          | none => 0
        (s.born id q.tag x.iters).inject (1 + d + r) index (x.withPrior q.prior)
      | none => s)
  | _ => s

/-- The re-run of a faulting instance: the entry log of its iterations from the oldest that faulted, in age order. A younger one has
been entered by this, so its back-edge tokens are discarded when they come. -/
def State.rerun (s : State) (id f ctx : Nat) (x : List Nat × Nat) : State :=
  match AMap.find s.loans id with
  | none => s
  | some l =>
    let age (g : Flight) : Nat := (BitVec.ofNat 7 (g.its.getLast?.getD 0) - BitVec.ofNat 7 x.2).toNat
    let hit (g : Flight) : Bool := g.faulting && g.frame == f && g.its.dropLast == x.1
    let gs := sortBy (fun a b => decide (age a ≤ age b)) (l.flights.filter hit)
    let s := s.updLoan id (fun l => { l with flights := l.flights.map (fun g =>
      if hit g then { g with faulting := false, again := if age g = 0 then [] else g.log.map Prod.fst } else g) })
    (gs.flatMap Flight.log).zipIdx.foldl (fun s p => s.reenter id ctx p.2 p.1.1 l p.1.2) s

/-- A parked frame of a loan that runs. -/
def Loan.parkedFrame (l : Loan) (f : Nat) : Option (Frame × Parked) :=
  if l.state == .running || l.state == .switching then
    (AMap.find l.frames f).bind (fun fr => fr.parked.map (fun p => (fr, p)))
  else none

/-- The frame is parked no more. -/
def State.unpark (s : State) (id f : Nat) : State :=
  (s.updLoan id (fun l => { l with frames := l.frames.map (fun (p : Nat × Frame) => (p.1, if p.1 = f then { p.2 with parked := none } else p.2)) })).updHub
    (fun h => { h with parkList := h.parkList.filter (fun x => !(x.1 == id && x.2.1 == f)) })

/-- `run` (R358): faulting iterations are entered again, kept work goes on, and the parked tokens are delivered in park order. -/
def State.runFrame (s : State) (id f : Nat) (l : Loan) (fr : Frame) (p : Parked) : State :=
  let ctx := match AMap.find l.acts fr.act with | some a => a.ctx | none => l.ctx
  let s := s.unpark id f
  let s := p.faulting.foldl (fun s x => s.rerun id f ctx x) s
  -- iterations of deeper loops within them are entered anew by the re-run
  let s := s.updLoan id (fun l => { l with flights := l.flights.filter (fun g => !(g.frame == f && g.faulting)) })
  let s := p.kept.foldl (fun s k => s.goOn id fr.act l k) s
  p.tokens.zipIdx.foldl (fun s x =>
    let e := match x.1.2.emit with | .token t => Emit.token (Token.seal t) | .served t => .served (Token.seal t) | e => e
    (s.parkGive id x.1.1).inject (1 + x.2) (x.1.1 / 4 * 128) { x.1.2 with emit := e }) s

end Sys2Proof.Machine
end

