-- ==== Sys2Proof/Machine/Call.lean ====
section
/-! DEFINITION. Configuration calls and their return (R351 to R356, R399), `RESUME` and the kernel's resume (R340, R358, R359). -/
namespace Sys2Proof.Machine

/-! ### The call (R351, R358, R399) -/

/-- Arguments or results: `a`, `w0`, `w1`, `w2` of the firing plane. -/
def callWords (f : FireCtx) (g : Got) (n : Nat) : List W32 :=
  ([g.op 0] ++ (List.range 3).map (fun i => AMap.get (f.e.active f.ctx).w 0 i)).take n

/-- Results, arguments and base of a `CCALL`'s word (R357). -/
def ccallArgs (b : FY) : Nat := b.scode.toNat / 8 % 4 + 1
@[inherit_doc ccallArgs] def ccallResults (b : FY) : Nat := b.scode.toNat / 32 % 4 + 1

/-- The dead results of a `CCALL`, one a cycle. -/
def ccallDead (f : FireCtx) (g : Got) (b : FY) : List Out :=
  (List.range (ccallResults b)).map (fun i => { Out.dead f g (.cont (BitVec.ofNat 6 (b.sarg.toNat + i))) with delay := i })

/-- Cycle in which a call under way reaches bay 0. -/
def Calling.reach (c : Calling) (l : Loan) : Nat := c.fired + l.hops (c.index / 128)

/-- Whether a `CCALL` that fires now is its activation's call (R399): none is under way, or it reaches bay 0 before the one that is. -/
def FireCtx.mayCall (f : FireCtx) (now : Nat) : Bool :=
  f.l.thaw.isNone && (match f.l.calling with
    | none => true
    | some c => c.stage == .fetching && !c.fetched && decide (now < c.reach f.l) &&
        (decide (now + f.l.hops f.b < c.reach f.l) || (now + f.l.hops f.b == c.reach f.l && decide (f.index < c.index))))

/-- A call under way is given up: its operands go back ahead of newer tokens (R399). -/
def State.cancelCall (s : State) (id : Nat) (l : Loan) (c : Calling) : State :=
  let s := s.updEl c.el (fun e => e.putBack id c.act s.cycle c.ops)
  let s := s.bornOps id c.ctx (handlerKey c.index c.hnd) l c.ops
  let s := { s with agenda := s.agenda.filter (fun x => !(x.2 == Instr.imageFetchDone id || x.2 == Instr.planeSpillDone id)) }
  (s.updLoan id (fun l => { l with calling := none })).gone id (c.index / 128) c.tag c.iters

/-- A call begins: it counts as one until its results are sent. -/
def State.beginCall (s : State) (f : FireCtx) (g : Got) (h : Hdr) (b : FY) : State :=
  match AMap.find s.loans f.id, f.l.running f.ctx, applyTagop h.tagop f.info.depth true g.tag with
  | some l, some (act, _), some t =>
    let s := match l.calling with | some c => s.cancelCall f.id l c | none => s
    let iters := handlerIters f.img f.hkey g.tag
    let s := s.born f.id t iters
    let c : Calling :=
      { act := act, el := f.key, index := f.index, ctx := f.ctx, hnd := f.hnd, fired := s.cycle, tag := t, cont := g.cont
        base := b.sarg.toNat % 64, nres := ccallResults b, exit := b.scode.toNat % 8, args := callWords f g (ccallArgs b)
        ops := g.ops, image := Image.empty, fetched := false, goal := 0, callee := 0, stage := .fetching, quiet := 0
        iters := iters, place := 0, callerImage := f.img, prior := g.prior }
    (s.updLoan f.id (fun l => { l with calling := some c })).later (l.hops f.b + 1) (.imageFetchDone f.id)
  | _, _, _ => s

/-- `CCALL` (R351, R358, R359, R399): a dead one sends dead results and freezes nothing. -/
def execCcall (h : Hdr) (b : FY) (s : State) : Host.Outcome State Fault Refusal :=
  fire (shapeY h b 1) (fun f g =>
    if !g.live then some { Eff.none with outs := ccallDead f g b }
    else if (applyTagop h.tagop f.info.depth true g.tag).isNone then some { Eff.none with outs := ccallDead f g b, bad := some (fILLEGAL, 0) }
    else if f.mayCall s.cycle then some Eff.none
    else none)
    (fun f g s => if g.live then s.beginCall f g h b else s) s

/-- A call that comes to nothing: the caller gets dead results. -/
def State.failCall (s : State) (id : Nat) (l : Loan) (c : Calling) : State :=
  let s := s.updLoan id (fun l => { l with calling := none })
  let s := (List.range c.nres).foldl (fun s i =>
    s.answer id c.index c.ctx c.hnd (l.hops (c.index / 128) + 1 + i) (.cont (BitVec.ofNat 6 (c.base + i))) .data false c.cont 0 c.tag c.prior) s
  s.gone id (c.index / 128) c.tag c.iters

/-- Tile windows of an image that lie outside a loan's reservation: each by its place in the image's section 3. -/
def windowsOutside (l : Loan) (img : Image) : List Nat :=
  (List.range img.windows.length).filter (fun i => match img.windows[i]? with
    | some (_, w) => !w.virt && decide (l.parts.getD (w.base / 2 ^ 20) 0 < windowLines w)
    | none => false)

/-- Why a valid image is refused as a callee (R351), with the place of the failure (R398): the header field that is wrong, or the first
window outside the reservation. -/
def calleeBad (l : Loan) (c : Calling) (img : Image) : Option CfgBad :=
  if !img.callee then some ⟨0x31, 0, 0, 18⟩
  else if img.w != l.w then some ⟨0x31, 0, 0, 6⟩
  else if img.h != l.h then some ⟨0x31, 0, 0, 7⟩
  else if img.entries.length < c.args.length then some ⟨0x31, 0, 0, 28 + 4 * img.entries.length⟩
  else (windowsOutside l img).head?.map (fun i => ⟨0x31, 3, i, img.winOff + 32 * i⟩)

/-- The callee's image: the caller's own, one that is resident, or one read and checked. -/
def State.calleeImage (s : State) (l : Loan) (c : Calling) (addr : Nat) : Except CfgBad Image :=
  if s.headerHits l.slip.space addr c.callerImage then .ok c.callerImage
  else match s.residentAt l addr with
  | some k => .ok ((s.bay (l.bayKey 0)).ctxAt k).image
  | none =>
    let own := match s.readVirt l.slip.space addr 8 with | some hd => (field hd 6 1, field hd 7 1) | none => (l.w, l.h)
    (s.loadImage l.slip.space addr ⟨own.1, own.2, l.slip.priv, 0⟩).map (fun i => i.placed l.rect)

/-- Two records of one refusal (R38, R351): the naming of the image by its exit entry, then the image's own failure. -/
def State.refuseImage (s : State) (id : Nat) (by' : Image) (exit : Nat) (bad : CfgBad) : State :=
  let put (d : W64) (more : Bool) (s : State) : State :=
    s.updHub (fun h => h.record (mkRecord s { Report.of fCFG with loan := some id, detail := d, more := more } false))
  put bad.detail false (put (cfgDetail 0x30 5 exit (by'.exitOff + 8 * exit)) true s)

/-! ### The callee's context and planes (R351, R353, R354) -/

/-- The callee's context (R351): that of the caller for a self-call, one that is empty, or the one whose image was loaned least recently of
those that hold no loan and those of this loan in which only frozen activations are; the caller's own is among these. -/
def State.calleeCtx (s : State) (l : Loan) (c : Calling) (self : Bool) : Option Nat :=
  if self then some c.ctx
  else
    let slots (k : Nat) := l.rect.bays.map (fun b => (s.bay b).ctxAt k)
    match (List.range 4).find? (fun k => (slots k).all (fun x => x.st == .empty)) with
    | some k => some k
    | none =>
      let free (k : Nat) : Bool := if l.ctxs.contains k then k == c.ctx || (l.running k).isNone else (slots k).all (fun x => x.st != .loaned)
      let last (k : Nat) : Nat := (slots k).foldl (fun m x => max m x.lastLoan) 0
      ((List.range 4).filter free).foldl (fun best k => match best with
        | none => some k
        | some j => if last k < last j then some k else some j) none

/-- The oldest plane of a frozen activation of a loan that an element holds (R353). -/
def Element.oldestFrozen (e : Element) (id : Nat) (l : Loan) : Option Nat :=
  let age (p : Nat × Plane) : Nat := match p.2.owner with | some (_, a) => a | none => 0
  let mine (p : Nat × Plane) : Bool := decide (p.1 < 8) && (match p.2.owner with
    | some (o, a) => o == id && (AMap.find l.acts a).any (fun x => x.frozen)
    | none => false)
  ((e.planes.filter mine).foldl (fun best p => match best with
    | none => some p
    | some q => if age p < age q then some p else some q) none).map Prod.fst

/-- A plane of an element under another index. -/
def Element.movePlane (e : Element) (i n : Nat) : Element :=
  { e with
    planes := AMap.put (AMap.del e.planes i) n (e.plane i)
    badPlane := e.badPlane.map (fun p => if p.1 = i then (n, p.2) else p)
    ctxs := e.ctxs.map (fun (p : Nat × ElCtx) => (p.1, { p.2 with frozen := p.2.frozen.map (fun k => if k = i then n else k) })) }

/-- Bytes of the annex taken in one bay (R353, R354): 1 its `ANNEXRES`, 2 the slip's `ANNEX`, with the loan that has taken them. -/
def Loan.annexTakeBay (l : Loan) (b n : Nat) : Option (Nat × Loan) :=
  if AMap.get l.bayUsed 0 b + n ≤ AMap.get l.annexRes 0 b then some (1, { l with bayUsed := AMap.upd l.bayUsed 0 b (· + n) })
  else if l.annexUsed + n ≤ l.slip.annex * 2 ^ 20 then some (2, { l with annexUsed := l.annexUsed + n })
  else none
@[inherit_doc Loan.annexTakeBay] def Loan.annexGiveBay (l : Loan) (b n place : Nat) : Loan :=
  if place = 1 then { l with bayUsed := AMap.upd l.bayUsed 0 b (· - n) }
  else if place = 2 then { l with annexUsed := l.annexUsed - n }
  else l

/-- A plane of an element spilled to the annex: its index is then 8 or more, even in the bay's `ANNEXRES` and odd in the slip's `ANNEX`. -/
def State.spillPlane (s : State) (id key i : Nat) : Option State :=
  match AMap.find s.loans id with
  | none => none
  | some l => match l.annexTakeBay ((l.bayNumber (key / 256)).getD 0) 256 with
    | none => none
    | some (place, l) =>
      let n := ((List.range 4096).find? (fun k => (AMap.find (s.el key).planes (8 + 2 * k + (place - 1))).isNone)).getD 0 * 2 + 7 + place
      some ({ s with loans := AMap.put s.loans id { l with planeSpills := l.planeSpills + 1 } }.updEl key
        (fun e => (e.movePlane i n).countFor id 6))

/-- A call stopped by ANNEX_FULL before anything is frozen (R342, R353): its frame is parked; at depth 0 its operands are kept. -/
def State.stopCall (s : State) (id : Nat) (l : Loan) (c : Calling) : State :=
  let info := hinfoOf c.callerImage (handlerKey c.index c.hnd)
  let keep := info.ownDepth == 0 && (AMap.find l.frames c.tag.frame.toNat).any (fun x => !x.released)
  let s := if keep then s.bornOps id c.ctx (handlerKey c.index c.hnd) l c.ops else s
  let s := (s.updLoan id (fun l => { l with calling := none })).gone id (c.index / 128) c.tag c.iters
  s.raise { Report.of fANNEX with loan := some id, el := some c.el, ctx := c.ctx, hnd := c.hnd, tag := some c.tag, detail := 1 }
    info.counted (if keep then [.refire c.index c.ctx c.ops] else [])

/-- The freeze markers go out (R352). -/
def State.sendMarkers (s : State) (id : Nat) (l : Loan) (c : Calling) : State :=
  let s := s.updLoan id (fun l => { l with marked := [], calling := l.calling.map (fun c => { c with stage := .freezing, quiet := 0 }) })
  (List.range (l.w * l.h)).foldl (fun s b =>
    s.later (max (c.fired + 4 + 2 * l.bayDist (c.index / 128) b) s.cycle + 1 - s.cycle) (.freezeMarkerArrive id b)) s

/-- Cycles in which an image's handler words are written, a word a cycle in each bay (R118). -/
def Image.wordCycles (img : Image) : Nat :=
  (List.range (img.w * img.h)).foldl (fun m b => max m (img.bayWords b)) 0

/-- Whether a context of a loan's rectangle holds an image in every bay. -/
def State.holdsImage (s : State) (l : Loan) (k : Nat) (img : Image) : Bool :=
  l.rect.bays.zipIdx.all (fun p => let x := (s.bay p.1).ctxAt k; x.st == .resident && x.part == p.2 && x.image == img)

/-- The callee's context and planes are its own now (R351, R353, R354); its words are written before the freeze, but in the caller's own
context after it. -/
def State.claimCall (s : State) (id : Nat) (l : Loan) (c : Calling) (k : Nat) (self : Bool) : State :=
  match l.annexTakeBay 0 32 with
  | none => s.stopCall id l c
  | some (place, l) =>
    let act := l.nextAct
    let hit := s.holdsImage l k c.image
    let c := { c with goal := k, callee := act, place := place }
    let s := { s with loans := AMap.put s.loans id { l with nextAct := act + 1, ctxs := (l.ctxs ++ [k]).eraseDups, calling := some c } }
    let s := c.image.elements.foldl (fun s i => s.updEl (l.elKey i) (fun e => match e.freePlane with
      | some n => { e with planes := AMap.put e.planes n ⟨[], [], some (id, act)⟩ }
      | none => e)) s
    if self || k == c.ctx then s.sendMarkers id l c
    else
      let s := (s.claimCtx l.rect k).setCtx l.rect k (fun x => { x with st := .loaned, lastLoan := s.cycle })
      (s.updLoan id (fun l => { l with calling := l.calling.map (fun c => { c with stage := .loading }) })).later
        (c.image.writeCycles (!hit) false + 1) (.configWriteDone id)

/-- The spills that make room for the callee's planes (R353); `none` when the annex is full. The second is their greatest number in a bay. -/
def State.spillFor (s : State) (id : Nat) (l : Loan) (keys : List Nat) : Option (State × Nat) :=
  let ks := keys.filterMap (fun k => ((s.el k).oldestFrozen id l).map (fun i => (k, i)))
  let s' := ks.foldl (fun s p => s.bind (fun s => s.spillPlane id p.1 p.2)) (some s)
  s'.map (fun s => (s, ks.foldl (fun m p => max m ((ks.filter (fun q => q.1 / 256 == p.1 / 256)).length)) 0))

/-- The call looks for its context and its planes, and waits while it finds none (R351, R353). -/
def State.secureCall (s : State) (id : Nat) (l : Loan) (c : Calling) : State :=
  let self := c.image == c.callerImage
  if !self && l.ctxs.length == 4 then
    let s := (s.updLoan id (fun l => { l with calling := none })).gone id (c.index / 128) c.tag c.iters
    s.raise { Report.of fILLEGAL with loan := some id, el := some c.el, ctx := c.ctx, hnd := c.hnd, tag := some c.tag }
      (hinfoOf c.callerImage (handlerKey c.index c.hnd)).counted []
  else match s.calleeCtx l c self with
  | none => s.later 1 (.planeSpillDone id)
  | some k =>
    let keys := (c.image.elements.map l.elKey).filter (fun key => (s.el key).freePlane.isNone)
    if keys = [] then s.claimCall id l c k self
    else match s.spillFor id l keys with
    | none => s.stopCall id l c
    | some (s, n) => s.later (max 1 (4 * n)) (.planeSpillDone id)

/-- `PLANE_SPILL_DONE` (R353): planes have been spilled, or may be free by now; the call looks again. -/
def execPlaneSpillDone (loan : Nat) (s : State) : Host.Outcome State Fault Refusal :=
  match AMap.find s.loans loan with
  | some l => (match l.calling with
    | some c => .next (if c.stage == .planes then s.secureCall loan l c else s)
    | none => .next s)
  | none => .next s

/-- The callee's image has been read (R351): it is checked, and the call looks for its context. -/
def State.calleeFetched (s : State) (id : Nat) (l : Loan) (c : Calling) : State :=
  match AMap.find c.callerImage.exits c.exit with
  | none => s.failCall id l c
  | some e => match s.calleeImage l c e.addr with
    | .error bad => (s.refuseImage id c.callerImage c.exit bad).failCall id l c
    | .ok img => match calleeBad l c img with
      | some bad => (s.refuseImage id c.callerImage c.exit bad).failCall id l c
      | none =>
        let c := { c with image := img, fetched := true, stage := .planes }
        let s := s.updLoan id (fun l => { l with calling := some c })
        s.secureCall id { l with calling := some c } c

/-- The call reaches bay 0, and its image is read where it is not at hand (R351). -/
def State.calleeFetch (s : State) (id : Nat) (l : Loan) (c : Calling) : State :=
  match AMap.find c.callerImage.exits c.exit with
  | none => s.failCall id l c
  | some e =>
    if c.fetched || s.headerHits l.slip.space e.addr c.callerImage || (s.residentAt l e.addr).isSome then s.calleeFetched id l c
    else
      (s.updLoan id (fun l => { l with calling := some { c with fetched := true } })).fetchFor id l e.addr

/-- A context of a loan gets the words of another image. With `share` it keeps everything else that it holds (R227, R301, R351); frozen
planes stay in every case. -/
def State.rewriteContext (s : State) (id : Nat) (l : Loan) (c : Nat) (img : Image) (share hit : Bool) : State :=
  let old := s.els.filterMap (fun (p : Nat × Element) => if (p.2.ctx c).loan = some id then some (p.1, p.2.ctx c) else none)
  let bays := l.rect.bays.map (fun b => (b, (s.bay b).feeds, (s.bay b).tiles))
  let s := s.writeContext id l c img hit
  let s := if share then bays.foldl (fun s p => s.updBay p.1 (fun y => { y with feeds := p.2.1, tiles := p.2.2 })) s else s
  let s := old.foldl (fun s p => s.updEl p.1 (fun e => e.updCtx c (fun y =>
    if share then { p.2 with handlers := y.handlers, badWords := y.badWords, depths := y.depths }
    else { y with frozen := p.2.frozen, loan := some id, logical := p.2.logical }))) s
  s.updLoan id (fun l => { l with images := AMap.put l.images c img })

/-- The callee's words and its records of section 12 have been written: the freeze begins, or, in the caller's own context, its arguments
enter (R80, R351, R352). -/
def State.calleeLoaded (s : State) (id : Nat) (l : Loan) (c : Calling) : State :=
  let share := c.goal == c.ctx
  let s := (s.rewriteContext id l c.goal c.image share (s.holdsImage l c.goal c.image)).writeRecords l c.image
  if share then (s.updLoan id (fun l => { l with calling := some { c with stage := .entering } })).later 1 (.freezePoint id)
  else s.sendMarkers id l c

/-! ### The freeze (R306, R352) -/

/-- Ready firings of a context of an element go back (R342 step 2): operands into their slots, and the last of each among the landed
tokens of the activation. -/
def State.writeBackEl (s : State) (id ctx act key b : Nat) (l : Loan) : State :=
  let e := s.el key
  let index := (e.ctx ctx).logical
  let hit (r : Ready) : Bool := r.ctx == ctx && (e.ctx ctx).loan == some id
  let (os, rs) := ((e.ready ++ e.matching.map Prod.snd).filter hit).partition (Ready.isOrdred e)
  let s := s.updEl key (fun e => { e with
    ready := e.ready.filter (fun r => !hit r), matching := e.matching.filter (fun m => !hit m.2), ordered := e.ordered ++ os })
  rs.foldl (fun s r =>
    let n := slotBase (hinfoOf (l.imageOf ctx) (handlerKey index r.hnd)) r.tag
    let s := s.updLoan id (fun l => match AMap.find l.frames r.tag.frame.toNat with
      | none => l
      | some fr => { l with frames := AMap.put l.frames r.tag.frame.toNat (fr.refill b n r.ops.dropLast) })
    match r.ops.getLast? with
    | some (q, x) =>
      let (place, s) := s.parkTake id b (some r.tag)
      s.updLoan id (fun l => l.updAct act (fun y => { y with landed := y.landed ++ [(place, tokenFlit (l.imageOf ctx) id index q x)] }))
    | none => s) s

/-- The elements of some bays of a region that hold a context of a loan: key and bay. -/
def State.elsIn (s : State) (id ctx : Nat) (bays : List Nat) : List (Nat × Nat) :=
  s.els.filterMap (fun (p : Nat × Element) =>
    let x := p.2.ctx ctx
    if x.loan = some id ∧ bays.contains (x.logical / 128) then some (p.1, x.logical / 128) else none)

/-- The same in every element of some bays. -/
def State.writeBackReady (s : State) (id ctx act : Nat) (l : Loan) (bays : List Nat) : State :=
  (s.elsIn id ctx bays).foldl (fun s p => s.writeBackEl id ctx act p.1 p.2 l) s

/-- Credits latched in a context's handlers, and those on their way to them, go back to their queues, and claims are withdrawn (R306). -/
def State.returnLatches (s : State) (id ctx : Nat) (l : Loan) (bays : List Nat) : State :=
  let img := l.imageOf ctx
  (s.elsIn id ctx bays).foldl (fun s p =>
    let x := (s.el p.1).ctx ctx
    let index := x.logical
    let back := x.latch ++ x.claims.filter (fun h => s.agenda.any (fun a => a.2 == Instr.sqGrantArrive id index h))
    let sq (h : Nat) : Nat := ctx * 16 + (match (decodeHandler (AMap.get x.handlers nopWord h)).toOption with
      | some i => sqNumber img (handlerKey index h) i
      | none => 0)
    let mine (i : Instr) : Bool := x.claims.any (fun h => i == Instr.sqGrantArrive id index h || i == Instr.sqClaimArrive id index h)
    let s := { s with agenda := s.agenda.filter (fun a => !mine a.2) }
    let s := s.updEl p.1 (fun e => e.updCtx ctx (fun x => { x with latch := [], claims := [] }))
    s.updLoan id (fun l => { l with
      sq := back.foldl (fun m h => AMap.upd m 0 (sq h) (· + 1)) l.sq
      sqPrior := back.foldl (fun m h => AMap.upd m [] (sq h) (· ++ [AMap.get l.creditPrior [] (creditKey ctx (handlerKey index h))])) l.sqPrior
      creditPrior := back.foldl (fun m h => AMap.del m (creditKey ctx (handlerKey index h))) l.creditPrior
      claims := l.claims.map (fun (q : Nat × List (Nat × Nat × Nat)) =>
        (q.1, if q.1 / 16 = ctx then q.2.filter (fun c => c.2.1 != index) else q.2)) })) s

/-- Whether a token of an activation is on a link, in an output buffer, or about to leave a firing (R352). -/
def State.actQuiet (s : State) (id : Nat) (l : Loan) (act : Nat) : Bool :=
  let mine (f : Flit) : Bool := f.loan == id && f.emit.entry.any (fun q => (AMap.find l.frames q.tag.frame.toNat).any (fun fr => fr.act == act))
  !s.els.any (fun (p : Nat × Element) => p.2.out.any (fun q => q.2.any mine) || p.2.links.any (fun q => q.2.any mine) ||
    p.2.pending.any (fun q => q.loan == id))

/-- The calling activation is frozen: every element pushes its plane, and arrays stop at a common step (R227, R352 step 4). -/
def State.freeze (s : State) (id : Nat) (l : Loan) (c : Calling) : State :=
  let s := s.stopFeeds id
  let s := (s.elsIn id c.ctx (List.range (l.w * l.h))).foldl (fun s p => s.updEl p.1 (fun e => e.updCtx c.ctx (fun x => match x.plane with
    | some n => { x with frozen := n :: x.frozen, plane := none }
    | none => x))) s
  let after : CallStage := if c.goal = c.ctx ∧ c.image ≠ c.callerImage then .loading else .entering
  let s := s.updLoan id (fun l => ({ l with marked := [], calling := some { c with stage := after } }).updAct c.act (fun a =>
    { a with frozen := true, freezing := false }))
  if after = .loading then s.later (c.image.writeCycles true false + 1) (.configWriteDone id) else s.later 1 (.freezePoint id)

/-- The freeze point (R352 step 3) is looked for ahead of everything else in a cycle, until three quiet cycles have passed. -/
def State.pollFreeze (s : State) (id : Nat) (l : Loan) (c : Calling) : State :=
  if 3 ≤ c.quiet then s.freeze id l c
  else
    let n := if s.actQuiet id l c.act then c.quiet + 1 else 0
    (s.updLoan id (fun l => { l with calling := some { c with quiet := n } })).laterFirst 1 (.freezePoint id)

/-- `FREEZE_MARKER_ARRIVE` (R227, R306, R352): the elements of a bay stop firing the calling activation, and the feeders of the arrays that
reach into the bay stop. -/
def execFreezeMarkerArrive (loan bay : Nat) (s : State) : Host.Outcome State Fault Refusal :=
  match AMap.find s.loans loan with
  | none => .next s
  | some l => match l.calling with
    | none => .next s
    | some c =>
      if c.stage != .freezing || l.state != .running then .next s
      else
        let s := s.updLoan loan (fun l => ({ l with marked := l.marked ++ [bay] }).updAct c.act (fun a => { a with freezing := true }))
        let s := ((s.writeBackReady loan c.ctx c.act l [bay]).returnLatches loan c.ctx l [bay]).stopArrays loan (fun k => k == l.bayKey bay)
        match AMap.find s.loans loan with
        | some l => .next (if l.marked.length = l.w * l.h then s.pollFreeze loan l c else s)
        | none => .next s

/-- The callee's first frame (R352 step 5): its arguments and start triggers enter; they wait while there is none. -/
def State.enterCallee (s : State) (id : Nat) (l : Loan) (c : Calling) : State :=
  match l.allocFrame c.image (c.image == l.image) 0 c.callee true c.tag (BitVec.ofNat 6 c.base) c.iters s.cycle with
  | none => (s.updLoan id (fun l => { l with waitingCall := true })).later 1 (.freezePoint id)
  | some (f, l) =>
    let rec' : CallRec :=
      { tag := c.tag, cont := c.cont, base := c.base, nres := c.nres, callerAct := c.act, callerCtx := c.ctx, calleeCtx := c.goal
        evicted := c.goal == c.ctx && c.image != c.callerImage, callerImage := c.callerImage, args := c.args
        el := handlerKey c.index c.hnd, place := c.place, iters := c.iters }
    let s := { s with loans := AMap.put s.loans id { l with
      acts := AMap.put l.acts c.callee ⟨c.goal, f, some rec', false, false, [], [], s.cycle⟩
      calling := none
      waitingCall := false } }
    let s := (s.elsIn id c.goal (List.range (l.w * l.h))).foldl (fun s p => s.updEl p.1 (fun e =>
      match e.planes.find? (fun (q : Nat × Plane) => q.2.owner == some (id, c.callee)) with
      | some (n, _) => e.updCtx c.goal (fun x => { x with plane := some n })
      | none => e)) s
    let t := Tag.initial f
    (s.putArgs id c.goal c.image t c.args c.prior).startTriggers id c.goal t

/-- `FREEZE_POINT` (R352): the freeze point, and in the next cycle the callee's arguments. -/
def execFreezePoint (loan : Nat) (s : State) : Host.Outcome State Fault Refusal :=
  match AMap.find s.loans loan with
  | none => .next s
  | some l => match l.calling with
    | none => .next s
    | some c =>
      if l.state != .running then .next s
      else if c.stage = .freezing then .next (s.pollFreeze loan l c)
      else if c.stage = .entering then .next (s.enterCallee loan l c)
      else .next s

/-! ### The return (R356) -/

/-- Elements without what an activation that ends has in them: its planes, ready firings, start triggers, and the runs of its frames. -/
def State.stripActivation (s : State) (id act : Nat) (l : Loan) (mine : Tag → Bool) : State :=
  (s.regionEls id l).foldl (fun s (p : Nat × Nat) =>
    let e := s.el p.1
    let ours (r : Ready) : Bool := (e.ctx r.ctx).loan == some id && mine r.tag
    let owned (pl : Plane) : Bool := pl.owner == some (id, act)
    let toks := (e.planes.filter (fun q => owned q.2)).flatMap (fun (q : Nat × Plane) => q.2.q.flatMap (fun y =>
      (y.2.filter (fun t => !t.served)).map (fun t => tokenFlit (l.imageOf t.e.ctx.toNat) id (e.ctx t.e.ctx.toNat).logical y.1 t.e)))
    let rs := (e.ready ++ e.matching.map Prod.snd).filter (fun r => ours r && !r.isOrdred e)
    let gone := (e.planes.filter (fun q => owned q.2)).map Prod.fst
    let s := s.updEl p.1 (fun e => { e with
      planes := e.planes.filter (fun q => !owned q.2)
      badPlane := e.badPlane.filter (fun q => !gone.contains q.1)
      ready := e.ready.filter (fun r => !ours r)
      matching := e.matching.filter (fun m => !ours m.2)
      ordered := e.ordered.filter (fun r => !ours r)
      ctxs := e.ctxs.map (fun (q : Nat × ElCtx) => if q.2.loan = some id then
        (q.1, { q.2 with
          plane := if (q.2.plane.any (fun n => gone.contains n)) then none else q.2.plane
          triggers := q.2.triggers.filter (fun t => !mine t.2)
          run := if q.2.run.any (fun r => mine r.tag) then none else q.2.run }) else q) })
    let s := toks.foldl (fun s f => s.dropFlit p.2 f) s
    rs.foldl (fun s r => s.goneOps id r.ctx (handlerKey (e.ctx r.ctx).logical r.hnd) l r.ops) s) s

/-- Triggers and streams of an activation that ends are discarded; a block that a decanter has begun ends without a completion. -/
def State.stripBays (s : State) (id : Nat) (l : Loan) (mine : Tag → Bool) : State :=
  (List.range (l.w * l.h)).foldl (fun s b =>
    let k := l.bayKey b
    let hit (x : Firing) : Bool := x.loan == id && mine x.tag
    let lost := (s.bay k).fireQueue.filter hit
    let s := s.updBay k (fun y => { y with
      fireQueue := y.fireQueue.filter (fun x => !hit x)
      decanters := y.decanters.map (fun (p : Nat × Firing) => (p.1, if hit p.2 then { p.2 with halted := true } else p.2))
      feeds := y.feeds.map (fun (p : Nat × Feed) => if l.ctxs.contains (p.1 / 2 % 4) then
        (p.1, { p.2 with
          queue := p.2.queue.filter (fun i => match i with | .req r => !mine r.tag | _ => true)
          lanes := p.2.lanes.filter (fun (q : Nat × Lane) => !mine q.2.req.tag) }) else p) })
    lost.foldl (fun s x => s.firingGone b x) s) s

/-- An activation ends (R356 step 1): its tokens, frames, deferred stores and outstanding replies are discarded without a record. -/
def State.endActivation (s : State) (id act b : Nat) (l : Loan) (a : Activation) : State :=
  let fs := (l.frames.filter (fun (p : Nat × Frame) => p.2.act == act)).map Prod.fst
  let mine (t : Tag) : Bool := fs.contains t.frame.toNat
  let s := fs.foldl (fun s f => match (AMap.find l.frames f).bind Frame.parked with
    | some p => s.discardParked id l p
    | none => s) s
  let s := s.updHub (fun h => { h with parkList := h.parkList.filter (fun x => !(x.1 == id && fs.contains x.2.1)) })
  let s := (a.landed ++ a.held).foldl (fun s x => (s.parkGive id x.1).dropFlit (x.1 / 4) x.2) s
  let s := s.accs.foldl (fun s (p : Nat × Access) =>
    if p.2.loan == id && mine p.2.tag then
      (if p.2.drains l s.cycle then { s with accs := AMap.put s.accs p.1 { p.2 with dead := true } } else s.withdrawRequest p.1 p.2)
    else s) s
  let s := (s.stripActivation id act l mine).stripBays id l mine
  let s := s.updLoan id (fun l => { l with
    flights := l.flights.filter (fun g => !fs.contains g.frame)
    waves := l.waves.filter (fun v => !fs.contains v.frame)
    commit := l.commit.filter (fun t => !fs.contains t.frame)
    kept := l.kept.filter (fun k => !mine k.tag) })
  (fs.foldl (fun s f => s.endFrame id f b false) s).wakeWaves id

/-- The callee's context when it returns (R351): one of its own is discarded, and becomes resident unless it is that of a frozen
activation too. -/
def State.leaveContext (s : State) (id : Nat) (l : Loan) (act c : Nat) : State :=
  let s := s.returnLatches id c l (List.range (l.w * l.h))
  let s := s.updLoan id (fun l => { l with
    sq := l.sq.filter (fun (p : Nat × Nat) => p.1 / 16 != c)
    sqPrior := l.sqPrior.filter (fun (p : Nat × List (List Nat)) => p.1 / 16 != c)
    claims := l.claims.filter (fun (p : Nat × List (Nat × Nat × Nat)) => p.1 / 16 != c)
    barriers := l.barriers.filter (fun (p : Nat × Barrier) => p.1 / 16 != c) })
  if l.acts.any (fun (p : Nat × Activation) => p.1 != act && p.2.ctx == c) then s
  else (s.makeResident id l c).updLoan id (fun l => { l with ctxs := l.ctxs.filter (· != c) })

/-- A callee returns (R356): its activation ends, and the thaw of its caller begins. -/
def State.beginReturn (s : State) (id act b : Nat) (results : List (W32 × Bool)) (prior : List Nat) : State :=
  match AMap.find s.loans id with
  | none => s
  | some l => match AMap.find l.acts act with
    | none => s
    | some a => match a.call with
      | none => s
      | some r =>
        let s := s.endActivation id act b l a
        let s := s.updLoan id (fun l => l.updAct act (fun x => { x with frozen := true, landed := [], held := [] }))
        let s := if r.calleeCtx = r.callerCtx then s.returnLatches id a.ctx l (List.range (l.w * l.h)) else s.leaveContext id l act a.ctx
        let (d, s) := s.drawNat
        let reload := l.imageOf r.callerCtx != r.callerImage
        let s := if reload then s.rewriteContext id l r.callerCtx r.callerImage true false else s
        let ready := if reload then s.cycle + d + r.callerImage.wordCycles else s.cycle
        let s := s.updLoan id (fun l => ({ l with
          thaw := some ⟨act, b, s.cycle, results, ready, [], prior⟩
          marked := List.range (l.w * l.h) }).updAct r.callerAct (fun x => { x with frozen := false, freezing := true }))
        s.later 1 (.thawPop id)

/-- The return that a `CRET` makes from its activation, when that was called (R356). -/
def returnFrom (b : FY) (f : FireCtx) (g : Got) (s : State) : State :=
  let n := b.scode.toNat % 4 + 1
  match f.l.running f.ctx with
  | some (act, a) =>
    if a.call.isNone then s
    else s.beginReturn f.id act f.b (if g.live then (callWords f g n).map (fun v => (v, true)) else List.replicate n (0, false)) g.prior
  | none => s

/-- `CRET` (R356, R358, R359): a dead one returns with every result dead. -/
def execCret (h : Hdr) (b : FY) (s : State) : Host.Outcome State Fault Refusal :=
  fire (shapeY h b 1) (fun f g =>
    match f.l.running f.ctx with
    | some (_, a) =>
      if a.call.isNone then (if g.live then some { Eff.none with bad := some (fILLEGAL, 0) } else some Eff.none)
      else if f.l.calling.isSome || f.l.thaw.isSome then none
      else some Eff.none
    | none => none)
    (returnFrom b) s

/-- The first plane of a frozen activation in a context of an element: its index. -/
def ElCtx.top (x : ElCtx) (e : Element) (id act : Nat) : Option Nat :=
  x.frozen.find? (fun n => (e.plane n).owner == some (id, act))

/-- Cycles in which a bay's planes of an activation come back from the annex: 4 for each element row of a compute tile (R356). -/
def State.refillCycles (s : State) (id act ctx b : Nat) : Nat :=
  let rows := (s.elsIn id ctx [b]).filterMap (fun p =>
    let e := s.el p.1
    match (e.ctx ctx).top e id act with
    | some n => if 8 ≤ n then some ((e.ctx ctx).logical % 128 / 8) else none
    | none => none)
  let distinct := rows.eraseDups
  4 * ([0, 1, 2, 3] : List Nat).foldl (fun m t => max m ((distinct.filter (fun r => r / 4 == t)).length)) 0

/-- A bay's elements pop the plane of an activation; a plane in the annex needs a free one. -/
def State.popBay (s : State) (id act ctx b : Nat) : Option State :=
  (s.elsIn id ctx [b]).foldl (fun s p => s.bind (fun s =>
    let e := s.el p.1
    match (e.ctx ctx).top e id act with
    | none => some s
    | some n =>
      let pop (m : Nat) (e : Element) : Element := e.updCtx ctx (fun x => { x with plane := some m, frozen := x.frozen.erase m })
      if n < 8 then some (s.updEl p.1 (pop n))
      else match e.freePlane with
      | none => none
      | some m => some ((s.updEl p.1 (fun e => pop m (e.movePlane n m))).updLoan id (fun l => l.annexGiveBay b 256 (1 + n % 2))))) (some s)

/-- The results of a return, the last of what is sent again (R356 step 5), and the end of the call. -/
def State.finishReturn (s : State) (id : Nat) (l : Loan) (h : Thaw) (r : CallRec) : State :=
  let s := s.updLoan id (fun l => (({ l with thaw := none, acts := AMap.del l.acts h.callee }).updAct r.callerAct (fun x =>
    { x with freezing := false })).annexGiveBay 0 32 r.place)
  let s := (List.range r.nres).foldl (fun s i =>
    let v := h.results.getD i (0, false)
    s.answer id (r.el / 8) r.callerCtx (r.el % 8) i (.cont (BitVec.ofNat 6 (r.base + i))) .data v.2 r.cont v.1 r.tag h.prior) s
  s.gone id (l.bayOfEl (r.el / 8)) r.tag r.iters

/-- One of the tokens that landed, or was held, enters its queue ahead of any new token there (R350, R356): the first whose queue takes
it, and of several for one queue the first. -/
def State.enterLanded (s : State) (id act : Nat) : State :=
  match AMap.find s.loans id with
  | none => s
  | some l => match AMap.find l.acts act with
    | none => s
    | some a =>
      let bare := l.updAct act (fun y => { y with landed := [], held := [] })
      let xs := a.landed ++ a.held
      let place (t : Token) : Landing := landing s (l.elKey t.el.toNat) 5 bare t
      let first (i : Nat) (t : Token) : Bool := !(xs.take i).any (fun y => match y.2.emit.asToken with
        | some u => u.el == t.el && u.port == t.port && u.q.ctx == t.q.ctx
        | none => false)
      let goes (p : (Nat × Flit) × Nat) : Bool := match p.1.2.emit.asToken with
        | none => true
        | some t => first p.2 t && (match place t with | .wait | .held _ | .landed _ => false | _ => true)
      match xs.zipIdx.find? goes with
      | none => s
      | some (x, i) =>
        let s := (s.parkGive id x.1).updLoan id (fun l => l.updAct act (fun y => { y with
          landed := y.landed.eraseIdx i
          held := if i < y.landed.length then y.held else y.held.eraseIdx (i - y.landed.length) }))
        match x.2.emit.asToken with
        | none => s.inject 0 (x.1 / 4 * 128) x.2
        | some t => s.land s (l.elKey t.el.toNat) .outside (t.el.toNat / 128) l x.2 t (place t)

/-- What landed and then what was held is sent again, one a cycle; the results follow (R356 steps 3 to 5). -/
def State.resend (s : State) (id : Nat) (l : Loan) (h : Thaw) (r : CallRec) (a : Activation) : State :=
  if a.landed = [] ∧ a.held = [] then s.finishReturn id l h r
  else (s.enterLanded id r.callerAct).later 1 (.thawPop id)

/-- `THAW_POP` (R356): the bays pop their planes as they may; when all have, tokens are sent again and the results last. -/
def execThawPop (loan : Nat) (s : State) : Host.Outcome State Fault Refusal :=
  match AMap.find s.loans loan with
  | none => .next s
  | some l => match l.thaw with
    | none => .next s
    | some h => match (AMap.find l.acts h.callee).bind Activation.call with
      | none => .next s
      | some r =>
        if l.state != .running then .next s
        else if l.marked = [] then
          (match AMap.find l.acts r.callerAct with
            | some a => .next (s.resend loan l h r a)
            | none => .next s)
        else
          let due (s : State) (b : Nat) : Nat :=
            max (h.fired + 4 + 2 * l.bayDist h.bay b) (h.ready + s.refillCycles loan r.callerAct r.callerCtx b) + 1
          let s := l.marked.foldl (fun s b =>
            if due s b ≤ s.cycle then
              (match s.popBay loan r.callerAct r.callerCtx b with
                | some s => s.updLoan loan (fun l => { l with marked := l.marked.erase b })
                | none => s)
            else s) s
          match AMap.find s.loans loan with
          | some l' =>
            if l'.marked = [] then
              let s := s.goFeeds loan
              (match AMap.find l'.acts r.callerAct with
                | some a => .next (s.resend loan l' h r a)
                | none => .next s)
            else .next (s.later 1 (.thawPop loan))
          | none => .next s

/-! ### Resume (R340, R341, R358, R359) -/

/-- Activations called from an activation, the deepest first. -/
def Loan.calledFrom (l : Loan) (act : Nat) : Nat → List Nat
  | 0 => []
  | fuel + 1 => match l.acts.find? (fun (p : Nat × Activation) => p.2.call.any (fun r => r.callerAct == act)) with
    | some (n, _) => l.calledFrom n fuel ++ [n]
    | none => []

/-- What an activation has called ends with it: a call or a return under way, and every deeper activation. -/
def State.endDeeper (s : State) (id act b : Nat) (l : Loan) : State :=
  let deep := l.calledFrom act 256
  let s := match l.calling with
    | some c => if c.act = act ∨ deep.contains c.act then s.updLoan id (fun l => { l with calling := none, waitingCall := false }) else s
    | none => s
  deep.foldl (fun s n => match AMap.find s.loans id with
    | none => s
    | some l => match AMap.find l.acts n with
      | none => s
      | some a => match a.call with
        | none => s
        | some r =>
          let s := s.endActivation id n b l a
          let s := if r.calleeCtx = r.callerCtx then s.returnLatches id a.ctx l (List.range (l.w * l.h)) else s.leaveContext id l n a.ctx
          s.updLoan id (fun l => { l with
            acts := AMap.del l.acts n, thaw := if l.thaw.any (fun (h : Thaw) => h.callee == n) then none else l.thaw }.annexGiveBay 0 32 r.place)) s

/-- `abandon` (R358): parked tokens and kept work are discarded, and the frame ends as by `RETF` with a dead result; a first activation's
ends the loan without its completion, and a callee's first frame ends its activation as `CRET` does. -/
def State.abandonFrame (s : State) (id f : Nat) (l : Loan) (fr : Frame) (p : Parked) : State :=
  let ctx := match AMap.find l.acts fr.act with | some a => a.ctx | none => l.ctx
  let s := s.unpark id f
  let s := s.discardParked id l p
  let s := s.updLoan id (fun l => { l with flights := l.flights.map (fun g => if g.frame = f then { g with faulting := false } else g) })
  if !fr.first then
    (s.answer id 0 ctx 0 1 (.cont fr.rcont) .data false 0 0 fr.caller []).releaseFrame id f 0
  else match (AMap.find l.acts fr.act).bind Activation.call with
  | some r => (s.endDeeper id fr.act 0 l).beginReturn id fr.act 0 (List.replicate r.nres (0, false)) []
  | none => (s.updLoan id (fun l => { l with byKernel := true })).later 1 (.exitDrainDone id)

/-- RETURN FROM A FAULT: a parked frame is resumed or abandoned; `none` where there is none. -/
def State.resumeFrame (s : State) (id f : Nat) (abandon : Bool) : Option State :=
  match AMap.find s.loans id with
  | none => none
  | some l => (l.parkedFrame f).map (fun p => if abandon then s.abandonFrame id f l p.1 p.2 else s.runFrame id f l p.1 p.2)

/-- The bits of a target word that must be zero (R357); `frame` where the word names one. -/
def targetBad (t : W32) (frame : Bool) : Bool := t.extractLsb' 11 5 != 0 || (!frame && t.extractLsb' 16 16 != 0)

/-- The loan that a target word names, among those that a test accepts. -/
def State.target (s : State) (t : W32) (ok : Loan → Bool) : Option (Nat × Loan) :=
  s.loans.find? (fun (p : Nat × Loan) => p.2.nwb == t.toNat % 128 && p.2.die == t.toNat / 128 % 4 && p.2.ctx == t.toNat / 512 % 4 && ok p.2)

/-- The loan and frame that a `RESUME` names, if the frame is parked. -/
def State.resumeTarget (s : State) (t : W32) : Option (Nat × Nat) :=
  match s.target t (fun l => (l.parkedFrame (t.toNat / 65536)).isSome) with
  | some (id, _) => some (id, t.toNat / 65536)
  | none => none

/-- `RESUME` (R358): it emits 0, or 1 when the target is no parked frame. -/
def execResume (h : Hdr) (b : FY) (s : State) : Host.Outcome State Fault Refusal :=
  fire (shapeY h b (focusCycles s)) (fun f g =>
    if !g.live then some { Eff.none with outs := deadOuts f g [b.d0] }
    else if targetBad (g.op 0) true then some (illegalEff f g b.d0)
    else some (valueEff f g [(b.d0, if (s.resumeTarget (g.op 0)).isSome then 0 else 1)] Flag.none))
    (fun _ g s => if g.live && !targetBad (g.op 0) true then
        (match s.resumeTarget (g.op 0) with
          | some (id, f) => (s.resumeFrame id f (b.scode.getLsbD 0)).getD s
          | none => s)
      else s) s

/-- `KERNEL_RESUME` (R340, R359). -/
def execKernelResume (loan frame : Nat) (abandon : Bool) (s : State) : Host.Outcome State Fault Refusal :=
  .next ((s.resumeFrame loan frame abandon).getD s)

end Sys2Proof.Machine
end

