-- ==== Sys2Proof/Machine/Switch.lean ====
section
/-! DEFINITION. The full context switch (R346 to R350, R357, R358): its drain, the save area, the release of the contexts, and the
restore. -/
namespace Sys2Proof.Machine

/-! ### The request and the drain (R346, R355) -/

/-- `SWITCH_REQUEST` (R346, R355): firing stops; a freeze already begun is completed first, and a call that has frozen nothing is given
up. -/
def execSwitchRequest (loan : Nat) (s : State) : Host.Outcome State Fault Refusal :=
  match AMap.find s.loans loan with
  | none => .next s
  | some l =>
    if l.state != .running then .next ((s.answerScans l.switchers 3).updLoan loan (fun l => { l with switchers := [] }))
    else if l.slip.save = 0 then .next s
    else
      let early := l.calling.any (fun c => c.stage == .fetching || c.stage == .planes)
      if (l.calling.isSome && !early) || l.thaw.isSome || l.acts.any (fun (p : Nat × Activation) => p.2.call.isSome && p.2.start == s.cycle) then
        .next (s.later 1 (.switchRequest loan))
      else
        let s := match l.calling with | some c => s.cancelCall loan l c | none => s
        let all := List.range (l.w * l.h)
        let s := l.acts.foldl (fun s (p : Nat × Activation) => if p.2.frozen then s
          else (s.writeBackReady loan p.2.ctx p.1 l all).returnLatches loan p.2.ctx l all) s
        let s := (s.updLoan loan (fun l => { l with state := .switching })).stopFeeds loan
        .next (s.later 1 (.switchDrainDone loan))

/-- Whether an access that waits could still be performed (R247, R282, R346 step 3). -/
def State.movable (s : State) (a : Access) (l : Loan) (n : Nat) : Bool :=
  match a.stage with
  | .kept => false
  | .buffered => s.commitTakes a l && s.replyPlace a l && (!a.passes l || s.waveRoom a l)
  | .waiting => a.isDecant || (l.inTurn a s.cycle && l.ordersIn a && (a.skip || decide (a.strength < 2) || a.deferred l || s.priorDone n a l))
  | .issued | .performed => true

/-- A block reply that its element holds while a run is armed there (R285). -/
def Element.holds (e : Element) (f : Flit) : Bool :=
  match f.emit with
  | .fill t true _ => (e.ctx t.q.ctx.toNat).run.isSome
  | _ => false

/-- Whether the beats of a context's run, and the headers of its scale tokens, stand still in an element (R227). -/
def State.matrixStill (s : State) (l : Loan) (key c : Nat) (e : Element) : Bool :=
  (e.opA ++ e.opB).all (fun b => decide (b.due ≤ s.cycle)) && (e.scA ++ e.scB).all (fun t => t.headers.all (fun h => decide (h.1 ≤ s.cycle))) &&
    ((s.mxTile key c).mode != .matrix || ((s.sideNext l key c false).isNone && (s.sideNext l key c true).isNone)) &&
  (match (e.ctx c).run with
    | none => true
    | some r => decide (r.done < r.total) && r.writes == [] && (planStep s l key c r).isNone)

/-- Whether an element has settled for a switch: no emission of the loan moves, and no step of a run can be performed. -/
def State.elSettled (s : State) (id : Nat) (l : Loan) (key : Nat) (e : Element) : Bool :=
  let mine (f : Flit) : Bool := f.loan == id && f.emit.entry.isSome
  !(e.pending.any (fun p => p.loan == id) || e.out.any (fun q => q.2.any mine) || e.links.any (fun q => q.2.any mine) ||
    e.outside.any (fun p => p.2.loan == id && !e.holds p.2)) &&
  l.ctxs.all (fun c => (e.ctx c).loan != some id || s.matrixStill l key c e)

/-- Whether a switch's drain has settled (R346 step 3). -/
def State.settled (s : State) (id : Nat) (l : Loan) : Bool :=
  s.els.all (fun (p : Nat × Element) => s.elSettled id l p.1 p.2) &&
  s.accs.all (fun (p : Nat × Access) => p.2.loan != id || !s.movable p.2 l p.1) &&
  !s.cellsLeft id && l.releasing == [] && l.retirable.isNone && l.ramps == [] &&
  !s.hub.waits.any (fun (p : Nat × TlWait) => p.2.loan == id && p.2.met) &&
  l.frames.all (fun (p : Nat × Frame) => !p.2.refilling && (p.2.spilled || p.2.spillPlace.isNone))

/-! ### The save area (R347, R348) -/

/-- The contexts of a loan in ascending order: the slots of its element blocks. -/
def Loan.slots (l : Loan) : List Nat := sortBy (fun a b => decide (a ≤ b)) l.ctxs

/-- The 112 bits of a queue entry (R40), as a token's bits [111:0], in 14 bytes. -/
def entryBytes (q : QEntry) : List Byte := leBytes 14 ((Token.bits ⟨0, 0, false, q⟩).extractLsb' 0 112).toNat

/-- The kind of a code (R44). -/
def kindOf (n : Nat) : Kind :=
  match n with
  | 0 => .data | 1 => .eos | 2 => .exit | 3 => .freeze | 4 => .config | 5 => .poison | 6 => .retire | _ => .reserved

/-- The queue entry of 14 bytes. -/
def entryOf (bs : List Byte) : QEntry :=
  let v := BitVec.ofNat 112 (leNat (bs.take 14))
  { hnd := v.extractLsb' 109 3, ctx := v.extractLsb' 107 2, pred := v.getLsbD 106, kind := kindOf (v.extractLsb' 103 3).toNat
    par := v.getLsbD 102, cont := v.extractLsb' 96 6, operand := v.extractLsb' 64 32, tag := Tag.ofBits (v.extractLsb' 0 64)
    prior := [] }

/-- A plane in the layout of R40. -/
def planeBytes (p : Plane) : List Byte :=
  (List.range 4).flatMap (fun q => (List.range 4).flatMap (fun i => match (p.queue q)[i]? with
    | some t => entryBytes t.e
    | none => List.replicate 14 0)) ++
  (List.range 8).flatMap (fun i => leBytes 4 (AMap.get p.w 0 i).toNat)

/-- A plane as its bytes give it; how many tokens its queues hold, when they came, and what they descend from, is the device's. -/
def planeFrom (p : Plane) (bs : List Byte) : Plane :=
  { p with
    q := p.q.map (fun (x : Nat × List QTok) => (x.1, x.2.zipIdx.map (fun t =>
      if x.1 < 4 ∧ t.2 < 4 then { t.1 with e := { entryOf (bs.drop (56 * x.1 + 14 * t.2)) with prior := t.1.e.prior } } else t.1)))
    w := (List.range 8).map (fun i => (i, BitVec.ofNat 32 (field bs (224 + 4 * i) 4))) }

/-- A plane of an element of the region with `PAR` of every entry set right and no reserved bit (R45). -/
def Plane.seal (index : Nat) (p : Plane) : Plane :=
  { p with q := p.q.map (fun (x : Nat × List QTok) => (x.1, x.2.map (fun t =>
      { t with e := (Token.seal ⟨BitVec.ofNat 13 index, BitVec.ofNat 2 x.1, false, t.e⟩).q }))) }

/-- Bytes of the device's own form. -/
def State.freeBytes (s : State) (n : Nat) : List Byte := (List.range n).map (fun i => Config.freeByte (s.freeCount + i))

/-- The 64 bytes of a context slot of an element block. -/
def State.slotBytes (s : State) (id : Nat) (e : Element) (c : Nat) : List Byte :=
  let x := e.ctx c
  let idx (n : Nat) : Byte := if n < 8 then BitVec.ofNat 8 n else 0xFE
  leBytes 4 x.status.toNat ++ [BitVec.ofNat 8 (x.prio.toNat + (if x.loan = some id then 128 else 0)), BitVec.ofNat 8 c, 0, 0] ++
    leBytes 4 x.fade.toNat ++ leBytes 4 (x.adly.toNat + 65536 * x.bdly.toNat) ++ s.freeBytes 16 ++
    [match x.plane with | some n => idx n | none => 0xFF] ++ ((x.frozen.map idx) ++ List.replicate 8 0xFF).take 8 ++ List.replicate 23 0

/-- The element block of a region index (R348). -/
def State.elementBlock (s : State) (id : Nat) (l : Loan) (index : Nat) : List Byte :=
  let e := s.el (l.elKey index)
  let cs := l.slots
  let used (i : Nat) : Option Nat := cs[i]?
  (List.range 4).flatMap (fun i => match used i with
    | some c => (List.range 64).flatMap (fun n => leBytes 4 (AMap.get (e.ctx c).acc 0 n).toNat)
    | none => List.replicate 256 0) ++
  (List.range 4).flatMap (fun i => match used i with | some c => s.slotBytes id e c | none => List.replicate 64 0) ++
  (List.range 8).flatMap (fun i => if ((e.plane i).owner.map Prod.fst) = some id then planeBytes (e.plane i) else List.replicate 256 0)

/-- The header of a save area. -/
def saveHeader (s : State) (l : Loan) (state : Nat) (crc : W32) : List Byte :=
  leBytes 4 0x4B534156 ++ leBytes 2 1 ++ [BitVec.ofNat 8 l.w, BitVec.ofNat 8 l.h, BitVec.ofNat 8 state,
    BitVec.ofNat 8 ((l.ctxs.map (fun c => 2 ^ c)).sum % 16)] ++
  leBytes 2 ((l.acts.filter (fun (p : Nat × Activation) => p.2.call.isSome)).length) ++ leBytes 4 crc.toNat ++ leBytes 8 s.cycle ++
  leBytes 8 l.slip.sid.toNat ++ List.replicate 4064 0

/-- Everything after the header: the region block and the element blocks. -/
def State.saveBody (s : State) (id : Nat) (l : Loan) : List Byte :=
  s.freeBytes 131072 ++ (List.range (l.w * l.h * 128)).flatMap (fun i => s.elementBlock id l i)

/-- Cycles of a scan-out, at 64 bytes a cycle in each bay, the region block from bay 0 (R349). -/
def scanCycles : Nat := (128 * 3328 + 131072) / 64

/-! ### Scan-out (R349) -/

/-- A write into the save area has faulted: the save is abandoned, and the loan stays drained in its elements. -/
def State.saveFault (s : State) (id : Nat) (l : Loan) : State :=
  let s := s.updHub (fun h => h.record (mkRecord s { Report.of fSAVE with loan := some id } false))
  let s := s.updLoan id (fun l => { l with saveFault := true, switchers := [] })
  s.answerScans l.switchers 2

/-- The save begins from its first byte: `STATE` 1 is written. -/
def State.beginSave (s : State) (id : Nat) (l : Loan) : State :=
  let s := s.updLoan id (fun l => { l with state := .saving, saveFault := false })
  match s.writeVirt l.slip.space l.slip.save (saveHeader s l 1 0) with
  | none => s.saveFault id l
  | some s =>
    let (d, s) := s.drawNat
    s.later (scanCycles + 1 + d) (.scanOutDone id)

/-- `SWITCH_DRAIN_DONE` (R346, R349): the drain goes on until it settles; then the save begins. -/
def execSwitchDrainDone (loan : Nat) (s : State) : Host.Outcome State Fault Refusal :=
  match AMap.find s.loans loan with
  | none => .next s
  | some l =>
    if l.state != .switching || l.exitTaken.isSome then .next s
    else if !s.settled loan l then .next (s.later 1 (.switchDrainDone loan))
    else .next (s.beginSave loan l)

/-- What the device keeps of an element and a bay of a loan that is switched out (R346, R347). -/
def elSnap (id : Nat) (l : Loan) (clear : Bool) (e : Element) : ElSnap :=
  let mine (c : Nat) : Bool := l.ctxs.contains c && (e.ctx c).loan == some id
  { ctxs := e.ctxs.filter (fun (p : Nat × ElCtx) => mine p.1)
    planes := e.planes.filter (fun (p : Nat × Plane) => p.2.owner.any (fun o => o.1 == id))
    ordered := e.ordered.filter (fun r => mine r.ctx)
    opA := if clear then e.opA else []
    opB := if clear then e.opB else []
    scA := if clear then e.scA else []
    scB := if clear then e.scB else [] }
@[inherit_doc elSnap] def baySnap (id : Nat) (l : Loan) (y : Bay) : BaySnap :=
  { feeds := y.feeds.filter (fun (p : Nat × Feed) => l.ctxs.contains (p.1 / 2 % 4))
    tiles := y.tiles.filter (fun (p : Nat × Tile) => l.ctxs.contains (p.1 % 4))
    templates := y.templates.filter (fun (p : Nat × TemplState) => l.ctxs.contains (p.1 / 16))
    fireQueue := y.fireQueue.filter (fun x => x.loan == id)
    decanters := (y.decanters.filter (fun (p : Nat × Firing) => p.2.loan == id)).map Prod.snd
    commands := y.commands.filter (fun (p : Nat × DCommand) => p.2.loan == id)
    accords := y.accords.filter (fun a => a.loan == id)
    readyAccords := y.readyAccords.filter (fun a => l.ctxs.contains a.ctx) }

/-- The snapshot of a loan whose drain has settled. -/
def State.snapshot (s : State) (id : Nat) (l : Loan) : Snapshot :=
  { els := (List.range (l.w * l.h * 128)).filterMap (fun i =>
      let k := l.elKey i
      let e := s.el k
      if l.ctxs.any (fun c => (e.ctx c).loan == some id) then some (i, elSnap id l (s.inMatrix k e id) e) else none)
    bays := (List.range (l.w * l.h)).map (fun b => (b, baySnap id l (s.bay (l.bayKey b))))
    waits := s.hub.waits.filter (fun (p : Nat × TlWait) => p.2.loan == id && !p.2.met) }

/-- The contexts, planes and units of a loan are free; its images stay resident (R349). Waits that have not been met go with it (R106). -/
def State.switchOut (s : State) (id : Nat) (l : Loan) : State :=
  let s := { s with snaps := AMap.put s.snaps id (s.snapshot id l) }
  -- replies that elements hold wait with the loan
  let held := s.els.flatMap (fun (p : Nat × Element) => (p.2.outside.filter (fun x => x.2.loan == id)).map (fun x => (0, x.2)))
  let s := s.updLoan id (fun l => { l with away := held ++ l.away, state := .switchedOut })
  let s := { s with els := s.els.map (fun (p : Nat × Element) => (p.1, { (p.2.strip id (s.inMatrix p.1 p.2 id)) with
    outside := p.2.outside.filter (fun x => x.2.loan != id)
    out := p.2.out.map (fun (q : Nat × List Flit) => (q.1, q.2.filter (fun f => f.loan != id))) })) }
  let s := l.rect.bays.foldl (fun s b => s.updBay b (fun y => { y.strip id l.ctxs with
    parkTrace := y.parkTrace
    decanters := y.decanters.filter (fun (p : Nat × Firing) => p.2.loan != id) })) s
  let s := l.ctxs.foldl (fun s c => s.makeResident id l c) s
  s.updHub (fun h => { h with
    waits := h.waits.filter (fun (p : Nat × TlWait) => !(p.2.loan == id && !p.2.met))
    released := releasedPut ⟨l.slip, l.rel.1, l.rel.2, some id, s.cycle, false⟩ h.released })

/-- `SCAN_OUT_DONE` (R349): the blocks and then `STATE` 2 have been written; the contexts are released, and the requests answered. -/
def execScanOutDone (loan : Nat) (s : State) : Host.Outcome State Fault Refusal :=
  match AMap.find s.loans loan with
  | none => .next s
  | some l =>
    if l.state != .saving || l.saveFault || (AMap.find s.snaps loan).isSome then .next s
    else
      let body := s.saveBody loan l
      match (s.writeVirt l.slip.space (l.slip.save + 4096) body).bind (fun t =>
        t.writeVirt l.slip.space l.slip.save (saveHeader s l 2 (crc32 body))) with
      | none => .next (s.saveFault loan l)
      | some s =>
        let s := { s with freeCount := s.freeCount + 131072 }
        let s := (s.switchOut loan l).updLoan loan (fun l => { l with switchers := [] })
        .next (s.answerScans l.switchers 0)

/-! ### Numbers of contexts (R350 step 2) -/

/-- Something with its contexts renumbered. -/
def QEntry.mapCtx (g : Nat → Nat) (q : QEntry) : QEntry := { q with ctx := BitVec.ofNat 2 (g q.ctx.toNat) }
@[inherit_doc QEntry.mapCtx] def Emit.mapCtx (g : Nat → Nat) : Emit → Emit
  | .token t => .token (Token.seal { t with q := QEntry.mapCtx g t.q })
  | .served t => .served (Token.seal { t with q := QEntry.mapCtx g t.q })
  | .fill t b ws => .fill (Token.seal { t with q := QEntry.mapCtx g t.q }) b ws
  | .slotWrite b n q => .slotWrite b n (QEntry.mapCtx g q)
  | .exit n q => .exit n (QEntry.mapCtx g q)
  | .park q => .park (QEntry.mapCtx g q)
  | .capture b t i q => .capture b t i (QEntry.mapCtx g q)
  | .request a => .request a
@[inherit_doc QEntry.mapCtx] def Flit.mapCtx (g : Nat → Nat) (f : Flit) : Flit := { f with emit := f.emit.mapCtx g }
@[inherit_doc QEntry.mapCtx] def Ready.mapCtx (g : Nat → Nat) (r : Ready) : Ready :=
  { r with ctx := g r.ctx, ops := r.ops.map (fun o => (o.1, QEntry.mapCtx g o.2)) }
@[inherit_doc QEntry.mapCtx] def Plane.mapCtx (g : Nat → Nat) (p : Plane) : Plane :=
  { p with q := p.q.map (fun (x : Nat × List QTok) => (x.1, x.2.map (fun t => { t with e := QEntry.mapCtx g t.e }))) }
@[inherit_doc QEntry.mapCtx] def Launching.mapCtx (g : Nat → Nat) (x : Launching) : Launching :=
  { x with ctx := g x.ctx, flit := x.flit.map (Flit.mapCtx g) }
@[inherit_doc QEntry.mapCtx] def Kept.mapCtx (g : Nat → Nat) : Kept → Kept
  | .reissue n => .reissue n
  | .skip n => .skip n
  | .trigger b c u t tag cont prior => .trigger b (g c) u t tag cont prior
  | .refire i c ops => .refire i (g c) (ops.map (fun o => (o.1, QEntry.mapCtx g o.2)))
  | .emit i fs => .emit i (fs.map (Flit.mapCtx g))
  | .launch n => .launch n

/-- The entries of a sparse map under new keys. -/
def rekey {β : Type} (g : Nat → Nat) (m : AMap β) : AMap β := m.foldl (fun r p => AMap.put r (g p.1) p.2) []

/-- A context number in front of others in a key, renumbered. -/
def ctxKey (g : Nat → Nat) (k : Nat) : Nat := g (k / 16) * 16 + k % 16

/-- Waiting parties of a barrier renumbered, those of one loan. -/
def Barrier.mapCtx (g : Nat → Nat) (id : Nat) (r : Barrier) : Barrier :=
  { r with waiting := r.waiting.map (fun w => if w.1 = id then (w.1, w.2.1, w.2.2.map (Flit.mapCtx g)) else w) }

/-- A loan with its contexts renumbered. -/
def Loan.mapCtx (g : Nat → Nat) (id : Nat) (l : Loan) : Loan :=
  let toks (ts : List (Nat × Flit)) : List (Nat × Flit) := ts.map (fun t => (t.1, t.2.mapCtx g))
  { l with
    ctx := g l.ctx
    ctxs := l.ctxs.map g
    images := rekey g l.images
    acts := l.acts.map (fun (p : Nat × Activation) => (p.1, { p.2 with
      ctx := g p.2.ctx
      call := p.2.call.map (fun r => { r with callerCtx := g r.callerCtx, calleeCtx := g r.calleeCtx })
      landed := toks p.2.landed
      held := toks p.2.held }))
    frames := l.frames.map (fun (p : Nat × Frame) => (p.1, { p.2 with
      parked := p.2.parked.map (fun k => { k with tokens := toks k.tokens, kept := k.kept.map (Kept.mapCtx g) }) }))
    flights := l.flights.map (fun x => { x with log := x.log.map (fun e => (e.1, QEntry.mapCtx g e.2)) })
    commit := l.commit.map (fun t => { t with post := t.post.map (fun p => (p.1, g p.2.1, p.2.2)) })
    sq := rekey (ctxKey g) l.sq
    sqPrior := rekey (ctxKey g) l.sqPrior
    creditPrior := rekey (fun k => g (k / 2 ^ 20) * 2 ^ 20 + k % 2 ^ 20) l.creditPrior
    claims := rekey (ctxKey g) l.claims
    barriers := rekey (ctxKey g) (l.barriers.map (fun (p : Nat × Barrier) => (p.1, p.2.mapCtx g id)))
    away := l.away.map (fun x => (x.1, x.2.mapCtx g)) }

/-- What waits for a loan elsewhere, with its contexts renumbered and its elements where they are now: accesses, waits, launches and
arrivals. -/
def State.mapCtx (s : State) (g at_ : Nat → Nat) (id : Nat) : State :=
  let wait (w : TlWait) : TlWait := { w with flit := w.flit.map (Flit.mapCtx g) }
  let s := s.updLoan id (Loan.mapCtx g id)
  let s := { s with
    accs := s.accs.map (fun (p : Nat × Access) => (p.1, if p.2.loan = id then { p.2 with ctx := g p.2.ctx, el := at_ p.2.el } else p.2))
    snaps := s.snaps.map (fun (p : Nat × Snapshot) => (p.1, if p.1 = id then
      { p.2 with waits := p.2.waits.map (fun (q : Nat × TlWait) => (q.1, wait q.2)) } else p.2)) }
  s.updHub (fun h => { h with
    waits := h.waits.map (fun (p : Nat × TlWait) => (p.1, if p.2.loan = id then wait p.2 else p.2))
    launches := h.launches.map (fun (p : Nat × Launching) => (p.1, if p.2.loan = id then p.2.mapCtx g else p.2))
    arrivals := h.arrivals.map (fun (p : Nat × Arrival) => (p.1, if p.2.loan = id then
      { p.2 with ctx := g p.2.ctx, key := if p.2.wing then p.2.key else ctxKey g p.2.key, flit := p.2.flit.map (Flit.mapCtx g) } else p.2))
    wingBarriers := h.wingBarriers.map (fun (p : Nat × Barrier) => (p.1, p.2.mapCtx g id)) })

/-! ### The restore (R350) -/

/-- Contexts for the saved ones, in ascending order: where its image is resident, otherwise the lowest that is free on the rectangle. -/
def State.restoreCtxs (s : State) (l : Loan) : Option (AMap Nat) :=
  l.slots.foldl (fun m c => m.bind (fun m =>
    let free := (List.range 4).filter (fun k => !(m.map Prod.snd).contains k && l.rect.bays.all (fun b => ((s.bay b).ctxAt k).st != .loaned))
    match free.find? (fun k => s.holdsImage l k (l.imageOf c)) with
    | some k => some (AMap.put m c k)
    | none => free.head?.map (fun k => AMap.put m c k))) (some [])

/-- Whether a save area is in order (R350 step 1). -/
def State.saveOk (s : State) (l : Loan) : Bool :=
  match s.readVirt l.slip.space l.slip.save 4096, s.readVirt l.slip.space (l.slip.save + 4096) (saveBytes l.w l.h - 4096) with
  | some hd, some body => field hd 0 4 == 0x4B534156 && field hd 8 1 == 2 && field hd 6 1 == l.w && field hd 7 1 == l.h &&
      field hd 12 4 == (crc32 body).toNat
  | _, _ => false

/-- A saved context as its element block gives it (R348); the rest is the device's. -/
def restoredCtx (x : ElCtx) (bs : List Byte) (slot : Nat) : ElCtx :=
  let r := bs.drop (0x400 + 64 * slot)
  { x with
    acc := (List.range 64).map (fun n => (n, BitVec.ofNat 32 (field bs (256 * slot + 4 * n) 4)))
    status := BitVec.ofNat 32 (field r 0 4)
    prio := BitVec.ofNat 2 (field r 4 1)
    prioNow := BitVec.ofNat 2 (field r 4 1)
    fade := BitVec.ofNat 32 (field r 8 4)
    adly := BitVec.ofNat 10 (field r 12 2)
    bdly := BitVec.ofNat 10 (field r 14 2) }

/-- Saved planes put into an element: the active ones, then the frozen ones, newest first, while there is a free one; the others go to the
annex. The new indices by the old; `none` while they do not all find a place. -/
def State.restorePlanes (s : State) (id key b : Nat) (x : ElSnap) (bs : List Byte) : Option (AMap Nat × State) :=
  let active := x.ctxs.filterMap (fun (p : Nat × ElCtx) => p.2.plane)
  let frozen := x.ctxs.flatMap (fun (p : Nat × ElCtx) => p.2.frozen)
  let age (n : Nat) : Nat := match (AMap.get x.planes Plane.empty n).owner with | some (_, a) => a | none => 0
  let newest := sortBy (fun a c => decide (age c ≤ age a)) frozen
  let put (n m : Nat) (r : AMap Nat × State) : AMap Nat × State :=
    let p := AMap.get x.planes Plane.empty n
    let p := if n < 8 then planeFrom p (bs.drop (0x500 + 256 * n)) else p
    (AMap.put r.1 n m, r.2.updEl key (fun e => { e with planes := AMap.put e.planes m p }))
  let r := active.foldl (fun r n => r.bind (fun r => match (r.2.el key).freePlane with
    | some m => some (put n m r)
    | none => none)) (some ([], s))
  newest.foldl (fun r n => r.bind (fun r =>
    if 8 ≤ n then some (put n n r)
    else match (r.2.el key).freePlane with
    | some m => some (put n m r)
    | none =>
      -- it comes to the annex
      (match AMap.find r.2.loans id with
        | none => none
        | some l => (l.annexTakeBay b 256).map (fun q =>
          let k := ((List.range 4096).find? (fun k => (AMap.find (r.2.el key).planes (8 + 2 * k + (q.1 - 1))).isNone)).getD 0
          put n (8 + 2 * k + (q.1 - 1)) (r.1, { r.2 with loans := AMap.put r.2.loans id q.2 })))) ) r

/-- One saved element written back into its new contexts. -/
def State.restoreEl (s : State) (id : Nat) (l : Loan) (m : AMap Nat) (i : Nat) (x : ElSnap) : Option State :=
  let key := l.elKey i
  let bs := (s.readVirt l.slip.space (l.slip.save + 0x21000 + 3328 * i) 3328).getD []
  let g (c : Nat) : Nat := AMap.get m c c
  (s.restorePlanes id key (i / 128) x bs).map (fun r =>
    let idx (n : Nat) : Nat := AMap.get r.1 n n
    let hidden (c : Nat) : List Nat := if s.holdsImage l (g c) (l.imageOf c) then ((s.el key).ctx (g c)).badWords else []
    r.2.updEl key (fun e =>
      let e := x.ctxs.foldl (fun (e : Element) (p : Nat × ElCtx) =>
        let y := restoredCtx p.2 bs ((l.slots.findIdx? (· == p.1)).getD 0)
        e.updCtx (g p.1) (fun _ => { y with plane := y.plane.map idx, frozen := y.frozen.map idx, badWords := hidden p.1 })) e
      { e with
        planes := e.planes.map (fun (p : Nat × Plane) => (p.1, if p.2.owner.any (fun o => o.1 == id) then (p.2.mapCtx g).seal i else p.2))
        ordered := e.ordered ++ x.ordered.map (Ready.mapCtx g)
        opA := e.opA ++ x.opA
        opB := e.opB ++ x.opB
        scA := e.scA ++ x.scA
        scB := e.scB ++ x.scB }))

/-- One saved bay written back. A tile that was in matrix mode ramps again, and keeps the `MXCFG`s counted so far (R227). -/
def State.restoreBay (s : State) (l : Loan) (m : AMap Nat) (at_ : Nat → Nat) (b : Nat) (x : BaySnap) : State :=
  let g (c : Nat) : Nat := AMap.get m c c
  let fir (f : Firing) : Firing := { f with ctx := g f.ctx }
  s.updBay (l.bayKey b) (fun y => { y with
    feeds := x.feeds.foldl (fun r (p : Nat × Feed) => AMap.put r (p.1 / 8 * 8 + g (p.1 / 2 % 4) * 2 + p.1 % 2) p.2) y.feeds
    tiles := x.tiles.foldl (fun r (p : Nat × Tile) => AMap.put r (p.1 / 4 * 4 + g (p.1 % 4)) { p.2 with
      mode := if p.2.mode = .matrix then .ramping else p.2.mode
      counted := p.2.counted.map (fun c => { c with el := at_ c.el, flit := c.flit.map (Flit.mapCtx g) }) }) y.tiles
    templates := x.templates.foldl (fun r (p : Nat × TemplState) => AMap.put r (ctxKey g p.1) p.2) y.templates
    fireQueue := y.fireQueue ++ x.fireQueue.map fir
    decanters := x.decanters.foldl (fun r f =>
      AMap.put r (((List.range 64).find? (fun n => (AMap.find r n).isNone)).getD 63) (fir f)) y.decanters
    commands := x.commands.foldl (fun r (p : Nat × DCommand) => AMap.put r p.1 { p.2 with ctx := g p.2.ctx, flit := p.2.flit.map (Flit.mapCtx g) })
      y.commands
    accords := y.accords ++ x.accords.map (fun a => { a with ctx := g a.ctx })
    readyAccords := y.readyAccords ++ x.readyAccords.map (fun a => { a with ctx := g a.ctx, el := at_ a.el }) })

/-- The tiles that ramp again, in ascending bay and tile (R227). -/
def State.restoreRamps (s : State) (l : Loan) : List (Nat × Nat × Nat × Nat) :=
  (l.rect.bays.flatMap (fun b => (s.bay b).tiles.filterMap (fun (p : Nat × Tile) =>
    if p.2.mode = .ramping ∧ l.ctxs.contains (p.1 % 4) then some (s.cycle, b, p.1 / 4, p.1 % 4) else none))).foldl (fun r x => rampPut x r) []

/-- Where an element stands after its loan is mapped anew (R365). -/
def Loan.moved (l l' : Loan) (key : Nat) : Nat :=
  match (List.range (l.w * l.h * 128)).find? (fun i => l.elKey i == key) with
  | some i => l'.elKey i
  | none => key

/-- The restore begins when contexts and planes are there and no bay of the rectangle is withdrawn (R110, R350, R365): the save area is
checked, the elements are mapped with the bad-node registers as they stand, and the blocks are written back. -/
def State.beginRestore (s : State) (id : Nat) (old : Loan) (x : Snapshot) : Option State :=
  let l := { old with mapping := s.spareMap old.rect }
  let at_ (k : Nat) : Nat := if l.mapping == old.mapping then k else old.moved l k
  if !old.rect.bays.all (fun b => (s.bay b).sound) then none
  else match s.restoreCtxs l with
  | none => none
  | some m =>
    if !s.saveOk l then
      some ((s.updHub (fun h => h.record (mkRecord s { Report.of fSAVE with sid := l.slip.sid, detail := 1 } false))).updLoan id (fun l =>
        { l with restoreMark := false }))
    else
      let g (c : Nat) : Nat := AMap.get m c c
      let s := s.updLoan id (fun l' => { l' with mapping := l.mapping })
      let s0 := m.foldl (fun s p => s.claimCtx l.rect p.2) s
      (x.els.foldl (fun r p => r.bind (fun s => s.restoreEl id l m p.1 p.2)) (some s0)).map (fun s =>
        let s := x.bays.foldl (fun s p => s.restoreBay l m at_ p.1 p.2) s
        let s := m.foldl (fun s p => l.rect.bays.zipIdx.foldl (fun s q => s.updBay q.1 (fun y =>
          { y with ctxs := AMap.put y.ctxs p.2 ⟨.loaned, l.imageOf p.1, q.2, s.cycle, s.cycle⟩ })) s) s
        let s := s.mapCtx g at_ id
        let s := s.updLoan id (fun l => { l with state := .saving, restoreMark := false, restorers := [] })
        let s := s.updHub (fun h => { h with released := h.released.filter (fun y => y.restoring != some id) })
        ((s.answerScans l.restorers 0).wakeRect l.rect).later (scanCycles + 1) (.restore id))

/-- A saved wait registered anew and compared (R106, R350). -/
def State.registerWait (s : State) (n : Nat) (w : TlWait) : State :=
  ((s.updHub (fun h => { h with waits := AMap.put h.waits n w })).tlTake w.timeline).reevaluate w.timeline

/-- The loan runs again (R350 steps 3 and 4): requests, streams, waits, decanters and waiting tokens go on. -/
def State.endRestore (s : State) (id : Nat) (l : Loan) : State :=
  let ramps := s.restoreRamps l
  let waits := match AMap.find s.snaps id with | some x => x.waits | none => []
  let s := { s with snaps := AMap.del s.snaps id }
  let s := s.updLoan id (fun l => { l with state := .running, ramps := ramps, away := [], lastFiring := s.cycle })
  let s := if ramps = [] then s else s.later 16 (.rampTurnEnd id)
  let s := s.accs.foldl (fun s (p : Nat × Access) =>
    if p.2.loan = id ∧ p.2.stage = .buffered then
      (s.updEl p.2.el (fun e => { e with out := AMap.upd e.out [] 5 (· ++ [⟨id, .request p.1, []⟩]) })).later 1 (.waveAccessArrive p.1)
    else s) s
  let s := waits.foldl (fun s w => s.registerWait w.1 w.2) s
  let s := (s.goFeeds id).wakeWaves id
  let s := s.goDecanters id l
  let s := l.away.zipIdx.foldl (fun s x => s.inject (1 + x.2) x.1.1 x.1.2) s
  l.rect.bays.foldl (fun s b => s.feedDecanters b) s

/-- Tokens that landed during a switch are sent again, one a cycle (R350 step 3). -/
def State.redeliver (s : State) (id : Nat) (l : Loan) : State :=
  match l.acts.find? (fun (p : Nat × Activation) => !p.2.frozen && !p.2.freezing && (p.2.landed ++ p.2.held) != []) with
  | none => s
  | some (n, _) => (s.enterLanded id n).later 1 (.restore id)

/-- `RESTORE` (R350): a marked loan is tried; its blocks are written back, it runs again, and what landed is delivered. -/
def execRestore (loan : Nat) (s : State) : Host.Outcome State Fault Refusal :=
  match AMap.find s.loans loan with
  | none => .next s
  | some l =>
    if l.state == .running then .next (s.redeliver loan l)
    else match AMap.find s.snaps loan with
    | none => .next s
    | some x =>
      if l.state == .switchedOut then .next (if l.restoreMark then (s.beginRestore loan l x).getD s else s)
      else if l.state != .saving then .next s
      else if !s.allAwake l.rect then .next (s.later 1 (.restore loan))
      else .next ((s.endRestore loan l).later 1 (.restore loan))

/-! ### The instructions (R357, R358) -/

/-- A `SCANOUT`'s switch requested, or its answer (R346, R358): 1 where `SAVE` is 0, 3 where no running loan is named. -/
def askSwitch (h : Hdr) (b : FY) (f : FireCtx) (g : Got) (s : State) : State :=
  if !g.live then s
  else
    let flit := f.lateFlit h (Out.std f g b.d0 0)
    let s := s.bornFlit f.id flit
    match s.target (g.op 0) (fun l => l.state == .running) with
    | none => s.answerScans [(f.id, f.index, flit)] 3
    | some (id, l) =>
      if l.slip.save = 0 then s.answerScans [(f.id, f.index, flit)] 1
      else (s.updLoan id (fun l => { l with switchers := l.switchers ++ [(f.id, f.index, flit)] })).later 1 (.switchRequest id)
@[inherit_doc askSwitch] def askRestore (h : Hdr) (b : FY) (f : FireCtx) (g : Got) (s : State) : State :=
  if !g.live then s
  else
    let flit := f.lateFlit h (Out.std f g b.d0 0)
    let s := s.bornFlit f.id flit
    match s.target (g.op 0) (fun l => l.state == .switchedOut) with
    | none => s.answerScans [(f.id, f.index, flit)] 1
    | some (id, _) => s.updLoan id (fun l => { l with restoreMark := true, restorers := l.restorers ++ [(f.id, f.index, flit)] })

/-- `SCANOUT` (R358): it answers 0 when the save is acknowledged, 1 where `SAVE` is 0, 2 after a SAVE_FAULT, 3 where no running loan is
named. -/
def execScanout (h : Hdr) (b : FY) (s : State) : Host.Outcome State Fault Refusal :=
  fire (shapeY h b 1) (fun f g => if g.live && targetBad (g.op 0) false then some (illegalEff f g b.d0) else some (lateEff f g h b.d0))
    (askSwitch h b) s

/-- `SCANIN` (R358): it answers 0 when the restore begins, 1 where no switched-out slip is named. -/
def execScanin (h : Hdr) (b : FY) (s : State) : Host.Outcome State Fault Refusal :=
  fire (shapeY h b 1) (fun f g => if g.live && targetBad (g.op 0) false then some (illegalEff f g b.d0) else some (lateEff f g h b.d0))
    (askRestore h b) s

end Sys2Proof.Machine
end

