-- ==== Sys2Proof/Machine/Circulation.lean ====
section
/-! DEFINITION. The Circulation at work (R93 to R98, R109 to R123): host queues read, slips placed and reservations made, images fetched and
written, and prefetches. -/
namespace Sys2Proof.Machine

/-! ### Host queues (R95, R96) -/

/-- A host queue. -/
def Hub.queue (h : Hub) (n : Nat) : HostQueue := AMap.get h.queues HostQueue.empty n

/-- The hub with a host queue changed. -/
def Hub.updQueue (h : Hub) (n : Nat) (f : HostQueue → HostQueue) : Hub := { h with queues := AMap.upd h.queues HostQueue.empty n f }

/-- Whether a queue has a slip to read: it is enabled, or its slip is being read. -/
def HostQueue.ready (q : HostQueue) : Bool := (q.en || q.busy) && q.head != q.tail

/-- The queue that is served next (R95): in rotation after the last. -/
def Hub.nextQueue (h : Hub) : Option Nat :=
  match (List.range 64).find? (fun n => (h.queue n).busy && (h.queue n).ready) with
  | some n => some n
  | none => ((List.range 64).map (fun i => (h.rotation + 1 + i) % 64)).find? (fun n => (h.queue n).ready)

/-- The next slip of a queue has been read: `HEAD` advances. -/
def Hub.served (h : Hub) (n : Nat) : Hub :=
  { h.updQueue n (fun q => { q with head := q.head + 1, busy := false }) with rotation := n }

/-- Slips that wait in the hub for an entry are accepted while there is one (R96). -/
def State.acceptWaiting (s : State) : State :=
  s.hub.waitingSlips.foldl (fun s w => match s.accept w.2 w.1 false with
    | some s => s.updHub (fun h => { h with waitingSlips := h.waitingSlips.erase w })
    | none => s) s

/-- `SLIP_READ` (R28, R95, R96): the Circulation begins to read the next published slip of a host queue, while an entry is free, and accepts or
refuses the one that it has read; a chunk that moves holds the read (R125). -/
def execSlipRead (s : State) : Host.Outcome State Fault Refusal :=
  let s := s.acceptWaiting
  if s.stopped .loader then .next s
  else match s.hub.nextQueue with
  | none => .next s
  | some n =>
    let q := s.hub.queue n
    let addr := q.base + 128 * (q.head.toNat % 2 ^ q.log2n.toNat)
    if !q.busy then .next (if s.hub.freeHolds = 0 then s else s.updHub (fun h => h.updQueue n (fun q => { q with busy := true })))
    else if s.chunkMoves addr 128 then .next s
    else
    let bs := readBytes s.mem addr 128
    match checkSlip bs ⟨q.space, q.privOk, q.dies, none⟩ with
    | .error (reason, off) => .next ((s.refuseSlip bs reason off).updHub (fun h => h.served n))
    | .ok slip => match s.accept slip (rankQueue n) false with
      | some s => .next (s.updHub (fun h => h.served n))
      | none => .next s

/-! ### Placement (R111 to R113) -/

/-- Whether a released slip is tried at all: not one that waits for the kernel, and a switched-out one only when it is marked. -/
def State.tries (s : State) (x : Released) : Bool :=
  !x.held && (match x.restoring with
    | some id => (match AMap.find s.loans id with | some l => l.restoreMark | none => false)
    | none => true)

/-- One released slip tried (R111, R113, R350): the state in which it is placed or restored, or in which it waits for the kernel. -/
def State.tryPlace (s : State) (x : Released) : Option State :=
  if !s.tries x then none
  else match x.restoring with
  | some id => (match AMap.find s.loans id, AMap.find s.snaps id with
    | some l, some p => if (s.beginRestore id l p).isSome then some (s.later 0 (.restore id)) else none
    | _, _ => none)
  | none =>
    if Config.annexPool < s.hub.annexTaken + x.slip.annex then none
    else
      let img := s.slipImage x.slip
      match s.choose x img with
      | none => none
      | some (k, r, c) =>
        if x.slip.save != 0 && !s.mapped x.slip.space x.slip.save (saveBytes x.slip.w x.slip.h) then some (s.holdSlip x)
        else some (s.place x k r c (slipNeed x.slip (s.imageFor x.slip img r c)))

/-- Whether a released slip stands first in its `PRIO` (R112). -/
def Hub.firstInPrio (h : Hub) (x : Released) : Bool :=
  !x.held && x.restoring.isNone &&
    ((h.released.find? (fun y => y.slip.prio == x.slip.prio && !y.held && y.restoring.isNone)).any (fun y => y == x))

/-- The time from which each slip has stood first is kept. -/
def Hub.standing (h : Hub) (now : Nat) : Hub :=
  { h with released := h.released.map (fun x => if h.firstInPrio x then x else { x with firstSince := now }) }

/-- `PLACEMENT_DECISION` (R111): the first released slip that can be placed is; a slip without a rectangle does not stop those behind. -/
def execPlacementDecision (s : State) : Host.Outcome State Fault Refusal :=
  let s := s.updHub (fun h => h.standing s.cycle)
  if s.stopped .loader then .next s else .next ((s.hub.released.findSome? (fun x => s.tryPlace x)).getD s)

/-- Slips that have stood first in their `PRIO` for 65,536 cycles without a rectangle and hold no reservation (R112). -/
def State.overdue (s : State) : List Released :=
  s.hub.released.filter (fun x => s.hub.firstInPrio x && decide (x.firstSince + 65536 ≤ s.cycle) &&
    !s.hub.reservations.any (fun (p : Nat × Reserved) => p.2.slip == x.slip && p.2.cycle == x.cycle))

/-- Loans on a rectangle in a context. -/
def State.loansOn (s : State) (r : Rect) (c : Nat) : Nat :=
  (s.loans.filter (fun (p : Nat × Loan) => p.2.ctxs.contains c && p.2.state != .switchedOut && p.2.rect.meets r)).length

/-- The rectangle and context that would be free soonest on the dies without a reservation (R112). -/
def State.soonest (s : State) (x : Released) : Option (Rect × Nat) :=
  let dies := (List.range 4).filter (fun d => !s.boot.fenced.getLsbD d && x.slip.dies.getLsbD d && (AMap.find s.hub.reservations d).isNone)
  let rs := (dies.flatMap (fun d => rectsOn d x.slip.w x.slip.h)).filter (fun r => r.bays.all (fun b => (s.bay b).sound))
  let cs := (rs.filter s.allAwake ++ rs.filter (fun r => !s.allAwake r)).flatMap (fun r => (List.range 4).map (fun c => (r, c)))
  cs.foldl (fun best p => match best with
    | none => some p
    | some q => if s.loansOn p.1 p.2 < s.loansOn q.1 q.2 then some p else some q) none

/-- `PLACEMENT_RESERVATION` (R112). -/
def execPlacementReservation (s : State) : Host.Outcome State Fault Refusal :=
  .next (s.overdue.foldl (fun s x =>
    if s.choices x (s.slipImage x.slip) != [] then s
    else match s.soonest x with
    | some (r, c) => s.updHub (fun h => { h with reservations := AMap.put h.reservations r.die ⟨x.slip, x.cycle, r.nwb, c⟩ })
    | none => s) s)

/-! ### Images fetched (R81, R94, R118, R385) -/

/-- A loan returns without running on. -/
def State.goHome (s : State) (id : Nat) : State := (s.updLoan id (fun l => { l with state := .returning })).later 1 (.loanReturn id)

/-- A CFG_REJECT record of a loan. -/
def State.rejectLoan (s : State) (id : Nat) (detail : W64) : State :=
  s.updHub (fun h => h.record (mkRecord s { Report.of fCFG with loan := some id, detail := detail } false))

/-- What a loan takes where its image's need is no longer what placement has read; it waits while that does not fit. -/
def State.takeNeed (s : State) (id : Nat) (l : Loan) (n : Need) : Option Loan :=
  if (⟨l.reserve, l.annexRes, l.parts, l.storeSize⟩ : Need) = n then some l
  else if l.rect.bays.zipIdx.all (fun p => s.memFits p.1 p.2 id n) then
    (s.firstLineFor l.rect.bays id n.parts).map (fun f =>
      { l with firstLine := f, reserve := n.reserve, annexRes := n.annexRes, parts := n.parts, storeSize := n.store })
  else none

/-- The first image of a loan has been read (R81, R94, R118): it is checked and its writing begins, or the loan returns. -/
def State.firstFetched (s : State) (id : Nat) (l : Loan) : State :=
  let read : Except CfgBad Image :=
    if l.hit then .ok ((s.bay (l.bayKey 0)).ctxAt l.ctx).image
    else (s.loadImage l.slip.space l.slip.cfg ⟨l.w, l.h, l.slip.priv, l.slip.mstore⟩).map (fun i => i.placed l.rect)
  match read with
  | .error e => (s.rejectLoan id e.detail).goHome id
  | .ok img =>
    if !argsOk img l.slip.args then (s.rejectLoan id (cfgDetail 0x24 0 0xFFFF 14)).goHome id
    else match s.takeNeed id l (img.need l.slip.mstore) with
    | none => s.later 1 (.imageFetchDone id)
    | some l =>
      let s := { s with loans := AMap.put s.loans id { l with image := img, images := [], state := .writing } }
      s.later (img.writeCycles (!l.hit) true + 1) (.configWriteDone id)

/-- Whether a successor fits what its loan holds (R385). -/
def fitsLoan (l : Loan) (n : Need) : Bool :=
  decide (n.store ≤ l.storeSize) && (n.parts.zip l.parts).all (fun p => decide (p.1 ≤ p.2)) &&
    (List.range (l.w * l.h)).all (fun b => decide (AMap.get n.reserve 0 b ≤ AMap.get l.reserve 0 b) &&
      decide (AMap.get n.annexRes 0 b ≤ AMap.get l.annexRes 0 b))

/-- A successor's image has been read (R38, R385): a refused one ends the loan, with its completion. -/
def State.successorFetched (s : State) (id : Nat) (l : Loan) (x : Nat) (e : ExitEntry) : State :=
  let by' := l.imageOf (x / 8)
  let read : Except CfgBad Image :=
    if l.hit then .ok ((s.bay (l.bayKey 0)).ctxAt l.ctx).image
    else (s.loadImage l.slip.space e.addr ⟨l.w, l.h, l.slip.priv, l.slip.mstore⟩).map (fun i => i.placed l.rect)
  match read with
  | .error bad => (s.refuseImage id by' (x % 8) bad).goHome id
  | .ok img =>
    if !argsOk img l.slip.args then (s.refuseImage id by' (x % 8) ⟨0x24, 0, 0xFFFF, 14⟩).goHome id
    else if !fitsLoan l (img.need l.slip.mstore) then
      (s.rejectLoan id (cfgDetail 0x28 0 0 (if l.storeSize < (img.need l.slip.mstore).store then 20 else 24))).goHome id
    else
      let s := s.updLoan id (fun l => { l with image := img, images := [], state := .writing })
      s.later (img.writeCycles (!l.hit) false + 1) (.configWriteDone id)

/-- `IMAGE_FETCH_DONE` (R118, R351, R385): the image of a loan, of its successor or of its callee has been read. -/
def execImageFetchDone (loan : Nat) (s : State) : Host.Outcome State Fault Refusal :=
  match AMap.find s.loans loan with
  | none => .next s
  | some l =>
    if s.stopped .loader then .next (s.later 1 (.imageFetchDone loan))
    else if l.state == .fetching then
      (match l.exitTaken with
        | none => .next (s.firstFetched loan l)
        | some x => match AMap.find (l.imageOf (x / 8)).exits (x % 8) with
          | some e => .next (s.successorFetched loan l x e)
          | none => .next (s.goHome loan))
    else if l.state == .running then
      (match l.calling with
        | some c => .next (if c.stage == .fetching then s.calleeFetch loan l c else s)
        | none => .next s)
    else .next s

/-- A loan's image is written (R80, R118 steps 3 to 5, R385): its windows are cleared for a first image only, and filled; the first activation
begins when every bay is awake. -/
def State.loanWritten (s : State) (id : Nat) (l : Loan) : State :=
  if !s.allAwake l.rect then s.later 1 (.configWriteDone id)
  else
    let t := s.writeContext id l l.ctx l.image l.hit
    let t := t.updLoan id (fun l => { l with images := AMap.put l.images l.ctx l.image, drops := [] })
    let t := (if l.exitTaken.isNone then t.clearWindows l l.image else t).writeRecords l l.image
    match t.startFirst id with
    | some t => t
    | none => s.later 1 (.configWriteDone id)

/-- `CONFIG_WRITE_DONE` (R118, R351). -/
def execConfigWriteDone (loan : Nat) (s : State) : Host.Outcome State Fault Refusal :=
  match AMap.find s.loans loan with
  | none => .next s
  | some l =>
    if s.stopped .loader then .next (s.later 1 (.configWriteDone loan))
    else if l.state == .writing then .next (s.loanWritten loan l)
    else if l.state == .running then
      (match l.calling with
        | some c => .next (if c.stage == .loading then s.calleeLoaded loan l c else s)
        | none => .next s)
    else .next s

/-! ### Prefetch (R120 to R123) -/

/-- The exit that the predictor of a loan's bay 0 expects (R122): the highest counter of at least 2, of equals the lower exit. -/
def State.predicted (s : State) (l : Loan) : Option ExitEntry :=
  let p := (s.bay (l.bayKey 0)).predictor
  let count (n : Nat) : Nat := match AMap.find p (predictIndex l.image.addr n) with
    | some e => if e.tag = predictTag l.image.addr then e.count.toNat else 0
    | none => 0
  let cs := (List.range 8).filter (fun n => decide (2 ≤ count n) && (match AMap.find l.image.exits n with | some e => !e.ret | none => false))
  match cs.foldl (fun best n => match best with
    | none => some n
    | some m => if count m < count n then some n else some m) none with
  | some n => AMap.find l.image.exits n
  | none => none

/-- The lookup at a loan's first firing, and the prefetch that it begins in a context that is empty in every bay (R122). -/
def State.lookup (s : State) (id : Nat) (l : Loan) : State :=
  let s := s.updLoan id (fun l => { l with looked := true })
  match s.predicted l, (List.range 4).find? (fun c => l.rect.bays.all (fun b => ((s.bay b).ctxAt c).st == .empty)) with
  | some e, some c =>
    let (n, s) := s.fresh
    let s := s.updHub (fun h => { h with
      prefetches := AMap.put h.prefetches n ⟨none, l.die, l.nwb, l.w, l.h, c, l.slip.space, e.addr, l.slip.priv, l.slip.mstore⟩ })
    (s.setCtx l.rect c (fun x => { x with st := .prefetching, lastLoan := s.cycle })).askImage l.die (l.bayKey 0) 0 l.slip.space e.addr 0
      (.prefetch n) (.prefetchDone n)
  | _, _ => s

/-- `PREFETCH_DONE` (R118, R122): the image has been read, and is written a word a cycle in each bay; once written it is resident. Its context
is empty when it fails validation. -/
def execPrefetchDone (id : Nat) (s : State) : Host.Outcome State Fault Refusal :=
  match AMap.find s.hub.prefetches id with
  | none => .next s
  | some p =>
    let gone := s.updHub (fun h => { h with prefetches := AMap.del h.prefetches id })
    let r : Rect := ⟨p.die, p.nwb, p.w, p.h⟩
    if s.stopped .loader then .next (s.later 1 (.prefetchDone id))
    else match p.read with
    | none => (match s.loadImage p.space p.addr ⟨p.w, p.h, p.priv, p.mstore⟩ with
      | .error _ => .next (r.bays.foldl (fun s b => s.emptyCtx b p.ctx) gone)
      | .ok img => .next ((s.updHub (fun h => { h with prefetches := AMap.put h.prefetches id { p with read := some (img.placed r) } })).later
          (img.wordCycles + 1) (.prefetchDone id)))
    | some img =>
      let s := r.bays.zipIdx.foldl (fun s q => (s.emptyEls q.1 p.ctx).updBay q.1 (fun y => { y with
        ctxs := AMap.put y.ctxs p.ctx ⟨.resident, img, q.2, (y.ctxAt p.ctx).lastLoan, s.cycle⟩ })) gone
      let m := s.spareMap r
      .next (img.elements.foldl (fun s i => s.updEl (r.elKey m i) (fun e => e.updCtx p.ctx (fun _ =>
        { loadedCtx img 0 i [] with loan := none, logical := 0 }))) s)

end Sys2Proof.Machine
end

