-- ==== Sys2Proof/Machine/Boot.lean ====
section
/-! DEFINITION. Bring-up and recovery (R18 to R25), the wake sequencer and power gating (R22, R116), and the tiers of memory (R124, R125). -/
namespace Sys2Proof.Machine

/-! ### Bad nodes (R114) -/

/-- A bad-node entry as it reads: reserved bits zero, and the fields that `SP` makes zero. -/
def badNodeValue (v : BitVec 16) : BitVec 16 := if v.getLsbD 8 then v &&& 0x0D27 else v &&& 0x0DFF

/-- The entries of a bay's register loaded at bring-up, from BIST results and fuses (R18). -/
def Bay.loadBadNodes (bay : Nat) (y : Bay) : Bay :=
  { y with badNodes := (List.range 8).map (fun i =>
      let v := badNodeValue (Config.freeBadNode (bay * 8 + i))
      (i, if v.getLsbD 0 && !v.getLsbD 11 then v else 0)) }

/-! ### The sequence of R18 -/

/-- Draws of a free truth value. -/
def State.drawBools (s : State) (n : Nat) : List Bool × State :=
  ((List.range n).map (fun i => Config.freeBool (s.freeCount + i)), { s with freeCount := s.freeCount + n })

/-- Both signatures of an image (R19). -/
def State.verifyImage (s : State) : Bool × State :=
  let (bs, s) := s.drawBools 2
  (bs.all id, s)

/-- The dies fenced by the failure of some (R21): die 0 takes die 1 with it, and die 2 die 3. -/
def fencedBy (failed : List Bool) : BitVec 4 :=
  let f (d : Nat) : Bool := failed.getD d false
  bitOf (f 3 || f 2) ++ bitOf (f 2) ++ bitOf (f 1 || f 0) ++ bitOf (f 0)

/-- Step 3 for a die: four stages, of which the last loads the bad-node registers; whether one failed. -/
def State.bringUpDie (s : State) (d : Nat) : Bool × State :=
  let (bs, s) := s.drawBools 4
  if bs.all id then
    (false, (List.range 128).foldl (fun s b => s.updBay (d * 128 + b) (Bay.loadBadNodes (d * 128 + b))) s)
  else (true, s)

/-- The start of the kernel's part (R18 steps 3 and 4, R25): the LMS counters are made equal, the dies are brought up in order, and their
bays wait to be woken. -/
def State.bringUp (s : State) : State :=
  let lms := max s.boot.lmsFuse s.boot.lmsNvme
  let r := (List.range 4).foldl (fun (r : List Bool × State) d => let (x, s) := r.2.bringUpDie d; (r.1 ++ [x], s)) ([], s)
  let s := r.2
  let mask := fencedBy r.1
  let queues := ((List.range 4).filter (fun d => !mask.getLsbD d)).map (fun d => (d, (List.range 128).map (fun b => d * 128 + b)))
  let s := s.updHub (fun h => { h with mbo := AMap.put h.mbo 0 (mask.zeroExtend 64) })
  let (d, s) := s.drawNat
  let s := { s with boot := { s.boot with stage := .kernel, lmsFuse := lms, lmsNvme := lms, fenced := mask, wakeQueues := queues } }
  if queues = [] then s.later (1 + d) .hostLinkTrained else s

/-- `RESET` (R18): the machine after power-on, with what outlives it; the firmware image is verified, and bring-up goes on or the boot ROM
enters recovery mode, with the link trained. -/
def execReset (s : State) : Host.Outcome State Fault Refusal :=
  let s := { State.reset with
    agenda := []
    inputs := s.inputs
    freeCount := s.freeCount
    boot := { Boot.reset with lmsFuse := s.boot.lmsFuse, lmsNvme := s.boot.lmsNvme } }
  let (ok, s) := s.verifyImage
  .next (if ok then s.bringUp else { s with boot := { s.boot with stage := .recovery, link := true } })

/-- The die that the wake sequencers serve: at bring-up the first that has bays left, later each. -/
def State.wakes (s : State) (die : Nat) : Bool :=
  AMap.get s.boot.wakeQueues [] die != [] &&
    (s.boot.stage != .kernel || (List.range die).all (fun d => AMap.get s.boot.wakeQueues [] d == []))

/-- `WAKE_SEQUENCER_TICK` (R22): the next bay of a die is awake; after the last of bring-up the host link is trained. -/
def execWakeSequencerTick (die : Nat) (s : State) : Host.Outcome State Fault Refusal :=
  if !s.wakes die then .next s
  else match AMap.get s.boot.wakeQueues [] die with
  | [] => .next s
  | b :: rest =>
    let s := s.updBay b (fun y => { y with awake := true, idleSince := s.cycle })
    let s := { s with boot := { s.boot with wakeQueues := if rest = [] then AMap.del s.boot.wakeQueues die else AMap.put s.boot.wakeQueues die rest } }
    let next := (List.range 4).find? (fun d => s.wakes d)
    .next (if rest != [] then s.later 64 (.wakeSequencerTick die)
      else if s.boot.stage != .kernel then s
      else match next with
        | some d => s.later 64 (.wakeSequencerTick d)
        | none => let (d, s) := s.drawNat; s.later (1 + d) .hostLinkTrained)

/-- `HOST_LINK_TRAINED` (R18 step 5): BAR 0 takes the layout of R26. -/
def execHostLinkTrained (s : State) : Host.Outcome State Fault Refusal :=
  if s.boot.stage == .kernel && (List.range 4).all (fun d => AMap.get s.boot.wakeQueues [] d == []) then
    .next { s with boot := { s.boot with stage := .up, link := true, layout := true } }
  else .next s

/-! ### Recovery (R20) -/

/-- Whether BAR 0 has the recovery layout. -/
def Boot.recoveryLayout (b : Boot) : Bool := b.link && !b.layout

/-- A rejected image. -/
def Boot.reject (b : Boot) : Boot := { b with rcstate := 2, nrej := if b.nrej = 0xFFFF then b.nrej else b.nrej + 1 }

/-- A write to `RCDB` (R20). -/
def State.recoveryGo (s : State) (value : W64) : State :=
  if !s.boot.recoveryLayout || !value.getLsbD 0 || s.boot.rcstate == 1 || s.boot.rcstate == 3 then s
  else
    let n := s.boot.rclen.toNat
    if n % 64 ≠ 0 ∨ n < 64 ∨ 2 ^ 22 < n then { s with boot := s.boot.reject }
    else
      let (d, s) := s.drawNat
      ({ s with boot := { s.boot with rcstate := 1 } }).later (1 + d) .recoveryVerifyDone

/-- `RCDB_GO` (R20). -/
def execRcdbGo (value : W64) (s : State) : Host.Outcome State Fault Refusal := .next (s.recoveryGo value)

/-- `RECOVERY_VERIFY_DONE` (R20): the image is rejected, or it goes on from step 3 of R18. -/
def execRecoveryVerifyDone (s : State) : Host.Outcome State Fault Refusal :=
  if s.boot.rcstate != 1 then .next s
  else
    let (ok, s) := s.verifyImage
    .next (if ok then State.bringUp { s with boot := { s.boot with rcstate := 3 } } else { s with boot := s.boot.reject })

/-! ### Attestation (R25) -/

/-- `ATTESTATION_SIGN` (R25): both copies of the counter advance before the report is signed with both signatures and released; an exhausted
tree refuses with status 3. -/
def execAttestationSign (s : State) : Host.Outcome State Fault Refusal :=
  let n := max s.boot.lmsFuse s.boot.lmsNvme
  if Config.lmsCapacity ≤ n then .next (s.updHub (fun h => { h with mbo := AMap.put h.mbo 1 3 }))
  else
    let report : SignedReport := ⟨n, Config.freeSignature s.freeCount, Config.freeSignature (s.freeCount + 1)⟩
    .next { s with
      freeCount := s.freeCount + 2
      boot := { s.boot with lmsFuse := n + 1, lmsNvme := n + 1, signed := s.boot.signed ++ [report] } }

/-! ### Gating (R116) -/

/-- Whether a context of a bay is loaned. -/
def Bay.hasLoan (y : Bay) : Bool := y.ctxs.any (fun (p : Nat × BayCtx) => p.2.st == .loaned)

/-- Whether a bay has had no loaned context for 2^18 cycles since the last that ended with one. -/
def Bay.gates (y : Bay) (now : Nat) : Bool := y.awake && !y.hasLoan && decide (y.idleSince + 2 ^ 18 < now)

/-- `BAY_GATE` (R116, R120): a bay is gated, and its contexts and its predictor become empty. -/
def execBayGate (bay : Nat) (s : State) : Host.Outcome State Fault Refusal :=
  if !(s.bay bay).gates s.cycle then .next s
  else
    let r : Rect := ⟨bay / 128, bay % 128, 1, 1⟩
    let s := (List.range 4).foldl (fun s c => (s.claimCtx r c).emptyCtx bay c) s
    .next (s.updBay bay (fun y => { y with awake := false, predictor := [] }))

/-! ### Tiers of memory (R124, R125) -/

/-- Chunks of a die counted in this epoch that lie in a tier, with their counts. -/
def State.countedIn (s : State) (die : Nat) (stacked : Bool) : List (Nat × Nat) :=
  s.trans.counts.filter (fun p => homeDie (p.1 * 65536) == die && s.inStacked p.1 == stacked)

/-- Whether a chunk of a die's stacked DRAM has not been counted in this epoch, and may be swapped. -/
def State.coldChunk (s : State) (die c : Nat) (taken : List Nat) : Bool :=
  decide (c < 2 ^ 36) && !isRemote (c * 65536) && homeDie (c * 65536) == die && s.inStacked c && AMap.get s.trans.counts 0 c == 0 &&
    (AMap.find s.trans.moving c).isNone && !taken.contains c

/-- The chunk of a die's stacked DRAM that is swapped next (R124), the coldest: while some have not been counted it is one of them, which the
unit chooses; once all have been counted it is the one with the lowest count. A choice that names none makes no swap. -/
def State.coldest (s : State) (die n : Nat) (taken : List Nat) : Option Nat :=
  let counted := s.countedIn die true
  if counted.length + taken.length < stackedPerDie then
    let c := Config.freeNat n
    if s.coldChunk die c taken then some c else none
  else ((sortBy (fun (a b : Nat × Nat) => decide (a.2 ≤ b.2)) counted).find? (fun k => !taken.contains k.1 && (AMap.find s.trans.moving k.1).isNone)).map
    Prod.fst

/-- The swaps of an epoch (R124): the hottest chunks of LPDDR6 that do not move, at most 256, each with the coldest of stacked DRAM; how many
there are is the unit's. -/
def State.epochSwaps (s : State) (die : Nat) : List (Nat × Nat) × Nat :=
  let hot := (sortBy (fun (a b : Nat × Nat) => decide (b.2 ≤ a.2))
    ((s.countedIn die false).filter (fun p => (AMap.find s.trans.moving p.1).isNone))).take 256
  hot.foldl (fun (r : List (Nat × Nat) × Nat) h => match s.coldest die r.2 (r.1.map Prod.snd) with
    | some c => (if AMap.get s.trans.counts 0 c < h.2 then r.1 ++ [(h.1, c)] else r.1, r.2 + 1)
    | none => (r.1, r.2 + 1)) ([], s.freeCount)

/-- A chunk begins to move; it takes at most 1,200 cycles (R125). -/
def State.beginMove (s : State) (die c : Nat) : State :=
  let (d, s) := s.drawNat
  ({ s with trans := { s.trans with moving := AMap.put s.trans.moving c [] } }).later (1 + d % 1200) (.chunkMoveDone die c)

/-- `EPOCH_END` (R124): the swaps begin, and a die's counts start again. -/
def execEpochEnd (die : Nat) (s : State) : Host.Outcome State Fault Refusal :=
  let (swaps, n) := s.epochSwaps die
  let s := { s with
    freeCount := n
    trans := { s.trans with counts := s.trans.counts.filter (fun p => homeDie (p.1 * 65536) != die) } }
  .next (swaps.foldl (fun s p => (s.beginMove die p.1).beginMove die p.2) s)

end Sys2Proof.Machine
end

