-- ==== Sys2Proof/Machine/Colophon.lean ====
section
/-! DEFINITION. The Colophon (R366 to R374): its registers, its instructions, and the kernel's writes of `CLCTL`. -/
namespace Sys2Proof.Machine

/-- A register; `e0` reads zero (R366). -/
def Colophon.reg (c : Colophon) (r : BitVec 4) : W32 := if r = 0 then 0 else AMap.get c.regs 0 r.toNat

/-- A register written; a write to `e0` is discarded (R366). -/
def Colophon.setReg (c : Colophon) (r : BitVec 4) (v : W32) : Colophon :=
  if r = 0 then c else { c with regs := AMap.put c.regs r.toNat v }

/-- The halt of an error: no effect, `PC` names the instruction, `HCODE` is zero (R368, R370). -/
def Colophon.fail (c : Colophon) (code : BitVec 4) : Colophon :=
  { c with run := false, halt := true, err := true, ecode := code, haltPc := BitVec.ofNat 10 c.pc, hcode := 0 }

/-- The next instruction after one of some cycles; beyond word 1,023 the program halts (R366, R368). -/
def Colophon.advance (c : Colophon) (now cost : Nat) : Colophon :=
  if c.pc + 1 < 1024 then { c with pc := c.pc + 1, ready := now + cost } else c.fail 5

/-- A branch of a signed offset from its own word (R370, R372). -/
def Colophon.branch (c : Colophon) (now : Nat) (off : BitVec 14) : Option Colophon :=
  let t : Int := (c.pc : Int) + off.toInt
  if 0 ≤ t ∧ t < 1024 then some { c with pc := t.toNat, ready := now + 1 } else none

/-- The Colophon waits: the same instruction in the next cycle. -/
def Colophon.wait (c : Colophon) (now : Nat) : Colophon := { c with ready := now + 1 }

/-- The Colophon in focus. -/
def State.col (s : State) : Colophon := (s.bay s.focus.bay).colophon

/-- The state with the Colophon in focus changed. -/
def State.withCol (s : State) (c : Colophon) : State := s.updBay s.focus.bay (fun b => { b with colophon := c })

/-- An instruction that writes a register, with flags, in some cycles. -/
def colWrite (rd : BitVec 4) (cost : Nat) (v : W32) (fl : Flags) (s : State) : Host.Outcome State Fault Refusal :=
  .next (s.withCol (({ s.col with flg := s.col.flg ||| colophonFlags fl }.setReg rd v).advance s.cycle cost))

/-- An instruction on a type field: f32, i32 or n32; 3 halts with `ECODE` 6 (R371). -/
def colTyped (rd : BitVec 4) (t : BitVec 2) (costF : Nat) (f : W32 × Flags) (i : W32) (n : W32) (s : State) :
    Host.Outcome State Fault Refusal :=
  match t.toNat with
  | 0 => colWrite rd costF f.1 f.2 s
  | 1 => colWrite rd 1 i Flag.none s
  | 2 => colWrite rd 1 n Flag.none s
  | _ => .next (s.withCol (s.col.fail 6))

/-- `EADD` (R371). -/
def execEadd (rd ra rb : BitVec 4) (t : BitVec 2) (s : State) : Host.Outcome State Fault Refusal :=
  let a := s.col.reg ra
  let b := s.col.reg rb
  colTyped rd t 1 (aluFadd .f32 a b) (a + b) (a + b) s

/-- `ESUB` (R371). -/
def execEsub (rd ra rb : BitVec 4) (t : BitVec 2) (s : State) : Host.Outcome State Fault Refusal :=
  let a := s.col.reg ra
  let b := s.col.reg rb
  colTyped rd t 1 (aluFsub .f32 a b) (a - b) (a - b) s

/-- `EMUL` (R371). -/
def execEmul (rd ra rb : BitVec 4) (t : BitVec 2) (s : State) : Host.Outcome State Fault Refusal :=
  let a := s.col.reg ra
  let b := s.col.reg rb
  colTyped rd t 4 (aluFmul .f32 a b) (a * b) (a * b) s

/-- `EMAX` (R371). -/
def execEmax (rd ra rb : BitVec 4) (t : BitVec 2) (s : State) : Host.Outcome State Fault Refusal :=
  let a := s.col.reg ra
  let b := s.col.reg rb
  colTyped rd t 1 (aluFmax .f32 a b) (aluImax .i32 a b) (aluImax .n32 a b) s

/-- `EMIN` (R371). -/
def execEmin (rd ra rb : BitVec 4) (t : BitVec 2) (s : State) : Host.Outcome State Fault Refusal :=
  let a := s.col.reg ra
  let b := s.col.reg rb
  colTyped rd t 1 (aluFmin .f32 a b) (aluImin .i32 a b) (aluImin .n32 a b) s

/-- `EFMA` (R371). -/
def execEfma (rd ra rb : BitVec 4) (s : State) : Host.Outcome State Fault Refusal :=
  let (v, fl) := aluFfma .f32 (s.col.reg ra) (s.col.reg rb) (s.col.reg rd)
  colWrite rd 4 v fl s

/-- `ECVT` (R371): result types 0 to 6 and modes 0 to 3; others halt with `ECODE` 6. -/
def execEcvt (rd ra : BitVec 4) (ty : BitVec 4) (rnd : BitVec 3) (sat : Bool) (s : State) : Host.Outcome State Fault Refusal :=
  match Ty.ofCode ty with
  | some t =>
    if ty.toNat ≤ 6 ∧ rnd.toNat ≤ 3 then
      let (v, fl) := convLane .f32 t rnd.toNat 0 sat (s.col.reg ra).toNat
      colWrite rd 2 (BitVec.ofNat 32 v) fl s
    else .next (s.withCol (s.col.fail 6))
  | none => .next (s.withCol (s.col.fail 6))

/-- `ECLMP` (R371): min(max(ra, rb), rd). -/
def execEclmp (rd ra rb : BitVec 4) (s : State) : Host.Outcome State Fault Refusal :=
  let (x, f) := aluFmax .f32 (s.col.reg ra) (s.col.reg rb)
  let (y, g) := aluFmin .f32 x (s.col.reg rd)
  colWrite rd 1 y (f ||| g) s

/-- `EMOV` (R371). -/
def execEmov (rd ra : BitVec 4) (s : State) : Host.Outcome State Fault Refusal := colWrite rd 1 (s.col.reg ra) Flag.none s

/-- `EAND` (R371). -/
def execEand (rd ra rb : BitVec 4) (s : State) : Host.Outcome State Fault Refusal :=
  colWrite rd 1 (s.col.reg ra &&& s.col.reg rb) Flag.none s

/-- `ESHF` (R371). -/
def execEshf (rd ra : BitVec 4) (n : BitVec 5) (how : BitVec 2) (s : State) : Host.Outcome State Fault Refusal :=
  let a := s.col.reg ra
  let k := n.toNat
  let v := match how.toNat with
    | 0 => a <<< k
    | 1 => a >>> k
    | 2 => a.sshiftRight k
    | _ => a.rotateLeft k
  colWrite rd 1 v Flag.none s

/-- `ELDI` (R371). -/
def execEldi (rd ra : BitVec 4) (v : BitVec 14) (s : State) : Host.Outcome State Fault Refusal :=
  colWrite rd 1 ((s.col.reg ra <<< 14) ||| v.setWidth 32) Flag.none s

/-- The metadata of the last word popped (R372); zero when none has been. -/
def portMeta : Option PortWord → W32
  | some w => (0 : BitVec 23) ++ (if w.pred then (1 : BitVec 1) else 0) ++ w.index ++ w.tile
  | none => 0

/-- `ELDR` (R372): pops a word, waiting for one, or reads the metadata of the last. -/
def execEldr (rd : BitVec 4) (m : Bool) (s : State) : Host.Outcome State Fault Refusal :=
  let c := s.col
  if m then colWrite rd 1 (portMeta c.popped) Flag.none s
  else match c.port with
    | [] => .next (s.withCol (c.wait s.cycle))
    | w :: rest => .next (s.withCol ((({ c with port := rest, popped := some w }).setReg rd (if w.pred then w.value else 0)).advance s.cycle 1))

/-- `ESTR` (R372, R373): the store joins the bay's queue of Colophon stores; a misaligned or absent address halts with
`ECODE` 3. -/
def execEstr (ra rb : BitVec 4) (k : BitVec 14) (s : State) : Host.Outcome State Fault Refusal :=
  let c := s.col
  let a := (c.reg ra).toNat + 4 * k.toNat
  if a % 4 ≠ 0 ∨ 2 ^ 22 ≤ a then .next (s.withCol (c.fail 3))
  else
    let first := (s.bay s.focus.bay).estores == []
    let s := s.updBay s.focus.bay (fun b => { b with estores := b.estores ++ [(a, c.reg rb)] })
    let s := s.withCol (c.advance s.cycle 1)
    .next (if first then s.postEstore s.focus.bay else s)

/-- `EBNZ` (R372). -/
def execEbnz (ra : BitVec 4) (off : BitVec 14) (s : State) : Host.Outcome State Fault Refusal :=
  let c := s.col
  if c.reg ra = 0 then .next (s.withCol (c.advance s.cycle 1))
  else .next (s.withCol ((c.branch s.cycle off).getD (c.fail 5)))

/-- `EJMP` (R372). -/
def execEjmp (off : BitVec 14) (s : State) : Host.Outcome State Fault Refusal :=
  .next (s.withCol ((s.col.branch s.cycle off).getD (s.col.fail 5)))

/-- `ELOOP` (R372). -/
def execEloop (rd : BitVec 4) (off : BitVec 14) (s : State) : Host.Outcome State Fault Refusal :=
  let c := s.col
  let d := (c.setReg rd (c.reg rd - 1))
  if d.reg rd = 0 then .next (s.withCol (d.advance s.cycle 1))
  else .next (s.withCol ((d.branch s.cycle off).getD (c.fail 5)))

/-- `EWAIT` (R372): waits until the port holds `n` words; 0 and above 64 halt with `ECODE` 4. -/
def execEwait (n : BitVec 7) (s : State) : Host.Outcome State Fault Refusal :=
  let c := s.col
  if n.toNat = 0 ∨ 64 < n.toNat then .next (s.withCol (c.fail 4))
  else if n.toNat ≤ c.port.length then .next (s.withCol (c.advance s.cycle 1))
  else .next (s.withCol (c.wait s.cycle))

/-- `EHALT` (R372). -/
def execEhalt (code : BitVec 14) (s : State) : Host.Outcome State Fault Refusal :=
  let c := s.col
  .next (s.withCol { c with run := false, halt := true, err := false, ecode := 0, haltPc := BitVec.ofNat 10 c.pc, hcode := code })

/-- The loan in a context on a bay, and the bay's number in its region. -/
def loanOn (s : State) (bay ctx : Nat) : Option (Nat × Loan × Nat) :=
  s.loans.findSome? (fun (p : Nat × Loan) =>
    if p.2.ctxs.contains ctx then
      match (List.range (p.2.w * p.2.h)).find? (fun b => p.2.bayKey b == bay) with
      | some b => some (p.1, p.2, b)
      | none => none
    else none)

/-- `ESIG` (R372, R373): a data token after every earlier store has been performed; with no loan in `CCTX` it halts with
`ECODE` 7. -/
def execEsig (ra : BitVec 4) (el : BitVec 7) (port : BitVec 2) (hnd : BitVec 3) (s : State) : Host.Outcome State Fault Refusal :=
  let c := s.col
  match loanOn s s.focus.bay c.cctx.toNat with
  | none => .next (s.withCol (c.fail 7))
  | some (id, l, b) =>
    if (s.bay s.focus.bay).estores ≠ [] then .next (s.withCol (c.wait s.cycle))
    else
      let (tag, cont) := match c.popped with | some w => (w.tag, w.cont) | none => (Tag.initial l.firstFrame, 0)
      let index := b * 128 + el.toNat
      let img := l.imageOf c.cctx.toNat
      let s := s.withCol (c.advance s.cycle 1)
      match mkFlit l img id b c.cctx.toNat 0 (.element index port.toNat hnd.toNat) .data true cont (c.reg ra) tag with
      | some f => .next ((s.born id tag f.iters).inject 1 index f)
      | none => .next s

/-! ### The kernel's writes (R367 to R369) -/

/-- `CLCTL`'s fields `CAP`, `CCTX` and `START` from a written value; while `RUN` reads 1 the last two are ignored. -/
def Colophon.control (c : Colophon) (v : W64) : Colophon :=
  let cap := v.getLsbD 1
  let c := { c with cap := cap, port := if cap then c.port else [] }
  if c.run then c else { c with cctx := v.extractLsb' 2 2, start := v.extractLsb' 4 10 }

/-- `COLOPHON_RUN` (R367): a write with `RUN` 1 starts the program at `START` and clears `CLSTAT`. -/
def execColophonRun (bay : Nat) (value : W64) (s : State) : Host.Outcome State Fault Refusal :=
  .next (s.updBay bay (fun b =>
    let c := b.colophon.control value
    { b with colophon := if c.run then c else { c with
        run := true, halt := false, err := false, ecode := 0, haltPc := 0, hcode := 0, flg := 0
        pc := c.start.toNat, ready := s.cycle + 1, popped := none } }))

/-- `COLOPHON_HALT` (R367): a write with `RUN` 0 halts the program after the instruction in progress. -/
def execColophonHalt (bay : Nat) (s : State) : Host.Outcome State Fault Refusal :=
  .next (s.updBay bay (fun b =>
    let c := b.colophon
    { b with colophon := if c.run then { c with run := false, halt := true, haltPc := BitVec.ofNat 10 c.pc } else c }))

/-- `COLOPHON_CAPTURE` (R369): a change of `CAP`; `CAP` 0 discards the words in the port. -/
def execColophonCapture (bay : Nat) (value : W64) (s : State) : Host.Outcome State Fault Refusal :=
  .next (s.updBay bay (fun b => { b with colophon := b.colophon.control value }))

end Sys2Proof.Machine
end

