-- ==== Sys2Proof/Machine/Hub.lean ====
section
/-! DEFINITION. The hub towards the outside (R26 to R33, R243, R328, R345, R379): BAR 0 and what its registers do, the fault ring, the
mailbox, accesses of the host, the Curator cores and other devices, and what the kernel writes. -/
namespace Sys2Proof.Machine

/-! ### Host queues (R27, R28) -/

/-- Fields of a register's value. -/
def bitsOf (v : W64) (lo n : Nat) : Nat := v.toNat / 2 ^ lo % 2 ^ n

/-- A write to `HQBASE` or `HQSIZE` (R28); a slip of the old ring that is being read is not read to its end. -/
def HostQueue.setup (q : HostQueue) (size : Bool) (v : W64) : HostQueue :=
  if q.en then q
  else
    let q := if size then { q with log2n := BitVec.ofNat 5 (bitsOf v 0 5) } else { q with base := bitsOf v 7 45 * 128 }
    { q with head := 0, tail := 0, busy := false }

/-- A write to `HQTAIL` (R28): the slips are published, or the write is refused. -/
def HostQueue.publish (q : HostQueue) (v : W64) : HostQueue :=
  let t := BitVec.ofNat 16 (bitsOf v 0 16)
  if 2 ^ q.log2n.toNat - 1 < (t - q.head).toNat then { q with ovf := true } else { q with tail := t }

/-- Whether `LOG2N` is valid. -/
def validLog (n : BitVec 5) : Bool := decide (4 ≤ n.toNat) && decide (n.toNat ≤ 15)

/-- `EN` set (R28); not while `LOG2N` is not valid. -/
def HostQueue.enable (q : HostQueue) : HostQueue := if validLog q.log2n then { q with en := true } else q
@[inherit_doc HostQueue.enable] def HostQueue.disable (q : HostQueue) : HostQueue := { q with en := false }

/-- A write to `HQSTAT` (R27, R28). -/
def HostQueue.status (q : HostQueue) (v : W64) : HostQueue :=
  if v.getLsbD 0 && !q.en && !validLog q.log2n then q
  else
    let q := if v.getLsbD 1 then { q with ovf := false } else q
    if v.getLsbD 0 then q.enable else q.disable

/-- Whether BAR 0 answers in the layout of R26. -/
def State.barUp (s : State) : Bool := s.boot.link && s.boot.layout

/-- The state with a host queue changed by a write of the host, if BAR 0 answers. -/
def State.writeQueue (s : State) (n : Nat) (f : HostQueue → HostQueue) : State :=
  if s.barUp && decide (n < 64) then s.updHub (fun h => h.updQueue n f) else s

/-- `HQTAIL_WRITE` (R28). -/
def execHqTailWrite (queue : Nat) (value : W64) (s : State) : Host.Outcome State Fault Refusal :=
  .next (s.writeQueue queue (fun q => q.publish value))

/-- `HQ_RING_SETUP` (R28). -/
def execHqRingSetup (queue : Nat) (size : Bool) (value : W64) (s : State) : Host.Outcome State Fault Refusal :=
  .next (s.writeQueue queue (fun q => q.setup size value))

/-- `HQ_ENABLE` (R28). -/
def execHqEnable (queue : Nat) (s : State) : Host.Outcome State Fault Refusal := .next (s.writeQueue queue HostQueue.enable)

/-- `HQ_DISABLE` (R28): a slip that is being read is still accepted or refused. -/
def execHqDisable (queue : Nat) (s : State) : Host.Outcome State Fault Refusal := .next (s.writeQueue queue HostQueue.disable)

/-! ### What an agent outside the fabric does to memory (R16, R28, R124, R125) -/

/-- An agent reads a value: 0 the host, 1 a Curator core, 2 another device. -/
def State.answerAgent (s : State) (agent : Nat) (v : W64) : State := s.updHub (fun h => { h with answers := h.answers ++ [(agent, v)] })

/-- Bytes that an access touches. -/
def agentSize : AgentOp → Nat
  | .read n => n
  | .write bs => bs.length
  | .fence => 0
  | _ => 4

/-- What an atomic of a Curator core or another device makes of a word. -/
def agentResult : AgentOp → W32 → Option W32
  | .swap v, _ => some v
  | .add v, m => some (m + v)
  | .bitAnd v, m => some (m &&& v)
  | .bitOr v, m => some (m ||| v)
  | .bitXor v, m => some (m ^^^ v)
  | .minS v, m => some (if m.toInt ≤ v.toInt then m else v)
  | .maxS v, m => some (if m.toInt ≤ v.toInt then v else m)
  | .minU v, m => some (if m.toNat ≤ v.toNat then m else v)
  | .maxU v, m => some (if m.toNat ≤ v.toNat then v else m)
  | .atomic op ty b c, m => (atomicResult op.toNat ty m b c).map Prod.fst
  | _, _ => none

/-- What an agent reads of an atomic: the word's old value; of an atomic of the fabric, its reply (R288). -/
def agentReads : AgentOp → W32 → W32
  | .atomic op ty b c, m => ((atomicResult op.toNat ty m b c).map Prod.snd).getD m
  | _, m => m

/-- Whether an access lies in the pages of the timeline store (R99). -/
def State.inTimelinePages (s : State) (a n : Nat) : Bool :=
  match s.trans.tlBase with
  | some b => decide (b < a + n) && decide (a < b + 524288)
  | none => false

/-- Pieces of eight bytes. -/
def words64 : Nat → List Byte → List W64
  | 0, _ => []
  | n + 1, bs => if bs = [] then [] else BitVec.ofNat 64 (leNat (bs.take 8)) :: words64 n (bs.drop 8)

/-- Whether an agent's access changes memory. -/
def agentWrites : AgentOp → Bool
  | .read _ | .fence => false
  | _ => true

/-- The chunks that an access touches, each counted once (R124). -/
def State.countAgent (s : State) (addr n : Nat) : State :=
  (List.range (n / 65536 + 2)).foldl (fun s i =>
    if 65536 * (chunkOf addr + i) < addr + n then s.countChunk (65536 * (chunkOf addr + i)) else s) s

/-- The PROTECT of a store or atomic in the timeline store's pages (R99). -/
def State.agentProtect (s : State) (addr : Nat) : State :=
  s.updHub (fun h => h.record (mkRecord s { Report.of fPROTECT with addr := addr, unit := some .timelines } false))

/-- An access of an agent performed. In the timeline store's pages a store or atomic is a PROTECT without effect (R99). An address below 2^52
in no DRAM of the part is memory all the same (DESIGN CHOICE, log 143: R1 gives the sizes and no rule for such an access). -/
def State.agentPerform (s : State) (agent : Nat) (a : AgentAccess) : State :=
  let n := agentSize a.op
  let m := s.loadMem a.addr n
  let s := s.countAgent a.addr n
  match a.op with
  | .fence => s
  | .read n => (words64 n (readBytes m a.addr n)).foldl (fun s v => s.answerAgent agent v) s
  | .write bs =>
    if s.inTimelinePages a.addr n then s.agentProtect a.addr else { s with mem := writeBytes s.mem a.addr bs }
  | op =>
    if s.inTimelinePages a.addr n then s.agentProtect a.addr
    else
      let old := readW32 s.mem a.addr
      let s := match agentResult op old with | some v => { s with mem := writeW32 s.mem a.addr v } | none => s
      s.answerAgent agent ((agentReads op old).zeroExtend 64)

/-- Whether an agent's access waits: for a chunk that moves, for the timeline unit while it has stopped, or for an earlier one of its agent that
waits for the same chunk (R30, R125). -/
def State.agentHeld (s : State) (agent : Nat) (a : AgentAccess) : Bool :=
  let n := agentSize a.op
  (n != 0 && s.chunkMoves a.addr n) || (s.stopped .timelines && agentWrites a.op && s.inTimelinePages a.addr n) ||
    s.hub.agentWaiting.any (fun w => w.1 == agent && decide (chunkOf w.2.addr ≤ chunkOf (a.addr + n)) &&
      decide (chunkOf a.addr ≤ chunkOf (w.2.addr + agentSize w.2.op)))

/-- An access of an agent, performed or held. -/
def State.agentAccess (s : State) (agent : Nat) (a : AgentAccess) : State :=
  if s.agentHeld agent a then s.updHub (fun h => { h with agentWaiting := h.agentWaiting ++ [(agent, a)] }) else s.agentPerform agent a

/-- Accesses of agents that were held are made, oldest first, as far as nothing holds them any more. -/
def State.agentsGo (s : State) : State :=
  s.hub.agentWaiting.foldl (fun s w => s.agentAccess w.1 w.2) (s.updHub (fun h => { h with agentWaiting := [] }))

/-- Whether an access names an address that no address field of the part holds. -/
def agentBeyond (a : AgentAccess) : Bool := decide (2 ^ 52 < a.addr + agentSize a.op)

/-! ### Timelines from outside (R31, R102) -/

/-- A write to a timeline by the host or the kernel, an increment or a value: a TL_SATURATE of it concerns no slip. It waits while the timeline
unit has stopped (R30). -/
def State.writeOutside (s : State) (t : Nat) (v : W64) (increment : Bool) : State :=
  if 65536 ≤ t then s
  else if s.stopped .timelines then s.updHub (fun h => { h with timelineHeld := h.timelineHeld ++ [(t, v, increment)] })
  else if increment then s.incTimeline t v.toNat (Report.of fTLSAT)
  else s.setTimeline t v

/-- An increment by the host or the kernel. -/
def State.incOutside (s : State) (t : Nat) (v : W64) : State := s.writeOutside t v true

/-- What has waited for room in the record store goes on, oldest first: writes to timelines, and accesses of agents (R30). -/
def State.outsideGoes (s : State) : State :=
  (s.hub.timelineHeld.foldl (fun s w => s.writeOutside w.1 w.2.1 w.2.2) (s.updHub (fun h => { h with timelineHeld := [] }))).agentsGo

/-- `HOST_TIMELINE_INCREMENT` (R31). -/
def execHostTimelineIncrement (timeline : Nat) (value : W64) (s : State) : Host.Outcome State Fault Refusal :=
  .next (if s.barUp then s.incOutside timeline value else s)

/-- `KERNEL_TIMELINE_WRITE` (R31). -/
def execKernelTimelineWrite (timeline : Nat) (value : W64) (increment : Bool) (s : State) : Host.Outcome State Fault Refusal :=
  .next (s.writeOutside timeline value increment)

/-! ### The fault ring (R29, R30) -/

/-- A write to `FQBASE` or `FQSIZE` (R30). -/
def Hub.fqSetup (h : Hub) (size : Bool) (v : W64) : Hub :=
  let h := if size then { h with fqLog2n := BitVec.ofNat 5 (bitsOf v 0 5) } else { h with fqBase := bitsOf v 6 46 * 64 }
  { h with fqHead := 0, fqTail := 0 }

/-- A write to `FQHEAD` (R30). -/
def Hub.fqConsume (h : Hub) (v : W64) : Hub :=
  let n := BitVec.ofNat 16 (bitsOf v 0 16)
  if 2 ^ h.fqLog2n.toNat < (h.fqTail - n).toNat then { h with errFqh := true } else { h with fqHead := n }

/-- The state with the hub changed by a write of the host, if BAR 0 answers. -/
def State.writeHub (s : State) (f : Hub → Hub) : State := if s.barUp then s.updHub f else s

/-- `FQ_RING_SETUP` (R30). -/
def execFqRingSetup (size : Bool) (value : W64) (s : State) : Host.Outcome State Fault Refusal :=
  .next (s.writeHub (fun h => h.fqSetup size value))

/-- `FQHEAD_WRITE` (R30). -/
def execFqheadWrite (value : W64) (s : State) : Host.Outcome State Fault Refusal := .next (s.writeHub (fun h => h.fqConsume value))

/-- The 64 bytes of a record (R339). -/
def FaultRec.bytes (r : FaultRec) : List Byte :=
  [r.code, BitVec.ofNat 8 ((if r.kown then 1 else 0) + (if r.parked then 2 else 0) + (if r.more then 4 else 0))] ++
  leBytes 2 r.loc.toNat ++ [r.ch, r.wv] ++ leBytes 2 r.loan.toNat ++ leBytes 8 r.tag.toNat ++ leBytes 8 r.addr.toNat ++
  leBytes 8 r.stamp.toNat ++ leBytes 8 r.detail.toNat ++ leBytes 8 r.sid.toNat ++ leBytes 8 r.seq.toNat ++ leBytes 8 0

/-- Whether the ring takes a record. -/
def Hub.ringTakes (h : Hub) : Bool := validLog h.fqLog2n && decide ((h.fqTail - h.fqHead).toNat < 2 ^ h.fqLog2n.toNat)

/-- Records that units hold move into the store as room comes. -/
def Hub.refillStore (h : Hub) : Nat → Hub
  | 0 => h
  | fuel + 1 => match h.blocked with
    | [] => h
    | r :: rest => if h.store.length < 1024 then Hub.refillStore (Hub.enter { h with blocked := rest } r) fuel else h

/-- A record interrupts the Curator cluster. -/
def Hub.interrupt (h : Hub) (r : FaultRec) : Hub := { h with interrupts := h.interrupts ++ [r] }

/-- What a record releases (R93): the fault-handler slip of its slip, unless an earlier release of it waits or runs; where there
is none, or it is unmapped, the Curator cluster is interrupted; a refused one gets its own record. A TL_SATURATE that concerns no slip does nothing (R31). -/
def State.releaseHandler (s : State) (r : FaultRec) : State :=
  if r.kown || (r.code == 0x0D && r.loan == 0xFFFF) then s
  else match r.fhs with
  | none => s.updHub (fun h => h.interrupt r)
  | some (va, space, priv) =>
    if s.hub.handlersBusy.contains (space, va) then s
    else match s.readSlip va ⟨space, priv, 0xF, some va⟩ with
    | none => s.updHub (fun h => h.interrupt r)
    | some (bs, .error (reason, off)) => s.refuseSlip bs reason off
    | some (_, .ok slip) =>
      (s.updHub (fun h => { h with handlersBusy := h.handlersBusy ++ [(space, va)] })).acceptOrWait slip (rankHandler r.seq.toNat)

/-- The next record is written into the ring; `FQTAIL` advances when the order ring's token stands at the hub's node (R30, R328). A chunk that
moves holds the write (R125). -/
def State.passRecord (s : State) : State :=
  match s.hub.store with
  | [] => s
  | r :: rest =>
    if !s.hub.ringTakes then s
    else
      let at' := s.hub.fqBase + 64 * (s.hub.fqTail.toNat % 2 ^ s.hub.fqLog2n.toNat)
      if s.chunkMoves at' 64 then s.later 1 .faultRecordDeliver
      else
      let s := { s with mem := writeBytes s.mem at' r.bytes }
      if s.hub.ringPos != 832 then s.later 1 .faultRecordDeliver
      else
        let (n, s) := s.fresh
        State.outsideGoes ((s.updHub (fun h => { h with store := rest, fqTail := h.fqTail + 1, scOrder := h.scOrder ++ [n] })).updHub (fun h =>
          h.refillStore 1))

/-- The first record in the store of which nothing has been released yet. -/
def Hub.unhandled (h : Hub) : Option FaultRec := h.store.find? (fun r => decide (h.handled < r.seq.toNat))

/-- `FAULT_RECORD_DELIVER` (R30, R93, R328): what the next record releases, whether or not the ring takes it yet; then the next record
passes to the ring. -/
def execFaultRecordDeliver (s : State) : Host.Outcome State Fault Refusal :=
  match s.hub.unhandled with
  | some r => .next ((s.releaseHandler r).updHub (fun h => { h with handled := r.seq.toNat }))
  | none => .next s.passRecord

/-! ### The mailbox (R32) -/

/-- A write to an inbound word. -/
def Hub.mailIn (h : Hub) (i : Nat) (v : W64) : Hub :=
  if h.req || h.ans then { h with errMbw := true } else { h with mbi := AMap.put h.mbi i v }

/-- A write of the host to `MBDB` (R32, R33). -/
def Hub.doorbell (h : Hub) (req ans : Bool) : Hub :=
  if req && (h.req || h.ans) then { h with errMbw := true }
  else { h with req := h.req || req, ans := h.ans && !ans }

/-- `MBI_WRITE` (R32). -/
def execMbiWrite (index : Nat) (value : W64) (s : State) : Host.Outcome State Fault Refusal :=
  .next (if index < 16 then s.writeHub (fun h => h.mailIn index value) else s)

/-- `MAILBOX_REQUEST` (R32). -/
def execMailboxRequest (s : State) : Host.Outcome State Fault Refusal := .next (s.writeHub (fun h => h.doorbell true false))

/-- `MAILBOX_TAKE` (R32). -/
def execMailboxTake (s : State) : Host.Outcome State Fault Refusal := .next (s.updHub (fun h => { h with req := false }))

/-- `MAILBOX_ANSWER` (R32, R328): the answer, and then `ANS` when the order ring's token stands at the hub's node. -/
def execMailboxAnswer (words : List (Nat × W64)) (s : State) : Host.Outcome State Fault Refusal :=
  if s.hub.ringPos != 832 then .next (s.later 1 (.mailboxAnswer words))
  else
    let (n, s) := s.fresh
    .next (s.updHub (fun h => { h with
      mbo := words.foldl (fun m w => if w.1 < 16 then AMap.put m w.1 w.2 else m) h.mbo
      ans := true
      scOrder := h.scOrder ++ [n] }))

/-- `MAILBOX_ANSWER_CLEAR` (R32). -/
def execMailboxAnswerClear (s : State) : Host.Outcome State Fault Refusal := .next (s.writeHub (fun h => h.doorbell false true))

/-! ### Registers (R5, R20, R26, R27, R30, R33) -/

/-- All ones: what an access that is not supported reads. -/
def allOnes : W64 := 0xFFFFFFFFFFFFFFFF

/-- An access that BAR 0 refuses (R26, R33). -/
def Hub.badAccess (h : Hub) (off : Nat) : Hub := { h with errAcc := true, errAoff := if h.errAcc then h.errAoff else BitVec.ofNat 24 off }

/-- A write to `HUBERR` (R33). -/
def Hub.clearErr (h : Hub) (v : W64) : Hub :=
  let h := if v.getLsbD 0 then { h with errAcc := false, errAoff := 0 } else h
  let h := if v.getLsbD 1 then { h with errMbw := false } else h
  if v.getLsbD 2 then { h with errFqh := false } else h

/-- A supported write in the layout of R26. One to an outbound mailbox word is ignored, without an error bit (DESIGN CHOICE, log 144: R26 and R32
give `MBO` no access of the host's writes). -/
def State.barStore (s : State) (off : Nat) (v : W64) : State :=
  if off < 0x1000 then
    let n := off / 0x40
    match off % 0x40 with
    | 0x00 => s.updHub (fun h => h.updQueue n (fun q => q.setup false v))
    | 0x08 => s.updHub (fun h => h.updQueue n (fun q => q.setup true v))
    | 0x10 => s.updHub (fun h => h.updQueue n (fun q => q.publish v))
    | 0x20 => s.updHub (fun h => h.updQueue n (fun q => q.status v))
    | _ => s
  else if off = 0x10000 then s.updHub (fun h => h.fqSetup false v)
  else if off = 0x10008 then s.updHub (fun h => h.fqSetup true v)
  else if off = 0x10010 then s.updHub (fun h => h.fqConsume v)
  else if 0x20000 ≤ off ∧ off < 0x20080 then s.updHub (fun h => h.mailIn ((off - 0x20000) / 8) v)
  else if off = 0x20100 then s.updHub (fun h => h.doorbell (v.getLsbD 0) (v.getLsbD 32))
  else if off = 0x20108 then s.updHub (fun h => h.clearErr v)
  else if 0x100000 ≤ off ∧ off < 0x180000 then s.incOutside ((off - 0x100000) / 8) v
  else s

/-- A supported read in the layout of R26; what is not listed reads zero (R5). -/
def State.barLoad (s : State) (off : Nat) : W64 :=
  let h := s.hub
  if off < 0x1000 then
    let q := h.queue (off / 0x40)
    match off % 0x40 with
    | 0x00 => BitVec.ofNat 64 q.base
    | 0x08 => q.log2n.zeroExtend 64
    | 0x10 => q.tail.zeroExtend 64
    | 0x18 => q.head.zeroExtend 64
    | 0x20 => BitVec.ofNat 64 ((if q.en then 1 else 0) + (if q.ovf then 2 else 0) + (if q.busy then 4 else 0))
    | _ => 0
  else if off = 0x10000 then BitVec.ofNat 64 h.fqBase
  else if off = 0x10008 then h.fqLog2n.zeroExtend 64
  else if off = 0x10010 then h.fqHead.zeroExtend 64
  else if off = 0x10018 then h.fqTail.zeroExtend 64
  else if 0x20000 ≤ off ∧ off < 0x20080 then AMap.get h.mbi 0 ((off - 0x20000) / 8)
  else if 0x20080 ≤ off ∧ off < 0x20100 then AMap.get h.mbo 0 ((off - 0x20080) / 8)
  else if off = 0x20100 then BitVec.ofNat 64 ((if h.req then 1 else 0) + (if h.ans then 2 ^ 32 else 0))
  else if off = 0x20108 then BitVec.ofNat 64 ((if h.errAcc then 1 else 0) + (if h.errMbw then 2 else 0) + (if h.errFqh then 4 else 0) + h.errAoff.toNat * 2 ^ 8)
  else if 0x100000 ≤ off ∧ off < 0x180000 then AMap.get h.timelines 0 ((off - 0x100000) / 8)
  else 0

/-- Whether an access in the recovery layout is supported (R20). -/
def recoveryServes (off size : Nat) : Bool :=
  if 0x800000 ≤ off && off < 0xC00000 then (size == 4 || size == 8) && off % size == 0
  else size == 8 && (off == 0 || off == 8 || off == 16)

/-- A write in the recovery layout (R20): ignored once an image has been accepted. While `STATE` is 1 writes to the window and to `RCLEN` take
effect (DESIGN CHOICE, log 145: R20 says only that they are ignored from `STATE` 3 on). -/
def State.recoveryStore (s : State) (off size : Nat) (v : W64) : State :=
  if !recoveryServes off size || s.boot.rcstate == 3 then s
  else if off = 8 then { s with boot := { s.boot with rclen := BitVec.ofNat 23 (bitsOf v 0 23) } }
  else if off = 16 then s.recoveryGo v
  else if off < 0x800000 then s
  else { s with boot := { s.boot with staging := writeBytes s.boot.staging (off - 0x800000) (leBytes size v.toNat) } }

/-- A read in the recovery layout (R20). -/
def State.recoveryLoad (s : State) (off size : Nat) : W64 :=
  if !recoveryServes off size then allOnes
  else if off = 0 then BitVec.ofNat 64 (s.boot.rcstate.toNat + s.boot.nrej.toNat * 2 ^ 16)
  else if off = 8 then s.boot.rclen.zeroExtend 64
  else if off = 16 then (if s.boot.rcstate == 1 then 1 else 0)
  else BitVec.ofNat 64 (leNat (readBytes s.boot.staging (off - 0x800000) size))

/-- A write to BAR 0 (R20, R26); without a link the device does not answer. -/
def State.barWrite (s : State) (off size : Nat) (v : W64) : State :=
  if !s.boot.link then s
  else if !s.boot.layout then s.recoveryStore off size v
  else if size != 8 || off % 8 != 0 then s.updHub (fun h => h.badAccess off)
  else s.barStore off v

/-- A read of BAR 0. -/
def State.barRead (s : State) (off size : Nat) : State :=
  if !s.boot.link then s
  else if !s.boot.layout then s.answerAgent 0 (s.recoveryLoad off size)
  else if size != 8 || off % 8 != 0 then (s.updHub (fun h => h.badAccess off)).answerAgent 0 allOnes
  else s.answerAgent 0 (s.barLoad off)

/-- Counters of a memory tile's ECC cleared by the kernel's ones (R363). -/
def Bay.clearEcc (y : Bay) (tile : Nat) (v : W64) : Bay :=
  { y with
    corr := AMap.upd y.corr 0 tile (fun c => c &&& ~~~(v.extractLsb' 0 16))
    unc := AMap.upd y.unc 0 tile (fun c => c &&& ~~~(v.extractLsb' 16 16)) }

/-- The kernel acknowledges a SAVE_FAULT: the save of a drained loan begins again from its first byte (R349). -/
def State.ackSave (s : State) (loan : Nat) : State :=
  match AMap.find s.loans loan with
  | some l => if l.saveFault then s.beginSave loan l else s
  | none => s

/-- What the kernel reads (R114, R363, R366 to R368). -/
def State.kernelLoad (s : State) : KernelReg → W64
  | .badNode bay n => (AMap.get (s.bay bay).badNodes 0 n).zeroExtend 64
  | .ecc bay t => BitVec.ofNat 64 ((AMap.get (s.bay bay).corr 0 t).toNat + 2 ^ 16 * (AMap.get (s.bay bay).unc 0 t).toNat)
  | .colControl bay =>
    let c := (s.bay bay).colophon
    BitVec.ofNat 64 ((if c.run then 1 else 0) + (if c.cap then 2 else 0) + 4 * c.cctx.toNat + 16 * c.start.toNat)
  | .colStatus bay =>
    let c := (s.bay bay).colophon
    BitVec.ofNat 64 ((if c.halt then 1 else 0) + (if c.err then 2 else 0) + 4 * c.ecode.toNat + 2 ^ 6 * c.haltPc.toNat + 2 ^ 16 * c.hcode.toNat +
      2 ^ 32 * c.flg.toNat + 2 ^ 40 * c.port.length)
  | .colRegister bay r => ((s.bay bay).colophon.reg (BitVec.ofNat 4 r)).zeroExtend 64
  | .colProgram bay n => (AMap.get (s.bay bay).colophon.program 0 n).zeroExtend 64

/-- `REGISTER_WRITE` (R5, R20, R26, R33, R90, R91, R99, R113, R114, R243, R337, R349, R363, R367, R374). -/
def execRegisterWrite (w : RegAccess) (s : State) : Host.Outcome State Fault Refusal :=
  .next (match w with
  | .barWrite off size v => s.barWrite off size v
  | .barRead off size => s.barRead off size
  | .badNode bay entry v => if entry < 8 then s.updBay bay (fun y => { y with badNodes := AMap.put y.badNodes entry (badNodeValue v) }) else s
  | .eccClear bay tile v => s.updBay bay (fun y => y.clearEcc tile v)
  | .colFlagsClear bay v => s.updBay bay (fun y => { y with colophon := { y.colophon with flg := y.colophon.flg &&& ~~~(v.extractLsb' 32 5) } })
  | .colFields bay v => s.updBay bay (fun y => { y with colophon := y.colophon.control v })
  | .colProgram bay ws => s.updBay bay (fun y => { y with colophon := { y.colophon with program := (ws.take 1024).zipIdx.map (fun p => (p.2, p.1)) } })
  | .colRegister bay reg v => if reg = 0 ∨ 16 ≤ reg then s
      else s.updBay bay (fun y => { y with colophon := { y.colophon with regs := AMap.put y.colophon.regs reg v } })
  | .queueSpace q x => s.updHub (fun h => h.updQueue q (fun y => { y with space := x }))
  | .queuePriv q b => s.updHub (fun h => h.updQueue q (fun y => { y with privOk := b }))
  | .queueDies q m => s.updHub (fun h => h.updQueue q (fun y => { y with dies := m }))
  | .spaceRoot space root => { s with trans := { s.trans with roots := AMap.put s.trans.roots space root } }
  | .timelinePages base => { s with trans := { s.trans with tlBase := some base } }
  | .ackSaveFault loan => s.ackSave loan
  | .slipSave sid => s.updHub (fun h => { h with released := h.released.map (fun x => if x.slip.sid = sid then { x with held := false } else x) })
  | .kernelRead r => s.answerAgent 1 (s.kernelLoad r))

/-! ### Accesses of agents outside the fabric (R16, R28, R243, R328) -/

/-- `HOST_MEMORY_ACCESS` (R18, R28): plain at device scope. Until step 5 of R18 the device does not answer. -/
def execHostMemoryAccess (a : AgentAccess) (s : State) : Host.Outcome State Fault Refusal :=
  if agentBeyond a then .fault .noSuchAddress else .next (if s.barUp then s.agentAccess 0 a else s)

/-- `CURATOR_MEMORY_ACCESS` (R328): an SC form waits at the Curator port for the token of the order ring. -/
def execCuratorMemoryAccess (a : AgentAccess) (s : State) : Host.Outcome State Fault Refusal :=
  if agentBeyond a then .fault .noSuchAddress
  else if !a.sc then .next (s.agentAccess 1 a)
  else
    let (n, s) := s.fresh
    .next ((s.ringWait 832 n false).updHub (fun h => { h with curatorWaiting := AMap.put h.curatorWaiting n a }))

/-- A cell of another device enters at a hub bridge, as it came (R16, R54); which member of its plane's half it takes is open. -/
def State.arriveCell (s : State) (src loan : Nat) (c : Cell) : State :=
  let (n, s) := s.fresh
  ({ s with outgoing := AMap.put s.outgoing n (src,
    { id := n, src := src, loan := loan, access := 0, body := .payload, cell := c, entered := s.cycle, residue := [] }) }).later 0 (.cellEnqueue n)

/-- `THRUM_ARRIVAL` (R16, R261, R328): an access of another device is performed, a cell is forwarded to its bay, the domain token comes
to the hub, and the answers of another device complete what this one has sent there. -/
def execThrumArrival (msg : ThrumMsg) (s : State) : Host.Outcome State Fault Refusal :=
  match msg with
  | .domainToken => .next (s.updHub (fun h => { h with domToken := true }))
  | .access a =>
    if agentBeyond a then .fault .noSuchAddress
    else
      let s := s.agentAccess 2 a
      if !a.sc then .next s
      else
        let (n, s) := s.fresh
        .next (s.updHub (fun h => { h with domOrder := h.domOrder ++ [n] }))
  | .reply access bytes => .next (s.remoteReply access bytes)
  | .committed loan access => .next (s.remoteCommitted loan access)
  | .cell c =>
    let die := c.dportDie.toNat
    let bay := die * 128 + c.dport.toNat
    let (d, s) := s.drawNat
    let loan := match loanOn s bay c.ctx.toNat with | some (id, _, _) => id | none => 0
    .next (s.arriveCell (die / 2 * 2 * 256 + 232 + (if onDeposit (die * 256 + c.dport.toNat) then 4 else 0) + d % 4) loan c)

/-- Whether an operation that waits at the Curator port is an access that a moving chunk holds (R125). -/
def State.curatorHeld (s : State) (id : Nat) : Bool := (AMap.find s.hub.curatorWaiting id).any (fun a => s.agentHeld 1 a)

/-- An operation that the token has reached takes its place (R328); one of domain scope also needs the domain token. A stocktake's report is
published in its place. -/
def State.ringServe (s : State) (r : RingWait) : State :=
  if (r.domain && !s.hub.domToken) || s.curatorHeld r.id then s
  else
    let s := s.updHub (fun h => { h with
      ringWaiting := h.ringWaiting.filter (fun x => x.id != r.id)
      scOrder := h.scOrder ++ [r.id]
      domOrder := if r.domain then h.domOrder ++ [r.id] else h.domOrder })
    match AMap.find s.hub.curatorWaiting r.id with
    | some a => (s.updHub (fun h => { h with curatorWaiting := AMap.del h.curatorWaiting r.id })).agentPerform 1 a
    | none => match AMap.find s.accs r.id with
      | some a => ({ s with accs := AMap.put s.accs r.id { a with ringDone := true } }).later 0 (.accessPerform r.id)
      | none => match s.hub.stocktake with
        | some t => (match t.result with
          | some (n, x) => if n = r.id then s.publishStocktake t x else s
          | none => s)
        | none => s

/-- `ORDER_RING_TICK` (R328): the token moves to the next of the 833 nodes, and what waits there takes its place. -/
def execOrderRingTick (s : State) : Host.Outcome State Fault Refusal :=
  let p := (s.hub.ringPos + 1) % 833
  let s := s.updHub (fun h => { h with ringPos := p })
  .next ((s.hub.ringWaiting.filter (fun r => r.node == p)).foldl (fun s r => s.ringServe r) s)

/-! ### Moves of chunks (R125) -/

/-- `CHUNK_MOVE_DONE` (R125): the chunk lies in its other tier, and the accesses that it held go on. -/
def execChunkMoveDone (_die chunk : Nat) (s : State) : Host.Outcome State Fault Refusal :=
  match AMap.find s.trans.moving chunk with
  | none => .next s
  | some held =>
    let moved := if s.trans.moved.contains chunk then s.trans.moved.erase chunk else s.trans.moved ++ [chunk]
    let s := { s with trans := { s.trans with moving := AMap.del s.trans.moving chunk, moved := moved } }
    .next (held.foldl (fun s id => s.later 0 (.accessPerform id)) s.agentsGo)

/-! ### The kernel (R243, R345, R379) -/

/-- A priority write for a loan (R345): every context that it holds, and the lock. -/
def State.writePrio (s : State) (id : Nat) (prio : BitVec 2) (lock : Bool) : State :=
  let s := s.updLoan id (fun l => { l with lock := lock })
  { s with els := s.els.map (fun (p : Nat × Element) => (p.1, { p.2 with
      ctxs := p.2.ctxs.map (fun (q : Nat × ElCtx) => (q.1, if q.2.loan = some id then { q.2 with prio := prio } else q.2)) })) }

/-- `KERNEL_PRIO_WRITE` (R345). -/
def execKernelPrioWrite (loan : Nat) (prio : BitVec 2) (lock : Bool) (s : State) : Host.Outcome State Fault Refusal :=
  .next (if (AMap.find s.loans loan).isSome then s.writePrio loan prio lock else s)

/-- The level of the entry at an address on the walk of another address, if it stands there (R243). -/
def entryLevel (m : List Host.Cell) (va entry : Nat) : List Nat → Nat → Option Nat
  | [], _ => none
  | level :: rest, table =>
    let a := table + 8 * (va / 2 ^ (43 - 9 * level) % 512)
    if a = entry then some level
    else
      let e := (readW64 m a).toNat
      if e % 2 = 0 ∨ e / 2 % 2 = 1 then none else entryLevel m va entry rest (e % 2 ^ 52 / 4096 * 4096)

/-- The pages that an entry translates, as first page and count. -/
def State.entryPages (s : State) (space va entry : Nat) : Nat × Nat :=
  match entryLevel s.mem va entry [0, 1, 2, 3] (AMap.get s.trans.roots 0 space) with
  | some level => let n := 2 ^ (27 - 9 * level); (va / 65536 / n * n, n)
  | none => (va / 65536, 1)

/-- Whether an access that has been translated in some pages of a space is not yet performed or committed (R243). -/
def State.usesPages (s : State) (space first n : Nat) : Bool :=
  let inside (va : Nat) : Bool := decide (first ≤ va / 65536) && decide (va / 65536 < first + n)
  s.accs.any (fun (p : Nat × Access) => (p.2.stage == .issued || p.2.stage == .performed) &&
    (match AMap.find s.loans p.2.loan with
      | some l => l.slip.space == space && ((match l.windowAt p.2.ctx p.2.win with
        | some w => w.virt && inside (w.base + p.2.off)
        | none => false) ||
        -- a decanter's block on its way to its destination
        (p.2.stage == .performed && (match p.2.decantGoal l with
          | some (m, dw, u, b) => dw.virt && inside (dw.base + m.dstOff u b)
          | none => false)))
      | none => false)) ||
  s.loans.any (fun (p : Nat × Loan) => p.2.slip.space == space &&
    (p.2.commit ++ p.2.releasing).any (fun t => t.win.virt && inside (t.win.base + t.off)))

/-- TLBs without the translations of some pages of a space. -/
def dropTlb (space first n : Nat) (m : AMap (List TlbEntry)) : AMap (List TlbEntry) :=
  m.map (fun (p : Nat × List TlbEntry) => (p.1, p.2.filter (fun e =>
    !(e.space == space && decide (e.page < first + n) && decide (first < e.page + e.pages)))))

/-- An entry written and its invalidation complete. -/
def State.invalidate (s : State) (space first n entryAddr : Nat) (entry : W64) : State :=
  { s with
    mem := writeBytes s.mem entryAddr (leBytes 8 entry.toNat)
    trans := { s.trans with
      micro := dropTlb space first n s.trans.micro
      dieTlb := dropTlb space first n s.trans.dieTlb } }

/-- `KERNEL_PAGE_INVALIDATE` (R243): the entry takes effect once nothing that was translated with the old one is under way. -/
def execKernelPageInvalidate (space va entryAddr : Nat) (entry : W64) (s : State) : Host.Outcome State Fault Refusal :=
  if 2 ^ 52 < entryAddr + 8 then .fault .noSuchAddress
  else
    let (first, n) := s.entryPages space va entryAddr
    if s.usesPages space first n then .next (s.later 1 (.kernelPageInvalidate space va entryAddr entry))
    else .next (s.invalidate space first n entryAddr entry)

/-- The entry at a level on the walk to a page, with the tables that lack on the way made, each where the kernel chooses: the address of
the level-3 entry. -/
def State.makeTables (s : State) (va : Nat) : List Nat → Nat → Nat × State
  | [], table => (table, s)
  | level :: rest, table =>
    let a := table + 8 * (va / 2 ^ (43 - 9 * level) % 512)
    if level = 3 then (a, s)
    else
      let e := (readW64 s.mem a).toNat
      if e % 2 = 1 ∧ e / 2 % 2 = 0 then State.makeTables s va rest (e % 2 ^ 52 / 4096 * 4096)
      else
        let (d, s) := s.drawNat
        let t := d % 2 ^ 40 * 4096
        let m := s.mem.filter (fun c => !(decide (t ≤ c.1) && decide (c.1 < t + 4096)))
        State.makeTables { s with mem := writeBytes m a (leBytes 8 (t + 1)) } va rest t

/-- A page of an address space mapped to 64 KiB of zeroed memory, where the kernel chooses, with stores allowed. -/
def State.mapPage (s : State) (space page : Nat) : State :=
  let (d, s) := s.drawNat
  let phys := d % 2 ^ 36 * 65536
  let s := { s with mem := s.mem.filter (fun c => !(decide (phys ≤ c.1) && decide (c.1 < phys + 65536))) }
  let (a, s) := s.makeTables (page * 65536) [0, 1, 2, 3] (AMap.get s.trans.roots 0 space)
  s.invalidate space page 1 a (BitVec.ofNat 64 (phys + 7))

/-- `DEMAND_PAGE_MAP` (R379): a reserved page is mapped to 64 KiB of zeroed memory, and the frames that a TRANSLATE in it has parked run
again. -/
def execDemandPageMap (space page : Nat) (s : State) : Host.Outcome State Fault Refusal :=
  if !s.trans.reserved.contains (space, page) then .next s
  else
    let s := s.mapPage space page
    let s := { s with trans := { s.trans with reserved := s.trans.reserved.erase (space, page) } }
    let parked := (s.loans.filter (fun (p : Nat × Loan) => p.2.slip.space == space)).flatMap (fun p =>
      (p.2.frames.filter (fun (f : Nat × Frame) => f.2.parked.any (fun k => k.pages.contains page))).map (fun f => (p.1, f.1)))
    .next (parked.foldl (fun s f => (s.resumeFrame f.1 f.2 false).getD s) s)

end Sys2Proof.Machine
end

