-- ==== Sys2Proof/Machine/Glaed.lean ====
section
/-! DEFINITION. The debugger glaed (R394 to R396): the start of a source, breakpoints, watches and steps, what its commands show, and where
it stops the device. -/
namespace Sys2Proof.Machine

/-! ### Printing -/

/-- A row printed. -/
def State.print (s : State) (what : String) (ns : List Nat) : State := { s with glaed := { s.glaed with rows := s.glaed.rows ++ [(what, ns)] } }

/-- The error of a command that names what is not there. -/
def State.noSuch (s : State) : State := s.print "error" []

/-- A command about a loan. -/
def State.onLoan (s : State) (id : Nat) (f : Loan → State) : State :=
  match AMap.find s.loans id with
  | some l => f l
  | none => s.noSuch

/-! ### The start of a source (R394) -/

/-- The image with the address of an exit's successor in place, and its `CRC` computed again (R378). -/
def linkExit (bs : List Byte) (n addr : Nat) : Option (List Byte) :=
  ((directory bs).find? (fun e => e.sid == 5)).map (fun e =>
    let o := e.off + 8 * n
    let bs := setBytes bs o (leBytes 8 (field bs o 8 / 2 ^ 52 * 2 ^ 52 + addr))
    setBytes bs 12 (leBytes 4 (imageCrc bs).toNat))

/-- Images with their exits resolved. -/
def linkedImages (src : GlaedSource) : Option (List (Nat × List Byte)) :=
  src.links.foldl (fun r k => r.bind (fun im =>
    match im.find? (fun x => x.1 == k.1) with
    | none => none
    | some x => (linkExit x.2 k.2.1 k.2.2).map (fun bs => im.map (fun y => if y.1 = k.1 then (y.1, bs) else y)))) (some src.images)

/-- Where the record of a window stands in an image (R79). -/
def windowRecord (bs : List Byte) (n : Nat) : Option Nat :=
  ((directory bs).find? (fun e => e.sid == 3)).bind (fun e => ((List.range e.count).map (fun i => e.off + 32 * i)).find? (fun o => field bs o 1 == n))

/-- The virt windows of an image: base and size. -/
def virtWindows (bs : List Byte) : List (Nat × Nat) :=
  match (directory bs).find? (fun e => e.sid == 3) with
  | some e => ((List.range e.count).map (fun i => e.off + 32 * i)).filterMap (fun o =>
      if field bs (o + 1) 1 % 2 = 1 then some (field bs (o + 8) 8, field bs (o + 16) 8) else none)
  | none => []

/-- Pages that the mapping of a page covers, when it is mapped or reserved. -/
def State.pageTaken (s : State) (space page : Nat) : Option Nat :=
  match walk s space (page * 65536) with
  | .ok g => some g.units
  | .error _ => if s.trans.reserved.contains (space, page) then some 1 else none

/-- The first run of `k` pages from a page up of which none is taken. -/
def State.freeRun (s : State) (space k : Nat) : Nat → Nat → Option Nat
  | 0, _ => none
  | fuel + 1, p =>
    if 2 ^ 36 < p + k then none
    else match (List.range k).findSome? (fun i => (s.pageTaken space (p + i)).map (fun u => ((p + i) / u + 1) * u)) with
    | none => some p
    | some q => State.freeRun s space k fuel q

/-- A window without `base=` allocated in device memory, aligned to 64 KiB (R13): pages of its own, its base in its image, and its
`.data`. DESIGN CHOICE (log 168): the spec does not say which address; the search starts at a free number. -/
def State.placeWindow (space : Nat) (r : State × List (Nat × List Byte) × List (Nat × List W32)) (x : Nat × Nat × List W32) :
    Option (State × List (Nat × List Byte) × List (Nat × List W32)) :=
  let (s, images, data) := r
  (images.find? (fun y => y.1 == x.1)).bind (fun y => (windowRecord y.2 x.2.1).bind (fun o =>
    let k := (field y.2 (o + 16) 8 + 65535) / 65536
    let (d, s) := s.drawNat
    let fuel := s.mem.length + s.trans.reserved.length + 1
    ((s.freeRun space k fuel (d % 2 ^ 36)).or (s.freeRun space k fuel 0)).map (fun p =>
      let bs := setBytes y.2 (o + 8) (leBytes 8 (p * 65536))
      let bs := setBytes bs 12 (leBytes 4 (imageCrc bs).toNat)
      ((List.range k).foldl (fun s i => s.mapPage space (p + i)) s, images.map (fun z => if z.1 = x.1 then (z.1, bs) else z),
        data ++ [(p * 65536, x.2.2)]))))

/-- A range of an address space zeroed where it is mapped (R13); a reserved page is zeroed when it is mapped (R379). -/
def State.zeroVirt (s : State) (space va n : Nat) : State :=
  let ps := (rangePieces va n).filterMap (fun p => (s.physOf space p.1).map (fun a => (a, p.2)))
  { s with mem := s.mem.filter (fun c => !ps.any (fun p => decide (p.1 ≤ c.1) && decide (c.1 < p.1 + p.2))) }

/-- Whether a pool descriptor is in order (R335). -/
def poolOk (bs : List Byte) : Bool :=
  let cnt := field bs 0 8
  decide (cnt < 2 ^ 52) && cnt % 4 == 0 && decide (1 ≤ field bs 8 1) && decide (field bs 8 1 ≤ 64) && decide (1 ≤ field bs 9 1) &&
    decide (field bs 9 1 ≤ 64) && decide (1 ≤ field bs 10 2) && decide (field bs 12 2 + field bs 8 1 ≤ 65536) &&
    field bs 24 8 % 128 == 0 && decide (field bs 24 8 < 2 ^ 52) && field bs 32 8 % 128 == 0 && decide (field bs 32 8 < 2 ^ 52) &&
    field bs 40 24 == 0 && decide (cnt / 65536 = (cnt + 4 * field bs 8 1 - 1) / 65536)

/-- Whether a template of a pool is in order: `NHOLD`, `NARG` and `CMPV` zero. -/
def templateOk (bs : List Byte) : Bool := field bs 11 1 % 16 == 0 && field bs 14 1 == 0

/-- The guard of a descriptor. -/
def poolOf (desc space : Nat) (bs : List Byte) : Pool where
  desc := desc
  cnt := field bs 0 8
  nexp := field bs 8 1
  npage := field bs 9 1
  bound := field bs 10 2
  rowtl := field bs 12 2
  flushtl := field bs 14 2
  drainTl := field bs 16 2
  drainTh := field bs 18 6
  flush := field bs 24 8
  done := field bs 32 8
  launched := []
  count := 0
  space := space

/-- The kernel arms a guard (R335, R336); `none` where it refuses. -/
def State.armPool (s : State) (desc space : Nat) : Option State :=
  match s.readVirt space desc 64 with
  | none => none
  | some bs =>
    let p := poolOf desc space bs
    let fits (va : Nat) : Bool := match s.readVirt space va 128 with | some t => templateOk t | none => false
    if !poolOk bs || !fits p.flush || !fits p.done then none
    else ((List.range 16).find? (fun g => (AMap.find s.hub.pools g).isNone)).map (fun g =>
      (s.updHub (fun h => { h with pools := AMap.put h.pools g p })).poolDrain g)

/-- A slip written into its queue's ring, and published. -/
def State.submit (s : State) (n : Nat) (bs : List Byte) : Option State :=
  let q := s.hub.queue n
  if n < 64 ∧ q.en ∧ (q.tail + 1 - q.head).toNat ≤ 2 ^ q.log2n.toNat - 1 then
    let a := q.base + 128 * (q.tail.toNat % 2 ^ q.log2n.toNat)
    some (({ s with mem := writeBytes s.mem a (bs.take 128) }).updHub (fun h => h.updQueue n (fun q => { q with tail := q.tail + 1 })))
  else none

/-- Steps 1 to 6 of R394; `none` when one fails. Windows without `base=` are allocated as the images are placed, and the memory of virt windows
is zero but for their `.data` (R13). -/
def State.startSource (s : State) (src : GlaedSource) : Option State :=
  let space := (s.hub.queue 0).space
  let write (s : State) (x : Nat × List Byte) : Option State := s.writeVirt space x.1 x.2
  ((linkedImages src).bind (fun images => src.windows.foldl (fun r x => r.bind (fun r => State.placeWindow space r x)) (some (s, images, src.data)))).bind
    (fun (s, images, data) =>
    let s := (images.flatMap (fun x => virtWindows x.2)).foldl (fun s w => s.zeroVirt space w.1 w.2) s
    (images.foldl (fun r x => r.bind (fun s => write s x)) (some s)).bind (fun s =>
    (src.templates.foldl (fun r x => r.bind (fun s => write s x)) (some s)).bind (fun s =>
    (src.saves.foldl (fun r x => r.bind (fun s => write s (x.1, List.replicate x.2 0))) (some s)).bind (fun s =>
    let s := src.timelines.foldl (fun s t => s.setTimeline t.1 t.2) s
    (data.foldl (fun r x => r.bind (fun s => write s (x.1, wordsBytes x.2))) (some s)).bind (fun s =>
    let s := { s with trans := { s.trans with reserved := s.trans.reserved ++ src.demand.map (fun p => (space, p)) } }
    (src.pools.foldl (fun r d => r.bind (fun s => s.armPool d space)) (some s)).bind (fun s =>
    src.slips.foldl (fun r x => r.bind (fun s => s.submit x.1 x.2)) (some s)))))))

/-- The session of a source begins: it runs to the first stop. -/
def State.startSession (s : State) (src : GlaedSource) : State :=
  { s with glaed := { s.glaed with
      stopped := false
      running := true
      stepLeft := none
      passed := none
      base := s.cycle
      session := src.slips.map (fun x => BitVec.ofNat 64 (field x.2 112 8))
      faults := []
      seen := s.hub.seq
      busy := false } }

/-- `GLAED_RUN` (R394): nothing is submitted if a step fails. -/
def execGlaedRun (src : GlaedSource) (s : State) : Host.Outcome State Fault Refusal :=
  .next (match s.startSource src with
    | some s => s.startSession src
    | none => s.noSuch)

/-! ### Running (R396) -/

/-- `GLAED_BREAK` (R396). -/
def execGlaedBreak (b : BreakSpec) (s : State) : Host.Outcome State Fault Refusal :=
  .next { s with glaed := { s.glaed with breaks := s.glaed.breaks ++ [b] } }

/-- `GLAED_WATCH` (R396). -/
def execGlaedWatch (cfg window offset : Nat) (s : State) : Host.Outcome State Fault Refusal :=
  .next { s with glaed := { s.glaed with watches := s.glaed.watches ++ [⟨cfg, window, offset⟩] } }

/-- `GLAED_STEP` (R396): some cycles, which breakpoints do not stop. -/
def execGlaedStep (cycles : Nat) (s : State) : Host.Outcome State Fault Refusal :=
  .next { s with glaed := { s.glaed with stopped := cycles == 0, running := false, stepLeft := if cycles = 0 then none else some cycles } }

/-- `GLAED_CONTINUE` (R396). -/
def execGlaedContinue (s : State) : Host.Outcome State Fault Refusal :=
  .next { s with glaed := { s.glaed with stopped := false, running := true, stepLeft := none } }

/-- The tag of the firing that a handler would make: that of its port-`a` operand, or of what it has. -/
def State.firingTag (s : State) (key ctx hnd : Nat) : Option Tag :=
  match fireCtx? (s.focusOn key ctx hnd) with
  | none => none
  | some f =>
    let w := AMap.get f.x.handlers nopWord hnd
    let got : Gather := match w.extractLsb' 54 2 with
      | 0 => gatherQueue (f.e.active ctx) hnd (wordReads w) (w.getLsbD 40)
      | 1 => gatherFrame f.e f.l ctx hnd (wordReads w)
      | 2 => gatherAccord (s.bay (key / 256)) f.l key ctx hnd
      | _ => gatherTrigger f.x hnd
    match got with
    | .ok g => some g.tag
    | .eos _ q => some q.tag
    | _ => ([0, 1, 2, 3] : List Nat).findSome? (fun p => (headFor (f.e.active ctx) p hnd).map (fun t => t.e.tag))

/-- Whether a tag has the fields that a breakpoint gives. -/
def tagMatches (b : BreakSpec) (t : Tag) : Bool :=
  (match b.frame with | some f => t.frame == f | none => true) && (match b.path with | some p => t.path == p | none => true) &&
    b.its.all (fun x => t.it x.1 == x.2)

/-- Whether a breakpoint is one for the firing that a handler would make (R396). -/
def State.breakHits (s : State) (key ctx hnd : Nat) (b : BreakSpec) : Bool :=
  match fireCtx? (s.focusOn key ctx hnd), s.firingTag key ctx hnd with
  | some f, some t => b.cfg == f.img.addr && b.index == f.index && b.hnd == hnd && (match b.ctx with | some c => c == ctx | none => true) &&
      tagMatches b t
  | _, _ => false

/-- Whether a breakpoint stands before the firing of a handler. -/
def State.breaksAt (s : State) (key ctx hnd : Nat) : Bool :=
  s.glaed.running && s.glaed.passed != some s.fires && s.glaed.breaks.any (s.breakHits key ctx hnd)

/-- The device stands still before a firing. A break line stops at the next firing that matches it, so every line that matches is spent. -/
def State.stopBefore (s : State) (key ctx hnd : Nat) : State :=
  let left := s.glaed.breaks.filter (fun b => !s.breakHits key ctx hnd b)
  let row : List Nat := match fireCtx? (s.focusOn key ctx hnd), s.firingTag key ctx hnd with
    | some f, some t => [f.img.addr, f.index, hnd, ctx, s.cycle - s.glaed.base, (Tag.bits t).toNat, f.l.slip.sid.toNat]
    | _, _ => []
  ({ s with glaed := { s.glaed with stopped := true, running := false, passed := some s.fires, breaks := left } }).print "stop" row

/-- Whether slips are left that have not returned. -/
def State.workLeft (s : State) : Bool :=
  s.loans != [] || s.hub.holds != [] || s.hub.released != [] || s.hub.waitingSlips != [] || s.hub.launches != [] ||
    s.hub.queues.any (fun (p : Nat × HostQueue) => p.2.en && p.2.head != p.2.tail)

/-- The records that glaed has not reported yet. -/
def State.newFaults (s : State) : List FaultRec := s.hub.store.filter (fun r => decide (s.glaed.seen < r.seq.toNat))

/-- Whether the debugger has a session under way. -/
def Glaed.active (g : Glaed) : Bool := g.running || g.stepLeft.isSome || g.report.isSome

/-- glaed at the end of a cycle: records are reported, a report of a stocktake is printed, and it stops after a fault record or the last
return when it runs to a stop, or after its last cycle when it steps. -/
def State.glaedCycle (s : State) : State :=
  if !s.glaed.active then s
  else
    let new := s.newFaults
    let left := s.workLeft
    let ended := s.glaed.busy && !left
    let done := s.glaed.report.isSome && s.hub.stocktake.isNone
    let s := new.foldl (fun s r => s.print "fault" [r.seq.toNat, r.code.toNat]) s
    let s := if done then s.print "report" ((AMap.get s.hub.reports [] ((s.hub.reportNext + 15) % 16)).map BitVec.toNat) else s
    let g := s.glaed
    let halt := (g.running && (new != [] || ended)) || g.stepLeft == some 1 || (done && g.report == some true)
    { s with glaed := { g with
        stopped := halt
        running := g.running && !halt
        stepLeft := if halt then none else g.stepLeft.map (· - 1)
        faults := g.faults ++ new
        seen := s.hub.seq
        busy := left
        report := if done then none else g.report } }

/-! ### What the commands show (R396) -/

/-- The context of a loan in which it runs a handler. -/
def Loan.ctxOf (l : Loan) (index hnd : Nat) : Nat :=
  (l.ctxs.find? (fun c => (AMap.find (l.imageOf c).handlers (handlerKey index hnd)).isSome)).getD l.ctx

/-- Whether a loan's images have a handler. -/
def Loan.hasHandler (l : Loan) (index hnd : Nat) : Bool :=
  l.ctxs.any (fun c => (AMap.find (l.imageOf c).handlers (handlerKey index hnd)).isSome)

/-- A command about a handler of a loan. -/
def State.onHandler (s : State) (id index hnd : Nat) (f : Loan → Nat → State) : State :=
  s.onLoan id (fun l => if l.hasHandler index hnd then f l (l.ctxOf index hnd) else s.noSuch)

/-- `GLAED_SHOW_QUEUES` (R396): the queues that the handler reads, head first: port, place, operand and tag. -/
def execGlaedShowQueues (loan index hnd : Nat) (s : State) : Host.Outcome State Fault Refusal :=
  .next (s.onHandler loan index hnd (fun l c =>
    let e := s.el (l.elKey index)
    let w := AMap.get (e.ctx c).handlers nopWord hnd
    (wordReads w).foldl (fun s p => ((e.active c).queue p).zipIdx.foldl (fun s t =>
      s.print "queue" [p, t.2, t.1.e.operand.toNat, (Tag.bits t.1.e.tag).toNat, t.1.e.hnd.toNat]) s) s))

/-- The iteration window base of a frame at a depth (R50): the field of its oldest iteration in flight there. -/
def Loan.wbase (l : Loan) (f d : Nat) : Nat :=
  let its := (l.flights.filter (fun g => g.frame == f && g.its.length == d + 1)).map (fun g => g.its.getLast?.getD 0)
  its.foldl (fun m x => if iterOlder (BitVec.ofNat 7 x) (BitVec.ofNat 7 m) then x else m) (its.head?.getD 0)

/-- `GLAED_SHOW_FRAME` (R396): header, state with its place and its last touch (R298), and the slots with `P` 1. -/
def execGlaedShowFrame (loan frame : Nat) (s : State) : Host.Outcome State Fault Refusal :=
  .next (s.onLoan loan (fun l => match AMap.find l.frames frame with
    | none => s.noSuch
    | some fr =>
      let s := s.print "frame" ([frame, (Tag.bits fr.caller).toNat, fr.rcont.toNat, fr.cls, fr.nslot, fr.live.toNat] ++
        (List.range 6).map (fun d => l.wbase frame d) ++
        [fr.aseq, if fr.spilled then 1 else 0, fr.offset, frameBytes fr.nslot, min fr.touched s.cycle])
      (fr.slots.filter (fun (p : Nat × Slot) => p.2.p)).foldl (fun s (p : Nat × Slot) =>
        s.print "slot" [p.1 / 65536, p.1 % 65536, p.2.operand.toNat, p.2.port.toNat]) s))

/-- `GLAED_SHOW_ACC` (R396): the accumulators of the handler's context, from the save area after a switch-out. -/
def execGlaedShowAcc (loan index hnd : Nat) (s : State) : Host.Outcome State Fault Refusal :=
  .next (s.onHandler loan index hnd (fun l c =>
    let acc : List Nat := match AMap.find s.snaps loan with
      | some _ =>
        let slot := (l.slots.findIdx? (· == c)).getD 0
        let bs := (s.readVirt l.slip.space (l.slip.save + 0x21000 + 3328 * index + 256 * slot) 256).getD []
        (List.range 64).map (fun n => field bs (4 * n) 4)
      | none => (List.range 64).map (fun n => (AMap.get ((s.el (l.elKey index)).ctx c).acc 0 n).toNat)
    s.print "acc" acc))

/-- `GLAED_SHOW_PLANES` (R396): the active plane of each context, the frozen ones, newest first, and the loan's spills. -/
def execGlaedShowPlanes (loan index : Nat) (s : State) : Host.Outcome State Fault Refusal :=
  .next (s.onLoan loan (fun l =>
    if l.w * l.h * 128 ≤ index then s.noSuch
    else
      let e := s.el (l.elKey index)
      l.ctxs.foldl (fun s c => s.print "planes" ([c, (e.ctx c).plane.getD 255] ++ (e.ctx c).frozen ++ [l.planeSpills])) s))

/-- `GLAED_SHOW_VOQ` (R396): the cells in an input buffer, and its non-empty queues. -/
def execGlaedShowVoq (die port : Nat) (s : State) : Host.Outcome State Fault Refusal :=
  let x := s.xchOf die
  .next (if 4 ≤ die ∨ 240 ≤ port then s.noSuch
    else (x.voqs.filter (fun v => v.inp == port && v.cells != [])).foldl (fun s v =>
      s.print "voq" [v.dest, v.note, if v.mc then 1 else 0, v.cells.length, v.headSince]) (s.print "buffer" [x.buffered port]))

/-- `GLAED_SHOW_WAVE` (R396): the waiting entries of a region's wave buffer. -/
def execGlaedShowWave (loan : Nat) (s : State) : Host.Outcome State Fault Refusal :=
  .next (s.onLoan loan (fun _ =>
    (s.accs.filter (fun (p : Nat × Access) => p.2.loan == loan && p.2.stage == .waiting)).foldl (fun s (p : Nat × Access) =>
      s.print "wave" [p.2.index, p.2.hnd, (Tag.bits p.2.tag).toNat, p.2.predd, p.2.own, p.2.succd]) s))

/-- `GLAED_SHOW_RETIRE` (R396): iterations in flight, their pending counts, and whether a record marks them faulting. -/
def execGlaedShowRetire (s : State) : Host.Outcome State Fault Refusal :=
  .next (s.loans.foldl (fun s (p : Nat × Loan) => p.2.flights.foldl (fun s g =>
    s.print "retire" ([p.1, g.loop, g.frame, (p.2.pendOf (g.frame, g.its)).toNat, if g.faulting then 1 else 0] ++ g.its)) s) s)

/-- The first `SLOG` of an image: its handler and window. -/
def Image.firstSlog (img : Image) : Option (Nat × Nat) :=
  img.handlers.findSome? (fun (p : Nat × W64) => match (decodeHandler p.2).toOption with
    | some (.slog _ b) => some (p.1, b.window.toNat)
    | _ => none)

/-- A word of a window as the bay of an element reads it. -/
def State.peek (s : State) (l : Loan) (index : Nat) (w : Window) (x : Nat) : Option W32 :=
  let p := wordPlace w x
  if w.virt then (s.physOf l.slip.space (w.base + p.1 * squareSize w.ty)).map (fun a =>
    readLineWord s.mem (virtTr w p.1 a) w 0 p.1 p.2.1 false p.2.2)
  else some (readLineWord s.tmem (tileTr (l.bayKey (index / 128))) w l.firstLine p.1 p.2.1 false p.2.2)

/-- `GLAED_SHOW_SILLAGE` (R396): an entry of the window of the configuration's first `SLOG`. -/
def execGlaedShowSillage (loan entry : Nat) (s : State) : Host.Outcome State Fault Refusal :=
  .next (s.onLoan loan (fun l =>
    match l.image.firstSlog with
    | none => s.noSuch
    | some (key, n) => match AMap.find l.image.windows n with
      | none => s.noSuch
      | some w =>
        if w.size < entry * 16 + 16 then s.noSuch
        else s.print "sillage" ((List.range 4).map (fun i => ((s.peek l (key / 8) w (entry * 16 + 4 * i)).getD 0).toNat))))

/-- `GLAED_STOCKTAKE` (R315, R396): a stocktake starts, and its report is printed when it is there. -/
def execGlaedStocktake (s : State) : Host.Outcome State Fault Refusal :=
  let s := s.startStocktake false []
  .next { s with glaed := { s.glaed with report := some s.glaed.stopped, stopped := false } }

/-- `GLAED_FAULTS` (R396): the records of the session's slips in `SEQ` order. -/
def execGlaedFaults (s : State) : Host.Outcome State Fault Refusal :=
  .next (((s.glaed.faults ++ s.newFaults).filter (fun r => s.glaed.session.contains r.sid)).foldl (fun s r =>
    s.print "record" (r.bytes.map BitVec.toNat)) s)

/-- `GLAED_PREEMPT` (R345, R396): the kernel's priority write with the lock. -/
def execGlaedPreempt (loan : Nat) (prio : BitVec 2) (s : State) : Host.Outcome State Fault Refusal :=
  .next (s.onLoan loan (fun _ => s.writePrio loan prio true))

/-- `GLAED_SWITCH` (R346, R350, R396): a running loan is switched out, a switched-out one is marked for restore. -/
def execGlaedSwitch (loan : Nat) (s : State) : Host.Outcome State Fault Refusal :=
  .next (s.onLoan loan (fun l =>
    if l.state == .running then s.later 1 (.switchRequest loan)
    else if l.state == .switchedOut then s.updLoan loan (fun l => { l with restoreMark := true })
    else s))

end Sys2Proof.Machine
end

