-- ==== Sys2Proof/Machine/Dispatch.lean ====
section
/-! DEFINITION. The meaning of every instruction, one arm each. -/
namespace Sys2Proof.Machine
open Sys2Proof

/-- The meaning of an instruction: a step of the part on the state. -/
def exec (i : Instr) (s : State) : Host.Outcome State Fault Refusal :=
  match i with
  | .kernelPageInvalidate space va entryAddr entry => Sys2Proof.Machine.execKernelPageInvalidate space va entryAddr entry s
  | .mailboxAnswer words => Sys2Proof.Machine.execMailboxAnswer words s
  | .demandPageMap space page => Sys2Proof.Machine.execDemandPageMap space page s
  | .wakeSequencerTick die => Sys2Proof.Machine.execWakeSequencerTick die s
  | .bayGate bay => Sys2Proof.Machine.execBayGate bay s
  | .hqDisable queue => Sys2Proof.Machine.execHqDisable queue s
  | .fqRingSetup size value => Sys2Proof.Machine.execFqRingSetup size value s
  | .fqheadWrite value => Sys2Proof.Machine.execFqheadWrite value s
  | .hostTimelineIncrement timeline value => Sys2Proof.Machine.execHostTimelineIncrement timeline value s
  | .imageFetchDone loan => Sys2Proof.Machine.execImageFetchDone loan s
  | .configWriteDone loan => Sys2Proof.Machine.execConfigWriteDone loan s
  | .prefetchDone id => Sys2Proof.Machine.execPrefetchDone id s
  | .epochEnd die => Sys2Proof.Machine.execEpochEnd die s
  | .chunkMoveDone die chunk => Sys2Proof.Machine.execChunkMoveDone die chunk s
  | .tokenHop el src => Sys2Proof.Machine.execTokenHop el src s
  | .tokenArrive el side => Sys2Proof.Machine.execTokenArrive el side s
  | .firingResultWrite el id => Sys2Proof.Machine.execFiringResultWrite el id s
  | .weightRecompute el => Sys2Proof.Machine.execWeightRecompute el s
  | .matchToken el => Sys2Proof.Machine.execMatchToken el s
  | .matchDone el => Sys2Proof.Machine.execMatchDone el s
  | .frameSlotWrite el => Sys2Proof.Machine.execFrameSlotWrite el s
  | .frameSpill loan => Sys2Proof.Machine.execFrameSpill loan s
  | .frameRefill loan frame => Sys2Proof.Machine.execFrameRefill loan frame s
  | .rampTurnEnd loan => Sys2Proof.Machine.execRampTurnEnd loan s
  | .feedBeat loan index isB => Sys2Proof.Machine.execFeedBeat loan index isB s
  | .matrixStep el ctx => Sys2Proof.Machine.execMatrixStep el ctx s
  | .runEnd el ctx => Sys2Proof.Machine.execRunEnd el ctx s
  | .layoutRecordApply bay tile ctx isB => Sys2Proof.Machine.execLayoutRecordApply bay tile ctx isB s
  | .tlbWalkDone id => Sys2Proof.Machine.execTlbWalkDone id s
  | .waveAccessArrive id => Sys2Proof.Machine.execWaveAccessArrive id s
  | .accessPerform id => Sys2Proof.Machine.execAccessPerform id s
  | .bankAccess bay tile bank => Sys2Proof.Machine.execBankAccess bay tile bank s
  | .aincbRoundEnd place => Sys2Proof.Machine.execAincbRoundEnd place s
  | .decantTrigger el => Sys2Proof.Machine.execDecantTrigger el s
  | .decantBlockDone bay decanter => Sys2Proof.Machine.execDecantBlockDone bay decanter s
  | .decantArmApply id => Sys2Proof.Machine.execDecantArmApply id s
  | .cellEnqueue id => Sys2Proof.Machine.execCellEnqueue id s
  | .exchangeSlot die => Sys2Proof.Machine.execExchangeSlot die s
  | .ingressCell bay => Sys2Proof.Machine.execIngressCell bay s
  | .memoryPortCell die port => Sys2Proof.Machine.execMemoryPortCell die port s
  | .lagDrop die port id => Sys2Proof.Machine.execLagDrop die port id s
  | .tlwaitMet id => Sys2Proof.Machine.execTlwaitMet id s
  | .launchAccept id => Sys2Proof.Machine.execLaunchAccept id s
  | .watchSample watch => Sys2Proof.Machine.execWatchSample watch s
  | .sqClaimArrive loan index hnd => Sys2Proof.Machine.execSqClaimArrive loan index hnd s
  | .sqGrantArrive loan index hnd => Sys2Proof.Machine.execSqGrantArrive loan index hnd s
  | .sqPostArrive loan post => Sys2Proof.Machine.execSqPostArrive loan post s
  | .barrierArrive id => Sys2Proof.Machine.execBarrierArrive id s
  | .watchdogExpire loan => Sys2Proof.Machine.execWatchdogExpire loan s
  | .retireAck loan deltas => Sys2Proof.Machine.execRetireAck loan deltas s
  | .iterationRetire loan => Sys2Proof.Machine.execIterationRetire loan s
  | .exitTaken loan => Sys2Proof.Machine.execExitTaken loan s
  | .exitDrainDone loan => Sys2Proof.Machine.execExitDrainDone loan s
  | .loanReturn loan => Sys2Proof.Machine.execLoanReturn loan s
  | .kernelResume loan frame abandon => Sys2Proof.Machine.execKernelResume loan frame abandon s
  | .switchRequest loan => Sys2Proof.Machine.execSwitchRequest loan s
  | .switchDrainDone loan => Sys2Proof.Machine.execSwitchDrainDone loan s
  | .scanOutDone loan => Sys2Proof.Machine.execScanOutDone loan s
  | .restore loan => Sys2Proof.Machine.execRestore loan s
  | .freezeMarkerArrive loan bay => Sys2Proof.Machine.execFreezeMarkerArrive loan bay s
  | .freezePoint loan => Sys2Proof.Machine.execFreezePoint loan s
  | .planeSpillDone loan => Sys2Proof.Machine.execPlaneSpillDone loan s
  | .thawPop loan => Sys2Proof.Machine.execThawPop loan s
  | .colophonRun bay value => Sys2Proof.Machine.execColophonRun bay value s
  | .colophonHalt bay => Sys2Proof.Machine.execColophonHalt bay s
  | .colophonCapture bay value => Sys2Proof.Machine.execColophonCapture bay value s
  | .iadd h b => Sys2Proof.Machine.execIadd h b s
  | .isub h b => Sys2Proof.Machine.execIsub h b s
  | .imul h b => Sys2Proof.Machine.execImul h b s
  | .imulh h b => Sys2Proof.Machine.execImulh h b s
  | .imad h b => Sys2Proof.Machine.execImad h b s
  | .ineg h b => Sys2Proof.Machine.execIneg h b s
  | .iabs h b => Sys2Proof.Machine.execIabs h b s
  | .imin h b => Sys2Proof.Machine.execImin h b s
  | .imax h b => Sys2Proof.Machine.execImax h b s
  | .iadds h b => Sys2Proof.Machine.execIadds h b s
  | .isubs h b => Sys2Proof.Machine.execIsubs h b s
  | .icmp h b => Sys2Proof.Machine.execIcmp h b s
  | .and h b => Sys2Proof.Machine.execAnd h b s
  | .or h b => Sys2Proof.Machine.execOr h b s
  | .xor h b => Sys2Proof.Machine.execXor h b s
  | .andn h b => Sys2Proof.Machine.execAndn h b s
  | .not h b => Sys2Proof.Machine.execNot h b s
  | .shl h b => Sys2Proof.Machine.execShl h b s
  | .shr h b => Sys2Proof.Machine.execShr h b s
  | .shra h b => Sys2Proof.Machine.execShra h b s
  | .rotl h b => Sys2Proof.Machine.execRotl h b s
  | .clz h b => Sys2Proof.Machine.execClz h b s
  | .popc h b => Sys2Proof.Machine.execPopc h b s
  | .brev h b => Sys2Proof.Machine.execBrev h b s
  | .bfx h b => Sys2Proof.Machine.execBfx h b s
  | .bfi h b => Sys2Proof.Machine.execBfi h b s
  | .iaddc h b => Sys2Proof.Machine.execIaddc h b s
  | .lea h b => Sys2Proof.Machine.execLea h b s
  | .cellkey h b => Sys2Proof.Machine.execCellkey h b s
  | .cellhash h b => Sys2Proof.Machine.execCellhash h b s
  | .nbrkey h b => Sys2Proof.Machine.execNbrkey h b s
  | .iclamp h b => Sys2Proof.Machine.execIclamp h b s
  | .fadd h b => Sys2Proof.Machine.execFadd h b s
  | .fsub h b => Sys2Proof.Machine.execFsub h b s
  | .fmul h b => Sys2Proof.Machine.execFmul h b s
  | .ffma h b => Sys2Proof.Machine.execFfma h b s
  | .fmin h b => Sys2Proof.Machine.execFmin h b s
  | .fmax h b => Sys2Proof.Machine.execFmax h b s
  | .fabs h b => Sys2Proof.Machine.execFabs h b s
  | .fneg h b => Sys2Proof.Machine.execFneg h b s
  | .fcmp h b => Sys2Proof.Machine.execFcmp h b s
  | .frcp h b => Sys2Proof.Machine.execFrcp h b s
  | .frsq h b => Sys2Proof.Machine.execFrsq h b s
  | .fexp2 h b => Sys2Proof.Machine.execFexp2 h b s
  | .flog2 h b => Sys2Proof.Machine.execFlog2 h b s
  | .fsqrt h b => Sys2Proof.Machine.execFsqrt h b s
  | .fscale h b => Sys2Proof.Machine.execFscale h b s
  | .fround h b => Sys2Proof.Machine.execFround h b s
  | .fcvt h b => Sys2Proof.Machine.execFcvt h b s
  | .ftoi h b => Sys2Proof.Machine.execFtoi h b s
  | .itof h b => Sys2Proof.Machine.execItof h b s
  | .fclass h b => Sys2Proof.Machine.execFclass h b s
  | .fdot2 h b => Sys2Proof.Machine.execFdot2 h b s
  | .seed h b => Sys2Proof.Machine.execSeed h b s
  | .qpack h b => Sys2Proof.Machine.execQpack h b s
  | .qunpk h b => Sys2Proof.Machine.execQunpk h b s
  | .mov h b => Sys2Proof.Machine.execMov h b s
  | .movi h b => Sys2Proof.Machine.execMovi h b s
  | .movhi h b => Sys2Proof.Machine.execMovhi h b s
  | .sel h b => Sys2Proof.Machine.execSel h b s
  | .sink h b => Sys2Proof.Machine.execSink h b s
  | .getw h b => Sys2Proof.Machine.execGetw h b s
  | .setw h b => Sys2Proof.Machine.execSetw h b s
  | .const h b => Sys2Proof.Machine.execConst h b s
  | .live h b => Sys2Proof.Machine.execLive h b s
  | .islive h b => Sys2Proof.Machine.execIslive h b s
  | .count h b => Sys2Proof.Machine.execCount h b s
  | .stride h b => Sys2Proof.Machine.execStride h b s
  | .steer h b => Sys2Proof.Machine.execSteer h b s
  | .steerx h b => Sys2Proof.Machine.execSteerx h b s
  | .merge h b => Sys2Proof.Machine.execMerge h b s
  | .mergeo h b => Sys2Proof.Machine.execMergeo h b s
  | .gate h b => Sys2Proof.Machine.execGate h b s
  | .prime h b => Sys2Proof.Machine.execPrime h b s
  | .loopin h b => Sys2Proof.Machine.execLoopin h b s
  | .next h b => Sys2Proof.Machine.execNext h b s
  | .loopout h b => Sys2Proof.Machine.execLoopout h b s
  | .bound h b => Sys2Proof.Machine.execBound h b s
  | .callf h b => Sys2Proof.Machine.execCallf h b s
  | .retf h b => Sys2Proof.Machine.execRetf h b s
  | .tagrd h b => Sys2Proof.Machine.execTagrd h b s
  | .tagwr h b => Sys2Proof.Machine.execTagwr h b s
  | .exit h b => Sys2Proof.Machine.execExit h b s
  | .ends h b => Sys2Proof.Machine.execEnds h b s
  | .accadd h b => Sys2Proof.Machine.execAccadd h b s
  | .accmax h b => Sys2Proof.Machine.execAccmax h b s
  | .accrd h b => Sys2Proof.Machine.execAccrd h b s
  | .accz h b => Sys2Proof.Machine.execAccz h b s
  | .accscl h b => Sys2Proof.Machine.execAccscl h b s
  | .ordred h b => Sys2Proof.Machine.execOrdred h b s
  | .xacc h b => Sys2Proof.Machine.execXacc h b s
  | .xrnd h b => Sys2Proof.Machine.execXrnd h b s
  | .cfwd h b => Sys2Proof.Machine.execCfwd h b s
  | .cfwdx h b => Sys2Proof.Machine.execCfwdx h b s
  | .slog h b => Sys2Proof.Machine.execSlog h b s
  | .sread h b => Sys2Proof.Machine.execSread h b s
  | .mxcfg h b => Sys2Proof.Machine.execMxcfg h b s
  | .mxstep h b => Sys2Proof.Machine.execMxstep h b s
  | .mxfade h b => Sys2Proof.Machine.execMxfade h b s
  | .mxscl h b => Sys2Proof.Machine.execMxscl h b s
  | .mxdrn h b => Sys2Proof.Machine.execMxdrn h b s
  | .mxpass h b => Sys2Proof.Machine.execMxpass h b s
  | .mxldacc h b => Sys2Proof.Machine.execMxldacc h b s
  | .ld h b => Sys2Proof.Machine.execLd h b s
  | .st h b => Sys2Proof.Machine.execSt h b s
  | .lds h b => Sys2Proof.Machine.execLds h b s
  | .sts h b => Sys2Proof.Machine.execSts h b s
  | .ldq h b => Sys2Proof.Machine.execLdq h b s
  | .stq h b => Sys2Proof.Machine.execStq h b s
  | .pref h b => Sys2Proof.Machine.execPref h b s
  | .fence h b => Sys2Proof.Machine.execFence h b s
  | .aadd h b => Sys2Proof.Machine.execAadd h b s
  | .afadd h b => Sys2Proof.Machine.execAfadd h b s
  | .amin h b => Sys2Proof.Machine.execAmin h b s
  | .amax h b => Sys2Proof.Machine.execAmax h b s
  | .axchg h b => Sys2Proof.Machine.execAxchg h b s
  | .acas h b => Sys2Proof.Machine.execAcas h b s
  | .abit h b => Sys2Proof.Machine.execAbit h b s
  | .aincb h b => Sys2Proof.Machine.execAincb h b s
  | .sendc h b => Sys2Proof.Machine.execSendc h b s
  | .sendm h b => Sys2Proof.Machine.execSendm h b s
  | .creq h b => Sys2Proof.Machine.execCreq h b s
  | .cgrp h b => Sys2Proof.Machine.execCgrp h b s
  | .darm h b => Sys2Proof.Machine.execDarm h b s
  | .dfire h b => Sys2Proof.Machine.execDfire h b s
  | .dlay h b => Sys2Proof.Machine.execDlay h b s
  | .dstat h b => Sys2Proof.Machine.execDstat h b s
  | .dcan h b => Sys2Proof.Machine.execDcan h b s
  | .tlinc h b => Sys2Proof.Machine.execTlinc h b s
  | .tlwait h b => Sys2Proof.Machine.execTlwait h b s
  | .tlrd h b => Sys2Proof.Machine.execTlrd h b s
  | .barr h b => Sys2Proof.Machine.execBarr h b s
  | .launch h b => Sys2Proof.Machine.execLaunch h b s
  | .tlset h b => Sys2Proof.Machine.execTlset h b s
  | .stock h b => Sys2Proof.Machine.execStock h b s
  | .evwatch h b => Sys2Proof.Machine.execEvwatch h b s
  | .trap h b => Sys2Proof.Machine.execTrap h b s
  | .brk h b => Sys2Proof.Machine.execBrk h b s
  | .prio h b => Sys2Proof.Machine.execPrio h b s
  | .ccall h b => Sys2Proof.Machine.execCcall h b s
  | .cret h b => Sys2Proof.Machine.execCret h b s
  | .resume h b => Sys2Proof.Machine.execResume h b s
  | .park h b => Sys2Proof.Machine.execPark h b s
  | .fltrd h b => Sys2Proof.Machine.execFltrd h b s
  | .perfrd h b => Sys2Proof.Machine.execPerfrd h b s
  | .timerd h b => Sys2Proof.Machine.execTimerd h b s
  | .scanout h b => Sys2Proof.Machine.execScanout h b s
  | .scanin h b => Sys2Proof.Machine.execScanin h b s
  | .cflush h b => Sys2Proof.Machine.execCflush h b s
  | .eadd rd ra rb ty4 => Sys2Proof.Machine.execEadd rd ra rb ty4 s
  | .esub rd ra rb ty4 => Sys2Proof.Machine.execEsub rd ra rb ty4 s
  | .emul rd ra rb ty4 => Sys2Proof.Machine.execEmul rd ra rb ty4 s
  | .efma rd ra rb => Sys2Proof.Machine.execEfma rd ra rb s
  | .emax rd ra rb ty4 => Sys2Proof.Machine.execEmax rd ra rb ty4 s
  | .emin rd ra rb ty4 => Sys2Proof.Machine.execEmin rd ra rb ty4 s
  | .ecvt rd ra ty rnd sat => Sys2Proof.Machine.execEcvt rd ra ty rnd sat s
  | .eclmp rd ra rb => Sys2Proof.Machine.execEclmp rd ra rb s
  | .eldr rd m => Sys2Proof.Machine.execEldr rd m s
  | .estr ra rb k => Sys2Proof.Machine.execEstr ra rb k s
  | .eldi rd ra v => Sys2Proof.Machine.execEldi rd ra v s
  | .emov rd ra => Sys2Proof.Machine.execEmov rd ra s
  | .eand rd ra rb => Sys2Proof.Machine.execEand rd ra rb s
  | .eshf rd ra n how => Sys2Proof.Machine.execEshf rd ra n how s
  | .ebnz ra off => Sys2Proof.Machine.execEbnz ra off s
  | .ejmp off => Sys2Proof.Machine.execEjmp off s
  | .eloop rd off => Sys2Proof.Machine.execEloop rd off s
  | .ewait n => Sys2Proof.Machine.execEwait n s
  | .ehalt code => Sys2Proof.Machine.execEhalt code s
  | .esig ra el port hnd => Sys2Proof.Machine.execEsig ra el port hnd s
  | .rcdbGo value => Sys2Proof.Machine.execRcdbGo value s
  | .registerWrite w => Sys2Proof.Machine.execRegisterWrite w s
  | .hqTailWrite queue value => Sys2Proof.Machine.execHqTailWrite queue value s
  | .hqRingSetup queue size value => Sys2Proof.Machine.execHqRingSetup queue size value s
  | .hqEnable queue => Sys2Proof.Machine.execHqEnable queue s
  | .glaedRun src => Sys2Proof.Machine.execGlaedRun src s
  | .thrumArrival a => Sys2Proof.Machine.execThrumArrival a s
  | .mbiWrite index value => Sys2Proof.Machine.execMbiWrite index value s
  | .kernelPrioWrite loan prio lock => Sys2Proof.Machine.execKernelPrioWrite loan prio lock s
  | .glaedBreak b => Sys2Proof.Machine.execGlaedBreak b s
  | .glaedWatch cfg window offset => Sys2Proof.Machine.execGlaedWatch cfg window offset s
  | .glaedStep cycles => Sys2Proof.Machine.execGlaedStep cycles s
  | .glaedShowQueues loan index hnd => Sys2Proof.Machine.execGlaedShowQueues loan index hnd s
  | .glaedShowFrame loan frame => Sys2Proof.Machine.execGlaedShowFrame loan frame s
  | .glaedShowAcc loan index hnd => Sys2Proof.Machine.execGlaedShowAcc loan index hnd s
  | .glaedShowPlanes loan index => Sys2Proof.Machine.execGlaedShowPlanes loan index s
  | .glaedShowVoq die port => Sys2Proof.Machine.execGlaedShowVoq die port s
  | .glaedShowWave loan => Sys2Proof.Machine.execGlaedShowWave loan s
  | .glaedShowSillage loan entry => Sys2Proof.Machine.execGlaedShowSillage loan entry s
  | .glaedPreempt loan prio => Sys2Proof.Machine.execGlaedPreempt loan prio s
  | .glaedSwitch loan => Sys2Proof.Machine.execGlaedSwitch loan s
  | .kernelTimelineWrite timeline value increment => Sys2Proof.Machine.execKernelTimelineWrite timeline value increment s
  | .hostMemoryAccess a => Sys2Proof.Machine.execHostMemoryAccess a s
  | .curatorMemoryAccess a => Sys2Proof.Machine.execCuratorMemoryAccess a s
  | .reset => Sys2Proof.Machine.execReset s
  | .hostLinkTrained => Sys2Proof.Machine.execHostLinkTrained s
  | .recoveryVerifyDone => Sys2Proof.Machine.execRecoveryVerifyDone s
  | .attestationSign => Sys2Proof.Machine.execAttestationSign s
  | .faultRecordDeliver => Sys2Proof.Machine.execFaultRecordDeliver s
  | .mailboxRequest => Sys2Proof.Machine.execMailboxRequest s
  | .mailboxTake => Sys2Proof.Machine.execMailboxTake s
  | .mailboxAnswerClear => Sys2Proof.Machine.execMailboxAnswerClear s
  | .slipRead => Sys2Proof.Machine.execSlipRead s
  | .placementDecision => Sys2Proof.Machine.execPlacementDecision s
  | .placementReservation => Sys2Proof.Machine.execPlacementReservation s
  | .stocktakeSnapshot => Sys2Proof.Machine.execStocktakeSnapshot s
  | .glaedContinue => Sys2Proof.Machine.execGlaedContinue s
  | .glaedShowRetire => Sys2Proof.Machine.execGlaedShowRetire s
  | .glaedStocktake => Sys2Proof.Machine.execGlaedStocktake s
  | .glaedFaults => Sys2Proof.Machine.execGlaedFaults s
  | .orderRingTick => Sys2Proof.Machine.execOrderRingTick s

end Sys2Proof.Machine
end

