-- ==== Sys2Proof/Machine/Sched.lean ====
section
/-! DEFINITION. The order in which things happen: what the outside does, a running Colophon, what is due, the firings of a
cycle by the choice of R129 to R131, and the end of a cycle. `run` is the meaning of an instruction. -/
namespace Sys2Proof.Machine

/-- The meaning of one instruction. -/
abbrev Meaning := Instr → State → Host.Outcome State Fault Refusal

/-! ### The Colophons (R366, R367) -/

/-- The first bay whose Colophon runs and is ready for its next instruction. -/
def readyColophon (s : State) : Option Nat :=
  (s.bays.find? (fun b => b.2.colophon.run && !b.2.colophon.halt && decide (b.2.colophon.ready ≤ s.cycle))).map Prod.fst

/-- A Colophon halted by a word that is no instruction, before it is executed (R368, R370). -/
def Colophon.errorHalt (c : Colophon) (code : BitVec 4) : Colophon :=
  { c with run := false, halt := true, err := true, ecode := code, haltPc := BitVec.ofNat 10 c.pc }

/-- The next instruction of a bay's Colophon (R370). -/
def colophonStep (run : Meaning) (b : Nat) (s : State) : Host.Outcome State Fault Refusal :=
  let c := (s.bay b).colophon
  match decodeColophon (AMap.get c.program 0 c.pc) with
  | .ok i => run i { s with focus := { s.focus with bay := b } }
  | .error e => .next (s.updBay b (fun y => { y with colophon := y.colophon.errorHalt e.code }))

/-! ### The choice of R129 to R131 -/

/-- The instruction of a handler of a context, unless its word is `NOP` or no instruction (R71). -/
def handlerInstr (x : ElCtx) (hnd : Nat) : Option Instr := (decodeHandler (AMap.get x.handlers nopWord hnd)).toOption

/-- Whether a handler is a candidate: performing it is a firing. -/
def isCandidate (run : Meaning) (s : State) (key ctx hnd : Nat) : Bool :=
  match handlerInstr ((s.el key).ctx ctx) hnd with
  | none => false
  | some i => match run i (s.focusOn key ctx hnd) with
    | .next t => t.fires != s.fires
    | _ => false

/-- The candidates of a context, in the order of the scan of R130. -/
def candidates (run : Meaning) (s : State) (key ctx : Nat) : List Nat :=
  let x := (s.el key).ctx ctx
  if x.loan = none then []
  else ((List.range 8).map (fun i => (x.lastHnd + 1 + i) % 8)).filter (isCandidate run s key ctx)

/-- The contexts in the order of R129: higher `PRIO` first, then ascending after the one that fired last. -/
def ctxOrder (e : Element) : List Nat :=
  let turn := (List.range 4).map (fun i => (e.lastCtx + 1 + i) % 4)
  [3, 2, 1, 0].flatMap (fun p => turn.filter (fun c => (e.ctx c).prioNow.toNat == p))

/-- The handler that fires of a context's candidates, and whether every credit is refilled first (R130). -/
def chooseHandler (x : ElCtx) : List Nat → Option (Nat × Bool)
  | [] => none
  | h :: hs => match (h :: hs).find? (fun k => AMap.get x.credits 0 k > 0) with
    | some k => some (k, false)
    | none => some (h, true)

/-- Credits refilled to the weights, new weights taking effect (R130). -/
def ElCtx.refill (x : ElCtx) : ElCtx :=
  let ws := if x.nextWeights = [] then x.weights else x.nextWeights
  { x with weights := ws, nextWeights := [], credits := (List.range 8).map (fun h => (h, AMap.get ws 1 h)) }

/-- The firing of an element in this cycle; an element that holds a record fires nothing (R30). -/
def chooseFiring (run : Meaning) (s : State) (key : Nat) : Option Choice :=
  let e := s.el key
  if e.fired = s.cycle + 1 ∨ s.stopped (.element key) then none
  else
    let cs := ((ctxOrder e).map (fun c => (c, candidates run s key c))).filter (fun p => p.2 != [])
    match cs with
    | [] => none
    | (c, hs) :: rest => match chooseHandler (e.ctx c) hs with
      | none => none
      | some (h, refill) => some ⟨key, c, h, refill, rest.map Prod.fst⟩

/-- The firings of a cycle, in ascending key of their elements: every element chooses among what is a candidate at the start of the cycle
(R126, R129). -/
def chooseFirings (run : Meaning) (s : State) : List Choice :=
  (s.els.filter (fun (p : Nat × Element) => !p.2.bare)).filterMap (fun p => chooseFiring run s p.1)

/-- The state in which a chosen firing happens. -/
def prepareFiring (s : State) (x : Choice) : State :=
  let s := s.updEl x.el (fun e =>
    let e := if x.refill then e.updCtx x.ctx ElCtx.refill else e
    x.others.foldl (fun e c => e.updCtx c (fun x => { x with perf := AMap.upd x.perf 0 1 (· + 1) })) e)
  s.focusOn x.el x.ctx x.hnd

/-! ### The end of a cycle -/

/-- Tokens in the queues of an element's active planes whose `HND` selects a handler; a sticky operand is not counted
(R130). -/
def occupancyOf (e : Element) (c hnd : Nat) : Nat :=
  (e.active c).q.foldl (fun n q =>
    let ts := match q.2 with
      | t :: rest => if q.1 = 1 ∧ e.sticky ((e.ctx c).plane.getD 8) t then rest else q.2
      | [] => []
    n + (ts.filter (fun t => t.e.hnd.toNat == hnd)).length) 0

/-- An element at the end of a cycle: its occupancy sums grow (R130), and a `PRIO` written in it takes part in the next choice (R129). -/
def Element.endCycle (e : Element) : Element :=
  let e := { e with ctxs := e.ctxs.map (fun (p : Nat × ElCtx) => (p.1, { p.2 with prioNow := p.2.prio })) }
  if e.bare then e
  else (List.range 4).foldl (fun e c =>
    if (e.ctx c).loan = none then e
    else
      let occ := (List.range 8).map (fun h => (h, AMap.get (e.ctx c).occupancy 0 h + occupancyOf e c h))
      e.updCtx c (fun x => { x with occupancy := occ })) e

/-- Whether the head of a queue of an element is for a frame-mode handler (R135). -/
def hasFrameToken (e : Element) : Bool :=
  (List.range 4).any (fun c =>
    let x := e.ctx c
    x.loan != none && (e.active c).q.any (fun q => match q.2 with
      | t :: _ => t.e.kind == .data && (AMap.get x.handlers nopWord t.e.hnd.toNat).extractLsb' 54 2 == 1
      | [] => false))

/-- Claims of handlers that lack only their credit (R302): performing such a handler sends its claim and fires nothing. -/
def sendClaims (run : Meaning) (s : State) : State :=
  (s.els.filter (fun (p : Nat × Element) => !p.2.bare && !s.stopped (.element p.1))).foldl (fun s (k, e) => (List.range 32).foldl (fun s n =>
    let c := n / 8
    let h := n % 8
    let x := e.ctx c
    if x.loan = none || x.latch.contains h || x.claims.contains h then s
    else match handlerInstr x h with
      | none => s
      | some i => if (AMap.get x.handlers nopWord h).getLsbD 41 then
          (match run i (s.focusOn k c h) with
            | .next t => if t.fires = s.fires then t else s
            | _ => s)
        else s) s) s

/-- Whether a step stands in the agenda. -/
def State.awaits (s : State) (i : Instr) : Bool := s.agenda.any (fun x => x.2 == i)

/-- The contexts of an element whose run has a step or a write to make, or in which scale tokens may go on (R224, R225). -/
def Element.latticeCtxs (e : Element) : List Nat :=
  (e.ctxs.filter (fun (p : Nat × ElCtx) => (match p.2.run with
    | some r => decide (r.done < r.total) || r.writes != []
    | none => false) || ((e.scA ++ e.scB) != [] && p.2.loan.isSome))).map Prod.fst

/-- Steps of every cycle that wait at an element: match units, matrix runs, and triggers of decanters (R130, R135, R220, R256). -/
def elementSteps (s : State) : List Instr :=
  (s.els.filter (fun (p : Nat × Element) => !p.2.bare)).flatMap (fun (p : Nat × Element) =>
    (if p.2.ordered != [] || p.2.matching.any (fun m => decide (m.1 < s.cycle)) then [.matchDone p.1] else []) ++
    (if hasFrameToken p.2 then [.matchToken p.1] else []) ++
    (if s.cycle % 1024 = 0 then [.weightRecompute p.1] else []) ++
    (if (armedTrigger s p.1).isSome then [.decantTrigger p.1] else [])) ++
  s.els.flatMap (fun (p : Nat × Element) => p.2.latticeCtxs.map (.matrixStep p.1))

/-- Whether a loan's watchdog or a frame that waits for room asks for a step (R298, R315), or an iteration retires (R383). -/
def loanSteps (s : State) : List Instr :=
  s.loans.flatMap (fun (p : Nat × Loan) =>
    (if p.2.retires then [.iterationRetire p.1] else []) ++
    (if p.2.lastFiring + 4097 ≤ s.cycle ∧ ((callfWaiting s p.1).isSome ∨ p.2.callWaits.isSome) ∧ !s.awaits (.frameSpill p.1) then [.frameSpill p.1] else []) ++
    (if p.2.state == .running && p.2.overrun s.cycle then [.watchdogExpire p.1] else []))

/-- Steps of the hub and the Circulation (R30, R95, R107, R111, R112, R328). -/
def hubSteps (s : State) : List Instr :=
  [.orderRingTick] ++
  (if (s.hub.unhandled.isSome || (s.hub.store != [] && s.hub.ringTakes)) && !s.awaits Instr.faultRecordDeliver then [.faultRecordDeliver] else []) ++
  (if s.hub.waitingSlips != [] || s.hub.queues.any (fun (p : Nat × HostQueue) => p.2.ready) then [.slipRead] else []) ++
  (if s.hub.released != [] then [.placementDecision] else []) ++
  (if s.overdue != [] then [.placementReservation] else []) ++
  (if s.cycle % 256 = 0 then s.hub.watches.map (fun (p : Nat × Watch) => .watchSample p.1) else [])

/-- Steps of the dies (R22, R116, R124, R264). -/
def dieSteps (s : State) : List Instr :=
  (s.xch.filter (fun (p : Nat × Exchange) => decide (s.cycle % 4 = 0) && p.2.voqs.any (fun v => v.cells != []))).map
    (fun (p : Nat × Exchange) => .exchangeSlot p.1) ++
  (s.bays.filter (fun (p : Nat × Bay) => p.2.gates s.cycle)).map (fun (p : Nat × Bay) => .bayGate p.1) ++
  (if s.cycle % 2 ^ 20 = 0 then (List.range 4).map Instr.epochEnd else [])

/-- What comes about by itself at the start of a cycle. -/
def background (s : State) : List Instr := elementSteps s ++ loanSteps s ++ hubSteps s ++ dieSteps s

/-- The wake sequencers that begin to count 64 cycles (R22). -/
def State.startWakes (s : State) : State :=
  ((List.range 4).filter (fun d => s.wakes d && !s.awaits (.wakeSequencerTick d))).foldl (fun s d => s.later 64 (.wakeSequencerTick d)) s

/-- A bay of which a context is loaned is not idle. -/
def Bay.endCycle (y : Bay) (now : Nat) : Bay := if y.hasLoan then { y with idleSince := now } else y

/-- Loans that have fired for the first time look their predictor up (R122). -/
def State.lookups (s : State) : State :=
  s.loans.foldl (fun s (p : Nat × Loan) => if p.2.fired && !p.2.looked && p.2.state == .running then s.lookup p.1 p.2 else s) s

/-- A running loan that holds no token and has not fired at the end of a cycle has been empty in it (R315). -/
def State.markEmpty (s : State) (id : Nat) (l : Loan) : Loan :=
  if l.state == .running && l.lastFiring != s.cycle && s.tokensOf id l == 0 then { l with lastEmpty := s.cycle + 1 } else l

/-- The end of a cycle: occupancy is summed, the cycle counter advances, and what comes about by itself in the next cycle is due (R360). -/
def tick (s : State) : State :=
  let s := { s with
    chosen := none
    loans := s.loans.map (fun (p : Nat × Loan) => (p.1, s.markEmpty p.1 p.2))
    els := s.els.map (fun (p : Nat × Element) => (p.1, Element.endCycle p.2))
    bays := s.bays.map (fun (p : Nat × Bay) => (p.1, Bay.endCycle p.2 s.cycle))
    cycle := s.cycle + 1 }
  let s := s.lookups.startWakes
  State.glaedCycle { s with agenda := (background s).foldl (fun a i => agendaPut a s.cycle i) s.agenda }

/-- The loans of which a handler is a candidate, by the choices of a cycle. -/
def State.candidateLoans (s : State) (cs : List Choice) : List Nat :=
  cs.flatMap (fun x => (x.ctx :: x.others).filterMap (fun c => ((s.el x.el).ctx c).loan))

/-- The state with the firings of its cycle chosen (R126): claims go out for handlers that lack only their credit (R302), every
element chooses, and a region of which a handler is a candidate has not stalled (R316). -/
def State.choosing (run : Meaning) (s : State) : State × List Choice :=
  match s.chosen with
  | some cs => (s, cs)
  | none =>
    let cs := chooseFirings run s
    let ids := s.candidateLoans cs
    let s := sendClaims run s
    ({ s with loans := s.loans.map (fun (p : Nat × Loan) =>
        (p.1, if ids.contains p.1 then { p.2 with lastCandidate := s.cycle + 1 } else p.2)) }, cs)

/-- What happens when nothing is due: the next firing of the cycle, or the end of the cycle. -/
def fireOrTick (run : Meaning) (s : State) : Host.Outcome State Fault Refusal :=
  let (s, cs) := s.choosing run
  match cs with
  | x :: rest =>
    (match handlerInstr ((s.el x.el).ctx x.ctx) x.hnd with
      | some i => if s.breaksAt x.el x.ctx x.hnd then .next ({ s with chosen := some (x :: rest) }.stopBefore x.el x.ctx x.hnd)
        else run i (prepareFiring { s with chosen := some rest } x)
      | none => .next { s with chosen := some rest })
  | [] => .next (tick s)

/-- What the outside does next: the Curator cluster's operation on a timeline goes ahead of a host's on it of the same cycle (R100). -/
def nextInput (i : Instr) (rest : List Instr) : Instr × List Instr :=
  match i with
  | .hostTimelineIncrement t _ =>
    let n := rest.findIdx (fun j => match j with | .kernelTimelineWrite u _ _ => u == t | _ => false)
    (match rest[n]? with
      | some j => (j, i :: rest.eraseIdx n)
      | none => (i, rest))
  | _ => (i, rest)

/-- One step: what the outside does, then a running Colophon, then what is due, then a firing, then the end of the cycle. A
stopped debugger holds all but the outside (R396). -/
def stepWith (run : Meaning) (s : State) : Host.Outcome State Fault Refusal :=
  match s.inputs with
  | i :: rest => run (nextInput i rest).1 { s with inputs := (nextInput i rest).2 }
  | [] =>
    if s.glaed.stopped then .next s
    else match readyColophon s with
    | some b => colophonStep run b s
    | none => match s.agenda with
      | (t, i) :: rest => if t ≤ s.cycle then run i { s with agenda := rest } else fireOrTick run s
      | [] => fireOrTick run s

end Sys2Proof.Machine
end

