-- ==== Sys2Proof/Machine/Place.lean ====
section
/-! DEFINITION. Where a word is put for the next step to fetch it: the load of a one-word program from outside. -/
namespace Sys2Proof.Machine

/-- A Colophon word at pc 0 of bay 0's Colophon, running, with nothing else due before it (R366, R367). -/
def placeColophonWord (s : State) (w : Nat) : State :=
  let b := s.bay 0
  { s with
    inputs := []
    glaed := { s.glaed with stopped := false }
    bays := AMap.put s.bays 0 { b with colophon := { b.colophon with
      program := AMap.put b.colophon.program 0 (BitVec.ofNat 32 w), pc := 0, ready := 0, run := true, halt := false } } }

/-- A live operand for handler 0 with the initial tag of frame 1. -/
def placedToken : QTok := ⟨⟨0, 0, true, .data, false, 0, 0, Tag.initial 1, []⟩, 0, false⟩

/-- The context that a placed handler word runs in: the word, a plane, and nothing under way. -/
def placedCtx (w : Nat) : ElCtx :=
  { ElCtx.empty with
    handlers := [(0, BitVec.ofNat 64 w)], plane := some 0, loan := some 1, triggers := [(0, Tag.initial 1)], latch := [0] }

/-- The plane of a placed handler: one operand on every port. -/
def placedPlane : Plane :=
  ⟨[(0, [placedToken]), (1, [placedToken]), (2, [placedToken]), (3, [placedToken])], [], some (1, 0)⟩

/-- A loan of one bay with nothing but its first activation and frame 1. -/
def placedLoan : Loan where
  slip := ⟨0, 1, 1, 0, 0, false, false, 0, 0, [], (0, 0), [], 0, 0, 0, 0, 0, false, 0xF, none⟩
  rel := (0, 0)
  die := 0
  nwb := 0
  w := 1
  h := 1
  ctx := 0
  ctxs := [0]
  state := .running
  placed := 0
  hit := false
  firstFrame := 1
  image := Image.empty
  images := []
  mapping := []
  firstLine := 0
  reserve := []
  annexRes := []
  parts := []
  storeSize := 0
  acts := [(0, ⟨0, 1, none, false, false, [], [], 0⟩)]
  nextAct := 1
  frames := [(1, ⟨0, 4096, Tag.zero, true, 0, 4, 0, 0, 0, false, none, 0, false, false, 0, [], [], none⟩)]
  nextFrame := 2
  allocs := 1
  waitingCall := false
  lastFiring := 0
  lastArrival := 0
  lastCandidate := 0
  lastEmpty := 0
  fired := false
  flights := []
  pends := []
  waves := []
  buffered := []
  commit := []
  releasing := []
  commitFree := 0
  kept := []
  sq := []
  sqPrior := []
  creditPrior := []
  claims := []
  barriers := []
  waits := 0
  launches := 0
  lock := false
  exits := []
  exitTaken := none
  looked := false
  drops := []
  calling := none
  thaw := none
  annexUsed := 0
  bayUsed := []
  fires := 0
  spills := 0
  planeSpills := 0
  chain := 0
  lastExit := 0
  byKernel := false
  saveFault := false
  restoreMark := false
  marked := []
  watchdog := false
  pinned := []
  ramps := []
  away := []
  switchers := []
  restorers := []

/-- The operands of a placed word whose `MODE` is not queue (R135, R139): as many as its `ARITY`, in port order. -/
def placedReady (w : Nat) : Ready := ⟨0, 0, (List.range (w / 2 ^ 52 % 4)).map (fun p => (p, placedToken.e)), Tag.initial 1⟩

/-- The accord of a placed word in accord mode: a cell with every word live for each port of its `ARITY` (R139). -/
def placedAccord (w : Nat) : ReadyAccord :=
  ⟨0, 0, 0, Tag.initial 1, (List.range (w / 2 ^ 52 % 4)).map (fun p =>
    (p, { Cell.blank with tag := Tag.initial 1, live := 0xFFFFFFFFFFFFFFFF#64, payload := List.replicate 256 0 })), []⟩

/-- A handler word in element 0, context 0, handler 0, in a loan of its own, with an operand on every port, a firing in the ready list, or
an accord, as its `MODE` asks, a start trigger, and nothing else due. -/
def placeHandlerWord (s : State) (w : Nat) : State :=
  let mode := w / 2 ^ 54 % 4
  { s with
    inputs := []
    agenda := []
    chosen := none
    glaed := { s.glaed with stopped := false }
    bays := AMap.upd (s.bays.map (fun (k, b) => (k, { b with colophon := { b.colophon with run := false } }))) Bay.empty 0
      (fun b => if mode = 2 then { b with readyAccords := [placedAccord w] } else b)
    els := AMap.put s.els 0 { Element.empty with
      ctxs := [(0, placedCtx w)]
      planes := [(0, if mode = 1 ∨ mode = 2 then { placedPlane with q := [] } else placedPlane)]
      ready := if mode = 1 then [placedReady w] else [] }
    loans := AMap.put s.loans 1 placedLoan }

end Sys2Proof.Machine
end

