-- ==== Sys2Proof/Machine/Step.lean ====
section
/-! DEFINITION. One step of the machine, and where a table word is put so that the next step runs it. -/
namespace Sys2Proof.Machine

/-- One step (see `stepWith`). -/
def step (s : State) : Host.Outcome State Fault Refusal := stepWith exec s

/-- The state with an instruction's word stored where the next step fetches it: a Colophon word in the program store of
bay 0's Colophon, which runs; a handler word in handler 0 of element 0's context 0, whose loan and operands are there. -/
def State.withFetchWord (s : State) (nbits w : Nat) : State :=
  if nbits = 32 then placeColophonWord s w else placeHandlerWord s w

end Sys2Proof.Machine
end

