-- ==== Sys2Proof/Safety.lean ====
section
/-! DEFINITION. What counts as a safe run, and the terms in which statements about the machine are made: an instruction that answers a
next state, a handler that issues with its operands at hand, and what its firing leaves behind. -/
namespace Sys2Proof.Machine

/-- Outcome of `k` steps is neither a fault nor a refusal. -/
def safeFor (s : State) : Nat → Prop
  | 0 => True
  | k + 1 => ∃ t, step s = .next t ∧ safeFor t k

/-- An instruction answers a next state with a property. -/
def Completes (i : Instr) (s : State) (post : State → Prop) : Prop := ∃ t, exec i s = .next t ∧ post t

/-! ### A firing -/

/-- The handler in focus issues with operands `g` (R126, R132, R302): its context runs, its element may fire, its operands meet without a
fault of their own, and a handler with `W` holds its credit. -/
structure Issues (s : State) (sh : Shape) (gath : State → FireCtx → Gather) (f : FireCtx) (g : Got) : Prop where
  runs : fireCtx? s = some f
  free : readyToFire s f sh = true
  meets : ∃ g0, gath s f = .ok g0 ∧ g = g0.descend s f sh
  clean : preFault f sh g = none
  credit : sh.h.fW = true → f.x.latch.contains f.hnd = true

/-- The operands meet as the word's `MODE` says (R132, R135, R139, R140). -/
def byMode (sh : Shape) : State → FireCtx → Gather := fun s f => gather? s f sh

/-- What a firing with an effect puts into its element's output buffers. -/
def emitted (s : State) (f : FireCtx) (sh : Shape) (eff : Eff) : List Emission :=
  emissions f sh.h.tagop false eff.outs ++ requestEmission f (eff.req.map (fun _ => s.nextId))

/-- The outputs of an effect can leave (R37, R48, R64, R126): it is no fault, `TAGOP` gives every output a tag, every output names
something that is there, and every buffer has room. -/
structure Goes (s : State) (f : FireCtx) (sh : Shape) (eff : Eff) : Prop where
  sound : eff.bad = none
  tags : eff.outs.all (fun o => (o.finalTag sh.h.tagop).isSome) = true
  targets : eff.outs.all (fun o => !o.badTarget f) = true
  room : roomFor s.cycle f.e (entriesNow (emitted s f sh eff)) = true

/-- The active plane that a firing leaves: without the operands that it took (R61, R131), with the working registers that it wrote. -/
def planeAfter (f : FireCtx) (g : Got) (eff : Eff) : Plane :=
  let pl := f.e.active f.ctx
  let pl := match eff.keep, g.src with
    | false, .queues takes => pl.take takes g.firstSticky
    | _, _ => pl
  eff.wW.foldl (fun pl w => { pl with w := AMap.put pl.w w.1 w.2 }) pl

/-- What a firing leaves at its element and everywhere else (R127, R131, R153, R186, R207): each output enters the pipeline for the
cycle at its latency; the flags, registers and operands that the instruction names have changed; the rest of the machine has not. -/
structure Fired (s t : State) (f : FireCtx) (sh : Shape) (g : Got) (eff : Eff) : Prop where
  pipeline : ∃ ps : List Pending, (t.el f.key).pending = f.e.pending ++ ps ∧
    (∀ d, (ps.filter (fun p => p.due == s.cycle + sh.latency + d)).flatMap Pending.emits =
      ((emitted s f sh eff).filter (fun e => e.delay == d)).map (fun e => (e.buf, e.flit))) ∧
    ps.flatMap Pending.accW = eff.accW ∧
    ps.filterMap Pending.post = (if sh.h.fP && !eff.ownPost then [⟨sh.sq, g.tag, g.prior⟩] else [])
  status : ((t.el f.key).ctx f.ctx).status = gather f.x.status eff.flags
  acc : ((t.el f.key).ctx f.ctx).acc = f.x.acc
  plane : f.x.plane.isSome = true → (t.el f.key).active f.ctx = planeAfter f g eff
  random : (t.el f.key).random = eff.rnd.getD f.e.random
  counted : t.fires = s.fires + 1
  request : t.accs = (match eff.req with | some a => AMap.put s.accs s.nextId { a with seq := s.nextId } | none => s.accs)
  otherContexts : ∀ c, c ≠ f.ctx → (t.el f.key).ctx c = f.e.ctx c
  otherElements : ∀ k, k ≠ f.key → t.el k = s.el k
  otherLoans : ∀ id, id ≠ f.id → AMap.find t.loans id = AMap.find s.loans id
  bays : (∀ i, g.src ≠ .accord i) → t.bays = s.bays
  memory : t.mem = s.mem ∧ t.tmem = s.tmem
  rest : t.cycle = s.cycle ∧ t.hub = s.hub ∧ t.xch = s.xch ∧ t.outgoing = s.outgoing ∧ t.trans = s.trans ∧ t.boot = s.boot ∧
    t.snaps = s.snaps ∧ t.glaed = s.glaed

/-- At a state, an instruction of an element fires with an effect whenever its handler issues, a condition of its own holds and its outputs
can leave; `after` is what it does beyond its element. -/
def FiresAt (i : Instr) (s : State) (sh : Shape) (gath : State → FireCtx → Gather) (cond : FireCtx → Got → Prop) (eff : FireCtx → Got → Eff)
    (after : FireCtx → Got → State → State) : Prop :=
  ∀ f g, Issues s sh gath f g → cond f g → Goes s f sh (eff f g) →
    Completes i s (fun t => ∃ u, Fired s u f sh g (eff f g) ∧ t = after f g u)

/-- An instruction fires so at every state. -/
def Fires (i : Instr) (sh : Shape) (gath : State → FireCtx → Gather) (eff : FireCtx → Got → Eff)
    (after : FireCtx → Got → State → State) : Prop :=
  ∀ s, FiresAt i s sh gath (fun _ _ => True) eff after

/-- One word for every destination that the word has. -/
def toAll (sh : Shape) (v : W32) : List (Dest × W32) := sh.dests.map (fun d => (d, v))

/-- An instruction whose result, with its flags, goes to every destination, and whose dead firing sends dead outputs (R141). -/
def Computes (i : Instr) (sh : Shape) (v : FireCtx → Got → W32 × Flags) : Prop :=
  Fires i sh (byMode sh) (fun f g => valueEff f g (toAll sh (v f g).1) (v f g).2) noAfter

/-- The result of an instruction of format "D, or I" from its two operands (R58), without flags. -/
def ComputesDI (i : Hdr → FDI → Instr) (lat : Nat) (v : Ty → W32 → W32 → W32) : Prop :=
  ∀ h b, Computes (i h b) (shapeDI h b lat) (fun _ g => (v h.ty (g.op 0) (operandB h b g), Flag.none))

/-- The result of an instruction of format D from its operands, without flags. -/
def ComputesD (i : Hdr → FD → Instr) (lat : Nat) (v : Ty → (Nat → W32) → W32) : Prop :=
  ∀ h b, Computes (i h b) (shapeD h b lat) (fun _ g => (v h.ty g.op, Flag.none))

/-- The result of an instruction of format I from its fields and operands, without flags. -/
def ComputesI (i : Hdr → FI → Instr) (lat : Nat) (v : Hdr → FI → (Nat → W32) → W32) : Prop :=
  ∀ h b, Computes (i h b) (shapeI h b lat) (fun _ g => (v h b g.op, Flag.none))

/-- The result and the flags of an instruction of format D, on the common arithmetic or on the iterative unit (R159). -/
def ComputesFloat (i : Hdr → FD → Instr) (lat : Nat) (iter : Bool) (v : Ty → (Nat → W32) → W32 × Flags) : Prop :=
  ∀ h b, Computes (i h b) { shapeD h b lat with iterative := iter } (fun _ g => v h.ty g.op)

/-- The result and the flags of an instruction that may draw `n` random numbers in stochastic mode (R151); only then, and only in a live
firing, the element's random state advances. -/
def Draws (i : Instr) (sh : Shape) (mode n : Nat) (v : FireCtx → Got → List Nat → W32 × Flags) : Prop :=
  Fires i sh (byMode sh) (fun f g =>
    let d := randomDraws n f.e.random
    { valueEff f g (toAll sh (v f g d.1).1) (v f g d.1).2 with rnd := if g.live && mode == 4 then some d.2 else none }) noAfter

/-- An output that comes later than its firing has a tag and a place to go (R37, R48). -/
def LateOk (f : FireCtx) (g : Got) (h : Hdr) (d : Dest) : Prop :=
  ((Out.std f g d 0).finalTag h.tagop).isSome = true ∧ (Out.std f g d 0).badTarget f = false

/-! ### Memory -/

/-- The effect of a memory handler's firing: one request in its memory buffer, a skip when the firing is dead (R141, R245, R280). -/
def requestEff (f : FireCtx) (g : Got) (h : Hdr) (b : FM) (w : Window) (kind : AccKind) (out : Tag) (m : MemAsk) (o : Bool) : Eff :=
  { Eff.none with
    req := some (memRequest f g h b w kind out m.op (if g.live then m.off else (g.op 0).toNat) o)
    ownPost := true }

/-- The shape of a memory handler at a state: the sync queue of `P` and `W` is that of its attribute entry (R67). -/
def memShape (s : State) (b : FM) (sh : Shape) : Shape := { sh with sq := memSq s b }

/-- A memory handler whose operands are neither refused, misaligned nor outside their windows places its request (R245, R280). -/
def Requests (i : Instr) (sh : Shape) (h : Hdr) (b : FM) (kind : AccKind) (o : Bool) (ask : FireCtx → Got → Window → MemAsk) : Prop :=
  ∀ s f g w out, Issues s (memShape s b sh) (byMode (memShape s b sh)) f g → f.l.windowAt f.ctx b.window.toNat = some w →
    applyTagop h.tagop f.info.depth true g.tag = some out →
    (g.live = true → (ask f g w).illegal = false ∧ (ask f g w).fault = none) →
    Goes s f (memShape s b sh) (requestEff f g h b w kind out (ask f g w) o) →
    Completes i s (fun t => Fired s t f (memShape s b sh) g (requestEff f g h b w kind out (ask f g w) o))

/-- A live firing of a memory handler whose offset is misaligned or outside its window places no request and takes the fault (R280). -/
def FaultsAtElement (i : Instr) (sh : Shape) (h : Hdr) (b : FM) (kind : AccKind) (o : Bool) (ask : FireCtx → Got → Window → MemAsk) : Prop :=
  ∀ s f g w out code off, Issues s (memShape s b sh) (byMode (memShape s b sh)) f g → f.l.windowAt f.ctx b.window.toNat = some w →
    applyTagop h.tagop f.info.depth true g.tag = some out → g.live = true →
    (ask f g w).illegal = false → (ask f g w).fault = some (code, off) →
    Goes s f (memShape s b sh) { Eff.none with ownPost := true } →
    Completes i s (fun t => ∃ u, Fired s u f (memShape s b sh) g { Eff.none with ownPost := true } ∧
      t = memFault f g (memRequest f g h b w kind out (ask f g w).op (ask f g w).off o) w code off u)

/-! ### A Colophon -/

/-- Nothing but one bay, and what is due, has changed. -/
structure OnlyBay (s t : State) (bay : Nat) : Prop where
  others : ∀ b, b ≠ bay → t.bay b = s.bay b
  elements : t.els = s.els ∧ t.loans = s.loans ∧ t.accs = s.accs
  memory : t.mem = s.mem ∧ t.tmem = s.tmem
  rest : t.cycle = s.cycle ∧ t.focus = s.focus ∧ t.hub = s.hub ∧ t.xch = s.xch ∧ t.trans = s.trans ∧ t.boot = s.boot

/-- A Colophon goes on to its next instruction with a register written (R366, R368, R371): `e0` reads zero, the flags gather, and its
port, its program and everything outside it are as before. -/
structure ColWrote (s t : State) (rd : BitVec 4) (cost : Nat) (v : W32) (fl : Flags) : Prop where
  regs : ∀ r, t.col.reg r = if r = rd ∧ rd ≠ 0 then v else s.col.reg r
  pc : t.col.pc = s.col.pc + 1 ∧ t.col.ready = s.cycle + cost
  flags : t.col.flg = s.col.flg ||| colophonFlags fl
  same : t.col.run = s.col.run ∧ t.col.halt = s.col.halt ∧ t.col.port = s.col.port ∧ t.col.popped = s.col.popped ∧
    t.col.program = s.col.program
  rest : OnlyBay s t s.focus.bay

/-- A Colophon instruction writes a register where the program goes on to a next word. -/
def ColWrites (i : Instr) (s : State) (rd : BitVec 4) (cost : Nat) (v : W32) (fl : Flags) : Prop :=
  s.col.pc + 1 < 1024 → Completes i s (fun t => ColWrote s t rd cost v fl)

/-- A Colophon has halted with an error (R368, R370): no effect, `PC` at the instruction, `HCODE` zero. -/
structure ColHalted (s t : State) (code : BitVec 4) : Prop where
  status : t.col.run = false ∧ t.col.halt = true ∧ t.col.err = true ∧ t.col.ecode = code
  pc : t.col.haltPc = BitVec.ofNat 10 s.col.pc ∧ t.col.hcode = 0
  regs : ∀ r, t.col.reg r = s.col.reg r
  rest : OnlyBay s t s.focus.bay

/-! ### Events -/

/-- A fault record of a code stands with the hub, or waits for room there (R30, R339). -/
def Recorded (t : State) (code : Nat) (tag : Tag) : Prop :=
  ∃ r ∈ t.hub.store ++ t.hub.blocked, r.code = BitVec.ofNat 8 code ∧ r.tag = Tag.bits tag

/-- Whether what a firing sends passes an output buffer on its way (R127): a token, a write into a frame slot, or a request. -/
def Emit.buffered : Emit → Bool
  | .token _ | .slotWrite .. | .request _ => true
  | _ => false

end Sys2Proof.Machine
end

