-- ==== Sys2Proof/Certificates/Slice0/Obligations.lean ====
section
/-! DEFINITION. The statements about the machine, for the provers: what every step does, each from the numbered rules of the spec. -/

open Sys2Proof Sys2Proof.Machine

/-! ### Instructions of an element: what a firing sends -/

/-- R161: the two-input integer instructions, lane by lane, each modulo 2^w in its lane; a clamped sum lies in the lane's range. -/
def Obligations.TwoInputIntegers : Prop :=
  ∀ (i : Hdr → FDI → Instr) (lat : Nat) (lane : Ty → Int → Int → Int),
    (i, lat, lane) ∈ ([(.iadd, 1, fun _ x y => x + y), (.isub, 1, fun _ x y => x - y), (.imul, 3, fun _ x y => x * y),
      (.imulh, 3, fun t x y => x * y / 2 ^ t.width), (.imin, 1, fun _ x y => if x ≤ y then x else y),
      (.imax, 1, fun _ x y => if x ≤ y then y else x),
      (.iadds, 1, fun t x y => if x + y < laneLo t then laneLo t else if laneHi t < x + y then laneHi t else x + y),
      (.isubs, 1, fun t x y => if x - y < laneLo t then laneLo t else if laneHi t < x - y then laneHi t else x - y)] :
      List ((Hdr → FDI → Instr) × Nat × (Ty → Int → Int → Int))) →
    ∃ v : Ty → W32 → W32 → W32, ComputesDI i lat v ∧ ∀ t ∈ tyInt, ∀ (a b : W32) (k : Nat), k < t.lanes →
      (laneOf (v t a b) t.width k : Int) = lane t (laneInt t (laneOf a t.width k)) (laneInt t (laneOf b t.width k)) % 2 ^ t.width

/-- R163: the one-input integer instructions, lane by lane, and the types that they take. -/
def Obligations.OneInputIntegers : Prop :=
  (∀ (op : Nat) (ts : List Ty), (op, ts) ∈ [(0x05, tyInt), (0x06, tyInt), (0x10, tyIntB), (0x15, tyIntB), (0x16, tyIntB), (0x17, tyIntB)] →
    (rowOf op).map Row.types = some ts) ∧
  ∀ (i : Hdr → FD → Instr) (lane : Ty → Nat → Nat → Prop),
    (i, lane) ∈ ([(.ineg, fun t x y => (y : Int) = (0 - laneInt t x) % 2 ^ t.width),
      (.iabs, fun t x y => (y : Int) = (if laneInt t x < 0 then -laneInt t x else laneInt t x) % 2 ^ t.width),
      (.not, fun t x y => ∀ k, k < t.width → y.testBit k = !x.testBit k),
      (.clz, fun t x y => if x = 0 then y = t.width else y < t.width ∧ 2 ^ (t.width - 1 - y) ≤ x ∧ x < 2 ^ (t.width - y)),
      (.popc, fun t x y => y = ((List.range t.width).filter (fun k => x.testBit k)).length),
      (.brev, fun t x y => ∀ k, k < t.width → y.testBit k = x.testBit (t.width - 1 - k))] :
      List ((Hdr → FD → Instr) × (Ty → Nat → Nat → Prop))) →
    ∃ v : Ty → W32 → W32, ComputesD i 1 (fun t o => v t (o 0)) ∧
      ∀ t ∈ tyIntB, ∀ (a : W32) (k : Nat), k < t.lanes → lane t (laneOf a t.width k) (laneOf (v t a) t.width k)

/-- R165: the bitwise operations on whole words, and the shifts and the rotation bit by bit in each lane, by the count's lane modulo the
lane's width. -/
def Obligations.BitsAndShifts : Prop :=
  (∀ op ∈ [0x0C, 0x0D, 0x0E, 0x0F, 0x11, 0x12, 0x13, 0x14], (rowOf op).map Row.types = some tyIntB) ∧
  (ComputesDI .and 1 (fun _ a b => a &&& b) ∧ ComputesDI .or 1 (fun _ a b => a ||| b) ∧ ComputesDI .xor 1 (fun _ a b => a ^^^ b) ∧
    ComputesDI .andn 1 (fun _ a b => a &&& ~~~b)) ∧
  (∀ (h : Hdr) (x : FI) (g : Got), h.ty = .i8x4 → h.fP = false → h.fW = false → ∀ k, k < 4 →
    laneOf (operandB h (.i x) g) 8 k = (x.imm.extractLsb' 0 8).toNat) ∧
  ∀ (i : Hdr → FDI → Instr) (bit : Nat → Nat → Nat → Nat → Bool),
    (i, bit) ∈ ([(.shl, fun _ x n k => decide (n ≤ k) && x.testBit (k - n)), (.shr, fun w x n k => decide (k + n < w) && x.testBit (k + n)),
      (.shra, fun w x n k => x.testBit (if k + n < w then k + n else w - 1)), (.rotl, fun w x n k => x.testBit ((k + w - n) % w))] :
      List ((Hdr → FDI → Instr) × (Nat → Nat → Nat → Nat → Bool))) →
    ∃ v : Ty → W32 → W32 → W32, ComputesDI i 1 v ∧ ∀ t ∈ tyIntB, ∀ (a b : W32) (j k : Nat), j < t.lanes → k < t.width →
      (laneOf (v t a b) t.width j).testBit k = bit t.width (laneOf a t.width j) (laneOf b t.width j % t.width) k

/-- R162, R164, R166, R167: products with a sum, clamps, carries, comparisons, bit fields and scaled addresses. `IADDC` sends its sum and
its carry. -/
def Obligations.IntegersAndFields : Prop :=
  (ComputesD .imad 3 (fun t o => aluImad t (o 0) (o 1) (o 2)) ∧ ComputesD .iclamp 1 (fun t o => aluIclamp t (o 0) (o 1) (o 2))) ∧
  (∀ h b, Fires (.iaddc h b) (shapeD h b 1) (byMode (shapeD h b 1)) (fun f g => valueEff f g
    ((b.d0, aluIaddcSum h.ty (g.op 0) (g.op 1) (g.op 2)) ::
      (dest1Of b).toList.map (fun d => (d, aluIaddcCarry h.ty (g.op 0) (g.op 1) (g.op 2)))) Flag.none) noAfter) ∧
  (ComputesI .bfx 1 (fun h b o => aluBfx h.ty (immBits b.imm 0 5) (immBits b.imm 5 5) (o 0)) ∧
    ComputesI .bfi 1 (fun _ b o => aluBfi (immBits b.imm 0 5) (immBits b.imm 5 5) (o 0) (o 1)) ∧
    ComputesI .lea 1 (fun _ b o => o 0 + (o 1 <<< immBits b.imm 0 3))) ∧
  ComputesI .icmp 1 (fun h b o => aluIcmp h.ty (immBits b.imm 0 4) (o 0) (if h.fI then icmpImm h b else o 1)) ∧
  (∀ t ∈ tyInt, ∀ (a b c : W32) (k : Nat), k < t.lanes →
    let x := laneOf a t.width k
    let y := laneOf b t.width k
    let z := laneOf c t.width k
    (laneOf (aluImad t a b c) t.width k : Int) = (laneInt t x * laneInt t y + laneInt t z) % 2 ^ t.width ∧
    laneOf (aluIaddcSum t a b c) t.width k = (x + y + z % 2) % 2 ^ t.width ∧ laneOf (aluIaddcCarry t a b c) t.width k = (x + y + z % 2) / 2 ^ t.width ∧
    (laneInt t z < laneInt t y → laneOf (aluIclamp t a b c) t.width k = z) ∧
    (aluIcmp t 2 a b).getLsbD k = decide (laneInt t x < laneInt t y) ∧ (aluIcmp t 6 a b).getLsbD k = decide (x < y))

/-- R168 to R170: cell keys of two or three coordinates, hashed keys, and neighbour keys, which are dead outside a grid that does not
wrap. -/
def Obligations.SpatialKeys : Prop :=
  (∀ h b, Computes (.cellkey h b) (shapeI h b 2) (fun _ g =>
    aluCellkey h.ty (immBits b.imm 0 5) (cellScale h.ty b) (immBits b.imm 11 1 == 1)
      (if h.arity = 3 then [g.op 0, g.op 1, g.op 2] else [g.op 0, g.op 1]))) ∧
  ComputesI .cellhash 2 (fun _ b o => (o 0 * 0x9E3779B1#32) >>> (32 - immBits b.imm 0 5)) ∧
  (∀ h b s, ∀ key : Got → W32 × Bool, FiresAt (.nbrkey h b) s (shapeI h b 2) (byMode (shapeI h b 2))
    (fun _ g => g.live = true ∧
      aluNbrkey (immBits b.imm 0 5) (immBits b.imm 5 1 == 1) (immBits b.imm 6 1 == 1) (g.op 0) (g.op 1) = some (key g))
    (fun f g => { Eff.none with outs := [{ Out.std f g b.d0 (key g).1 with pred := (key g).2 }] }) noAfter)

/-- R171 to R176, R182: floating point, each result rounded once with its flags; the iterative unit does five of them (R159). Model's choices: log 11, 13, 14. -/
def Obligations.FloatArithmetic : Prop :=
  (∀ h b, Computes (.fadd h b) (shapeDI h b 3) (fun _ g => aluFadd h.ty (g.op 0) (operandB h b g))) ∧
  (∀ h b, Computes (.fsub h b) (shapeDI h b 3) (fun _ g => aluFsub h.ty (g.op 0) (operandB h b g))) ∧
  (∀ h b, Computes (.fmul h b) (shapeDI h b 3) (fun _ g => aluFmul h.ty (g.op 0) (operandB h b g))) ∧
  (∀ h b, Computes (.fmin h b) (shapeDI h b 1) (fun _ g => aluFmin h.ty (g.op 0) (operandB h b g))) ∧
  (∀ h b, Computes (.fmax h b) (shapeDI h b 1) (fun _ g => aluFmax h.ty (g.op 0) (operandB h b g))) ∧
  (∀ h b, Computes (.fscale h b) (shapeDI h b 2) (fun _ g => aluFscale h.ty (g.op 0) (operandB h b g))) ∧
  (∀ h b, Computes (.fcmp h b) (shapeI h b 1) (fun _ g => aluFcmp h.ty (immBits b.imm 0 4) (g.op 0) (g.op 1))) ∧
  (ComputesFloat .ffma 4 false (fun t o => aluFfma t (o 0) (o 1) (o 2)) ∧ ComputesFloat .fdot2 4 false (fun t o => aluFdot2 t (o 0) (o 1) (o 2))) ∧
  (ComputesFloat .fabs 1 false (fun t o => aluFabs t (o 0)) ∧ ComputesFloat .fneg 1 false (fun t o => aluFneg t (o 0)) ∧
    ComputesFloat .fclass 1 false (fun t o => aluFclass t (o 0))) ∧
  (ComputesFloat .frcp 8 true (fun t o => aluFrcp t (o 0)) ∧ ComputesFloat .frsq 8 true (fun t o => aluFrsq t (o 0)) ∧
    ComputesFloat .fexp2 10 true (fun t o => aluFexp2 t (o 0)) ∧ ComputesFloat .flog2 10 true (fun t o => aluFlog2 t (o 0)) ∧
    ComputesFloat .fsqrt 12 true (fun t o => aluFsqrt t (o 0)))

/-- R151, R177 to R181, R183: rounding and conversions with their random draws, packing, and `SEED`, which writes the random state, 1
for 0. Model's choices: log 10, 11, 12. -/
def Obligations.Conversions : Prop :=
  (∀ h b, Draws (.fround h b) (shapeI h b 2) (immBits b.imm 0 3) h.ty.lanes (fun _ g rs => aluFround h.ty (immBits b.imm 0 3) rs (g.op 0))) ∧
  (∀ h b, Draws (.fcvt h b) (shapeI h b 2) (immBits b.imm 4 3) (convLanes h.ty (fieldTy b)) (fun _ g rs =>
    aluConvert h.ty (fieldTy b) (immBits b.imm 4 3) (immBits b.imm 7 1 == 1) rs (g.op 0))) ∧
  (∀ h b, Draws (.ftoi h b) (shapeI h b 2) (immBits b.imm 4 3) (convLanes h.ty (fieldTy b)) (fun _ g rs =>
    aluConvert h.ty (fieldTy b) (immBits b.imm 4 3) (immBits b.imm 7 1 == 1) rs (g.op 0))) ∧
  (∀ h b, Draws (.itof h b) (shapeI h b 2) (immBits b.imm 4 3) (convLanes h.ty (fieldTy b)) (fun _ g rs =>
    aluConvert h.ty (fieldTy b) (immBits b.imm 4 3) false rs (g.op 0))) ∧
  (∀ h b, Draws (.qpack h b) (shapeI h b 2) (immBits b.imm 4 3) 1 (fun _ g rs =>
    aluQpack (fieldTy b) (immBits b.imm 4 3) (immBits b.imm 7 1 == 1) (rs.getD 0 0) (g.op 0) (g.op 1))) ∧
  (∀ h b, Computes (.qunpk h b) (shapeI h b 1) (fun _ g => aluQunpk h.ty (fieldTy b) (immBits b.imm 4 3) (g.op 0))) ∧
  (∀ h b, Fires (.seed h b) (shapeD h b 1) (byMode (shapeD h b 1)) (fun f g =>
    { valueEff f g (toAll (shapeD h b 1) (g.op 0)) Flag.none with rnd := if g.live then some (if g.op 0 = 0 then 1 else g.op 0) else none })
    noAfter)

/-- R184 to R188: moves, immediates, working registers, liveness and streams. A stream keeps its operand until its last position. -/
def Obligations.MovesAndStreams : Prop :=
  (ComputesD .mov 1 (fun _ o => o 0) ∧ ComputesD .sel 1 (fun _ o => if o 0 ≠ 0 then o 1 else o 2)) ∧
  (ComputesI .movi 1 (fun _ b _ => signExtend32 20 b.imm.toNat) ∧ ComputesI .const 1 (fun _ b _ => signExtend32 20 b.imm.toNat) ∧
    ComputesI .movhi 1 (fun _ b o => (b.imm.setWidth 32 <<< 12) ||| (o 0 &&& 0xFFF))) ∧
  (∀ h b, Fires (.sink h b) { shapeD h b 1 with eosTo := [], dests := [] } (byMode (shapeD h b 1)) (fun _ _ => Eff.none) noAfter) ∧
  (∀ h b, Fires (.getw h b) (shapeI h b 1) (byMode (shapeI h b 1)) (fun f g =>
    valueEff f g [(b.d0, AMap.get (f.e.active f.ctx).w 0 (immBits b.imm 0 3))] Flag.none) noAfter) ∧
  (∀ h b, Fires (.setw h b) (shapeI h b 1) (byMode (shapeI h b 1)) (fun f g =>
    { valueEff f g [(b.d0, g.op 0)] Flag.none with wW := if g.live then [(immBits b.imm 0 3, g.op 0)] else [] }) noAfter) ∧
  (∀ h b s, FiresAt (.live h b) s (shapeD h b 1) (byMode (shapeD h b 1)) (fun _ g => g.live = true) (fun f g =>
    { Eff.none with outs := (stdOuts f g (toAll (shapeD h b 1) (g.op 1))).map (fun o => { o with pred := g.op 0 != 0 }) }) noAfter) ∧
  (∀ h b, Fires (.islive h b) (shapeD h b 1) (byMode (shapeD h b 1)) (fun f g =>
    { Eff.none with outs := stdOuts f g (toAll (shapeD h b 1) (if g.live then 1 else 0)) }) noAfter) ∧
  (∀ h b, Fires (.count h b) (shapeI h b 1) (byMode (shapeI h b 1)) (fun f g => streamEff f g h b id) noAfter) ∧
  (∀ h b, Fires (.stride h b) (shapeI h b 1) (byMode (shapeI h b 1)) (fun f g => streamEff f g h b (fun k => k * g.op 1)) noAfter)

/-- R193 to R197, R201: steering by a condition or an index, merging, gating and priming. Steering takes `CONT` of operand `b`; a merge
passes one token on; `MERGEO` passes the iteration at its order point (R192). Model's choices: log 26. -/
def Obligations.SteeringAndMerging : Prop :=
  (∀ h b s, FiresAt (.steer h b) s { shapeD h b 1 with eosTo := (shapeD h b 1).dests } (byMode (shapeD h b 1)) (fun _ g => g.live = true)
    (fun f g => { Eff.none with outs := [{ Out.std f g (if g.op 0 != 0 then b.d0 else (dest1Of b).getD .sink) (g.op 1) with
      cont := contB g, taken := g.op 0 != 0 }] }) noAfter) ∧
  (∀ h b s, FiresAt (.steerx h b) s
    { shapeI h b 1 with eosTo := (List.range (immBits b.imm 6 3 + 1)).map (steerxArm b), dests := [] } (byMode (shapeI h b 1))
    (fun _ g => g.live = true ∧ (g.op 0).toNat ≤ immBits b.imm 6 3)
    (fun f g => { Eff.none with outs :=
      [{ Out.std f g (steerxArm b (g.op 0).toNat) (g.op 1) with cont := contB g, taken := g.op 0 == 0 }] }) noAfter) ∧
  (∀ h b, Fires (.merge h b) (shapeD h b 1) gatherMerge (mergeEff (shapeD h b 1)) noAfter) ∧
  (∀ h b, Fires (.mergeo h b) (shapeD h b 1) gatherMergeo (mergeEff (shapeD h b 1)) passOwn) ∧
  ComputesD .gate 1 (fun _ o => o 0) ∧
  ComputesI .prime 1 (fun _ b _ => signExtend32 20 b.imm.toNat)

/-- R198 to R200: `LOOPIN` from port `a` begins iteration 0 and from port `b` keeps the iteration, in a tag one level deeper; `NEXT`
counts the innermost field on; `LOOPOUT` clears it and sends at the depth outside; `BOUND` passes what lies within its bound. Model's choices: log 132. -/
def Obligations.Loops : Prop :=
  (∀ h b s, ∀ t : FireCtx → Got → Tag, FiresAt (.loopin h b) s { shapeI h b 1 with ports := [0, 1] }
    (gatherLoopin h.tagop (immBits b.imm 0 7))
    (fun f g => applyTagop h.tagop (f.info.depth + 1) true (loopinTag f.info.depth g.port g.tag) = some (t f g) ∧
      (g.port == 1 && f.l.entered f.info.own f.info.depth f.hkey (t f g)) = false ∧ f.l.logFull f.info.own f.info.depth (t f g) = false ∧
      g.ops ≠ [])
    (fun f g =>
      let q := match g.ops with | (_, q) :: _ => q | [] => mkEntry 0 0 .data false 0 0 g.tag
      let v := if g.live then q.operand else 0
      { Eff.none with
        outs := [⟨b.d0, v, g.live, .data, g.cont, loopinTag f.info.depth g.port g.tag, f.info.depth + 1, true, false, 0, g.prior⟩]
        loan := some (f.l.enterLoop f.info.own f.info.depth f.hkey (t f g) { q with tag := t f g, operand := v, pred := g.live, prior := g.prior }) })
    noAfter) ∧
  (∀ h b, Fires (.next h b) (shapeD h b 1) (byMode (shapeD h b 1)) (fun f g =>
    let e := valueEff f g (toAll (shapeD h b 1) (g.op 0)) Flag.none
    { e with outs := e.outs.map (fun o => { o with tag := g.tag.setIt (f.info.depth - 1) (g.tag.it (f.info.depth - 1) + 1) }) }) noAfter) ∧
  (∀ h b, Fires (.loopout h b) (shapeD h b 1) (byMode (shapeD h b 1)) (fun f g =>
    let e := valueEff f g (toAll (shapeD h b 1) (g.op 0)) Flag.none
    { e with outs := e.outs.map (fun o => { o with tag := g.tag.setIt (f.info.depth - 1) 0, depth := f.info.depth - 1 }) })
    (fun f g s => s.updLoan f.id (fun l => l.setPass f.info.loop f.info.depth g.tag
      (match AMap.find f.img.loops f.info.loop with | some i => i.points | none => [])))) ∧
  (∀ h b s, FiresAt (.bound h b) s (shapeI h b 1) (byMode (shapeI h b 1))
    (fun f g => ∃ o, oldestIter (f.l.inflight f.info.loop g.tag.frame.toNat (g.tag.its (f.info.depth - 1))) = some o ∧
      (f.l.inflight f.info.loop g.tag.frame.toNat (g.tag.its (f.info.depth - 1))).contains (g.tag.it (f.info.depth - 1)).toNat = true ∧
      (g.tag.it (f.info.depth - 1) - BitVec.ofNat 7 o).toNat < immBits b.imm 0 7)
    (fun f g => valueEff f g [(b.d0, g.op 0)] Flag.none) noAfter)

/-- R202 to R206: `CALLF` gives its operands a frame of their own, in the initial tag of that frame; `RETF` sends the result through the
frame's return continuation in the caller's tag and releases the frame; tags are read and replaced; `EXIT` sends an exit token and
`ENDS` an end of stream. Model's choices: log 16, 23, 24, 133. -/
def Obligations.FramesAndTags : Prop :=
  (∀ h b s f, fireCtx? s = some f → ∀ t : Got → Tag, ∀ fr : Got → Nat × Loan,
    FiresAt (.callf h b) s { shapeI h b (6 + f.l.hops f.b) with eosTo := [], dests := [.cont (b.imm.extractLsb' 0 6)] } (byMode (shapeI h b 1))
    (fun f g => g.live = true ∧ applyTagop h.tagop f.info.depth true g.tag = some (t g) ∧
      f.l.allocFrame f.img (f.l.ownImage f.ctx) (immBits b.imm 6 4) (match f.l.running f.ctx with | some (a, _) => a | none => 0) false (t g)
        (b.imm.extractLsb' 0 6) (handlerIters f.img f.hkey g.tag) s.cycle = some (fr g))
    (fun f g => { Eff.none with
      outs := callfOuts b h.arity.toNat (fr g).1 g
      loan := some ((fr g).2.addPend (handlerIters f.img f.hkey g.tag) 1) })
    (fun f g s => if g.live then (match AMap.find s.loans f.id with
      | some l => (match l.frames.find? (fun x => x.2.aseq == l.allocs) with
        | some (id, _) => s.startTriggers f.id f.ctx (Tag.initial id)
        | none => s)
      | none => s) else s)) ∧
  (∀ h b s f, fireCtx? s = some f → ∀ fr : Got → Frame,
    FiresAt (.retf h b) s { shapeD h b (6 + f.l.hops f.b) with eosTo := [], dests := [] } (byMode (shapeD h b 1))
    (fun f g => AMap.find f.l.frames g.tag.frame.toNat = some (fr g) ∧ (fr g).released = false ∧ (fr g).first = false)
    (fun f g => { Eff.none with outs :=
      [{ (if g.live then Out.std f g (.cont (fr g).rcont) (g.op 0) else Out.dead f g (.cont (fr g).rcont)) with tag := (fr g).caller }] })
    (fun f g s => s.releaseFrame f.id g.tag.frame.toNat f.b)) ∧
  (∀ h b, Fires (.tagrd h b) (shapeD h b 1) (byMode (shapeD h b 1)) (fun f g => valueEff f g
    ((b.d0, (Tag.bits g.tag).extractLsb' 32 32) :: (dest1Of b).toList.map (fun d => (d, (Tag.bits g.tag).extractLsb' 0 32))) Flag.none) noAfter) ∧
  (∀ h b s, ∀ t t' : FireCtx → Got → Out → Tag, FiresAt (.tagwr h b) s (shapeD h b 1) (byMode (shapeD h b 1))
    (fun f g => g.live = true ∧ ∀ o ∈ stdOuts f g (toAll (shapeD h b 1) (g.op 0)),
      applyTagop h.tagop f.info.depth o.taken o.tag = some (t f g o) ∧ tagwrTag (g.op 1) (t f g o) = some (t' f g o))
    (fun f g => { Eff.none with outs := (stdOuts f g (toAll (shapeD h b 1) (g.op 0))).map (fun o => { o with tag := t' f g o, raw := true }) })
    noAfter) ∧
  (∀ h b, Fires (.exit h b) { shapeD h b 1 with eosTo := [], dests := [] } (byMode (shapeD h b 1)) (fun f g =>
    { Eff.none with outs := if g.live then [{ Out.std f g b.d0 0 with kind := .exit, raw := true }] else [] }) noAfter) ∧
  (∀ h b, Fires (.ends h b) { shapeD h b 1 with eosTo := (shapeD h b 1).dests } (byMode (shapeD h b 1)) (fun f g =>
    { Eff.none with outs := (stdOuts f g (toAll (shapeD h b 1) (g.op 0))).map (fun o => { o with kind := .eos, pred := g.live }) }) noAfter)

/-- R207 to R212: accumulators are read at the firing and written at its latency; `ACCRD` sends a run of them, one a cycle; exact groups
gather and round once; the tournaments send the winner and its index. Model's choices: log 22, 27. -/
def Obligations.AccumulatorsAndTournaments : Prop :=
  (∀ h b, ∀ i : Hdr → FI → Instr, ∀ lat, ∀ op : W32 → W32 → W32 × Flags,
    (i, lat, op) ∈ ([(.accadd, if h.ty = .f32 then 3 else 1, fun x a => if h.ty = .f32 then aluFadd .f32 x a else (x + a, Flag.none)),
      (.accmax, 1, fun x a => if h.ty = .f32 then aluFmax .f32 x a else (aluImax h.ty x a, Flag.none)),
      (.accscl, 3, fun x a => if h.ty = .f32 then aluFmul .f32 x a else (x * a, Flag.none))] : List ((Hdr → FI → Instr) × Nat × _)) →
    Fires (i h b) { shapeI h b lat with accs := [immBits b.imm 0 6] } (byMode (shapeI h b lat)) (fun f g =>
      let r := op (AMap.get f.x.acc 0 (immBits b.imm 0 6)) (g.op 0)
      { valueEff f g [(b.d0, r.1)] r.2 with accW := if g.live then [(immBits b.imm 0 6, r.1)] else [] }) noAfter) ∧
  (∀ h b, Fires (.accrd h b) { shapeI h b 1 with accs := accRun b } (byMode (shapeI h b 1)) (fun f g =>
    { Eff.none with outs := (accRun b).zipIdx.map (fun p =>
      { (if g.live then Out.std f g b.d0 (AMap.get f.x.acc 0 p.1) else Out.dead f g b.d0) with delay := p.2 }) }) noAfter) ∧
  (∀ h b, Fires (.accz h b) { shapeI h b 1 with accs := accRun b, accOnly := true } (byMode (shapeI h b 1)) (fun f g =>
    { valueEff f g [(b.d0, g.op 0)] Flag.none with accW := if g.live then (accRun b).map (fun n => (n, 0)) else [] }) noAfter) ∧
  (∀ h b, Fires (.ordred h b) { shapeI h b 3 with accs := [immBits b.imm 0 6] } (byMode { shapeI h b 3 with accs := [immBits b.imm 0 6] }) (fun f g =>
    let r := aluFadd .f32 (AMap.get f.x.acc 0 (immBits b.imm 0 6)) (g.op 0)
    { valueEff f g [(b.d0, r.1)] r.2 with accW := if g.live then [(immBits b.imm 0 6, r.1)] else [] })
    (fun f g s => passOwn f g (s.clearSlot f.id g.tag.frame.toNat f.b (slotBase f.info g.tag)))) ∧
  (∀ h b, Fires (.xacc h b) { shapeI h b 2 with accs := groupAccs (immBits b.imm 0 6) } (byMode (shapeI h b 2)) (fun f g =>
    let accs := groupAccs (immBits b.imm 0 6)
    let r := (List.range h.ty.lanes).foldl (fun (p : Int × Flags) i =>
      ((xaccAdd p.1 (laneFV h.ty (g.op 0) i)).1, p.2 ||| (xaccAdd p.1 (laneFV h.ty (g.op 0) i)).2))
      (groupInt (accs.map (fun n => AMap.get f.x.acc 0 n)), Flag.none)
    { valueEff f g [(b.d0, g.op 0)] r.2 with accW := if g.live then accs.zip (groupWords r.1) else [] }) noAfter) ∧
  (∀ h b, Fires (.xrnd h b) { shapeI h b 3 with accs := groupAccs (immBits b.imm 0 6) } (byMode (shapeI h b 3)) (fun f g =>
    let d := randomDraws 1 f.e.random
    let r := (if immBits b.imm 6 1 = 1 then bf16 else fp32).write (immBits b.imm 7 3) (d.1.getD 0 0) false
      (ofScaled (groupInt ((groupAccs (immBits b.imm 0 6)).map (fun n => AMap.get f.x.acc 0 n))) (-128))
    { valueEff f g [(b.d0, BitVec.ofNat 32 r.1)] r.2 with rnd := if g.live && immBits b.imm 7 3 == 4 then some d.2 else none }) noAfter) ∧
  (∀ h b, Fires (.cfwd h b) (shapeTournament h b 1) (byMode (shapeTournament h b 1)) (fun f g => tournamentEff f g b (g.op 0) (g.op 2)) noAfter) ∧
  (∀ h b s, FiresAt (.cfwdx h b) s (shapeTournament h b 4) (byMode (shapeTournament h b 4))
    (fun f g => maskAwaited s f g g.tag.frame.toNat = false ∧ (g.live = true → (g.op 1).toNat < 256 ∧ (g.op 3).toNat < 256))
    (fun f g => tournamentEff f g b (if excluded f g.tag.frame.toNat (g.op 1) then 0xFF800000#32 else g.op 0)
      (if excluded f g.tag.frame.toNat (g.op 3) then 0xFF800000#32 else g.op 2)) noAfter)

/-- R214, R215, R235, R283 to R288, R290 to R292, R296: loads, stores, prefetch, the sillage, atomics, the cell instructions, `MXLDACC` and `DLAY`
place one request for the wave (R245). An access that is aligned and lies in its window needs
no more (R280). Model's choices: log 142. -/
def Obligations.MemoryRequests : Prop :=
  (∀ (h : Hdr) (b : FM),
     (Requests (.ld h b) (shapeM h b []) h b .word b.o (fun _ g w => askAt .word .load false g w) ∧
       Requests (.st h b) (shapeM h b []) h b .word b.o (fun _ g w => askAt .word (.store [g.op 1] 0xFF) false g w) ∧
       Requests (.lds h b) (shapeM h b []) h b .line b.o (fun _ g w => askAt .line .loadLine false g w) ∧
       Requests (.sts h b) (shapeM h b []) h b .line b.o (fun f g w =>
         askAt .line (.store ((List.range 8).map (fun i => AMap.get (f.e.active f.ctx).w 0 i)) ((g.op 1).extractLsb' 0 8))
           ((g.op 1).extractLsb' 8 24 != 0) g w) ∧
       Requests (.ldq h b) (shapeM h b []) h b .block b.o (fun _ g w => askAt .block .loadBlock false g w) ∧
       Requests (.stq h b) (shapeM h b (List.range 64)) h b .block b.o (fun f g w =>
         askAt .block (.store ((List.range 64).map (fun i => AMap.get f.x.acc 0 i)) ((g.op 1).extractLsb' 0 8))
           ((g.op 1).extractLsb' 8 24 != 0) g w)) ∧
     (Requests (.pref h b) (shapeM h b []) h b .word b.o (fun _ g _ => ⟨.pref, (g.op 0).toNat, false, [], []⟩) ∧
       Requests (.slog h b) (shapeM h b []) h b .word false (fun f g w =>
         ⟨.slog [g.op 0, g.op 1, g.op 2, BitVec.ofNat 32 (slogK f g + if (g.op 1).extractLsb' 16 16 = 0xFFFF then 8 else 0)],
           ((g.op 0).toNat * 8 + slogK f g) * 16, decide (7 < slogK f g), [],
           [(((g.op 0).toNat * 8 + slogK f g) * 16, 16, w.size)]⟩) ∧
       Requests (.sread h b) { shapeM h b [] with eosTo := (sreadDests b).take 1, dests := sreadDests b } h b .word false (fun _ g w =>
         ⟨.sread, (g.op 0).toNat * 16, false, [], [((g.op 0).toNat * 16, 16, w.size)]⟩)) ∧
     (∀ p ∈ [(Instr.aadd h b, 0x88#8), (.afadd h b, 0x89#8), (.amin h b, 0x8A#8), (.amax h b, 0x8B#8), (.axchg h b, 0x8C#8),
         (.acas h b, 0x8D#8), (.abit h b, 0x8E#8), (.aincb h b, 0x8F#8)],
       Requests p.1 (shapeM h b []) h b .word b.o (fun _ g w => askAt .word (.atomic p.2 h.ty (g.op 1) (g.op 2)) false g w))) ∧
  (∀ (h : Hdr) (b : FM),
     Requests (.sendc h b) (shapeM h b []) h b .block b.o (fun _ g w => sendAsk g w 0 false) ∧
     Requests (.sendm h b) (shapeM h b []) h b .block b.o (fun f g w => sendAsk g w (g.op 2) (cellWordBad f.img (g.op 2))) ∧
     Requests (.creq h b) (shapeM h b []) h b .block b.o (fun f g w =>
       let doff := ((g.op 1).extractLsb' 0 20).toNat
       let dw := f.l.windowAt f.ctx ((g.op 1).extractLsb' 20 6).toNat
       ⟨.creq doff ((g.op 1).extractLsb' 20 6).toNat, (g.op 0).toNat,
         (g.op 1).extractLsb' 26 6 != 0 || (match dw with | some v => v.virt | none => true),
         [((g.op 0).toNat, 256), (doff, 256)],
         [((g.op 0).toNat, 256, w.size), (doff, 256, match dw with | some v => v.size | none => 0)]⟩) ∧
     Requests (.dlay h b) { shapeM h b [] with marker := some b.o } h b .line false (fun _ g w => askAt .line (.dlay b.o) false g w))

/-- R280: a live access that is misaligned, or does not lie in its window, leaves no request: it takes ALIGN or WINDOW_BOUND. Model's choices: log 38. -/
def Obligations.MemoryFaultsAtElement : Prop :=
  ∀ (h : Hdr) (b : FM),
    FaultsAtElement (.ld h b) (shapeM h b []) h b .word b.o (fun _ g w => askAt .word .load false g w) ∧
    FaultsAtElement (.st h b) (shapeM h b []) h b .word b.o (fun _ g w => askAt .word (.store [g.op 1] 0xFF) false g w) ∧
    FaultsAtElement (.lds h b) (shapeM h b []) h b .line b.o (fun _ g w => askAt .line .loadLine false g w) ∧
    FaultsAtElement (.ldq h b) (shapeM h b []) h b .block b.o (fun _ g w => askAt .block .loadBlock false g w) ∧
    FaultsAtElement (.sendc h b) (shapeM h b []) h b .block b.o (fun _ g w => sendAsk g w 0 false)

/-- R287, R293, R327, R328: a fence emits after the cycles of its scope, with a release strength only when its prior stores have
committed, and with strength 4 it takes its place among the SC operations; `CGRP` reads a member's drop counter, and clears it if asked. Model's choices: log 46, 47. -/
def Obligations.FencesAndDropCounters : Prop :=
  (∀ h b s f, fireCtx? s = some f → FiresAt (.fence h b) s (shapeY h b (fenceLatency s f (shapeY h b 1) (b.scode.toNat % 8) (b.scode.toNat / 8 % 8))) (byMode (shapeY h b 1))
    (fun f g => g.live = true → 2 ≤ b.scode.toNat / 8 % 8 → f.releaseReady g = true)
    (fun f g => valueEff f g [(b.d0, g.op 0)] Flag.none)
    (fun f g s => if g.live && b.scode.toNat / 8 % 8 == 4 then
        (if b.scode.toNat % 8 < 3 then
           s.updHub (fun h => { h with instOrders := instPlace (f.l.instanceOf f.id (b.scode.toNat % 8)) f.num h.instOrders })
         else s.ringWait f.node f.num (b.scode.toNat % 8 == 4))
      else s)) ∧
  (∀ h b s f, fireCtx? s = some f → ∀ grp m : Got → Nat, FiresAt (.cgrp h b) s (shapeY h b (2 * f.l.hops f.b + 2)) (byMode (shapeY h b 1))
    (fun f g => g.live = true ∧ (g.op 0).toNat / 8192 = 0 ∧ grp g = (g.op 0).toNat % 256 ∧ m g = (g.op 0).toNat / 256 % 32 ∧
      ∃ x, AMap.find f.img.mcasts (grp g) = some x ∧ m g < x.members.length)
    (fun f g =>
      let e := valueEff f g [(b.d0, AMap.get f.l.drops 0 (dropKey (grp g) (m g)))] Flag.none
      if b.scode.getLsbD 0 then { e with loan := some { f.l with drops := AMap.del f.l.drops (dropKey (grp g) (m g)) } } else e) noAfter)

/-- R221 to R224, R229 to R235: a live `MXCFG` is counted for its tile; a live `MXSTEP` arms its run; fade and delays are written;
`MXSCL` fills scale buffers; `MXDRN` sends a run of accumulators, one a cycle; `MXLDACC` asks for a block. Model's choices: log 27, 60, 62. -/
def Obligations.MatrixInstructions : Prop :=
  (∀ h b s, FiresAt (.mxcfg h b) s (shapeI h b 1) (byMode (shapeI h b 1))
    (fun f g => g.live = true ∧ s.mxcfgBlocked f = false ∧ LateOk f g h b.d0 ∧
      (AMap.get (s.bay (f.l.bayKey f.b)).tiles Tile.empty (tileKey (tileOfIndex f.index) f.ctx)).counted.any (fun c => c.el == f.key) = false)
    (fun _ _ => Eff.none) (countMxcfg h b)) ∧
  (∀ h b s, FiresAt (.mxstep h b) s (shapeX h b (focusImage s) 1) (byMode (shapeX h b (focusImage s) 1))
    (fun f g => g.live = true ∧ f.x.run.isSome = false ∧ (s.fireTile f).mode = .matrix ∧
      (b.f && (s.fireTile f).fields.aty == .i8x4) = false ∧ (b.s && !(s.fireTile f).fields.scl) = false ∧
      (applyTagop h.tagop f.info.depth true g.tag).isSome = true)
    (fun _ _ => Eff.none) (fun f g s => s.armRun h b f g)) ∧
  (∀ h b s, FiresAt (.mxfade h b) s (shapeI h b 1) (byMode (shapeI h b 1)) (fun f g => g.live = true ∧ f.x.run.isSome = false)
    (fun f g => valueEff f g [(b.d0, g.op 0)] Flag.none)
    (fun f g s => s.updEl f.key (fun e => e.updCtx f.ctx (fun x => { x with fade := g.op 0 })))) ∧
  (∀ h b s, FiresAt (.mxpass h b) s (shapeI h b 1) (byMode (shapeI h b 1)) (fun f g => g.live = true ∧ f.x.run.isSome = false)
    (fun f g => valueEff f g [(b.d0, g.op 0)] Flag.none)
    (fun f _ s => s.updEl f.key (fun e => e.updCtx f.ctx (fun x => { x with
      adly := b.imm.extractLsb' 0 10, bdly := b.imm.extractLsb' 10 10 })))) ∧
  (∀ h b s, h.mode ≠ .accord → FiresAt (.mxscl h b) s (shapeX h b (focusImage s) 1) (byMode (shapeX h b (focusImage s) 1))
    (fun f g => g.live = true ∧ (s.fireTile f).mode = .matrix ∧ (s.fireTile f).fields.scl = true ∧ (s.fireTile f).fields.ssrc = true ∧
      (if b.shape.getLsbD 0 then f.e.scB else f.e.scA).length < 2)
    (fun f g => valueEff f g [(drainDest b f.img, g.op 0)] Flag.none) (loadScales h b)) ∧
  (∀ h b s, h.mode = .accord → FiresAt (.mxscl h b) s (shapeX h b (focusImage s) 1) (byMode (shapeX h b (focusImage s) 1))
    (fun f g => g.live = true ∧ (s.fireTile f).mode = .matrix ∧ (s.fireTile f).fields.scl = true ∧ (s.fireTile f).fields.ssrc = true ∧
      (∀ p ∈ f.edge false, (s.el p.2).scA.length + g.cells.length ≤ 2) ∧ (∀ p ∈ f.edge true, (s.el p.2).scB.length + g.cells.length ≤ 2))
    (fun f g => valueEff f g [(drainDest b f.img, 0)] Flag.none) (loadScales h b)) ∧
  (∀ h b s, FiresAt (.mxdrn h b) s
    { shapeX h b (focusImage s) 2 with
      accs := (List.range ((b.shape.extractLsb' 6 6).toNat + 1)).map ((b.shape.extractLsb' 0 6).toNat + ·) }
    (byMode (shapeX h b (focusImage s) 2))
    (fun f _ => s.captures (f.key / 256) f.ctx = false)
    (fun f g =>
      let r := drainWords h.ty (fun n => AMap.get f.x.acc 0 n) (b.shape.extractLsb' 0 6).toNat ((b.shape.extractLsb' 6 6).toNat + 1)
      { Eff.none with
        outs := r.1.zipIdx.map (fun p =>
          { (if g.live then Out.std f g (drainDest b f.img) p.1 else Out.dead f g (drainDest b f.img)) with delay := p.2 })
        flags := if g.live then r.2 else Flag.none })
    (captureDrain h b)) ∧
  (∀ h b, Requests (.mxldacc h b) { shapeM h b (List.range 64) with accOnly := true } h b .block b.o
    (fun _ g w => askAt .block .mxload false g w))

/-- R258, R294, R295: the commands on a decant template go to its `TRIG` element's bay; `DARM` emits after the way there; `DFIRE` puts its
trigger into the fire queue, while its template is not armed and the queue has room. Model's choices: log 57. -/
def Obligations.DecantCommands : Prop :=
  (∀ h b s f, fireCtx? s = some f → FiresAt (.darm h b) s (shapeY h b (liveLatency s f (shapeY h b 1) (f.commandRoute b + 1))) (byMode (shapeY h b 1)) (fun _ _ => True)
    (fun f g => valueEff f g [(b.d0, g.op 0)] Flag.none) (fun f g s => if g.live then s.sendCommand f b .arm none else s)) ∧
  (∀ h b s f, fireCtx? s = some f → FiresAt (.dcan h b) s (shapeY h b (liveLatency s f (shapeY h b 1) (f.commandRoute b + 1))) (byMode (shapeY h b 1))
    (fun f g => g.live = true ∧ LateOk f g h b.d0) (fun _ _ => Eff.none)
    (fun f g s => s.sendCommand f b (.disarm (b.scode.getLsbD 4)) (f.lateFlit h (Out.std f g b.d0 (g.op 0))))) ∧
  (∀ h b s f, fireCtx? s = some f → FiresAt (.dstat h b) s (shapeY h b (liveLatency s f (shapeY h b 1) (f.commandRoute b + 1))) (byMode (shapeY h b 1))
    (fun f g => g.live = true ∧ LateOk f g h b.d0) (fun _ _ => Eff.none)
    (fun f g s => s.sendCommand f b .status (f.lateFlit h (Out.std f g b.d0 (g.op 0))))) ∧
  (∀ h b s, ∀ t m, FiresAt (.dfire h b) s { shapeY h b 1 with eosTo := [], dests := [] } (byMode (shapeY h b 1))
    (fun f g => g.live = true ∧ f.template b = some (t, m) ∧
      ¬(h.mode = .queue ∧ ((s.bay (f.templateBay m)).template (templKey f.ctx t)).arm = true) ∧
      (s.bay (f.templateBay m)).fireQueue.length < 16)
    (fun _ _ => Eff.none)
    (fun f g s =>
      let x : Firing := ⟨f.id, t, match g.cells with | (_, c) :: _ => c.spos | [] => g.op 0, g.tag, g.cont, f.ctx, 0, false, g.prior, f.num⟩
      (s.born f.id g.tag (x.iters f.l)).placeTrigger (f.templateBay m) x))

/-- R99 to R108, R310, R321: timelines are incremented, set, read and waited for at the hub's distance; a release waits for its prior
stores; waits, launches, arrivals at barriers and stocktakes go on their way with the output that answers them. Model's choices: log 43, 46. -/
def Obligations.TimelinesAndBarriers : Prop :=
  (∀ h b s n, FiresAt (.tlinc h b) s (shapeY h b (focusCycles s)) (byMode (shapeY h b 1))
    (fun f g => g.live = true ∧ tlIndex b (g.op 1) = some n ∧ f.releaseReady g = true ∧ s.stopped .timelines = false)
    (fun f g => (valueEff f g [(b.d0, BitVec.ofNat 32 (min (s.timeline n + (g.op 0).toNat) (2 ^ 64 - 1)))] Flag.none).later (s.tlTurn n))
    (fun f g s => s.incTimeline n (g.op 0).toNat (f.report g fTLSAT 0))) ∧
  (∀ h b s n, FiresAt (.tlrd h b) s (shapeY h b (focusCycles s)) (byMode (shapeY h b 1))
    (fun _ g => g.live = true ∧ tlIndex b (g.op 0) = some n ∧ s.stopped .timelines = false)
    (fun f g => (valueEff f g [(b.d0, halfOf b (s.timeline n))] Flag.none).later (s.tlTurn n)) (fun _ _ s => s.tlTake n)) ∧
  (∀ h b s, FiresAt (.tlset h b) s (shapeY h b (focusCycles s)) (byMode (shapeY h b 1))
    (fun f g => g.live = true → f.releaseReady g = true ∧ s.stopped .timelines = false)
    (fun f g => (valueEff f g [(b.d0, g.op 0)] Flag.none).later (if g.live then s.tlTurn (tlOf b) else 0))
    (fun _ g s => if g.live then s.setTimeline (tlOf b) (g.op 1 ++ g.op 0) else s)) ∧
  (∀ h b s, FiresAt (.tlwait h b) s (shapeY h b 1) (byMode (shapeY h b 1)) (fun f g => g.live = true ∧ f.l.waits < 64 ∧ s.stopped .timelines = false ∧ LateOk f g h b.d0)
    (fun _ _ => Eff.none)
    (fun f g s =>
      let flit := f.lateFlit h (Out.std f g b.d0 0)
      let (n, s) := (s.bornFlit f.id flit).fresh
      let s := s.updLoan f.id (fun l => { l with waits := l.waits + 1 })
      let w : TlWait := ⟨tlOf b, if hiOf b then (g.op 0).toNat * 2 ^ 32 else (g.op 0).toNat, f.id, f.index, flit, false⟩
      ((s.updHub (fun x => { x with waits := AMap.put x.waits n w })).tlTake (tlOf b)).reevaluate (tlOf b))) ∧
  (∀ h b s, FiresAt (.launch h b) s (shapeY h b 1) (byMode (shapeY h b 1))
    (fun f g => g.live = true ∧ f.l.launches < 16 ∧ s.hub.freeHolds ≠ 0 ∧ f.releaseReady g = true ∧ LateOk f g h b.d0)
    (fun _ _ => Eff.none)
    (fun f g s => (s.bornFlit f.id (f.lateFlit h (Out.std f g b.d0 0))).beginLaunch
      ⟨f.id, f.ctx, f.hnd, f.index, g.tag, (g.op 0).toNat * 128, b.scode.getLsbD 0, f.lateFlit h (Out.std f g b.d0 0), false⟩)) ∧
  (∀ h b s, FiresAt (.evwatch h b) s (shapeY h b (focusCycles s)) (byMode (shapeY h b 1))
    (fun _ g => g.live = true → selectorOk (g.op 0) = true)
    (fun f g => valueEff f g [(b.d0, BitVec.ofNat 32 (b.sarg.toNat % 64))] Flag.none) (armWatch b)) ∧
  (∀ h b s, FiresAt (.barr h b) s (shapeY h b 1) (byMode (shapeY h b 1))
    (fun f g => (b.scode.toNat % 8 = 1 → s.wingWaits f.l.die < 64) ∧ LateOk f g h b.d0) (fun _ _ => Eff.none) (sendArrival h b)) ∧
  (∀ h b s, FiresAt (.stock h b) s (shapeY h b 1) (byMode (shapeY h b 1)) (fun f g => g.live = true ∧ LateOk f g h b.d0) (fun _ _ => Eff.none)
    (fun f g s => (s.bornFlit f.id (f.lateFlit h (Out.std f g b.d0 0))).startStocktake false
      [(f.id, f.index, f.lateFlit h (Out.std f g b.d0 0))]))

/-- R340, R342, R358: `TRAP` and `BRK` take their exception: the record with the operand and the code, the frame parked without a
faulting iteration, and the output kept for `RESUME`; `PARK` parks without a record and enters the hub's park list. Model's choices: log 15. -/
def Obligations.Traps : Prop :=
  (∀ h b s, ∀ p ∈ [(Instr.trap h b, fTRAP), (.brk h b, fBRK)], FiresAt p.1 s (shapeY h b 1) (byMode (shapeY h b 1))
    (fun f g => g.live = true ∧ LateOk f g h b.d0 ∧ ∃ fr, AMap.find f.l.frames g.tag.frame.toNat = some fr ∧ fr.released = false)
    (fun _ _ => Eff.none)
    (fun f g s =>
      let flit := f.lateFlit h (Out.std f g b.d0 (g.op 0))
      (s.bornFlit f.id flit).raise (f.report g p.2 (BitVec.ofNat 64 ((g.op 0).toNat + b.sarg.toNat * 2 ^ 32))) f.info.counted
        (flit.toList.map (fun x => .emit f.index [x])))) ∧
  (∀ h b s, FiresAt (.park h b) s (shapeY h b 1) (byMode (shapeY h b 1))
    (fun f g => g.live = true ∧ s.hub.parkList.length < 64 ∧ LateOk f g h b.d0 ∧
      ∃ fr, AMap.find f.l.frames g.tag.frame.toNat = some fr ∧ fr.released = false)
    (fun _ _ => Eff.none)
    (fun f g s =>
      let flit := f.lateFlit h (Out.std f g b.d0 (g.op 0))
      ((s.bornFlit f.id flit).parkFrame f.id g.tag f.info.counted false (flit.toList.map (fun x => .emit f.index [x]))).updHub (fun x =>
        { x with parkList := x.parkList ++ [(f.id, g.tag.frame.toNat, b.sarg.toNat, g.op 0)] })))

/-- R345, R357 to R360: priorities, status, counters and the device's cycle counter are read or written; `FLTRD` clears what it reads;
`CFLUSH` empties contexts; a resume, a switch and a restore are asked for. Model's choices: log 96, 97. -/
def Obligations.SystemInstructions : Prop :=
  (∀ h b s, FiresAt (.prio h b) s (shapeY h b 1) (byMode (shapeY h b 1)) (fun f g => g.live = true ∧ f.l.lock = false)
    (fun f g => valueEff f g [(b.d0, g.op 0)] Flag.none)
    (fun f g s => s.updEl f.key (fun e => e.updCtx f.ctx (fun x => { x with
      prio := if b.scode.getLsbD 2 then (g.op 0).extractLsb' 0 2 else b.scode.extractLsb' 0 2 })))) ∧
  (∀ h b s, FiresAt (.fltrd h b) s (shapeY h b 1) (byMode (shapeY h b 1)) (fun _ _ => True)
    (fun f g => valueEff f g [(b.d0, f.x.status)] Flag.none)
    (fun f g s => if g.live && b.scode.getLsbD 0 then
        s.updEl f.key (fun e => e.updCtx f.ctx (fun x => { x with status := x.status &&& ~~~f.x.status }))
      else s)) ∧
  (∀ h b s, FiresAt (.perfrd h b) s (shapeY h b 1) (byMode (shapeY h b 1)) (fun _ _ => True)
    (fun f g => valueEff f g [(b.d0, half64 (b.sarg.getLsbD 4) (AMap.get f.x.perf 0 (b.sarg.toNat % 16)))] Flag.none) noAfter) ∧
  (∀ h b s, FiresAt (.timerd h b) s (shapeY h b 1) (byMode (shapeY h b 1)) (fun _ _ => True)
    (fun f g => valueEff f g [(b.d0, half64 (b.scode.getLsbD 0) (BitVec.ofNat 64 s.cycle))] Flag.none) noAfter) ∧
  (∀ h b s, FiresAt (.cflush h b) s (shapeY h b 64) (byMode (shapeY h b 64)) (fun _ _ => True)
    (fun f g => valueEff f g [(b.d0, g.op 0)] Flag.none) (fun f g s => if g.live then s.flush f.l.rect (b.scode.getLsbD 0) else s)) ∧
  (∀ h b s, FiresAt (.resume h b) s (shapeY h b (focusCycles s)) (byMode (shapeY h b 1))
    (fun _ g => g.live = true ∧ targetBad (g.op 0) true = false)
    (fun f g => valueEff f g [(b.d0, if (s.resumeTarget (g.op 0)).isSome then 0 else 1)] Flag.none)
    (fun _ g s => match s.resumeTarget (g.op 0) with
      | some (id, fr) => (s.resumeFrame id fr (b.scode.getLsbD 0)).getD s
      | none => s)) ∧
  (∀ h b s, FiresAt (.scanout h b) s (shapeY h b 1) (byMode (shapeY h b 1))
    (fun f g => g.live = true ∧ targetBad (g.op 0) false = false ∧ LateOk f g h b.d0) (fun _ _ => Eff.none) (askSwitch h b)) ∧
  (∀ h b s, FiresAt (.scanin h b) s (shapeY h b 1) (byMode (shapeY h b 1))
    (fun f g => g.live = true ∧ targetBad (g.op 0) false = false ∧ LateOk f g h b.d0) (fun _ _ => Eff.none) (askRestore h b))

/-- R351, R356, R358, R399: a live `CCALL` begins its call where its activation may call, and a `CRET` of a called activation begins the
return with its results. Model's choices: log 85. -/
def Obligations.ConfigurationCalls : Prop :=
  (∀ h b s, FiresAt (.ccall h b) s (shapeY h b 1) (byMode (shapeY h b 1))
    (fun f g => g.live = true ∧ (applyTagop h.tagop f.info.depth true g.tag).isSome = true ∧ f.mayCall s.cycle = true)
    (fun _ _ => Eff.none) (fun f g s => s.beginCall f g h b)) ∧
  (∀ h b s, FiresAt (.ccall h b) s (shapeY h b 1) (byMode (shapeY h b 1)) (fun _ g => g.live = false)
    (fun f g => { Eff.none with outs := (List.range (b.scode.toNat / 32 % 4 + 1)).map (fun i =>
      { Out.dead f g (.cont (BitVec.ofNat 6 (b.sarg.toNat + i))) with delay := i }) }) noAfter) ∧
  (∀ h b s, FiresAt (.cret h b) s (shapeY h b 1) (byMode (shapeY h b 1))
    (fun f _ => (∃ act a, f.l.running f.ctx = some (act, a) ∧ a.call.isSome = true) ∧ f.l.calling.isSome = false ∧ f.l.thaw.isSome = false)
    (fun _ _ => Eff.none) (returnFrom b))

/-! ### The Colophon -/

/-- R366, R371: the Colophon's arithmetic on f32, i32 and n32 registers, moves, immediates, shifts and conversions, with their latencies,
rounding and flags; `e0` is never written; a type or a mode that an instruction does not take halts with `ECODE` 6. Model's choices: log 29. -/
def Obligations.ColophonArithmetic : Prop :=
  (∀ (s : State) (rd ra rb : BitVec 4),
     let a := s.col.reg ra
     let b := s.col.reg rb
     let d := s.col.reg rd
     (ColWrites (.eadd rd ra rb 0) s rd 1 (aluFadd .f32 a b).1 (aluFadd .f32 a b).2 ∧ ColWrites (.eadd rd ra rb 1) s rd 1 (a + b) Flag.none ∧
       ColWrites (.eadd rd ra rb 2) s rd 1 (a + b) Flag.none) ∧
     (ColWrites (.esub rd ra rb 0) s rd 1 (aluFsub .f32 a b).1 (aluFsub .f32 a b).2 ∧ ColWrites (.esub rd ra rb 1) s rd 1 (a - b) Flag.none ∧
       ColWrites (.esub rd ra rb 2) s rd 1 (a - b) Flag.none) ∧
     (ColWrites (.emul rd ra rb 0) s rd 4 (aluFmul .f32 a b).1 (aluFmul .f32 a b).2 ∧ ColWrites (.emul rd ra rb 1) s rd 1 (a * b) Flag.none ∧
       ColWrites (.emul rd ra rb 2) s rd 1 (a * b) Flag.none) ∧
     (ColWrites (.emax rd ra rb 0) s rd 1 (aluFmax .f32 a b).1 (aluFmax .f32 a b).2 ∧
       ColWrites (.emax rd ra rb 1) s rd 1 (if a.slt b then b else a) Flag.none ∧
       ColWrites (.emax rd ra rb 2) s rd 1 (if a.ult b then b else a) Flag.none) ∧
     (ColWrites (.emin rd ra rb 0) s rd 1 (aluFmin .f32 a b).1 (aluFmin .f32 a b).2 ∧
       ColWrites (.emin rd ra rb 1) s rd 1 (if a.slt b then a else b) Flag.none ∧
       ColWrites (.emin rd ra rb 2) s rd 1 (if a.ult b then a else b) Flag.none) ∧
     (∀ i, i ∈ [Instr.eadd rd ra rb 3, .esub rd ra rb 3, .emul rd ra rb 3, .emax rd ra rb 3, .emin rd ra rb 3] →
       Completes i s (fun t => ColHalted s t 6)) ∧
     ColWrites (.efma rd ra rb) s rd 4 (aluFfma .f32 a b d).1 (aluFfma .f32 a b d).2 ∧
     ColWrites (.eclmp rd ra rb) s rd 1 (aluFmin .f32 (aluFmax .f32 a b).1 d).1 ((aluFmax .f32 a b).2 ||| (aluFmin .f32 (aluFmax .f32 a b).1 d).2)) ∧
  (∀ (s : State) (rd ra rb : BitVec 4),
     let a := s.col.reg ra
     ColWrites (.emov rd ra) s rd 1 a Flag.none ∧
     ColWrites (.eand rd ra rb) s rd 1 (a &&& s.col.reg rb) Flag.none ∧
     (∀ v : BitVec 14, ColWrites (.eldi rd ra v) s rd 1 (BitVec.ofNat 32 (a.toNat * 2 ^ 14 + v.toNat)) Flag.none) ∧
     (∀ n : BitVec 5, ColWrites (.eshf rd ra n 0) s rd 1 (a <<< n.toNat) Flag.none ∧
       ColWrites (.eshf rd ra n 1) s rd 1 (a >>> n.toNat) Flag.none ∧
       ColWrites (.eshf rd ra n 2) s rd 1 (a.sshiftRight n.toNat) Flag.none ∧
       ColWrites (.eshf rd ra n 3) s rd 1 (a.rotateLeft n.toNat) Flag.none) ∧
     (∀ (ty : BitVec 4) (rnd : BitVec 3) (sat : Bool) (t : Ty), Ty.ofCode ty = some t → ty.toNat ≤ 6 → rnd.toNat ≤ 3 →
       ColWrites (.ecvt rd ra ty rnd sat) s rd 2 (BitVec.ofNat 32 (convLane .f32 t rnd.toNat 0 sat a.toNat).1)
         (convLane .f32 t rnd.toNat 0 sat a.toNat).2) ∧
     (∀ (ty : BitVec 4) (rnd : BitVec 3) (sat : Bool), (6 < ty.toNat ∨ 3 < rnd.toNat) →
       Completes (.ecvt rd ra ty rnd sat) s (fun t => ColHalted s t 6)))

/-- R369, R372, R373: `ELDR` takes the port's first word, a dead one as zero, or reads the last word's metadata, and waits for a word;
`ESTR` queues a store to tile memory, or halts with `ECODE` 3 on a misaligned or absent address; `ESIG` waits until the bay's earlier
Colophon stores have been performed, and then sends its token, and with no loan in `CCTX` halts with `ECODE` 7. Model's choices: log 29, 52. -/
def Obligations.ColophonPortAndStores : Prop :=
  (∀ (s : State) (rd ra rb : BitVec 4) (k : BitVec 14),
     (∀ w rest, s.col.port = w :: rest → s.col.pc + 1 < 1024 → Completes (.eldr rd false) s (fun t =>
       (∀ r, t.col.reg r = if r = rd ∧ rd ≠ 0 then (if w.pred then w.value else 0) else s.col.reg r) ∧ t.col.port = rest ∧
       t.col.popped = some w ∧ t.col.pc = s.col.pc + 1 ∧ OnlyBay s t s.focus.bay)) ∧
     (∀ w, s.col.popped = some w → ColWrites (.eldr rd true) s rd 1
       (BitVec.ofNat 32 (w.tile.toNat + 4 * w.index.toNat + if w.pred then 256 else 0)) Flag.none) ∧
     (s.col.port = [] → Completes (.eldr rd false) s (fun t => t.col.pc = s.col.pc ∧ t.col.ready = s.cycle + 1 ∧ OnlyBay s t s.focus.bay)) ∧
     (((s.col.reg ra).toNat + 4 * k.toNat) % 4 = 0 → (s.col.reg ra).toNat + 4 * k.toNat < 2 ^ 22 → s.col.pc + 1 < 1024 →
       Completes (.estr ra rb k) s (fun t => t.col.pc = s.col.pc + 1 ∧ OnlyBay s t s.focus.bay ∧
         (t.bay s.focus.bay).estores = (s.bay s.focus.bay).estores ++ [((s.col.reg ra).toNat + 4 * k.toNat, s.col.reg rb)])) ∧
     (((s.col.reg ra).toNat + 4 * k.toNat) % 4 ≠ 0 ∨ 2 ^ 22 ≤ (s.col.reg ra).toNat + 4 * k.toNat →
       Completes (.estr ra rb k) s (fun t => ColHalted s t 3))) ∧
  (∀ (s : State) (ra : BitVec 4) (el : BitVec 7) (port : BitVec 2) (hnd : BitVec 3),
     (loanOn s s.focus.bay s.col.cctx.toNat = none → Completes (.esig ra el port hnd) s (fun t => ColHalted s t 7)) ∧
     (∀ id l b, loanOn s s.focus.bay s.col.cctx.toNat = some (id, l, b) → (s.bay s.focus.bay).estores ≠ [] →
       Completes (.esig ra el port hnd) s (fun t => t.col.pc = s.col.pc ∧ OnlyBay s t s.focus.bay)) ∧
     (∀ id l b w, loanOn s s.focus.bay s.col.cctx.toNat = some (id, l, b) → b < 64 → (s.bay s.focus.bay).estores = [] → s.col.popped = some w →
       s.col.pc + 1 < 1024 → AMap.find s.loans id = some l → l.state = .running →
       Completes (.esig ra el port hnd) s (fun t => t.col.pc = s.col.pc + 1 ∧
         ∃ f, mkFlit l (l.imageOf s.col.cctx.toNat) id b s.col.cctx.toNat 0 (.element (b * 128 + el.toNat) port.toNat hnd.toNat) .data true
             w.cont (s.col.reg ra) w.tag = some f ∧
           (s.cycle + 1, f) ∈ (t.el (l.elKey (b * 128 + el.toNat))).outside)))

/-- R367, R368, R370, R372: branches are relative to their own word and halt with `ECODE` 5 outside the store; `ELOOP` counts down;
`EWAIT` waits for the port and halts with `ECODE` 4 on 0 or above 64; `EHALT` leaves its code. Model's choices: log 29. -/
def Obligations.ColophonControl : Prop :=
  ∀ (s : State) (rd ra : BitVec 4) (off : BitVec 14),
    let goal : Int := s.col.pc + off.toInt
    (0 ≤ goal → goal < 1024 → Completes (.ejmp off) s (fun t => (t.col.pc : Int) = goal ∧ (∀ r, t.col.reg r = s.col.reg r) ∧ OnlyBay s t s.focus.bay)) ∧
    (goal < 0 ∨ 1024 ≤ goal → Completes (.ejmp off) s (fun t => ColHalted s t 5)) ∧
    (s.col.reg ra ≠ 0 → 0 ≤ goal → goal < 1024 → Completes (.ebnz ra off) s (fun t => (t.col.pc : Int) = goal ∧ OnlyBay s t s.focus.bay)) ∧
    (s.col.reg ra = 0 → s.col.pc + 1 < 1024 → Completes (.ebnz ra off) s (fun t => t.col.pc = s.col.pc + 1 ∧ OnlyBay s t s.focus.bay)) ∧
    (rd ≠ 0 → s.col.reg rd ≠ 1 → 0 ≤ goal → goal < 1024 → Completes (.eloop rd off) s (fun t =>
      (t.col.pc : Int) = goal ∧ (∀ r, t.col.reg r = if r = rd then s.col.reg rd - 1 else s.col.reg r) ∧ OnlyBay s t s.focus.bay)) ∧
    (rd = 0 ∨ s.col.reg rd = 1 → s.col.pc + 1 < 1024 → Completes (.eloop rd off) s (fun t => t.col.pc = s.col.pc + 1 ∧ t.col.reg rd = 0)) ∧
    (∀ n : BitVec 7, 0 < n.toNat → n.toNat ≤ 64 → n.toNat ≤ s.col.port.length → s.col.pc + 1 < 1024 →
      Completes (.ewait n) s (fun t => t.col.pc = s.col.pc + 1 ∧ t.col.port = s.col.port ∧ OnlyBay s t s.focus.bay)) ∧
    (∀ n : BitVec 7, 0 < n.toNat → n.toNat ≤ 64 → s.col.port.length < n.toNat → Completes (.ewait n) s (fun t => t.col.pc = s.col.pc)) ∧
    (∀ n : BitVec 7, n.toNat = 0 ∨ 64 < n.toNat → Completes (.ewait n) s (fun t => ColHalted s t 4)) ∧
    (∀ code : BitVec 14, Completes (.ehalt code) s (fun t => t.col.run = false ∧ t.col.halt = true ∧ t.col.err = false ∧
      t.col.haltPc = BitVec.ofNat 10 s.col.pc ∧ t.col.hcode = code ∧ OnlyBay s t s.focus.bay))


/-! ### The hub and the outside world -/

/-- R27, R28, R32, R328: a host queue's tail, ring and enable, as the host writes them: a tail that publishes more than `2^LOG2N − 1` slips is
refused with `OVF`; the ring changes, and empties, only while the queue is not enabled, and nothing of the old one is read any more; a ring of an invalid size is never enabled. The
mailbox: an inbound word or a request while one is pending sets `MBW` and does nothing else; the kernel takes the request, and its answer
stands in `MBO` when `ANS` is seen. Model's choices: log 116, 118. -/
def Obligations.HostQueues : Prop :=
  (∀ (s : State) (n : Nat) (v : W64), s.boot.link = true → s.boot.layout = true → n < 64 →
     let q := s.hub.queue n
     let leaves (i : Instr) (q' : HostQueue) : Prop := Completes i s (fun t => t.hub.queue n = q' ∧
       (∀ m, m ≠ n → t.hub.queue m = s.hub.queue m) ∧ t = { s with hub := { s.hub with queues := t.hub.queues } })
     leaves (.hqTailWrite n v) (if 2 ^ q.log2n.toNat - 1 < (v.setWidth 16 - q.head).toNat then { q with ovf := true }
       else { q with tail := v.setWidth 16 }) ∧
     leaves (.hqRingSetup n false v) (if q.en then q else { q with base := (v.extractLsb' 7 45).toNat * 128, head := 0, tail := 0, busy := false }) ∧
     leaves (.hqRingSetup n true v) (if q.en then q else { q with log2n := v.setWidth 5, head := 0, tail := 0, busy := false }) ∧
     leaves (.hqEnable n) (if 4 ≤ q.log2n.toNat ∧ q.log2n.toNat ≤ 15 then { q with en := true } else q) ∧
     leaves (.hqDisable n) { q with en := false }) ∧
  (∀ (s : State),
     (s.boot.link = true → s.boot.layout = true →
       (∀ n v, n < 16 → Completes (.mbiWrite n v) s (fun t => t = { s with hub :=
         if s.hub.req || s.hub.ans then { s.hub with errMbw := true } else { s.hub with mbi := AMap.put s.hub.mbi n v } })) ∧
       Completes .mailboxRequest s (fun t => t = { s with hub :=
         if s.hub.req || s.hub.ans then { s.hub with errMbw := true } else { s.hub with req := true } }) ∧
       Completes .mailboxAnswerClear s (fun t => t = { s with hub := { s.hub with ans := false } })) ∧
     Completes .mailboxTake s (fun t => t = { s with hub := { s.hub with req := false } }) ∧
     (∀ n v, n < 16 → s.hub.ringPos = 832 → Completes (.mailboxAnswer [(n, v)]) s (fun t =>
       t.hub.ans = true ∧ AMap.get t.hub.mbo 0 n = v ∧ (∀ m, m ≠ n → AMap.get t.hub.mbo 0 m = AMap.get s.hub.mbo 0 m) ∧
       t = { s with nextId := t.nextId, hub := { s.hub with ans := true, mbo := t.hub.mbo, scOrder := s.hub.scOrder ++ [s.nextId] } })) ∧
     (∀ ws, s.hub.ringPos ≠ 832 → Completes (.mailboxAnswer ws) s (fun t => t = s.later 1 (.mailboxAnswer ws))))

/-- R29, R30, R93, R328: the fault ring's registers, and the delivery of a record: what it releases, then its 64 bytes at the tail of the
ring, and the tail when the order ring's token stands at the hub; a full ring takes no record. Model's choices: log 109, 118. -/
def Obligations.FaultRing : Prop :=
  ∀ (s : State),
    (∀ v : W64, s.boot.link = true → s.boot.layout = true →
      (Completes (.fqRingSetup false v) s (fun t => t = { s with hub := { s.hub with fqBase := (v.extractLsb' 6 46).toNat * 64, fqHead := 0, fqTail := 0 } })) ∧
      (Completes (.fqRingSetup true v) s (fun t => t = { s with hub := { s.hub with fqLog2n := v.setWidth 5, fqHead := 0, fqTail := 0 } })) ∧
      (Completes (.fqheadWrite v) s (fun t => t = { s with hub :=
        if 2 ^ s.hub.fqLog2n.toNat < (s.hub.fqTail - v.setWidth 16).toNat then { s.hub with errFqh := true }
        else { s.hub with fqHead := v.setWidth 16 } }))) ∧
    (∀ r, s.hub.unhandled = some r → r.fhs = none → r.kown = false → ¬(r.code = 0x0D ∧ r.loan = 0xFFFF) →
      Completes .faultRecordDeliver s (fun t => t = { s with hub := { s.hub with interrupts := s.hub.interrupts ++ [r], handled := r.seq.toNat } })) ∧
    (∀ r, s.hub.unhandled = some r → r.kown = true →
      Completes .faultRecordDeliver s (fun t => t = { s with hub := { s.hub with handled := r.seq.toNat } })) ∧
    (∀ r rest, s.hub.unhandled = none → s.hub.store = r :: rest → s.hub.ringTakes = true → s.hub.ringPos = 832 →
      s.chunkMoves (s.hub.fqBase + 64 * (s.hub.fqTail.toNat % 2 ^ s.hub.fqLog2n.toNat)) 64 = false →
      s.hub.timelineHeld = [] → s.hub.agentWaiting = [] → Completes .faultRecordDeliver s (fun t =>
        t.mem = writeBytes s.mem (s.hub.fqBase + 64 * (s.hub.fqTail.toNat % 2 ^ s.hub.fqLog2n.toNat)) r.bytes ∧
        t.hub.fqTail = s.hub.fqTail + 1 ∧ (∃ more, t.hub.store = rest ++ more) ∧ t.hub.scOrder = s.hub.scOrder ++ [s.nextId] ∧
        t = { s with hub := t.hub, mem := t.mem, nextId := t.nextId })) ∧
    (s.hub.unhandled = none → s.hub.ringTakes = false → Completes .faultRecordDeliver s (fun t => t = s))

/-- R5, R26, R30, R31, R33, R101: BAR 0 serves aligned eight-byte accesses; any other sets `ACC` with the offset of the first and reads all
ones. A write to the timeline window adds to the timeline, which saturates; it waits while the timeline unit holds a record. Model's choices: log 115. -/
def Obligations.BarRegisters : Prop :=
  ∀ (s : State), s.boot.link = true → s.boot.layout = true →
    (∀ off size, size ≠ 8 ∨ off % 8 ≠ 0 →
      Completes (.registerWrite (.barRead off size)) s (fun t =>
        t = { s with hub := { s.hub with errAcc := true, errAoff := if s.hub.errAcc then s.hub.errAoff else BitVec.ofNat 24 off,
                                         answers := s.hub.answers ++ [(0, allOnes)] } }) ∧
      ∀ v, Completes (.registerWrite (.barWrite off size v)) s (fun t =>
        t = { s with hub := { s.hub with errAcc := true, errAoff := if s.hub.errAcc then s.hub.errAoff else BitVec.ofNat 24 off } })) ∧
    (∀ n, n < 65536 → Completes (.registerWrite (.barRead (0x100000 + 8 * n) 8)) s (fun t =>
      t = { s with hub := { s.hub with answers := s.hub.answers ++ [(0, BitVec.ofNat 64 (s.timeline n))] } })) ∧
    (∀ n v b, n < 65536 → s.stopped .timelines = true → Completes (.kernelTimelineWrite n v b) s (fun t =>
      t = { s with hub := { s.hub with timelineHeld := s.hub.timelineHeld ++ [(n, v, b)] } })) ∧
    (∀ n v, n < 65536 → s.stopped .timelines = false →
      Completes (.hostTimelineIncrement n v) s (fun t =>
        t.timeline n = min (s.timeline n + v.toNat) (2 ^ 64 - 1) ∧ (∀ m, m ≠ n → t.timeline m = s.timeline m) ∧
        t.els = s.els ∧ t.bays = s.bays ∧ t.loans = s.loans) ∧
      exec (.registerWrite (.barWrite (0x100000 + 8 * n) 8 v)) s = exec (.hostTimelineIncrement n v) s ∧
      Completes (.kernelTimelineWrite n v true) s (fun t => t.timeline n = min (s.timeline n + v.toNat) (2 ^ 64 - 1)) ∧
      Completes (.kernelTimelineWrite n v false) s (fun t => t.timeline n = v.toNat ∧ ∀ m, m ≠ n → t.timeline m = s.timeline m))

/-- R16, R18, R28, R99, R124, R125, R261, R328: the host, the Curator cores and other devices read and write device memory below 2^52; a store to the
timeline store's pages is a PROTECT without effect; an access to a chunk that moves waits, and the host has no answer before its link is up; an SC access of a Curator core waits for the order ring's token. Model's choices: log 119, 120, 122. -/
def Obligations.OutsideAccesses : Prop :=
  ∀ (s : State) (a : Nat),
    (∀ n, a + n ≤ 2 ^ 52 →
      (s.barUp = true → s.agentHeld 0 ⟨.read n, a, false⟩ = false → Completes (.hostMemoryAccess ⟨.read n, a, false⟩) s (fun t =>
        t = { s with hub := { s.hub with answers := t.hub.answers }, trans := { s.trans with counts := t.trans.counts } } ∧
        ∃ vs : List W64, t.hub.answers = s.hub.answers ++ vs.map (fun v => (0, v)))) ∧
      (s.agentHeld 1 ⟨.read n, a, false⟩ = false → Completes (.curatorMemoryAccess ⟨.read n, a, false⟩) s (fun t =>
        t = { s with hub := { s.hub with answers := t.hub.answers }, trans := { s.trans with counts := t.trans.counts } } ∧
        ∃ vs : List W64, t.hub.answers = s.hub.answers ++ vs.map (fun v => (1, v))))) ∧
    (∀ op sc, a + agentSize op ≤ 2 ^ 52 → s.barUp = false → Completes (.hostMemoryAccess ⟨op, a, sc⟩) s (fun t => t = s)) ∧
    (∀ op sc, a + agentSize op ≤ 2 ^ 52 → s.barUp = true → s.agentHeld 0 ⟨op, a, sc⟩ = true → Completes (.hostMemoryAccess ⟨op, a, sc⟩) s (fun t =>
      t = { s with hub := { s.hub with agentWaiting := s.hub.agentWaiting ++ [(0, ⟨op, a, sc⟩)] } })) ∧
    (∀ bs, a + bs.length ≤ 2 ^ 52 → s.barUp = true → s.agentHeld 0 ⟨.write bs, a, false⟩ = false → s.inTimelinePages a bs.length = false →
      Completes (.hostMemoryAccess ⟨.write bs, a, false⟩) s (fun t => t = { s with mem := t.mem, trans := { s.trans with counts := t.trans.counts } } ∧
        (Memory.wf s.mem = true → ∀ i, i < bs.length → readByte t.mem (a + i) = bs.getD i 0) ∧
        (∀ x, (x < a ∨ a + bs.length ≤ x) → readByte t.mem x = readByte s.mem x))) ∧
    (∀ bs, a + bs.length ≤ 2 ^ 52 → s.barUp = true → s.agentHeld 0 ⟨.write bs, a, false⟩ = false → s.inTimelinePages a bs.length = true →
      Completes (.hostMemoryAccess ⟨.write bs, a, false⟩) s (fun t => t.mem = s.mem ∧ t.hub.timelines = s.hub.timelines)) ∧
    (∀ op, a + agentSize op ≤ 2 ^ 52 → Completes (.curatorMemoryAccess ⟨op, a, true⟩) s (fun t =>
      t.mem = s.mem ∧ AMap.find t.hub.curatorWaiting s.nextId = some ⟨op, a, true⟩)) ∧
    Completes (.thrumArrival .domainToken) s (fun t => t = { s with hub := { s.hub with domToken := true } }) ∧
    (∀ n, a + n ≤ 2 ^ 52 → s.agentHeld 2 ⟨.read n, a, false⟩ = false → Completes (.thrumArrival (.access ⟨.read n, a, false⟩)) s (fun t =>
        t = { s with hub := { s.hub with answers := t.hub.answers }, trans := { s.trans with counts := t.trans.counts } })) ∧
    Completes .orderRingTick s (fun t => t.hub.ringPos = (s.hub.ringPos + 1) % 833)

/-- R18, R19, R21, R22, R25, R116: `RESET` leaves nothing of the machine but the counters of attestation and what outlives it; a firmware image
whose signatures do not both verify leaves the boot ROM in recovery mode with the link trained, and else the counters are made equal and
the bays wait, gated; the wake sequencer brings up one bay after another, 64 cycles apart; a bay idle for 2^18 cycles is gated. Model's choices: log 2, 114, 128. -/
def Obligations.ResetSequence : Prop :=
  (∀ (s : State), Completes .reset s (fun t =>
     t.mem = [] ∧ t.tmem = [] ∧ t.els = [] ∧ t.loans = [] ∧ t.accs = [] ∧ t.xch = [] ∧ t.snaps = [] ∧ t.cycle = 0 ∧
     t.hub = { Hub.reset with mbo := t.hub.mbo } ∧ t.trans = Trans.reset ∧ (∀ b, (t.bay b).awake = false ∧ (t.bay b).ctxs = []) ∧
     (if (Config.freeBool s.freeCount && Config.freeBool (s.freeCount + 1)) = true then
       t.boot.stage = .kernel ∧ t.boot.link = false ∧
         t.boot.lmsFuse = max s.boot.lmsFuse s.boot.lmsNvme ∧ t.boot.lmsNvme = max s.boot.lmsFuse s.boot.lmsNvme
     else t.boot.stage = .recovery ∧ t.boot.link = true ∧ t.boot.layout = false ∧
         t.boot.lmsFuse = s.boot.lmsFuse ∧ t.boot.lmsNvme = s.boot.lmsNvme))) ∧
  (∀ (s : State),
     (∀ die b rest, s.wakes die = true → AMap.get s.boot.wakeQueues [] die = b :: rest → Completes (.wakeSequencerTick die) s (fun t =>
       (t.bay b).awake = true ∧ (∀ c, c ≠ b → t.bay c = s.bay c) ∧ t.els = s.els ∧ t.loans = s.loans ∧
       (rest ≠ [] → AMap.get t.boot.wakeQueues [] die = rest ∧ (s.cycle + 64, Instr.wakeSequencerTick die) ∈ t.agenda))) ∧
     (s.boot.stage = .kernel → (∀ d, d < 4 → AMap.get s.boot.wakeQueues [] d = []) →
       Completes .hostLinkTrained s (fun t => t = { s with boot := { s.boot with stage := .up, link := true, layout := true } })) ∧
     (∀ bay, (s.bay bay).awake = true → (∀ p ∈ (s.bay bay).ctxs, p.2.st ≠ CtxState.loaned) → (s.bay bay).idleSince + 2 ^ 18 < s.cycle →
       Completes (.bayGate bay) s (fun t => (t.bay bay).awake = false ∧ (t.bay bay).predictor = [] ∧ t.loans = s.loans ∧ t.mem = s.mem)) ∧
     (∀ bay, s.cycle ≤ (s.bay bay).idleSince + 2 ^ 18 → Completes (.bayGate bay) s (fun t => t = s)))

/-- R20, R25, R124, R125: recovery takes an image of whole 64-byte units up to 4 MiB, and rejects any other at once; both copies of the
attestation counter advance before a report is signed and released; a chunk's accesses wait while it moves. Model's choices: log 2, 67, 84, 127. -/
def Obligations.RecoveryAndTiers : Prop :=
  ∀ (s : State),
    (∀ v : W64, s.boot.link = true → s.boot.layout = false → v.getLsbD 0 = true → s.boot.rcstate.toNat % 2 = 0 →
      (s.boot.rclen.toNat % 64 = 0 → 64 ≤ s.boot.rclen.toNat → s.boot.rclen.toNat ≤ 2 ^ 22 →
        Completes (.rcdbGo v) s (fun t => t.boot = { s.boot with rcstate := 1 } ∧ ∃ d, 0 < d ∧ (s.cycle + d, Instr.recoveryVerifyDone) ∈ t.agenda)) ∧
      (s.boot.rclen.toNat % 64 ≠ 0 ∨ s.boot.rclen.toNat < 64 ∨ 2 ^ 22 < s.boot.rclen.toNat →
        Completes (.rcdbGo v) s (fun t =>
          t = { s with boot := { s.boot with rcstate := 2, nrej := BitVec.ofNat 16 (min (s.boot.nrej.toNat + 1) 65535) } }))) ∧
    (s.boot.rcstate = 1 → Completes .recoveryVerifyDone s (fun t =>
      if (Config.freeBool s.freeCount && Config.freeBool (s.freeCount + 1)) = true then t.boot.rcstate = 3 ∧ t.boot.stage = .kernel
      else t.boot = { s.boot with rcstate := 2, nrej := BitVec.ofNat 16 (min (s.boot.nrej.toNat + 1) 65535) })) ∧
    (max s.boot.lmsFuse s.boot.lmsNvme < Config.lmsCapacity → Completes .attestationSign s (fun t => ∃ r : SignedReport,
      r.leaf = max s.boot.lmsFuse s.boot.lmsNvme ∧ t = { s with
        freeCount := t.freeCount
        boot := { s.boot with lmsFuse := max s.boot.lmsFuse s.boot.lmsNvme + 1, lmsNvme := max s.boot.lmsFuse s.boot.lmsNvme + 1
                              signed := s.boot.signed ++ [r] } })) ∧
    (Config.lmsCapacity ≤ max s.boot.lmsFuse s.boot.lmsNvme → Completes .attestationSign s (fun t => t.boot = s.boot ∧ AMap.get t.hub.mbo 0 1 = 3)) ∧
    (∀ die, Completes (.epochEnd die) s (fun t => t.mem = s.mem ∧ t.els = s.els ∧ t.loans = s.loans ∧ t.hub = s.hub ∧
      t.trans.counts = s.trans.counts.filter (fun p => homeDie (p.1 * 65536) != die))) ∧
    (∀ die c held, AMap.find s.trans.moving c = some held → s.hub.agentWaiting = [] → Completes (.chunkMoveDone die c) s (fun t =>
      (t.trans.moved.contains c = !s.trans.moved.contains c ∨ 1 < s.trans.moved.count c) ∧ (∀ id ∈ held, (s.cycle, Instr.accessPerform id) ∈ t.agenda) ∧
      t.mem = s.mem))

/-- R243, R340, R345, R379: the kernel resumes or abandons a parked frame, sets a loan's priority, changes a translation entry once no access
translated with it is under way, maps a
reserved page, and clears error counts. Model's choices: log 123, 124, 125, 126. -/
def Obligations.KernelCommands : Prop :=
  ∀ (s : State),
    (∀ id l prio lock, AMap.find s.loans id = some l → Completes (.kernelPrioWrite id prio lock) s (fun t =>
      AMap.find t.loans id = some { l with lock := lock } ∧
      (∀ k c, ((t.el k).ctx c).loan = ((s.el k).ctx c).loan) ∧
      (∀ k c, (AMap.find s.els k).isSome = true → (AMap.find (s.el k).ctxs c).isSome = true → ((s.el k).ctx c).loan = some id → ((t.el k).ctx c).prio = prio))) ∧
    (∀ space va entry e, entry + 8 ≤ 2 ^ 52 →
      let (first, n) := s.entryPages space va entry
      (s.usesPages space first n = true →
        Completes (.kernelPageInvalidate space va entry e) s (fun t => t = s.later 1 (.kernelPageInvalidate space va entry e))) ∧
      (s.usesPages space first n = false → Completes (.kernelPageInvalidate space va entry e) s (fun t =>
        t = { s with mem := t.mem, trans := { s.trans with micro := t.trans.micro, dieTlb := t.trans.dieTlb } } ∧
        (Memory.wf s.mem = true → ∀ i, i < 8 → readByte t.mem (entry + i) = e.extractLsb' (8 * i) 8) ∧
        (∀ x, (x < entry ∨ entry + 8 ≤ x) → readByte t.mem x = readByte s.mem x) ∧
        (∀ p ∈ t.trans.dieTlb ++ t.trans.micro, ∀ x ∈ p.2, x.space = space → x.page + x.pages ≤ first ∨ first + n ≤ x.page)))) ∧
    (∀ id f ab l p, AMap.find s.loans id = some l → l.parkedFrame f = some p →
      Completes (.kernelResume id f ab) s (fun t => s.resumeFrame id f ab = some t)) ∧
    (∀ space page, s.trans.reserved.contains (space, page) = true →
      (∀ p ∈ s.loans, ∀ f ∈ p.2.frames, ∀ k, f.2.parked = some k → page ∉ k.pages) →
      Completes (.demandPageMap space page) s (fun t => t.trans.reserved = s.trans.reserved.erase (space, page) ∧ t.loans = s.loans ∧
        t.els = s.els ∧ t.hub = s.hub)) ∧
    (∀ space page, s.trans.reserved.contains (space, page) = false → Completes (.demandPageMap space page) s (fun t => t = s)) ∧
    (∀ bay tile (v : W64), Completes (.registerWrite (.eccClear bay tile v)) s (fun t =>
      AMap.get (t.bay bay).corr 0 tile = AMap.get (s.bay bay).corr 0 tile &&& ~~~(v.extractLsb' 0 16) ∧
      AMap.get (t.bay bay).unc 0 tile = AMap.get (s.bay bay).unc 0 tile &&& ~~~(v.extractLsb' 16 16) ∧ (∀ b, b ≠ bay → t.bay b = s.bay b) ∧
      t = { s with bays := t.bays }))

/-! ### The fabric -/

/-- R45, R128, R361: a token moves one link towards its element, columns first, when that link is free in this cycle and the next stage has
room; a token that fails its check is lost with PARITY_TOKEN. Model's choices: log 28. -/
def Obligations.TokenHops : Prop :=
  ∀ (s : State) (el : Nat) (src : HopSrc) (f : Flit) (rest : List Flit) (l : Loan) (x : Token),
    s.stopped (.element el) = false → standing (s.el el) src = f :: rest → AMap.find s.loans f.loan = some l → f.emit = .token x →
    let goal := l.place (l.elKey x.el.toNat)
    let dir := nextDir (l.place el) goal
    let np := neighbour (l.place el) dir
    let nk := if np = goal then l.elKey x.el.toNat else np
    let cost := stepCycles (l.place el) np + (if 128 ≤ el % 256 then 1 else 0) + (if 128 ≤ nk % 256 then 1 else 0)
    (badToken x = true → Completes (.tokenHop el src) s (fun t => Recorded t fPARITYTOKEN x.q.tag)) ∧
    (badToken x = false → dir = 4 → Completes (.tokenHop el src) s (fun t =>
      t = s.later 0 (.tokenArrive el (match src with | .link d => d | .buf _ => .own)))) ∧
    (badToken x = false → dir ≠ 4 → (AMap.get (s.el el).linkUsed 0 dir = s.cycle + 1 ∨ AMap.get (s.el el).beatLink 0 dir = s.cycle + 1) →
      Completes (.tokenHop el src) s (fun t => t = s.later 1 (.tokenHop el src))) ∧
    (badToken x = false → dir ≠ 4 → AMap.get (s.el el).linkUsed 0 dir ≠ s.cycle + 1 → AMap.get (s.el el).beatLink 0 dir ≠ s.cycle + 1 →
      (AMap.get (s.el nk).links [] (opposite dir)).length < cost → nk ≠ el → Completes (.tokenHop el src) s (fun t =>
        AMap.get (t.el nk).links [] (opposite dir) = AMap.get (s.el nk).links [] (opposite dir) ++ [f] ∧ standing (t.el el) src = rest ∧
        AMap.get (t.el el).linkUsed 0 dir = s.cycle + 1 ∧
        (s.cycle + cost, if np = goal then Instr.tokenArrive nk (sideOf (opposite dir)) else .tokenHop nk (.link (sideOf (opposite dir)))) ∈ t.agenda ∧
        (∀ k, k ≠ el → k ≠ nk → t.el k = s.el k) ∧ t = { s with els := t.els, agenda := t.agenda }))

/-- R30, R41, R46, R52, R130: a token that stands at its element enters its queue when the queue holds fewer than four and has taken none in this
cycle; it waits on its link otherwise, and for an element that holds a record; one that is for another element goes on by a hop; one of a released frame is discarded with FRAME_STALE, and one for a handler that is not there with
ILLEGAL_HANDLER. Weights follow the queues' occupancy. Model's choices: log 17. -/
def Obligations.TokenArrivals : Prop :=
  ∀ (s : State) (el : Nat) (side : Side),
    (s.stopped (.element el) = true → Completes (.tokenArrive el side) s (fun t => t = s.later 1 (.tokenArrive el side))) ∧
    (∀ (f : Flit) (l : Loan) (x : Token), s.stopped (.element el) = false → (∀ j, j < sideIdx side → s.dueNow (fun y => y == .tokenArrive el (sideOf j)) = false) →
      arriving s.cycle (s.el el) (sideIdx side) = some f → AMap.find s.loans f.loan = some l → f.emit = .token x → badToken x = false →
      (sideIdx side < 4 → l.elKey x.el.toNat ≠ el → Completes (.tokenArrive el side) s (fun t => t = s.later 0 (.tokenHop el (.link side)))) ∧
      ((sideIdx side < 4 → l.elKey x.el.toNat = el) →
      (landing s el (sideIdx side) l x = .queue → ((s.el el).ctx x.q.ctx.toNat).plane.isSome = true → Completes (.tokenArrive el side) s (fun t =>
        ((t.el el).active x.q.ctx.toNat).queue x.port.toNat = ((s.el el).active x.q.ctx.toNat).queue x.port.toNat ++ [⟨x.q, s.cycle, false⟩] ∧
        (∀ p, p ≠ x.port.toNat → ((t.el el).active x.q.ctx.toNat).queue p = ((s.el el).active x.q.ctx.toNat).queue p) ∧
        (∀ k, k ≠ el → t.el k = s.el k) ∧ t = { s with els := t.els, loans := t.loans })) ∧
      (landing s el (sideIdx side) l x = .wait → Completes (.tokenArrive el side) s (fun t => t = s.later 1 (.tokenArrive el side))) ∧
      (landing s el (sideIdx side) l x = .stale → Completes (.tokenArrive el side) s (fun t => Recorded t fSTALE x.q.tag)) ∧
      (landing s el (sideIdx side) l x = .illegal → Completes (.tokenArrive el side) s (fun t => Recorded t fILLEGAL x.q.tag)) ∧
      (landing s el (sideIdx side) l x = .queue → (((s.el el).active x.q.ctx.toNat).queue x.port.toNat).length < 4))) ∧
    (∀ c, (AMap.find (s.el el).ctxs c).isSome = true → Completes (.weightRecompute el) s (fun t =>
      let occ (h : Nat) : Nat := AMap.get ((s.el el).ctx c).occupancy 0 h
      let top := (List.range 8).foldl (fun m h => max m (occ h)) 0
      (∀ h, h < 8 → AMap.get ((t.el el).ctx c).nextWeights 0 h = if top = 0 then 1 else 1 + 15 * occ h / top) ∧
      ((t.el el).ctx c).occupancy = [] ∧ (∀ k, k ≠ el → t.el k = s.el k) ∧ t = { s with els := t.els }))

/-- R127, R207, R303: at its latency a firing's result enters its output buffers in order, its accumulators are written, and its post goes
on its way; a result without its entry waits, as does that of an SC fence for the fence's place. Model's choices: log 51. -/
def Obligations.ResultWrites : Prop :=
  ∀ (s : State) (el id : Nat) (p : Pending), (s.el el).pending.find? (fun q => q.id == id) = some p →
    (p.held = true → s.captureWaits p = false → s.ringHolds id = false → (∀ x ∈ p.emits, x.2.emit.buffered = true) → Completes (.firingResultWrite el id) s (fun t =>
      (∀ b, AMap.get (t.el el).out [] b = AMap.get (s.el el).out [] b ++ (p.emits.filter (fun x => x.1 == b)).map Prod.snd) ∧
      (((s.el el).ctx p.ctx).loan = some p.loan → ∀ n, AMap.get ((t.el el).ctx p.ctx).acc 0 n =
        match (p.accW.reverse).find? (fun w => w.1 == n) with | some w => w.2 | none => AMap.get ((s.el el).ctx p.ctx).acc 0 n) ∧
      (t.el el).pending = (s.el el).pending.filter (fun q => q.id != id) ∧
      (∀ l q, p.post = some q → AMap.find s.loans p.loan = some l →
        (s.cycle + l.hops (((s.el el).ctx p.ctx).logical / 128) + 1,
          Instr.sqPostArrive p.loan ⟨q.sq, p.ctx, q.tag, ((s.el el).ctx p.ctx).logical, p.hnd, q.prior⟩) ∈ t.agenda) ∧
      (∀ k, k ≠ el → t.el k = s.el k) ∧ t = { s with els := t.els, agenda := t.agenda, accs := t.accs })) ∧
    (p.held = false → roomFor s.cycle (s.el el) (p.emits.map Prod.fst) = false →
      Completes (.firingResultWrite el id) s (fun t => t = s.later 1 (.firingResultWrite el id))) ∧
    (s.ringHolds id = true → Completes (.firingResultWrite el id) s (fun t => t = s.later 1 (.firingResultWrite el id)))

/-- R64, R134, R135, R137, R138, R209: the match unit writes an operand into the lowest free slot of its handler and frame, and with the last
operand makes a firing that enters the ready list four cycles later, while it has room; a token for a spilled frame is held, and has the frame
refilled; an `ORDRED` enters the ready list when its iteration is released; an output to a slot writes it with `P` and `SW`. Model's choices: log 21, 131. -/
def Obligations.Matching : Prop :=
  ∀ (s : State) (el : Nat),
    (∀ c p (q : QTok) id l fr, (s.el el).ready.length < 4 → s.stopped (.element el) = false → heldHead (s.el el) = some (c, p, q) →
      ((s.el el).ctx c).loan = some id → AMap.find s.loans id = some l → AMap.find l.frames q.e.tag.frame.toNat = some fr →
      fr.released = false → fr.refilling = false → ((s.el el).ctx c).plane.isSome = true →
      let x := (s.el el).ctx c
      let w := AMap.get x.handlers nopWord q.e.hnd.toNat
      let info := hinfoOf (l.imageOf c) (handlerKey x.logical q.e.hnd.toNat)
      let base := slotBase info q.e.tag
      let held := heldSlots fr (x.logical / 128) base info.nh
      (fr.spilled = true → (∀ y ∈ s.agenda, y.2 ≠ .frameRefill id q.e.tag.frame.toNat) →
        Completes (.matchToken el) s (fun t => t = (s.updEl el (fun e => { e with matchHeld := some (c, p) })).later 1 (.frameRefill id q.e.tag.frame.toNat))) ∧
      (∀ n, fr.spilled = false → base + info.nh ≤ fr.nslot → (∀ h ∈ held, h.2.port.toNat ≠ p) → w.extractLsb' 56 8 ≠ 0x65 →
        held.length < operandCount w - 1 → freeSlot fr (x.logical / 128) base info.nh = some n →
        Completes (.matchToken el) s (fun t =>
          (∃ l' fr', AMap.find t.loans id = some l' ∧ AMap.find l'.frames q.e.tag.frame.toNat = some fr' ∧ fr'.touched = s.cycle + 4 ∧
            fr'.slot (x.logical / 128) n = ⟨q.e.operand, true, q.e.pred, q.e.cont, BitVec.ofNat 2 p, false, q.e.tag, q.e.prior⟩) ∧
          ((t.el el).active c).queue p = (((s.el el).active c).queue p).drop 1 ∧ t = { s with els := t.els, loans := t.loans })) ∧
      (fr.spilled = false → base + info.nh ≤ fr.nslot → (∀ h ∈ held, h.2.port.toNat ≠ p) → w.extractLsb' 56 8 ≠ 0x65 →
        operandCount w - 1 ≤ held.length → Completes (.matchToken el) s (fun t =>
          let ops := byPort ((p, q.e) :: held.map (fun h => (h.2.port.toNat, slotEntry q.e h.2)))
          (t.el el).matching = (s.el el).matching ++ [(s.cycle + 4, ⟨c, q.e.hnd.toNat, ops, ((ops.head?).map (fun o => o.2.tag)).getD q.e.tag⟩)] ∧
          ((t.el el).active c).queue p = (((s.el el).active c).queue p).drop 1 ∧ (s.cycle + 4, Instr.matchDone el) ∈ t.agenda))) ∧
    (4 ≤ (s.el el).ready.length → Completes (.matchToken el) s (fun t => t = s)) ∧
    Completes (.matchDone el) s (fun t => t = { s with els := t.els, agenda := t.agenda } ∧ (∀ k, k ≠ el → t.el k = s.el k) ∧
      let e := (s.el el).matched s.cycle
      (t.el el).matching = e.matching ∧
      (t.el el).ready = e.ready ++ (((releasedOrdered s e).filter (fun x => x.2.2)).take (4 - e.ready.length)).map (fun x => x.2.1)) ∧
    ((s.el el).ordered = [] → (∀ m ∈ (s.el el).matching, m.2.isOrdred (s.el el) = false) →
      (s.el el).ready.length + ((s.el el).matching.filter (fun m => decide (m.1 ≤ s.cycle))).length ≤ 4 →
      Completes (.matchDone el) s (fun t => t = { s with els := t.els } ∧
        (t.el el).ready = (s.el el).ready ++ ((s.el el).matching.filter (fun m => decide (m.1 ≤ s.cycle))).map Prod.snd ∧
        (t.el el).matching = (s.el el).matching.filter (fun m => !decide (m.1 ≤ s.cycle)))) ∧
    (∀ f rest bay n (q : QEntry) l fr, AMap.get (s.el el).out [] 5 = f :: rest → f.emit = .slotWrite bay n q → f.iters = [] →
      AMap.find s.loans f.loan = some l → AMap.find l.frames q.tag.frame.toNat = some fr → fr.released = false → n < fr.nslot →
      (fr.slot (((List.range (l.w * l.h)).find? (fun b => l.bayKey b == bay)).getD 0) n).p = false →
      Completes (.frameSlotWrite el) s (fun t => AMap.get (t.el el).out [] 5 = rest ∧
        ∃ l' fr', AMap.find t.loans f.loan = some l' ∧ AMap.find l'.frames q.tag.frame.toNat = some fr' ∧
          fr'.slot (((List.range (l.w * l.h)).find? (fun b => l.bayKey b == bay)).getD 0) n =
            ⟨q.operand, true, q.pred, q.cont, 0, true, q.tag, q.prior⟩))

/-- R137, R298, R299: the frame touched least recently is spilled at 64 bytes a cycle into the annex, and a frame is refilled at the lowest
place that is free for it, after a spill that is under way. Model's choices: log 131. -/
def Obligations.SpillsAndRefills : Prop :=
  ∀ (s : State) (id : Nat) (l : Loan), AMap.find s.loans id = some l →
    (∀ v far l', l.frames.any (fun p => p.2.spilling) = false → spillVictim s id l 0 = some v →
      l.annexTake (frameBytes v.2.nslot) = some (far, l') → Completes (.frameSpill id) s (fun t =>
        AMap.find t.loans id = some { l' with frames := AMap.put l'.frames v.1 { v.2 with spillPlace := some far, spillEnd := s.cycle + spillCycles v.2 }, spills := l'.spills + 1 } ∧
        (s.cycle + spillCycles v.2, Instr.frameSpill id) ∈ t.agenda ∧ t.mem = s.mem ∧ t.hub = s.hub)) ∧
    (l.frames.any (fun p => p.2.spilling) = true → Completes (.frameSpill id) s (fun t =>
      AMap.find t.loans id = some (endSpills l s.cycle) ∧ t = { s with loans := t.loans })) ∧
    (∀ f fr, AMap.find (endSpills l s.cycle).frames f = some fr → fr.refilling = false → fr.spilled = true →
      (endSpills l s.cycle).frames.any (fun p => p.2.spilling) = true → Completes (.frameRefill id f) s (fun t =>
        AMap.find t.loans id = some (endSpills l s.cycle) ∧ (s.cycle + 1, Instr.frameRefill id f) ∈ t.agenda)) ∧
    (∀ f fr o, AMap.find (endSpills l s.cycle).frames f = some fr → fr.refilling = false → fr.spilled = true →
      (endSpills l s.cycle).frames.any (fun p => p.2.spilling) = false → (endSpills l s.cycle).refillPlace fr = some o →
      Completes (.frameRefill id f) s (fun t => ∃ l', AMap.find t.loans id = some l' ∧
        AMap.find l'.frames f = some { fr with spilled := false, refilling := true, offset := o } ∧
        (s.cycle + spillCycles fr, Instr.frameRefill id f) ∈ t.agenda)) ∧
    (∀ f fr, AMap.find (endSpills l s.cycle).frames f = some fr → fr.refilling = true → Completes (.frameRefill id f) s (fun t =>
      ∃ l', AMap.find t.loans id = some l' ∧ AMap.find l'.frames f = some { fr with refilling := false, touched := s.cycle, spillPlace := none }))

/-- R301 to R304, R382: a claim takes a credit when there is one, in order of arrival, and its grant comes back over the same way; a post adds
a credit, and none at 65,535, where ILLEGAL_HANDLER says so; acknowledgements change pending counts. Model's choices: log 15. -/
def Obligations.SyncQueues : Prop :=
  ∀ (s : State) (id : Nat) (l : Loan), AMap.find s.loans id = some l →
    (∀ index hnd c i, claimCtx (s.el (l.elKey index)) id hnd = some c →
      (decodeHandler (AMap.get ((s.el (l.elKey index)).ctx c).handlers nopWord hnd)).toOption = some i →
      s.dueNow (fun j => match j with | .sqClaimArrive x _ _ => x == id | _ => false) = false →
      (∀ q, AMap.get l.claims [] q = []) →
      let q := c * 16 + sqNumber (l.imageOf c) (handlerKey index hnd) i
      q < 64 → Completes (.sqClaimArrive id index hnd) s (fun t => ∃ l', AMap.find t.loans id = some l' ∧
        (if AMap.get l.sq 0 q = 0 then AMap.get l'.claims [] q = [(s.cycle, index, hnd)] ∧ AMap.get l'.sq 0 q = 0
         else AMap.get l'.claims [] q = [] ∧ AMap.get l'.sq 0 q = AMap.get l.sq 0 q - 1 ∧
          (s.cycle + l.hops (index / 128) + 1, Instr.sqGrantArrive id index hnd) ∈ t.agenda))) ∧
    (∀ index hnd c, claimCtx (s.el (l.elKey index)) id hnd = some c → Completes (.sqGrantArrive id index hnd) s (fun t =>
      ((t.el (l.elKey index)).ctx c).latch.contains hnd = true ∧
      ((t.el (l.elKey index)).ctx c).claims = ((s.el (l.elKey index)).ctx c).claims.erase hnd ∧ t = { s with els := t.els, loans := t.loans })) ∧
    (∀ p : SqPost, s.dueNow (fun j => match j with | .sqClaimArrive x _ _ => x == id | _ => false) = false →
      AMap.get l.sq 0 (p.ctx * 16 + p.sq) < 65535 → AMap.get l.claims [] (p.ctx * 16 + p.sq) = [] →
      Completes (.sqPostArrive id p) s (fun t => ∃ l', AMap.find t.loans id = some l' ∧
        AMap.get l'.sq 0 (p.ctx * 16 + p.sq) = AMap.get l.sq 0 (p.ctx * 16 + p.sq) + 1 ∧
        (∀ q, q ≠ p.ctx * 16 + p.sq → AMap.get l'.sq 0 q = AMap.get l.sq 0 q) ∧ t = { s with loans := t.loans })) ∧
    (∀ p : SqPost, s.dueNow (fun j => match j with | .sqClaimArrive x _ _ => x == id | _ => false) = false →
      AMap.get l.sq 0 (p.ctx * 16 + p.sq) = 65535 → Completes (.sqPostArrive id p) s (fun t =>
      Recorded t fILLEGAL p.tag ∧ ∃ l', AMap.find t.loans id = some l' ∧ l'.sq = l.sq)) ∧
    (∀ d : AckDelta, Completes (.retireAck id [d]) s (fun t =>
      AMap.find t.loans id = some (l.addPend [(d.frame, d.its)] d.delta) ∧ t = { s with loans := t.loans }))

/-! ### Memory at work -/

/-- R242 to R244, R247, R249, R250, R270, R280, R282, R289, R336: a request leaves its memory buffer when the wave buffer takes it; its access waits
for its turn in its wave and for its release, and then goes to its bank; a free bank performs what stands first and is busy for its
cycles, and a store has then written its words; a walk serves every access that waits for it; the claims of a round go in ascending key. Model's choices: log 9, 32, 33. -/
def Obligations.AccessesPerformed : Prop :=
  (∀ (s : State) (id : Nat) (a : Access) (l : Loan), AMap.find s.accs id = some a → AMap.find s.loans a.loan = some l →
     (a.stage = .buffered → (s.commitTakes a l && s.replyPlace a l && (!a.passes l || s.waveRoom a l)) = true →
       Completes (.waveAccessArrive id) s (fun t => AMap.find t.accs id = some { a with stage := .waiting } ∧
         (s.cycle, Instr.accessPerform id) ∈ t.agenda ∧ (∀ f ∈ AMap.get (t.el a.el).out [] 5, f.emit ≠ .request id) ∧
         (∀ k, k ≠ a.el → t.el k = s.el k) ∧ t = { s with accs := t.accs, agenda := t.agenda, els := t.els })) ∧
     (a.stage = .buffered → (s.commitTakes a l && s.replyPlace a l && (!a.passes l || s.waveRoom a l)) = false →
       Completes (.waveAccessArrive id) s (fun t => t = s.later 1 (.waveAccessArrive id))) ∧
     (∀ w, l.windowAt a.ctx a.win = some w → a.stage = .waiting →
       ((l.inTurn a s.cycle = false ∨ l.ordersIn a = false) → Completes (.accessPerform id) s (fun t => t = s)) ∧
       (l.inTurn a s.cycle = true → l.ordersIn a = true → a.skip = false → 2 ≤ a.strength → a.deferred l = false → s.priorDone id a l = false →
         Completes (.accessPerform id) s (fun t => t = s.later 1 (.accessPerform id))) ∧
       (l.inTurn a s.cycle = true → l.ordersIn a = true → a.skip = false → (2 ≤ a.strength → s.priorDone id a l = true) → a.isAtomic = false →
         a.onRing = false → w.virt = false → a.op ≠ .pref → a.deferred l = false → a.sends = false →
         Completes (.accessPerform id) s (fun t => AMap.find t.accs id = some { a with stage := .issued } ∧
           (∃ e ∈ AMap.get (t.bay (a.bayOf l)).banks [] (bankKey w.tile (a.bankOf l w)),
             e.job = .access id ∧ e.cycles = a.bankCycles ∧ e.arrived > s.cycle) ∧
           t.mem = s.mem ∧ t.tmem = s.tmem))) ∧
     (∀ w e bank, l.windowAt a.ctx a.win = some w → w.virt = false → s.eccBad = [] → e.job = .access id → e.arrived ≤ s.cycle →
       AMap.get (s.bay (a.bayOf l)).banks [] (bankKey w.tile bank) = [e] → a.onRing = false →
       (a.op = .load ∨ a.op = .loadLine ∨ a.op = .loadBlock ∨ ∃ ws m, a.op = .store ws m) →
       (s.cycle < AMap.get (s.bay (a.bayOf l)).bankBusy 0 (bankKey w.tile bank) → Completes (.bankAccess (a.bayOf l) w.tile bank) s (fun t =>
         t.tmem = s.tmem ∧ t.mem = s.mem ∧ AMap.get (t.bay (a.bayOf l)).banks [] (bankKey w.tile bank) = [e] ∧
         (AMap.get (s.bay (a.bayOf l)).bankBusy 0 (bankKey w.tile bank), Instr.bankAccess (a.bayOf l) w.tile bank) ∈ t.agenda)) ∧
       (AMap.get (s.bay (a.bayOf l)).bankBusy 0 (bankKey w.tile bank) ≤ s.cycle → s.bankComing = false →
         Completes (.bankAccess (a.bayOf l) w.tile bank) s (fun t =>
           t.tmem = (match a.op with | .store .. => a.writeAt l w s.tmem | _ => s.tmem) ∧ t.mem = s.mem ∧
           AMap.get (t.bay (a.bayOf l)).bankBusy 0 (bankKey w.tile bank) = s.cycle + e.cycles)))) ∧
  (∀ (s : State),
     (∀ bay tile bank e, AMap.get (s.bay bay).banks [] (bankKey tile bank) = [e] → s.jobAlive bay e = true → e.arrived ≤ s.cycle →
       AMap.get (s.bay bay).bankBusy 0 (bankKey tile bank) ≤ s.cycle → s.bankComing = false →
       s.jobReady e = true → s.claimOf e = none → Completes (.bankAccess bay tile bank) s (fun t => ∃ u : State, t = u.performJob bay e ∧
         AMap.get (u.bay bay).banks [] (bankKey tile bank) = [] ∧
         AMap.get (u.bay bay).bankBusy 0 (bankKey tile bank) = s.cycle + e.cycles ∧ u = { s with bays := u.bays })) ∧
     (∀ id k, AMap.find s.trans.walks id = some k → Completes (.tlbWalkDone id) s (fun t =>
       t = k.waiting.foldl (fun u n => u.afterWalk n (walk s k.space (k.page * 65536)))
         { s with trans := { s.trans with walks := AMap.del s.trans.walks id } })) ∧
     (∀ place, place < 2 ^ 20 → Completes (.aincbRoundEnd place) s (fun t => ∃ ids : List Nat,
       ids.Perm (s.bay (place / 64)).heldClaims ∧
       ids.Pairwise (fun x y => (match AMap.find s.accs x with | some a => a.claimKey.getD 0 | none => 0) ≤
         (match AMap.find s.accs y with | some a => a.claimKey.getD 0 | none => 0)) ∧
       t = ids.foldl (fun u n => u.performTile n) (s.updBay (place / 64) (fun b => { b with heldClaims := [] })))) ∧
     (∀ die port, die < 4 → port < 256 → Completes (.aincbRoundEnd (portPlace die port)) s (fun t => ∃ (ids : List Nat) (words : List Nat),
       ids.Perm (AMap.get (s.xchOf die).portClaims [] port) ∧
       ids.Pairwise (fun x y => (match AMap.find s.accs x with | some a => a.claimKey.getD 0 | none => 0) ≤
         (match AMap.find s.accs y with | some a => a.claimKey.getD 0 | none => 0)) ∧
       t = words.foldl (fun u p => u.poolsAfter p) (ids.foldl (fun u n => u.performVirtAtomic n die port)
         (s.updXch die (fun x => { x with portClaims := AMap.del x.portClaims port }))))))

/-- R257, R258, R282, R295: the head of an armed template's trigger queue is taken into the fire queue, unless that is full; a dead one sends its
completion dead; blocks follow one another, and the completion waits for the deferred stores before it; commands arm, disarm and report. Model's choices: log 55, 56. -/
def Obligations.Decanting : Prop :=
  ∀ (s : State),
    (∀ el c id k m q, armedTrigger s el = some (c, id, k, m, q) →
      let x : Firing := ⟨id, k, q.e.operand, q.e.tag, q.e.cont, c, 0, false, s.stillPrior id q.e.prior, s.nextId⟩
      let taken := { s with nextId := s.nextId + 1 }.updEl el (fun e => e.updActive c (fun pl => pl.updQueue 0 (·.drop 1)))
      (q.e.pred = true → (s.bay (el / 256)).fireQueue.length < 16 →
        Completes (.decantTrigger el) s (fun t => t = taken.placeTrigger (el / 256) x)) ∧
      (q.e.pred = true → (s.bay (el / 256)).fireQueue.length < 16 → (∀ d, d < 4 → (AMap.find (s.bay (el / 256)).decanters d).isSome = true) →
        Completes (.decantTrigger el) s (fun t => (t.bay (el / 256)).fireQueue = (s.bay (el / 256)).fireQueue ++ [x] ∧ t.mem = s.mem)) ∧
      (q.e.pred = true → 16 ≤ (s.bay (el / 256)).fireQueue.length → Completes (.decantTrigger el) s (fun t => t = s)) ∧
      (q.e.pred = false → Completes (.decantTrigger el) s (fun t =>
        t = (taken.sendCompletion x false).firingGone (((s.el el).ctx c).logical / 128) x))) ∧
    (∀ bay d x l m, AMap.find (s.bay bay).decanters d = some x → AMap.find s.loans x.loan = some l → l.templateAt x.ctx x.template = some m →
      let without : State := match s.blockOf bay d with | some (n, _) => { s with accs := AMap.del s.accs n } | none => s
      (x.block + 1 < m.nblk → Completes (.decantBlockDone bay d) s (fun t =>
        let u := without.updBay bay (fun y => { y with decanters := AMap.put y.decanters d { x with block := x.block + 1 } })
        t = if l.state == .switching then u else u.startBlock bay d)) ∧
      (m.nblk ≤ x.block + 1 → x.halted = false → l.committedPrior x.prior [] = false → Completes (.decantBlockDone bay d) s (fun t =>
        t = (without.updBay bay (fun y => { y with decanters := AMap.put y.decanters d { x with block := m.nblk } })).later 1 (.decantBlockDone bay d))) ∧
      (m.nblk ≤ x.block + 1 → (x.halted = true ∨ l.committedPrior x.prior [] = true) → Completes (.decantBlockDone bay d) s (fun t =>
        ∃ u : State, (u.bay bay).template (templKey x.ctx x.template) =
            { (s.bay bay).template (templKey x.ctx x.template) with
              completed := (((s.bay bay).template (templKey x.ctx x.template)).completed + 1) % 65536 } ∧
          t = (((if x.halted then u else u.sendCompletion { x with block := m.nblk } true).firingGone (m.trigEl / 128)
            { x with block := m.nblk }).answerCommands bay).feedDecanters bay))) ∧
    (∀ id bay c, s.commandBay id = some (bay, c) →
      (c.op = .arm → Completes (.decantArmApply id) s (fun t => ((t.bay bay).template (templKey c.ctx c.template)).arm = true)) ∧
      (c.op = .disarm false → Completes (.decantArmApply id) s (fun t => ((t.bay bay).template (templKey c.ctx c.template)).arm = false)) ∧
      (∀ abort, c.op = .disarm abort → Completes (.decantArmApply id) s (fun t => ∃ (u : State) (lost : List Firing),
        t = (lost.foldl (fun v x => (v.sendCompletion x false).firingGone (c.index / 128) x) u).answerCommands bay ∧
        ((u.bay bay).template (templKey c.ctx c.template)).arm = false ∧
        (∀ x, x ∈ lost ↔ x ∈ (s.bay bay).fireQueue ∧ abort = true ∧ x.loan = c.loan ∧ x.ctx = c.ctx ∧ x.template = c.template) ∧
        (∀ x, x ∈ (u.bay bay).fireQueue ↔ x ∈ (s.bay bay).fireQueue ∧ x ∉ lost))) ∧
      (∀ f, c.op = .status → c.flit = some f → Completes (.decantArmApply id) s (fun t =>
        t = (s.updBay bay (fun y => { y with commands := AMap.del y.commands id })).inject 1 c.index
          (f.withOperand ((s.bay bay).statusWord c)))))

/-- R262, R264, R274, R275, R277, R278: a cell enters its queue, at most one a slot and in order; in a slot every output of a plane takes at most one
cell, and an input sends one cell, to several outputs only when it is multicast; a lag-drop member that is dropped counts and is recorded. Model's choices: log 49. -/
def Obligations.CellExchange : Prop :=
  ∀ (s : State),
    (∀ id src q, AMap.find s.outgoing id = some (src, q) →
      let x := s.xchOf (src / 256)
      let q' : QCell := if q.cell.mc then { q with residue := (match s.groupOf q with
        | some g => residueAt (src / 256) (src % 256) q.cell.group.toNat g.members
        | none => []) } else q
      (AMap.get x.lastEntry 0 (src % 256) = slotOf s.cycle + 1 ∨ x.admits (src % 256) q.cell.note.toNat = false ∨
          (q.cell.mc = true ∧ 8 ≤ x.multicasts (src % 256)) ∨ s.behind src q = true →
        Completes (.cellEnqueue id) s (fun t => t = s.later (4 - s.cycle % 4) (.cellEnqueue id))) ∧
      (AMap.get x.lastEntry 0 (src % 256) ≠ slotOf s.cycle + 1 → x.admits (src % 256) q.cell.note.toNat = true →
          (q.cell.mc = true → x.multicasts (src % 256) < 8 ∧ q'.residue ≠ []) → s.behind src q = false →
        Completes (.cellEnqueue id) s (fun t =>
          (t.xchOf (src / 256)).voqs = enterQueue (slotOf s.cycle) (src % 256) (q.cell.dportDie.toNat * 256 + q.cell.dport.toNat) q' x.voqs ∧
          AMap.get (t.xchOf (src / 256)).lastEntry 0 (src % 256) = slotOf s.cycle + 1 ∧ t.outgoing = AMap.del s.outgoing id ∧
          (∀ d, d ≠ src / 256 → t.xchOf d = s.xchOf d)))) ∧
    (∀ die, Completes (.exchangeSlot die) s (fun t => ∃ (x : Exchange) (ms : List Match),
      ms.Pairwise (fun m m' => ¬(m.out = m'.out ∧ m.deposit = m'.deposit)) ∧
      (∀ m ∈ ms, ∀ m' ∈ ms, m.inp = m'.inp → m = m' ∨ (m.mc = true ∧ m'.mc = true ∧ m.cell = m'.cell)) ∧
      t = ms.foldl (fun u m => u.sendMatch die (slotOf s.cycle) m)
        (((s.keepRefused die).checkCells die (slotOf s.cycle)).updXch die (fun _ => x)))) ∧
    (∀ die port id v i c g m, (s.xchOf die).voqs.zipIdx.find? (fun p => p.1.inp == port && p.1.mc && p.1.cells.any (fun c => c.id == id)) = some (v, i) →
      v.cells.find? (fun c => c.id == id) = some c → s.groupOf c = some g → c.residue.flatMap (fun o => membersBehind die port o g.members) = [m] →
      (∀ a, AMap.find s.accs c.access = some a → a.isDecant = false ∧ 1 < a.phys) →
      Completes (.lagDrop die port id) s (fun t => Recorded t fMCASTLAG c.cell.tag ∧
        (∀ v', (t.xchOf die).voqs[i]? = some v' → ∀ c' ∈ v'.cells, c'.id ≠ id)))

/-- R54, R270, R271, R273, R288: a memory port performs its next cell; an ingress takes its next, at most one a slot, and sends a sound payload to
its bank; a store's words are then in device memory, and a payload's live words in the bay. Model's choices: log 50. -/
def Obligations.CellsPerformed : Prop :=
  ∀ (s : State),
    (∀ die port q rest, AMap.get (s.xchOf die).memQueues [] port = q :: rest →
      (s.cycle < q.entered → Completes (.memoryPortCell die port) s (fun t => t = s.later (q.entered - s.cycle) (.memoryPortCell die port))) ∧
      (∀ id a l w ws m, q.entered ≤ s.cycle → s.stopped (.port (die * 256 + port)) = false → s.stalled die port q.cell.note false = false →
        q.body = .request id → AMap.find s.accs id = some a → AMap.find s.loans a.loan = some l →
        l.windowAt a.ctx a.win = some w → a.op = .store ws m → a.onRing = false → s.scBehind id = false →
        Completes (.memoryPortCell die port) s (fun t => t.mem = a.writeAt l w s.mem ∧ t.tmem = s.tmem ∧
          AMap.get (t.xchOf die).memQueues [] port = rest)) ∧
      (∀ id a l w, q.entered ≤ s.cycle → s.stopped (.port (die * 256 + port)) = false → s.stalled die port q.cell.note false = false →
        q.body = .request id → AMap.find s.accs id = some a → AMap.find s.loans a.loan = some l →
        l.windowAt a.ctx a.win = some w → a.op = .load → a.onRing = false → s.scBehind id = false →
        Completes (.memoryPortCell die port) s (fun t => t.mem = s.mem ∧ t.tmem = s.tmem ∧ ∃ b, AMap.find t.accs id = some b ∧
          b.words = { a with seen := l.seenStores a }.readAt l w (s.loadMem a.phys (squareSize w.ty)) ∧ b.stage = .performed))) ∧
    (∀ bay q rest, (s.bay bay).ingress = q :: rest →
      (s.cycle < q.entered → Completes (.ingressCell bay) s (fun t => t = s.later (q.entered - s.cycle) (.ingressCell bay))) ∧
      (q.entered ≤ s.cycle → s.stopped (bayUnit bay) = false → AMap.get (s.xchOf (bay / 128)).lastEntry 0 (256 + bayPort bay) ≠ slotOf s.cycle + 1 →
        (s.bay bay).payloads ≠ 0 → Completes (.ingressCell bay) s (fun t => t = s.later 1 (.ingressCell bay))) ∧
      (∀ l b w, q.entered ≤ s.cycle → s.stopped (bayUnit bay) = false →
        AMap.get (s.xchOf (bay / 128)).lastEntry 0 (256 + bayPort bay) ≠ slotOf s.cycle + 1 → q.body = .payload →
        (s.bay bay).payloads = 0 → AMap.find s.accs q.access = none →
        AMap.find s.loans q.loan = some l → l.bayNumber bay = some b → l.ctxs.contains q.cell.ctx.toNat = true →
        l.windowAt q.cell.ctx.toNat q.cell.win.toNat = some w →
        (w.virt = false → q.cell.spos.toNat * 256 + 256 ≤ w.size → l.accordHere b q.cell = true →
          Completes (.ingressCell bay) s (fun t => (t.bay bay).ingress = rest ∧ t.tmem = s.tmem ∧ t.mem = s.mem ∧
            ∃ e ∈ AMap.get (t.bay bay).banks [] (bankKey w.tile (bankOfSquare w l.firstLine (wordPlace w (q.cell.spos.toNat * 256)).1)),
              e.job = .payload q ∧ e.cycles = 8 ∧ e.arrived = s.cycle)) ∧
        (w.virt = true ∨ w.size < q.cell.spos.toNat * 256 + 256 →
          Completes (.ingressCell bay) s (fun t => Recorded t fWINDOW q.cell.tag ∧ t.tmem = s.tmem)))) ∧
    (∀ bay tile bank e q l b w, AMap.get (s.bay bay).banks [] (bankKey tile bank) = [e] → e.job = .payload q → e.arrived ≤ s.cycle →
      AMap.get (s.bay bay).bankBusy 0 (bankKey tile bank) ≤ s.cycle → s.bankComing = false → q.cell.accn = 0 → AMap.find s.accs q.access = none →
      AMap.find s.loans q.loan = some l → l.bayNumber bay = some b → l.windowAt q.cell.ctx.toNat q.cell.win.toNat = some w →
      Completes (.bankAccess bay tile bank) s (fun t => t.tmem = writePayload s.tmem bay w l.firstLine q.cell ∧ t.mem = s.mem))

/-- R219, R222, R224, R225, R226, R242, R254, R255: tiles ramp in turn; a feeder asks the bank for the line of its stream's next beat and sends the two
words of it; a step of an array adds the products to its accumulators, which are written three cycles later, and passes its operands on; the end of a
run frees the element; a layout record takes effect when no stream is open. Model's choices: log 58, 59, 61, 66. -/
def Obligations.ArraysAtWork : Prop :=
  ∀ (s : State) (id : Nat) (l : Loan), AMap.find s.loans id = some l →
    (∀ at0 bay k c rest, l.ramps = (at0, bay, k, c) :: rest → Completes (.rampTurnEnd id) s (fun t =>
      (AMap.get (t.bay bay).tiles Tile.empty (tileKey k c)).mode = .matrix ∧ (∃ l', AMap.find t.loans id = some l' ∧ l'.ramps = rest) ∧
      (rest ≠ [] → (s.cycle + 16, Instr.rampTurnEnd id) ∈ t.agenda) ∧
      (∀ m ms, (AMap.get (s.bay bay).tiles Tile.empty (tileKey k c)).counted = m :: ms → (m :: ms).length = 32 →
        (AMap.get (t.bay bay).tiles Tile.empty (tileKey k c)).fields = m.fields ∧
        (AMap.get (t.bay bay).tiles Tile.empty (tileKey k c)).counted = []))) ∧
    (∀ index isB c n a w, l.ended = false → l.ctxs = [c] →
      let bay := l.bayKey (index / 128)
      let feed := (s.bay bay).feed (feedKey (layoutTile index isB) c isB)
      let r := feed.record
      let place := a.place r w isB
      feed.lanes = [(n, a)] → feed.queue = [] → n < 8 → a.halted = false → a.owed ≠ 0 → a.asked = false → a.lim = none → a.req.start ≤ s.cycle →
      a.scaleOwed = 0 → l.windowAt c r.win = some w → w.virt = false → lineInside w r.o place.2.2.1 place.2.2.2 = true →
      (entryRoom s l c isB a).2.1 < 1 + (entryRoom s l c isB a).1 →
      Completes (.feedBeat id index isB) s (fun t => t.tmem = s.tmem ∧ t.mem = s.mem ∧
        ∃ e ∈ AMap.get (t.bay bay).banks [] (bankKey w.tile (bankOfSquare w l.firstLine (place.2.2.1 / squareSize w.ty))),
          e.job = .beat id a.req.index c isB n ∧ e.arrived = s.cycle)) ∧
    (∀ b tile bank e index c isB n bay key a r w, AMap.get (s.bay b).banks [] (bankKey tile bank) = [e] → e.job = .beat id index c isB n →
      e.arrived ≤ s.cycle → AMap.get (s.bay b).bankBusy 0 (bankKey tile bank) ≤ s.cycle → s.bankComing = false → s.eccBad = [] →
      s.feedRead l index c isB n = some (bay, key, a, r, w) → a.asked = true →
      let place := a.place r w isB
      let word (i : Nat) : W32 := readLineWord s.tmem (tileTr bay) w l.firstLine (place.2.2.1 / squareSize w.ty) place.2.2.2 r.o (2 * place.1 + i)
      let beat : Beat := ⟨s.cycle + (entryRoom s l c isB a).1, word 1 ++ word 0⟩
      Completes (.bankAccess b tile bank) s (fun t => t.tmem = s.tmem ∧ t.mem = s.mem ∧
        (isB = false → (t.el (l.elKey index)).opA = (s.el (l.elKey index)).opA ++ [beat]) ∧
        (isB = true → (t.el (l.elKey index)).opB = (s.el (l.elKey index)).opB ++ [beat]))) ∧
    (∀ el c, ((s.el el).ctx c).loan = some id →
      let tile := AMap.get (s.bay (l.bayKey (((s.el el).ctx c).logical / 128))).tiles Tile.empty (tileKey (tileOfIndex ((s.el el).ctx c).logical) c)
      let v := s.updEl el (fun e => e.updCtx c (fun x => x.mxDue s.cycle))
      let u := if tile.mode == .matrix && !l.ended then (v.sideBeat l el c false).sideBeat l el c true else v
      (((v.el el).ctx c).run = none → Completes (.matrixStep el c) s (fun t => t = u)) ∧
      (∀ r, ((v.el el).ctx c).run = some r →
        (r.total ≤ r.done ∨ l.ended = true ∨ planStep u l el c r = none → Completes (.matrixStep el c) s (fun t => t = u)) ∧
        (∀ p, r.done < r.total → l.ended = false → planStep u l el c r = some p →
          (∀ k d, p.east = some (k, d) → k ≠ el) → (∀ k d, p.south = some (k, d) → k ≠ el) →
          Completes (.matrixStep el c) s (fun t => (t.el el).ctx c = stepCtx ((v.el el).ctx c) r tile.fields p s.cycle ∧
            (t.el el).opA = (s.el el).opA.drop 1 ∧ (t.el el).opB = (s.el el).opB.drop 1 ∧
            (∀ k d, p.east = some (k, d) → (s.cycle + d, p.a) ∈ (t.el k).opA.map (fun b => (b.due, b.value))) ∧
            (tile.fields.aty = .i8x4 → r.done ≠ 0 → r.writes = [] → ∃ r' w, ((t.el el).ctx c).run = some r' ∧ r'.writes = [w] ∧ w.due = s.cycle + 3 ∧
              ∀ i j, i < 8 → j < 8 → AMap.get (w.into ((v.el el).ctx c).acc) 0 (8 * i + j) =
                AMap.get ((v.el el).ctx c).acc 0 (8 * i + j) + (p.a.extractLsb' (8 * i) 8).signExtend 32 * (p.b.extractLsb' (8 * j) 8).signExtend 32))))) ∧
    (∀ el c r, ((s.el el).ctx c).run = some r → ((s.el el).ctx c).loan = some id → Completes (.runEnd el c) s (fun t =>
      ((t.el el).ctx c).run = none ∧ ((t.el el).ctx c).acc = (((s.el el).ctx c).mxDue s.cycle).acc ∧
      (∀ c', c' ≠ c → (t.el el).ctx c' = (s.el el).ctx c') ∧ (∀ k, k ≠ el → t.el k = s.el k) ∧ t.mem = s.mem)) ∧
    (∀ bay k c isB r a, ((s.bay bay).feed (feedKey k c isB)).queue = [.record r a] → ((s.bay bay).feed (feedKey k c isB)).isOpen = false →
      (∀ p ∈ ((s.bay bay).feed (feedKey k c isB)).lanes, p.2.owed = 0) → Completes (.layoutRecordApply bay k c isB) s (fun t =>
        ((t.bay bay).feed (feedKey k c isB)).record = r ∧ ((t.bay bay).feed (feedKey k c isB)).n = 0 ∧
        (∀ p ∈ ((t.bay bay).feed (feedKey k c isB)).lanes, p.2.n = 0 ∧ p.2.m = 0) ∧ ((t.bay bay).feed (feedKey k c isB)).queue = []))

/-! ### Circulation, loans and retirement -/

/-- R99 to R107, R310 to R313, R315, R316: what comes of waits, launches, watches, arrivals and stocktakes. Model's choices: log 64, 65, 118, 131. -/
def Obligations.CirculationEvents : Prop :=
  ∀ (s : State),
    (∀ id w l f x, AMap.find s.hub.waits id = some w → w.met = true → AMap.find s.loans w.loan = some l → l.state = .running →
      w.flit = some f → f.loan = w.loan → f.emit = .token x →
      Completes (.tlwaitMet id) s (fun t => t.hub = { s.hub with waits := AMap.del s.hub.waits id } ∧
        (∃ l', AMap.find t.loans w.loan = some l' ∧ l'.waits = l.waits - 1) ∧ (s.cycle, f) ∈ (t.el (l.elKey x.el.toNat)).outside ∧
        (s.cycle, Instr.tokenArrive (l.elKey x.el.toNat) .outside) ∈ t.agenda)) ∧
    (∀ id x l, AMap.find s.hub.launches id = some x → AMap.find s.loans x.loan = some l →
      let u := s.endLaunch id x
      let read := s.readSlip x.va ⟨l.slip.space, l.slip.priv, 0xF, none⟩
      (s.stopped .loader = true → Completes (.launchAccept id) s (fun t => t = s.later 1 (.launchAccept id))) ∧
      (∀ bs slip, s.stopped .loader = false → read = some (bs, .ok slip) → Completes (.launchAccept id) s (fun t =>
        let slip := if x.inhw then { slip with wing := l.slip.wing } else slip
        ∃ v, u.accept slip (x.rank s) true = some v ∧ t = match x.flit with | some f => v.inject 0 x.index (f.withOperand 0) | none => v)) ∧
      (∀ bs reason off, s.stopped .loader = false → read = some (bs, .error (reason, off)) →
        Completes (.launchAccept id) s (fun t => t = match x.flit with
          | some f => (u.refuseSlip bs reason off).inject 0 x.index (f.withOperand 1)
          | none => u.refuseSlip bs reason off)) ∧
      (s.stopped .loader = false → read = none → Completes (.launchAccept id) s (fun t =>
        ∃ r ∈ t.hub.store ++ t.hub.blocked, r.code = BitVec.ofNat 8 fTRANSLATE ∧ r.addr = BitVec.ofNat 64 x.va))) ∧
    (∀ n w, AMap.find s.hub.watches n = some w →
      let c := s.counter w.selector
      ((if w.fall then c.1 ≤ w.threshold.toNat else w.threshold.toNat ≤ c.1) → Completes (.watchSample n) s (fun t =>
        t.hub.watches = AMap.del s.hub.watches n ∧
        ((∃ x ∈ t.hub.released, x.slip = w.slip) ∨ (∃ p ∈ t.hub.holds, p.2.slip = w.slip) ∨ (rankWatch n, w.slip) ∈ t.hub.waitingSlips))) ∧
      (¬(if w.fall then c.1 ≤ w.threshold.toNat else w.threshold.toNat ≤ c.1) → Completes (.watchSample n) s (fun t => t = c.2))) ∧
    (∀ id a l, AMap.find s.hub.arrivals id = some a → AMap.find s.loans a.loan = some l →
      let hkey := handlerKey a.index a.hnd
      let done := l.committedPrior a.prior (l.ownIters (l.imageOf a.ctx) hkey a.tag)
      let gone := s.updHub (fun x => { x with arrivals := AMap.del x.arrivals id })
      let party := (a.loan, hkey, a.flit)
      let put (b : Arrival) : State := s.updHub (fun x => { x with arrivals := AMap.put x.arrivals id b })
      (∀ r, s.barrierOf a = some r → r.count ≠ 0 →
        (a.tested = false → a.count ≠ r.count → Completes (.barrierArrive id) s (fun t => Recorded t fILLEGAL a.tag)) ∧
        (a.tested = true ∨ a.count = r.count → a.live = false ∨ done = true → r.n + 1 ≠ r.count → Completes (.barrierArrive id) s (fun t =>
          t.barrierOf a = some { r with n := r.n + 1, waiting := r.waiting ++ [party] })) ∧
        (a.tested = true ∨ a.count = r.count → a.live = false ∨ done = true → r.n + 1 = r.count → Completes (.barrierArrive id) s (fun t =>
          t = (r.waiting ++ [party]).foldl (fun u w => u.releaseParty a.wing w)
            (gone.setBarrier a (if gone.pendingAt id a then some ⟨0, 0, []⟩ else none)))) ∧
        (a.tested = true ∨ a.count = r.count → a.live = true → done = false → Completes (.barrierArrive id) s (fun t =>
          t = (put { a with there := true, tested := true }).later 1 (.barrierArrive id)))) ∧
      (s.barrierOf a = none → a.tested = false →
        (a.wing = true → 1024 ≤ s.hub.wingBarriers.length → Completes (.barrierArrive id) s (fun t =>
          t = (put { a with there := true }).later 1 (.barrierArrive id))) ∧
        ((a.wing = true → s.hub.wingBarriers.length < 1024) → a.live = false ∨ done = true → 1 < a.count → Completes (.barrierArrive id) s (fun t =>
          t.barrierOf a = some ⟨a.count, 1, [party]⟩)))) ∧
    (∀ k, s.hub.stocktake = some k → s.stopped .stocktake = false →
      (k.result.isSome = true → Completes .stocktakeSnapshot s (fun t => t = s)) ∧
      (k.result = none → k.second = false → Completes .stocktakeSnapshot s (fun t =>
        t.hub.stocktake = some { k with first := s.stalledRegions s.allRefused, heads := s.voqHeads, second := true, stuck := s.allRefused } ∧
        (s.cycle + 4096, Instr.stocktakeSnapshot) ∈ t.agenda)) ∧
      (k.result = none → k.second = true → Completes .stocktakeSnapshot s (fun t => ∃ n,
        t.hub.stocktake = some { k with result := some (n, s.stockResult k) } ∧ (∃ e ∈ t.hub.ringWaiting, e.node = 832 ∧ e.id = n)))) ∧
    (∀ id l, AMap.find s.loans id = some l → l.overrun s.cycle = true → s.tokensOf id l ≠ 0 →
      Completes (.watchdogExpire id) s (fun t => t.hub.stocktake.isSome = true ∧
        AMap.find t.loans id = some { l with watchdog := true } ∧ t.mem = s.mem)) ∧
    (∀ id l, AMap.find s.loans id = some l → (l.overrun s.cycle = false ∨ s.tokensOf id l = 0) →
      Completes (.watchdogExpire id) s (fun t => t = s))

/-- R28, R30, R89, R95 to R98, R111, R112, R125: while an entry is free the next queue in rotation is begun; its published slip is refused with a record,
released, or held, and its queue's head advances; the first released slip that has a rectangle is placed; one that has stood first for 65,536 cycles
gets a reservation. Model's choices: log 41, 79, 113. -/
def Obligations.SlipsAndPlacement : Prop :=
  ∀ (s : State), s.hub.waitingSlips = [] →
    (s.stopped .loader = true ∨ s.hub.nextQueue = none → Completes .slipRead s (fun t => t = s)) ∧
    (∀ n, s.stopped .loader = false → s.hub.nextQueue = some n →
      let q := s.hub.queue n
      let addr := q.base + 128 * (q.head.toNat % 2 ^ q.log2n.toNat)
      let bs := readBytes s.mem addr 128
      (q.busy = false → s.hub.freeHolds = 0 → Completes .slipRead s (fun t => t = s)) ∧
      (q.busy = false → s.hub.freeHolds ≠ 0 → Completes .slipRead s (fun t =>
        t = s.updHub (fun h => h.updQueue n (fun q => { q with busy := true })))) ∧
      (q.busy = true → s.chunkMoves addr 128 = true → Completes .slipRead s (fun t => t = s)) ∧
      (∀ reason off, q.busy = true → s.chunkMoves addr 128 = false → checkSlip bs ⟨q.space, q.privOk, q.dies, none⟩ = .error (reason, off) →
        Completes .slipRead s (fun t => (t.hub.queue n).head = q.head + 1 ∧ (t.hub.queue n).busy = false ∧ t.hub.rotation = n ∧
          ∃ r ∈ t.hub.store ++ t.hub.blocked, r.code = BitVec.ofNat 8 fCFG ∧ r.detail = cfgDetail reason 0 0xFFFF off)) ∧
      (∀ slip, q.busy = true → s.chunkMoves addr 128 = false → checkSlip bs ⟨q.space, q.privOk, q.dies, none⟩ = .ok slip →
        let met := slip.holds.map (fun h => decide (h.2 ≤ s.timeline h.1.toNat))
        (met.all id = true → Completes .slipRead s (fun t => (t.hub.queue n).head = q.head + 1 ∧ t.hub.rotation = n ∧
          t.hub.holds = s.hub.holds ∧ ∃ x ∈ t.hub.released, x.slip = slip ∧ x.cycle = s.cycle ∧ x.rank = rankQueue n)) ∧
        (met.all id = false → 0 < s.hub.freeHolds → Completes .slipRead s (fun t => (t.hub.queue n).head = q.head + 1 ∧
          t.hub.released = s.hub.released ∧ AMap.find t.hub.holds s.nextId = some ⟨slip, met, rankQueue n, false⟩)) ∧
        (met.all id = false → s.hub.freeHolds = 0 → Completes .slipRead s (fun t => t = s)))) ∧
    (s.stopped .loader = true → Completes .placementDecision s (fun t => t = s.updHub (fun h => h.standing s.cycle))) ∧
    (s.stopped .loader = false →
     let u := s.updHub (fun h => h.standing s.cycle)
     ((∀ x ∈ u.hub.released, u.tryPlace x = none) → Completes .placementDecision s (fun t => t = u)) ∧
     (∀ pre x post v, u.hub.released = pre ++ x :: post → (∀ y ∈ pre, u.tryPlace y = none) → u.tryPlace x = some v →
      Completes .placementDecision s (fun t => t = v))) ∧
    (s.overdue = [] → Completes .placementReservation s (fun t => t = s)) ∧
    (∀ x r c, s.overdue = [x] → s.choices x (s.slipImage x.slip) = [] → s.soonest x = some (r, c) →
      Completes .placementReservation s (fun t =>
        t = { s with hub := { s.hub with reservations := AMap.put s.hub.reservations r.die ⟨x.slip, x.cycle, r.nwb, c⟩ } }))

/-- R81, R94, R118, R122, R385: a loan's image is read and checked, and written at the time that its words take, or it is refused with a
CFG_REJECT and the loan returns; the first activation begins when every bay is awake; a prefetched image is resident. Model's choices: log 81, 82, 110, 136. -/
def Obligations.ImagesLoaded : Prop :=
  ∀ (s : State) (id : Nat) (l : Loan), AMap.find s.loans id = some l → s.stopped .loader = false →
    (l.state = .fetching → l.exitTaken = none → l.hit = false →
      let read := s.loadImage l.slip.space l.slip.cfg ⟨l.w, l.h, l.slip.priv, l.slip.mstore⟩
      (∀ bad, read = .error bad → Completes (.imageFetchDone id) s (fun t =>
        (∃ l', AMap.find t.loans id = some l' ∧ l'.state = .returning) ∧ (s.cycle + 1, Instr.loanReturn id) ∈ t.agenda ∧
        ∃ r ∈ t.hub.store ++ t.hub.blocked, r.code = BitVec.ofNat 8 fCFG ∧ r.loan = l.word ∧ r.detail = bad.detail)) ∧
      (∀ img l', read = .ok img → argsOk (img.placed l.rect) l.slip.args = true →
        s.takeNeed id l ((img.placed l.rect).need l.slip.mstore) = some l' → Completes (.imageFetchDone id) s (fun t =>
          AMap.find t.loans id = some { l' with image := img.placed l.rect, images := [], state := .writing } ∧
          (s.cycle + ((img.placed l.rect).writeCycles (!l'.hit) true + 1), Instr.configWriteDone id) ∈ t.agenda))) ∧
    (l.state = .writing → s.allAwake l.rect = false → Completes (.configWriteDone id) s (fun t => t = s.later 1 (.configWriteDone id))) ∧
    (l.state = .writing → s.allAwake l.rect = true →
      let u := (s.writeContext id l l.ctx l.image l.hit).updLoan id (fun l => { l with images := AMap.put l.images l.ctx l.image, drops := [] })
      let v := (if l.exitTaken.isNone then u.clearWindows l l.image else u).writeRecords l l.image
      (∀ w, v.startFirst id = some w → Completes (.configWriteDone id) s (fun t => t = w)) ∧
      (v.startFirst id = none → Completes (.configWriteDone id) s (fun t => t = s.later 1 (.configWriteDone id)))) ∧
    (∀ n p, AMap.find s.hub.prefetches n = some p →
      let r : Rect := ⟨p.die, p.nwb, p.w, p.h⟩
      (∀ bad, p.read = none → s.loadImage p.space p.addr ⟨p.w, p.h, p.priv, p.mstore⟩ = .error bad → Completes (.prefetchDone n) s (fun t =>
        t.hub.prefetches = AMap.del s.hub.prefetches n ∧ t.loans = s.loans ∧ t.mem = s.mem)) ∧
      (∀ img, p.read = none → s.loadImage p.space p.addr ⟨p.w, p.h, p.priv, p.mstore⟩ = .ok img → Completes (.prefetchDone n) s (fun t =>
        t.hub.prefetches = AMap.put s.hub.prefetches n { p with read := some (img.placed r) } ∧
        (s.cycle + (img.wordCycles + 1), Instr.prefetchDone n) ∈ t.agenda ∧ t.bays = s.bays ∧ t.loans = s.loans ∧ t.mem = s.mem)) ∧
      (∀ img, p.read = some img → Completes (.prefetchDone n) s (fun t =>
        t.hub.prefetches = AMap.del s.hub.prefetches n ∧ t.loans = s.loans ∧ t.mem = s.mem ∧
        ∀ b ∈ r.bays, ((t.bay b).ctxAt p.ctx).st = .resident ∧ ((t.bay b).ctxAt p.ctx).image = img)))

/-- R121, R205, R382 to R387: the oldest iteration that is ready retires and its stores are released; the first exit token is taken; a loan
whose exit is taken drains, and then returns or takes its successor; a return makes the completion increment and leaves a record. Model's choices: log 104, 105, 132. -/
def Obligations.RetirementAndReturn : Prop :=
  ∀ (s : State) (id : Nat) (l : Loan), AMap.find s.loans id = some l →
    (∀ g, l.retirable = some g → Completes (.iterationRetire id) s (fun t => ∃ l', AMap.find t.loans id = some l' ∧
      l'.flights = l.flights.erase g ∧ l'.commit = l.commit.filter (fun x => !(x.loop == g.loop && x.frame == g.frame && x.its == g.its)))) ∧
    (l.retirable = none → l.releasing = [] → Completes (.iterationRetire id) s (fun t => t = s)) ∧
    (∀ x, l.exitTaken = none → (l.state = .running ∨ l.state = .switching) → (firstExit s.cycle l.exits).map (fun e => e.2.2.2) = some x →
      Completes (.exitTaken id) s (fun t => AMap.find t.loans id = some { l with exitTaken := some x, lastExit := x % 8 } ∧
        (s.cycle + 1, Instr.exitDrainDone id) ∈ t.agenda ∧
        (t.bay (l.bayKey 0)).predictor = predictTaken (s.bay (l.bayKey 0)).predictor (l.imageOf (x / 8)).addr (x % 8) ∧ t.mem = s.mem)) ∧
    (l.exitTaken.isSome = true → Completes (.exitTaken id) s (fun t => t = s)) ∧
    ((l.state = .running ∨ l.state = .switching) → Completes (.exitDrainDone id) s (fun t => t = (s.beginExit id l).later 1 (.exitDrainDone id))) ∧
    (l.state = .exiting → s.drained id l = false → Completes (.exitDrainDone id) s (fun t => t = s.later 1 (.exitDrainDone id))) ∧
    (l.state = .exiting → s.drained id l = true → l.byKernel = false → ∀ n e, l.exitEntry = some (n, e) →
      (e.ret = true → Completes (.exitDrainDone id) s (fun t => AMap.find t.loans id = some { l with state := .returning } ∧
        (s.cycle + 1, Instr.loanReturn id) ∈ t.agenda)) ∧
      (e.ret = false → s.prefetchesOn l e.addr = false → Completes (.exitDrainDone id) s (fun t => t = s.beginSuccessor id l e.addr))) ∧
    ((l.slip.cmpv = true → s.stopped .timelines = false) → AMap.wf s.loans = true → Completes (.loanReturn id) s (fun t =>
      let cmpd := l.slip.cmpv && l.exitTaken.isSome && !l.byKernel
      let n := l.slip.cmp.1.toNat
      AMap.find t.loans id = none ∧ (∀ k, k ≠ id → (AMap.find t.loans k).isSome = (AMap.find s.loans k).isSome) ∧
      t.timeline n = (if cmpd then min (s.timeline n + l.slip.cmp.2) (2 ^ 64 - 1) else s.timeline n) ∧
      t.hub.returns.getLast? = some (l.returnRec s.cycle cmpd (cmpd && decide (2 ^ 64 ≤ s.timeline n + l.slip.cmp.2))) ∧
      t.tmem = s.tmem))

/-! ### Calls, switches and the debugger -/

/-- R351 to R356: the freeze markers stop the calling activation's bays; three quiet cycles later it is frozen, and then the callee's first
frame is made; planes are spilled where none is free; the thaw of a caller pops its planes. Model's choices: log 88, 94. -/
def Obligations.CallEvents : Prop :=
  ∀ (s : State) (id : Nat) (l : Loan) (c : Calling), AMap.find s.loans id = some l → l.state = .running →
    (l.calling = some c →
      (∀ bay, c.stage = .freezing → l.marked.length + 1 < l.w * l.h → Completes (.freezeMarkerArrive id bay) s (fun t =>
        ∃ l', AMap.find t.loans id = some l' ∧ l'.marked = l.marked ++ [bay] ∧ l'.calling = some c ∧
          (∀ a, AMap.find l.acts c.act = some a → (AMap.find l'.acts c.act).map Activation.freezing = some true))) ∧
      (c.stage = .freezing → c.quiet < 3 → Completes (.freezePoint id) s (fun t =>
        AMap.find t.loans id = some { l with calling := some { c with quiet := if s.actQuiet id l c.act then c.quiet + 1 else 0 } } ∧
        (s.cycle + 1, Instr.freezePoint id) ∈ t.agenda)) ∧
      (c.stage = .freezing → 3 ≤ c.quiet → Completes (.freezePoint id) s (fun t => t = s.freeze id l c)) ∧
      (c.stage = .entering → Completes (.freezePoint id) s (fun t => t = s.enterCallee id l c)) ∧
      (c.stage = .planes → Completes (.planeSpillDone id) s (fun t => t = s.secureCall id l c)) ∧
      (c.stage ≠ .planes → Completes (.planeSpillDone id) s (fun t => t = s))) ∧
    (∀ h r a, l.thaw = some h → (AMap.find l.acts h.callee).bind Activation.call = some r → AMap.find l.acts r.callerAct = some a → l.marked = [] →
      Completes (.thawPop id) s (fun t => t = s.resend id l h r a)) ∧
    (l.thaw = none → Completes (.thawPop id) s (fun t => t = s))

/-- R346 to R350: a switch stops a running loan that has a save area, drains it until it settles, and saves it; a failed write is a SAVE_FAULT,
and a loan whose blocks are written is switched out with its requests answered 0; a marked one is restored. Model's choices: log 100, 101, 103. -/
def Obligations.SwitchEvents : Prop :=
  ∀ (s : State) (id : Nat) (l : Loan), AMap.find s.loans id = some l →
    (l.state ≠ .running → Completes (.switchRequest id) s (fun t =>
      t = (s.answerScans l.switchers 3).updLoan id (fun l => { l with switchers := [] }))) ∧
    (l.state = .running → l.slip.save = 0 → Completes (.switchRequest id) s (fun t => t = s)) ∧
    (l.state = .running → l.slip.save ≠ 0 → l.calling = none → l.thaw = none → (∀ p ∈ l.acts, p.2.call = none ∨ p.2.start ≠ s.cycle) →
      Completes (.switchRequest id) s (fun t => (∃ l', AMap.find t.loans id = some l' ∧ l'.state = .switching) ∧
        (s.cycle + 1, Instr.switchDrainDone id) ∈ t.agenda ∧ t.mem = s.mem ∧ t.tmem = s.tmem)) ∧
    (l.state = .switching → l.exitTaken = none → s.settled id l = false →
      Completes (.switchDrainDone id) s (fun t => t = s.later 1 (.switchDrainDone id))) ∧
    (l.state = .switching → l.exitTaken = none → s.settled id l = true → Completes (.switchDrainDone id) s (fun t => t = s.beginSave id l)) ∧
    (l.state = .saving → l.saveFault = false → AMap.find s.snaps id = none →
      let body := s.saveBody id l
      (s.writeVirt l.slip.space (l.slip.save + 4096) body = none → Completes (.scanOutDone id) s (fun t =>
        (∃ r ∈ t.hub.store ++ t.hub.blocked, r.code = BitVec.ofNat 8 fSAVE) ∧
        ∃ l', AMap.find t.loans id = some l' ∧ l'.saveFault = true ∧ l'.switchers = [])) ∧
      (∀ u v, s.writeVirt l.slip.space (l.slip.save + 4096) body = some u →
        u.writeVirt l.slip.space l.slip.save (saveHeader s l 2 (crc32 body)) = some v → Completes (.scanOutDone id) s (fun t =>
          (∃ l', AMap.find t.loans id = some l' ∧ l'.state = .switchedOut) ∧ (AMap.find t.snaps id).isSome = true ∧ t.mem = v.mem))) ∧
    (l.state = .running → Completes (.restore id) s (fun t => t = s.redeliver id l)) ∧
    (∀ x, l.state = .switchedOut → AMap.find s.snaps id = some x → l.restoreMark = false → Completes (.restore id) s (fun t => t = s)) ∧
    (∀ x, l.state = .switchedOut → AMap.find s.snaps id = some x → l.restoreMark = true →
      Completes (.restore id) s (fun t => t = (s.beginRestore id l x).getD s)) ∧
    (∀ x, l.state = .saving → AMap.find s.snaps id = some x → s.allAwake l.rect = true →
      Completes (.restore id) s (fun t => t = (s.endRestore id l).later 1 (.restore id)))

/-- R367 to R369: the kernel starts a bay's Colophon, which clears its status; halts it after the instruction in progress, with its `PC`; and
sets its capture, where `CAP` 0 empties the port. Model's choices: log 29. -/
def Obligations.ColophonKernelWrites : Prop :=
  ∀ (s : State) (bay : Nat) (v : W64),
    let c := (s.bay bay).colophon
    (c.run = false → Completes (.colophonRun bay v) s (fun t =>
      let d := (t.bay bay).colophon
      d.run = true ∧ d.halt = false ∧ d.err = false ∧ d.ecode = 0 ∧ d.haltPc = 0 ∧ d.hcode = 0 ∧ d.flg = 0 ∧ d.regs = c.regs ∧
      d.pc = (v.extractLsb' 4 10).toNat ∧ d.cctx = v.extractLsb' 2 2 ∧ d.cap = v.getLsbD 1 ∧ (∀ b, b ≠ bay → t.bay b = s.bay b) ∧
      t = { s with bays := t.bays })) ∧
    (c.run = true → Completes (.colophonRun bay v) s (fun t =>
      (t.bay bay).colophon = { c with cap := v.getLsbD 1, port := if v.getLsbD 1 then c.port else [] } ∧ t = { s with bays := t.bays })) ∧
    (c.run = true → Completes (.colophonHalt bay) s (fun t =>
      (t.bay bay).colophon = { c with run := false, halt := true, haltPc := BitVec.ofNat 10 c.pc } ∧ t = { s with bays := t.bays })) ∧
    (c.run = false → Completes (.colophonHalt bay) s (fun t => (t.bay bay).colophon = c)) ∧
    Completes (.colophonCapture bay v) s (fun t =>
      let d := (t.bay bay).colophon
      d.cap = v.getLsbD 1 ∧ (v.getLsbD 1 = false → d.port = []) ∧ (v.getLsbD 1 = true → d.port = c.port) ∧ d.run = c.run ∧ d.regs = c.regs ∧
      t = { s with bays := t.bays })

/-- R345, R350, R394, R396: what glaed's commands do to the machine; a command that only shows changes nothing but what is shown, and one about
a loan that is not there is an error. Model's choices: log 35, 129, 130. -/
def Obligations.Glaed : Prop :=
  ∀ (s : State),
    (∀ src, (s.startSource src = none → Completes (.glaedRun src) s (fun t => t = s.noSuch)) ∧
      (∀ u, s.startSource src = some u → Completes (.glaedRun src) s (fun t => t = u.startSession src))) ∧
    (∀ b, Completes (.glaedBreak b) s (fun t => t = { s with glaed := { s.glaed with breaks := s.glaed.breaks ++ [b] } })) ∧
    (∀ c w o, Completes (.glaedWatch c w o) s (fun t => t = { s with glaed := { s.glaed with watches := s.glaed.watches ++ [⟨c, w, o⟩] } })) ∧
    (∀ n, 0 < n → Completes (.glaedStep n) s (fun t => t = { s with glaed := { s.glaed with stopped := false, running := false, stepLeft := some n } })) ∧
    Completes .glaedContinue s (fun t => t = { s with glaed := { s.glaed with stopped := false, running := true, stepLeft := none } }) ∧
    (∀ a b c, (∀ i ∈ ([.glaedShowQueues a b c, .glaedShowFrame a b, .glaedShowAcc a b c, .glaedShowPlanes a b, .glaedShowVoq a b, .glaedShowWave a,
        .glaedShowSillage a b, .glaedShowRetire, .glaedFaults] : List Instr), Completes i s (fun t => t = { s with glaed := { s.glaed with rows := t.glaed.rows } })) ∧
      (AMap.find s.loans a = none → ∀ i ∈ ([.glaedShowQueues a b c, .glaedShowFrame a b, .glaedShowAcc a b c, .glaedShowPlanes a b, .glaedShowWave a,
        .glaedShowSillage a b, .glaedSwitch a] : List Instr), Completes i s (fun t => t = s.noSuch))) ∧
    Completes .glaedStocktake s (fun t => t.hub.stocktake.isSome = true ∧ t.glaed = { s.glaed with report := some s.glaed.stopped, stopped := false }) ∧
    (∀ id p l, AMap.find s.loans id = some l → Completes (.glaedPreempt id p) s (fun t => t = s.writePrio id p true) ∧
      (l.state = .running → Completes (.glaedSwitch id) s (fun t => t = s.later 1 (.switchRequest id))) ∧
      (l.state = .switchedOut → Completes (.glaedSwitch id) s (fun t => AMap.find t.loans id = some { l with restoreMark := true })))

/-! ### The machine as a whole -/

/-- R126, R366, R367, R370, and the order of a step: what the outside does comes first, then a ready Colophon runs the instruction that its word
decodes to, then what is due, then each handler chosen at the start of the cycle runs the instruction that its word decodes to, and then the cycle ends.
Model's choices: log 1, 138. -/
def Obligations.StepRuns : Prop :=
  ∀ (s : State),
    (∀ i rest, s.inputs = i :: rest → step s = exec (nextInput i rest).1 { s with inputs := (nextInput i rest).2 }) ∧
    (∀ i rest, s.inputs = i :: rest → (∀ n v, i ≠ .hostTimelineIncrement n v) → step s = exec i { s with inputs := rest }) ∧
    (s.inputs = [] → s.glaed.stopped = true → step s = .next s) ∧
    (s.inputs = [] → s.glaed.stopped = false →
      (∀ b, readyColophon s = some b →
        let c := (s.bay b).colophon
        (∀ i, decodeColophon (AMap.get c.program 0 c.pc) = .ok i → step s = exec i { s with focus := { s.focus with bay := b } }) ∧
        (∀ e, decodeColophon (AMap.get c.program 0 c.pc) = .error e → ∃ t, step s = .next t ∧ (t.bay b).colophon.run = false ∧
          (t.bay b).colophon.err = true ∧ (t.bay b).colophon.ecode = e.code ∧ (t.bay b).colophon.regs = c.regs)) ∧
      (readyColophon s = none → ∀ at0 i rest, s.agenda = (at0, i) :: rest → at0 ≤ s.cycle → step s = exec i { s with agenda := rest }) ∧
      (readyColophon s = none → (∀ p ∈ s.agenda.head?, s.cycle < p.1) →
        let c := s.choosing exec
        (s.chosen = none → c.2 = chooseFirings exec s) ∧ (∀ xs, s.chosen = some xs → c = (s, xs)) ∧
        (∀ x rest i, c.2 = x :: rest → decodeHandler (AMap.get ((c.1.el x.el).ctx x.ctx).handlers nopWord x.hnd) = .ok i →
          (c.1.breaksAt x.el x.ctx x.hnd = false → step s = exec i (prepareFiring { c.1 with chosen := some rest } x)) ∧
          (c.1.breaksAt x.el x.ctx x.hnd = true → step s = .next ({ c.1 with chosen := some (x :: rest) }.stopBefore x.el x.ctx x.hnd))) ∧
        (c.2 = [] → step s = .next (tick c.1))))

/-- R56 to R65, R71, R72, R370: words that the spec derives bit by bit decode to the instructions that they stand for, and `NOP` and the
zero word to none. -/
def Obligations.DecodeWords : Prop :=
  decodeHandler 0x0020080102000020 = .ok (.iadd ⟨.queue, 2, .keep, .i32, true, false, false, false⟩ (.i ⟨.element 129 0 0, 32⟩)) ∧
  decodeHandler 0x1C20200002000824 = .ok (.cellkey ⟨.queue, 2, .keep, .f32, false, false, false, false⟩ ⟨.element 1 0 0, 0x824⟩) ∧
  decodeHandler 0x5020000000500809 =
    .ok (.steer ⟨.queue, 2, .keep, .i32, false, false, false, false⟩ ⟨.element 0 0 5, .dest (.element 64 1 1)⟩) ∧
  decodeHandler 0x711000C010200003 =
    .ok (.mxstep ⟨.queue, 1, .keep, .i32, false, false, false, false⟩ ⟨true, true, false, false, 32, 1, 3⟩) ∧
  decodeHandler 0x801022085FD010E0 =
    .ok (.ld ⟨.queue, 1, .keep, .f32, false, false, true, false⟩ ⟨2, 5, 7, 7, false, true, .element 135 0 0⟩) ∧
  decodeHandler 0xA310001100800080 =
    .ok (.barr ⟨.queue, 1, .keep, .i32, false, false, false, false⟩ ⟨0x11, 8, .element 4 0 0⟩) ∧
  decodeHandler 0xB3100009004C0000 = .ok (.ccall ⟨.queue, 1, .keep, .i32, false, false, false, false⟩ ⟨9, 4, .sink⟩) ∧
  decodeColophon 0x0E188000 = .ok (.efma 8 6 2) ∧ decodeColophon 0x41403FF2 = .ok (.eloop 5 (BitVec.ofInt 14 (-14))) ∧
  decodeColophon 0x4C040003 = .ok (.esig 1 3 0 0) ∧
  decodeHandler 0 = .error .arity ∧ decodeHandler nopWord = .error .opcode

/-- R71: the only encoding of `NOP` is accepted and every other word of its opcode refused; a context's unused words are `NOP`; the zero
word is refused for its arity. -/
def Obligations.NopWord : Prop :=
  nopWord = 0xBD00000000000000 ∧ (∀ priv index, wordReason priv index nopWord = 0) ∧
  (∀ priv index (w : W64), w.extractLsb' 56 8 = 0xBD → w ≠ nopWord → wordReason priv index w ≠ 0) ∧
  (∀ img id index bad h, h < 8 → AMap.find img.handlers (handlerKey index h) = none →
    AMap.get (loadedCtx img id index bad).handlers nopWord h = nopWord) ∧
  (∃ b, rowOf 0 = some b ∧ b.make = .di .iadd) ∧ ∀ priv index, wordReason priv index 0 = 0x12

/-- R56, R57, R64, R370 to R372: every instruction that the loader accepts is read back from its own word, and every word that is read is the
word of what it stands for: no bit is dropped. -/
def Obligations.EncodingsAgree : Prop :=
  (∀ i h, wellFormed i = true → handlerView i = some h → decodeHandler (encodeHandler h) = .ok i) ∧
  (∀ (w : W64) i, decodeHandler w = .ok i → wellFormed i = true ∧ ∃ h, handlerView i = some h ∧ encodeHandler h = w) ∧
  (∀ (w : W32) i, encodeColophon i = some w ↔ decodeColophon w = .ok i)

/-- Memories in canonical form: what every step keeps. Model's choices: log 6. -/
def Obligations.MemoryInvariant : Prop :=
  ∀ s t : State, Memory.wf s.mem = true → Memory.wf s.tmem = true → Memory.wf s.boot.staging = true → step s = .next t →
    Memory.wf t.mem = true ∧ Memory.wf t.tmem = true ∧ Memory.wf t.boot.staging = true

/-- R18, R99, R110: what reset leaves: the cycle counter at zero, every timeline zero, memories empty and in canonical form, no bay awake, no
loan, no queue enabled, and the boot ROM about to begin. Model's choices: log 1, 3, 6. -/
def Obligations.ResetState : Prop :=
  let s := State.reset
  s.cycle = 0 ∧ (∀ n, s.timeline n = 0) ∧ (∀ a, readByte s.mem a = 0 ∧ readByte s.tmem a = 0) ∧
  (Memory.wf s.mem = true ∧ Memory.wf s.tmem = true ∧ Memory.wf s.boot.staging = true) ∧
  (∀ b, (s.bay b).awake = false) ∧ s.loans = [] ∧ (∀ q, (s.hub.queue q).en = false ∧ (s.hub.queue q).head = 0 ∧ (s.hub.queue q).tail = 0) ∧
  (s.boot.link = false ∧ s.boot.layout = false) ∧ s.agenda = [(0, .reset)]

/-- No instruction is ever refused, and the only fault is an access from outside to an address that no address field holds. Model's choices: log 121. -/
def Obligations.EveryInstructionRuns : Prop :=
  ∀ (i : Instr) (s : State),
    (∃ t, exec i s = .next t) ∨
    (exec i s = .fault .noSuchAddress ∧
      ((∃ a : AgentAccess, 2 ^ 52 < a.addr + agentSize a.op ∧ (i = .hostMemoryAccess a ∨ i = .curatorMemoryAccess a ∨ i = .thrumArrival (.access a))) ∨
       ∃ space va entry e, 2 ^ 52 < entry + 8 ∧ i = .kernelPageInvalidate space va entry e))

/-- R339, R340, R342: taking an exception, the one operation of every fault: the record holds the code, the frame's tag, the address, the
detail, the cycle and the slip's number; a code that stops parks the frame with what it keeps, and any other leaves every loan as it was. -/
def Obligations.FaultTaking : Prop :=
  ∀ (s : State) (r : Report) (loops : List Nat) (kept : List Kept) (id : Nat) (l : Loan) (tag : Tag) (fr : Frame),
    r.loan = some id → r.tag = some tag → AMap.find s.loans id = some l → AMap.find l.frames tag.frame.toNat = some fr → fr.released = false →
    let t := s.raise r loops kept
    (∃ x ∈ t.hub.store ++ t.hub.blocked, x.code = BitVec.ofNat 8 r.code ∧ x.kown = kernelOwned r.code ∧ x.parked = stopsFrame r.code ∧
      x.tag = Tag.bits tag ∧ x.addr = BitVec.ofNat 64 r.addr ∧ x.detail = r.detail ∧ x.stamp = BitVec.ofNat 64 s.cycle ∧ x.sid = l.slip.sid) ∧
    (stopsFrame r.code = true → ∃ l' fr' p, AMap.find t.loans id = some l' ∧ AMap.find l'.frames tag.frame.toNat = some fr' ∧
      fr'.parked = some p ∧ ∃ pre, p.kept = pre ++ kept) ∧
    (stopsFrame r.code = true → fr.parked = none → ∀ k, k ≠ id → AMap.find t.loans k = AMap.find s.loans k) ∧
    (stopsFrame r.code = false → t = { s with hub := t.hub }) ∧
    t.mem = s.mem ∧ t.tmem = s.tmem ∧ t.cycle = s.cycle ∧ t.xch = s.xch ∧ t.boot = s.boot

/-- What an instruction of an element that reaches no memory leaves as it was on every way it may take, its faults among them: device
memory, tile memory, the Exchange, translation, the boot state and the debugger. -/
def Obligations.ElementFrame : Prop :=
  ∀ (i : Instr) (v : Handler) (s t : State), handlerView i = some v → v.op.toNat < 0x6A → exec i s = .next t →
    t.mem = s.mem ∧ t.tmem = s.tmem ∧ t.eccBad = s.eccBad ∧ t.xch = s.xch ∧ t.outgoing = s.outgoing ∧ t.trans = s.trans ∧ t.boot = s.boot ∧
    t.snaps = s.snaps ∧ t.glaed = s.glaed ∧ t.cycle = s.cycle ∧ t.inputs = s.inputs

/-- Each event ends in a next state with its own effect, under conditions on the state and the operands alone: the events of pages, of the
decanters, cells, arrays, the Circulation, sync queues, barriers and stocktakes, of loans, calls and switches, of the Colophon, and glaed's commands. The
statements above say the rest of what each does. -/
def Obligations.EventsComplete : Prop :=
  ∀ (s : State),
    -- pages
    (∀ space va entry e, entry + 8 ≤ 2 ^ 52 → s.usesPages space (s.entryPages space va entry).1 (s.entryPages space va entry).2 = false →
      ∃ t, exec (.kernelPageInvalidate space va entry e) s = .next t ∧ t.mem = writeBytes s.mem entry (leBytes 8 e.toNat)) ∧
    (∀ space page, s.trans.reserved.contains (space, page) = true → (∀ p ∈ s.loans, ∀ f ∈ p.2.frames, f.2.parked = none) →
      ∃ t, exec (.demandPageMap space page) s = .next t ∧ t.trans.reserved = s.trans.reserved.erase (space, page)) ∧
    -- decanters
    (∀ el c id k m q, armedTrigger s el = some (c, id, k, m, q) → q.e.pred = true → (s.bay (el / 256)).fireQueue.length < 16 →
      exec (.decantTrigger el) s = .next (({ s with nextId := s.nextId + 1 }.updEl el (fun e => e.updActive c (fun pl => pl.updQueue 0 (·.drop 1)))).placeTrigger
        (el / 256) ⟨id, k, q.e.operand, q.e.tag, q.e.cont, c, 0, false, s.stillPrior id q.e.prior, s.nextId⟩)) ∧
    (∀ bay d x l m, AMap.find (s.bay bay).decanters d = some x → AMap.find s.loans x.loan = some l → l.templateAt x.ctx x.template = some m →
      s.blockOf bay d = none → x.block + 1 < m.nblk → l.state ≠ .switching →
      exec (.decantBlockDone bay d) s =
        .next ((s.updBay bay (fun y => { y with decanters := AMap.put y.decanters d { x with block := x.block + 1 } })).startBlock bay d)) ∧
    (∀ id bay c, s.commandBay id = some (bay, c) → c.op = .arm →
      ∃ t, exec (.decantArmApply id) s = .next t ∧ ((t.bay bay).template (templKey c.ctx c.template)).arm = true) ∧
    -- cells
    (∀ id src q, AMap.find s.outgoing id = some (src, q) → q.cell.mc = false → AMap.get (s.xchOf (src / 256)).lastEntry 0 (src % 256) ≠ slotOf s.cycle + 1 →
      (s.xchOf (src / 256)).admits (src % 256) q.cell.note.toNat = true → s.behind src q = false →
      ∃ t, exec (.cellEnqueue id) s = .next t ∧ t.outgoing = AMap.del s.outgoing id ∧ (t.xchOf (src / 256)).voqs =
        enterQueue (slotOf s.cycle) (src % 256) (q.cell.dportDie.toNat * 256 + q.cell.dport.toNat) q (s.xchOf (src / 256)).voqs) ∧
    (∀ die, ∃ t, exec (.exchangeSlot die) s = .next t ∧ ∃ (x : Exchange) (ms : List Match),
      t = ms.foldl (fun u m => u.sendMatch die (slotOf s.cycle) m)
        (((s.keepRefused die).checkCells die (slotOf s.cycle)).updXch die (fun _ => x))) ∧
    (∀ bay q rest l b w, (s.bay bay).ingress = q :: rest → q.entered ≤ s.cycle → s.stopped (bayUnit bay) = false →
      AMap.get (s.xchOf (bay / 128)).lastEntry 0 (256 + bayPort bay) ≠ slotOf s.cycle + 1 → q.body = .payload → (s.bay bay).payloads = 0 →
      AMap.find s.accs q.access = none → AMap.find s.loans q.loan = some l → l.bayNumber bay = some b → l.ctxs.contains q.cell.ctx.toNat = true →
      l.windowAt q.cell.ctx.toNat q.cell.win.toNat = some w → w.virt = false → q.cell.spos.toNat * 256 + 256 ≤ w.size → l.accordHere b q.cell = true →
      ∃ t, exec (.ingressCell bay) s = .next t ∧ (t.bay bay).ingress = rest) ∧
    (∀ die port q rest id a l w ws m, AMap.get (s.xchOf die).memQueues [] port = q :: rest → q.entered ≤ s.cycle →
      s.stopped (.port (die * 256 + port)) = false → s.stalled die port q.cell.note false = false → q.body = .request id →
      AMap.find s.accs id = some a → AMap.find s.loans a.loan = some l → l.windowAt a.ctx a.win = some w → a.op = .store ws m → a.onRing = false →
      s.scBehind id = false → ∃ t, exec (.memoryPortCell die port) s = .next t ∧ t.mem = a.writeAt l w s.mem) ∧
    (∀ die port id v i c g m, (s.xchOf die).voqs.zipIdx.find? (fun p => p.1.inp == port && p.1.mc && p.1.cells.any (fun c => c.id == id)) = some (v, i) →
      v.cells.find? (fun c => c.id == id) = some c → s.groupOf c = some g → c.residue.flatMap (fun o => membersBehind die port o g.members) = [m] →
      (∀ a, AMap.find s.accs c.access = some a → a.isDecant = false ∧ 1 < a.phys) →
      ∃ t, exec (.lagDrop die port id) s = .next t ∧ Recorded t fMCASTLAG c.cell.tag) ∧
    -- arrays
    (∀ id l at0 bay k c rest, AMap.find s.loans id = some l → l.ramps = (at0, bay, k, c) :: rest →
      ∃ t, exec (.rampTurnEnd id) s = .next t ∧ (AMap.get (t.bay bay).tiles Tile.empty (tileKey k c)).mode = .matrix) ∧
    (∀ id l index isB c n a w, AMap.find s.loans id = some l → l.ended = false → l.ctxs = [c] →
      ((s.bay (l.bayKey (index / 128))).feed (feedKey (layoutTile index isB) c isB)).lanes = [(n, a)] →
      ((s.bay (l.bayKey (index / 128))).feed (feedKey (layoutTile index isB) c isB)).queue = [] →
      n < 8 → a.halted = false → a.owed ≠ 0 → a.asked = false → a.lim = none → a.req.start ≤ s.cycle → a.scaleOwed = 0 →
      l.windowAt c ((s.bay (l.bayKey (index / 128))).feed (feedKey (layoutTile index isB) c isB)).record.win = some w → w.virt = false →
      (let r := ((s.bay (l.bayKey (index / 128))).feed (feedKey (layoutTile index isB) c isB)).record
       lineInside w r.o (a.place r w isB).2.2.1 (a.place r w isB).2.2.2 = true) →
      (entryRoom s l c isB a).2.1 < 1 + (entryRoom s l c isB a).1 →
      ∃ t, exec (.feedBeat id index isB) s = .next t ∧ ∃ k, ∃ e ∈ AMap.get (t.bay (l.bayKey (index / 128))).banks [] k,
        e.job = .beat id a.req.index c isB n) ∧
    (∀ el c id l r p, AMap.find s.loans id = some l → ((s.el el).ctx c).loan = some id →
      let tile := AMap.get (s.bay (l.bayKey (((s.el el).ctx c).logical / 128))).tiles Tile.empty (tileKey (tileOfIndex ((s.el el).ctx c).logical) c)
      let v := s.updEl el (fun e => e.updCtx c (fun x => x.mxDue s.cycle))
      let u := if tile.mode == .matrix then (v.sideBeat l el c false).sideBeat l el c true else v
      ((v.el el).ctx c).run = some r → l.ended = false → r.done < r.total → planStep u l el c r = some p →
      exec (.matrixStep el c) s = .next (u.performStep l el c r p)) ∧
    (∀ el c id l r, AMap.find s.loans id = some l → ((s.el el).ctx c).run = some r → ((s.el el).ctx c).loan = some id →
      ∃ t, exec (.runEnd el c) s = .next t ∧ ((t.el el).ctx c).run = none) ∧
    (∀ bay k c isB r a, ((s.bay bay).feed (feedKey k c isB)).queue = [.record r a] → ((s.bay bay).feed (feedKey k c isB)).isOpen = false →
      (∀ p ∈ ((s.bay bay).feed (feedKey k c isB)).lanes, p.2.owed = 0) →
      ∃ t, exec (.layoutRecordApply bay k c isB) s = .next t ∧ ((t.bay bay).feed (feedKey k c isB)).record = r) ∧
    -- the Circulation
    (∀ id w, AMap.find s.hub.waits id = some w → w.met = true →
      ∃ t, exec (.tlwaitMet id) s = .next t ∧ t.hub = { s.hub with waits := AMap.del s.hub.waits id }) ∧
    (∀ id x l bs slip, AMap.find s.hub.launches id = some x → AMap.find s.loans x.loan = some l → s.stopped .loader = false →
      s.readSlip x.va ⟨l.slip.space, l.slip.priv, 0xF, none⟩ = some (bs, .ok slip) →
      ∃ t, exec (.launchAccept id) s = .next t ∧ t.hub.launches = AMap.del s.hub.launches id) ∧
    (∀ n w, AMap.find s.hub.watches n = some w → (if w.fall then (s.counter w.selector).1 ≤ w.threshold.toNat else w.threshold.toNat ≤ (s.counter w.selector).1) →
      ∃ t, exec (.watchSample n) s = .next t ∧ t.hub.watches = AMap.del s.hub.watches n) ∧
    (s.hub.waitingSlips = [] → s.stopped .loader = false → ∀ n, s.hub.nextQueue = some n →
      ((s.hub.queue n).busy = false → s.hub.freeHolds ≠ 0 →
        ∃ t, exec .slipRead s = .next t ∧ (t.hub.queue n).busy = true ∧ (t.hub.queue n).head = (s.hub.queue n).head) ∧
      (∀ slip, (s.hub.queue n).busy = true → (let q := s.hub.queue n; let addr := q.base + 128 * (q.head.toNat % 2 ^ q.log2n.toNat)
        s.chunkMoves addr 128 = false ∧ checkSlip (readBytes s.mem addr 128) ⟨q.space, q.privOk, q.dies, none⟩ = .ok slip) → 0 < s.hub.freeHolds →
        ∃ t, exec .slipRead s = .next t ∧ (t.hub.queue n).head = (s.hub.queue n).head + 1)) ∧
    (∀ x post v, s.stopped .loader = false → (s.hub.standing s.cycle).released = x :: post → (s.updHub (fun h => h.standing s.cycle)).tryPlace x = some v →
      exec .placementDecision s = .next v) ∧
    (∀ x r c, s.overdue = [x] → s.choices x (s.slipImage x.slip) = [] → s.soonest x = some (r, c) → ∃ t, exec .placementReservation s = .next t ∧
      t.hub.reservations = AMap.put s.hub.reservations r.die ⟨x.slip, x.cycle, r.nwb, c⟩) ∧
    -- sync queues, barriers and stocktakes
    (∀ id l index hnd c, AMap.find s.loans id = some l → claimCtx (s.el (l.elKey index)) id hnd = some c →
      ∃ t, exec (.sqGrantArrive id index hnd) s = .next t ∧ ((t.el (l.elKey index)).ctx c).latch.contains hnd = true) ∧
    (∀ id l d, AMap.find s.loans id = some l → ∃ t, exec (.retireAck id [d]) s = .next t ∧
      AMap.find t.loans id = some (l.addPend [(d.frame, d.its)] d.delta)) ∧
    (∀ id a l r, AMap.find s.hub.arrivals id = some a → AMap.find s.loans a.loan = some l → s.barrierOf a = some r → r.count ≠ 0 → a.count = r.count →
      a.live = false → r.n + 1 ≠ r.count → ∃ t, exec (.barrierArrive id) s = .next t ∧
      t.barrierOf a = some { r with n := r.n + 1, waiting := r.waiting ++ [(a.loan, handlerKey a.index a.hnd, a.flit)] }) ∧
    (∀ k, s.hub.stocktake = some k → s.stopped .stocktake = false → k.result = none → k.second = false → ∃ t, exec .stocktakeSnapshot s = .next t ∧
      t.hub.stocktake = some { k with first := s.stalledRegions s.allRefused, heads := s.voqHeads, second := true, stuck := s.allRefused }) ∧
    (∀ id l, AMap.find s.loans id = some l → l.overrun s.cycle = true → s.tokensOf id l ≠ 0 →
      ∃ t, exec (.watchdogExpire id) s = .next t ∧ t.hub.stocktake.isSome = true) ∧
    -- loans
    (∀ id l img l', AMap.find s.loans id = some l → s.stopped .loader = false → l.state = .fetching → l.exitTaken = none → l.hit = false →
      s.loadImage l.slip.space l.slip.cfg ⟨l.w, l.h, l.slip.priv, l.slip.mstore⟩ = .ok img → argsOk (img.placed l.rect) l.slip.args = true →
      s.takeNeed id l ((img.placed l.rect).need l.slip.mstore) = some l' → ∃ t, exec (.imageFetchDone id) s = .next t ∧
      AMap.find t.loans id = some { l' with image := img.placed l.rect, images := [], state := .writing }) ∧
    (∀ id l w, AMap.find s.loans id = some l → s.stopped .loader = false → l.state = .writing → s.allAwake l.rect = true → l.exitTaken.isSome = true →
      (((s.writeContext id l l.ctx l.image l.hit).updLoan id (fun l => { l with images := AMap.put l.images l.ctx l.image, drops := [] })).writeRecords
        l l.image).startFirst id = some w → exec (.configWriteDone id) s = .next w) ∧
    (∀ n p img, AMap.find s.hub.prefetches n = some p → s.stopped .loader = false → p.read = none →
      s.loadImage p.space p.addr ⟨p.w, p.h, p.priv, p.mstore⟩ = .ok img → ∃ t, exec (.prefetchDone n) s = .next t ∧
      t.hub.prefetches = AMap.put s.hub.prefetches n { p with read := some (img.placed ⟨p.die, p.nwb, p.w, p.h⟩) }) ∧
    (∀ id l g, AMap.find s.loans id = some l → l.retirable = some g → ∃ t, exec (.iterationRetire id) s = .next t ∧
      ∃ l', AMap.find t.loans id = some l' ∧ l'.flights = l.flights.erase g) ∧
    (∀ id l x, AMap.find s.loans id = some l → l.exitTaken = none → l.state = .running → (firstExit s.cycle l.exits).map (fun e => e.2.2.2) = some x →
      ∃ t, exec (.exitTaken id) s = .next t ∧ AMap.find t.loans id = some { l with exitTaken := some x, lastExit := x % 8 }) ∧
    (∀ id l, AMap.find s.loans id = some l → l.state = .running →
      exec (.exitDrainDone id) s = .next ((s.beginExit id l).later 1 (.exitDrainDone id))) ∧
    (∀ id l, AMap.find s.loans id = some l → AMap.wf s.loans = true → l.slip.cmpv = false →
      ∃ t, exec (.loanReturn id) s = .next t ∧ AMap.find t.loans id = none ∧
        t.hub.returns.getLast? = some (l.returnRec s.cycle false false)) ∧
    (∀ id f ab l p, AMap.find s.loans id = some l → l.parkedFrame f = some p →
      ∃ t, exec (.kernelResume id f ab) s = .next t ∧ s.resumeFrame id f ab = some t) ∧
    -- calls
    (∀ id l c bay, AMap.find s.loans id = some l → l.state = .running → l.calling = some c → c.stage = .freezing → l.marked.length + 1 < l.w * l.h →
      ∃ t, exec (.freezeMarkerArrive id bay) s = .next t ∧ ∃ l', AMap.find t.loans id = some l' ∧ l'.marked = l.marked ++ [bay]) ∧
    (∀ id l c, AMap.find s.loans id = some l → l.state = .running → l.calling = some c → c.stage = .freezing → 3 ≤ c.quiet →
      exec (.freezePoint id) s = .next (s.freeze id l c)) ∧
    (∀ id l c, AMap.find s.loans id = some l → l.calling = some c → c.stage = .planes → exec (.planeSpillDone id) s = .next (s.secureCall id l c)) ∧
    (∀ id l h r a, AMap.find s.loans id = some l → l.state = .running → l.thaw = some h → (AMap.find l.acts h.callee).bind Activation.call = some r →
      AMap.find l.acts r.callerAct = some a → l.marked = [] → exec (.thawPop id) s = .next (s.resend id l h r a)) ∧
    -- switches
    (∀ id l, AMap.find s.loans id = some l → l.state = .running → l.slip.save ≠ 0 → l.calling = none → l.thaw = none →
      (∀ p ∈ l.acts, p.2.call = none ∨ p.2.start ≠ s.cycle) →
      ∃ t, exec (.switchRequest id) s = .next t ∧ ∃ l', AMap.find t.loans id = some l' ∧ l'.state = .switching) ∧
    (∀ id l, AMap.find s.loans id = some l → l.state = .switching → l.exitTaken = none → s.settled id l = true →
      exec (.switchDrainDone id) s = .next (s.beginSave id l)) ∧
    (∀ id l u v, AMap.find s.loans id = some l → l.state = .saving → l.saveFault = false → AMap.find s.snaps id = none →
      s.writeVirt l.slip.space (l.slip.save + 4096) (s.saveBody id l) = some u →
      u.writeVirt l.slip.space l.slip.save (saveHeader s l 2 (crc32 (s.saveBody id l))) = some v →
      ∃ t, exec (.scanOutDone id) s = .next t ∧ ∃ l', AMap.find t.loans id = some l' ∧ l'.state = .switchedOut) ∧
    (∀ id l x, AMap.find s.loans id = some l → l.state = .saving → AMap.find s.snaps id = some x → s.allAwake l.rect = true →
      exec (.restore id) s = .next ((s.endRestore id l).later 1 (.restore id))) ∧
    -- the Colophon
    (∀ bay (v : W64), (s.bay bay).colophon.run = false → ∃ t, exec (.colophonRun bay v) s = .next t ∧
      (t.bay bay).colophon.run = true ∧ (t.bay bay).colophon.pc = (v.extractLsb' 4 10).toNat) ∧
    (∀ bay, (s.bay bay).colophon.run = true → ∃ t, exec (.colophonHalt bay) s = .next t ∧
      (t.bay bay).colophon.run = false ∧ (t.bay bay).colophon.halt = true) ∧
    (∀ bay (v : W64), ∃ t, exec (.colophonCapture bay v) s = .next t ∧ (t.bay bay).colophon.cap = v.getLsbD 1) ∧
    -- glaed
    (∀ src u, s.startSource src = some u → exec (.glaedRun src) s = .next (u.startSession src)) ∧
    (∀ b, ∃ t, exec (.glaedBreak b) s = .next t ∧ t.glaed.breaks = s.glaed.breaks ++ [b]) ∧
    (∀ c w o, ∃ t, exec (.glaedWatch c w o) s = .next t ∧ t.glaed.watches = s.glaed.watches ++ [⟨c, w, o⟩]) ∧
    (∀ n, 0 < n → ∃ t, exec (.glaedStep n) s = .next t ∧ t.glaed.stepLeft = some n ∧ t.glaed.stopped = false) ∧
    (∃ t, exec .glaedContinue s = .next t ∧ t.glaed.running = true ∧ t.glaed.stopped = false) ∧
    (∀ a b c, ∃ t, exec (.glaedShowQueues a b c) s = .next t ∧ t = { s with glaed := { s.glaed with rows := t.glaed.rows } }) ∧
    (∀ a b, ∃ t, exec (.glaedShowFrame a b) s = .next t ∧ t = { s with glaed := { s.glaed with rows := t.glaed.rows } }) ∧
    (∀ a b c, ∃ t, exec (.glaedShowAcc a b c) s = .next t ∧ t = { s with glaed := { s.glaed with rows := t.glaed.rows } }) ∧
    (∀ a b, ∃ t, exec (.glaedShowPlanes a b) s = .next t ∧ t = { s with glaed := { s.glaed with rows := t.glaed.rows } }) ∧
    (∀ a b, ∃ t, exec (.glaedShowVoq a b) s = .next t ∧ t = { s with glaed := { s.glaed with rows := t.glaed.rows } }) ∧
    (∀ a, ∃ t, exec (.glaedShowWave a) s = .next t ∧ t = { s with glaed := { s.glaed with rows := t.glaed.rows } }) ∧
    (∀ a b, ∃ t, exec (.glaedShowSillage a b) s = .next t ∧ t = { s with glaed := { s.glaed with rows := t.glaed.rows } }) ∧
    (∃ t, exec .glaedShowRetire s = .next t ∧ t = { s with glaed := { s.glaed with rows := t.glaed.rows } }) ∧
    (∃ t, exec .glaedFaults s = .next t ∧ t = { s with glaed := { s.glaed with rows := t.glaed.rows } }) ∧
    (∃ t, exec .glaedStocktake s = .next t ∧ t.hub.stocktake.isSome = true) ∧
    (∀ id p l, AMap.find s.loans id = some l → exec (.glaedPreempt id p) s = .next (s.writePrio id p true)) ∧
    (∀ id l, AMap.find s.loans id = some l → l.state = .running → exec (.glaedSwitch id) s = .next (s.later 1 (.switchRequest id)))
end

