-- ==== Sys2Proof/Laws/Map.lean ====
section
/-! SUPPORT. Sparse maps: what is read after a write, and that every operation keeps the canonical form. -/
namespace Sys2Proof.Machine

variable {β : Type}

@[simp] theorem AMap.find_nil (k : Nat) : AMap.find ([] : AMap β) k = none := rfl

@[simp] theorem AMap.find_put_same (m : AMap β) (k : Nat) (v : β) : AMap.find (AMap.put m k v) k = some v := by
  induction m with
  | nil => simp [AMap.put, AMap.find]
  | cons p rest ih =>
    obtain ⟨a, b⟩ := p
    simp only [AMap.put]
    split
    · simp [AMap.find]
    · split
      · simp [AMap.find]
      · rename_i h; simp [AMap.find, h, ih]

theorem AMap.find_put_other (m : AMap β) {k j : Nat} (v : β) (h : j ≠ k) : AMap.find (AMap.put m k v) j = AMap.find m j := by
  induction m with
  | nil => simp [AMap.put, AMap.find, Ne.symm h]
  | cons p rest ih =>
    obtain ⟨a, b⟩ := p
    simp only [AMap.put]
    split
    · simp [AMap.find, Ne.symm h]
    · split
      · rename_i h'; subst h'; simp [AMap.find, Ne.symm h]
      · simp [AMap.find, ih]

@[simp] theorem AMap.get_put_same (m : AMap β) (d : β) (k : Nat) (v : β) : AMap.get (AMap.put m k v) d k = v := by
  simp [AMap.get]

theorem AMap.get_put_other (m : AMap β) (d : β) {k j : Nat} (v : β) (h : j ≠ k) : AMap.get (AMap.put m k v) d j = AMap.get m d j := by
  simp [AMap.get, AMap.find_put_other m v h]

@[simp] theorem AMap.get_upd_same (m : AMap β) (d : β) (k : Nat) (f : β → β) : AMap.get (AMap.upd m d k f) d k = f (AMap.get m d k) := by
  simp [AMap.upd]

theorem AMap.get_upd_other (m : AMap β) (d : β) {k j : Nat} (f : β → β) (h : j ≠ k) :
    AMap.get (AMap.upd m d k f) d j = AMap.get m d j := AMap.get_put_other m d _ h

theorem AMap.wfFrom_mono {m : AMap β} {n k : Nat} (h : k ≤ n) (hm : AMap.wfFrom n m = true) : AMap.wfFrom k m = true := by
  cases m with
  | nil => rfl
  | cons p rest => simp only [AMap.wfFrom, Bool.and_eq_true, decide_eq_true_eq] at *; exact ⟨by omega, hm.2⟩

theorem AMap.wfFrom_put {m : AMap β} {n k : Nat} (v : β) (hk : n ≤ k) (hm : AMap.wfFrom n m = true) :
    AMap.wfFrom n (AMap.put m k v) = true := by
  induction m generalizing n with
  | nil => simp [AMap.put, AMap.wfFrom, hk]
  | cons p rest ih =>
    obtain ⟨a, b⟩ := p
    simp only [AMap.wfFrom, Bool.and_eq_true, decide_eq_true_eq] at hm
    simp only [AMap.put]
    split
    · simp only [AMap.wfFrom, Bool.and_eq_true, decide_eq_true_eq]; exact ⟨hk, by omega, hm.2⟩
    · split
      · rename_i h; subst h; simp only [AMap.wfFrom, Bool.and_eq_true, decide_eq_true_eq]; exact hm
      · simp only [AMap.wfFrom, Bool.and_eq_true, decide_eq_true_eq]; exact ⟨hm.1, ih (by omega) hm.2⟩

theorem AMap.wf_put {m : AMap β} (k : Nat) (v : β) (hm : m.wf = true) : (AMap.put m k v).wf = true := AMap.wfFrom_put v (Nat.zero_le _) hm

theorem AMap.wf_upd {m : AMap β} (d : β) (k : Nat) (f : β → β) (hm : m.wf = true) : (AMap.upd m d k f).wf = true := AMap.wf_put k _ hm

theorem AMap.wfFrom_del {m : AMap β} {n : Nat} (k : Nat) (hm : AMap.wfFrom n m = true) : AMap.wfFrom n (AMap.del m k) = true := by
  induction m generalizing n with
  | nil => rfl
  | cons p rest ih =>
    obtain ⟨a, b⟩ := p
    simp only [AMap.wfFrom, Bool.and_eq_true, decide_eq_true_eq] at hm
    simp only [AMap.del]
    split
    · exact AMap.wfFrom_mono (by omega) hm.2
    · simp only [AMap.wfFrom, Bool.and_eq_true, decide_eq_true_eq]; exact ⟨hm.1, ih hm.2⟩

theorem AMap.wf_del {m : AMap β} (k : Nat) (hm : m.wf = true) : (AMap.del m k).wf = true := AMap.wfFrom_del k hm

/-! ### Lists put in order -/

theorem insertBy_perm {α : Type} (le : α → α → Bool) (x : α) (xs : List α) : (insertBy le x xs).Perm (x :: xs) := by
  induction xs with
  | nil => exact .refl _
  | cons y ys ih =>
    unfold insertBy
    split
    · exact .refl _
    · exact (ih.cons y).trans (.swap x y ys)

/-- Putting a list in order keeps its entries. -/
theorem sortBy_perm {α : Type} (le : α → α → Bool) (xs : List α) : (sortBy le xs).Perm xs := by
  induction xs with
  | nil => exact .refl _
  | cons x xs ih => exact (insertBy_perm le x _).trans (ih.cons x)

/-- A list put in order by a total, transitive relation is in order. -/
theorem sortBy_pairwise {α : Type} {le : α → α → Bool} (total : ∀ a b, le a b = true ∨ le b a = true)
    (trans : ∀ a b c, le a b = true → le b c = true → le a c = true) (xs : List α) : (sortBy le xs).Pairwise (fun a b => le a b = true) := by
  induction xs with
  | nil => exact .nil
  | cons x xs ih =>
    show (insertBy le x (sortBy le xs)).Pairwise _
    generalize sortBy le xs = ys at ih
    induction ys with
    | nil => simp [insertBy]
    | cons y ys ih' =>
      unfold insertBy
      split
      · rename_i h
        refine .cons (fun z hz => ?_) ih
        rcases List.mem_cons.mp hz with rfl | hz
        · exact h
        · exact trans _ _ _ h (List.rel_of_pairwise_cons ih hz)
      · rename_i h
        refine .cons (fun z hz => ?_) (ih' (List.Pairwise.of_cons ih))
        rcases List.mem_cons.mp ((insertBy_perm le x ys).mem_iff.mp hz) with rfl | hz
        · exact (total y z).resolve_right h
        · exact List.rel_of_pairwise_cons ih hz

end Sys2Proof.Machine
end

