-- ==== Sys2Proof/Laws/State.lean ====
section
/-! SUPPORT. What each update of the state leaves alone, field by field, and what is read back after it. -/
namespace Sys2Proof.Machine

@[simp] theorem State.later_cycle (s : State) (d : Nat) (i : Instr) : (s.later d i).cycle = s.cycle := rfl
@[simp] theorem State.later_inputs (s : State) (d : Nat) (i : Instr) : (s.later d i).inputs = s.inputs := rfl
@[simp] theorem State.later_chosen (s : State) (d : Nat) (i : Instr) : (s.later d i).chosen = s.chosen := rfl
@[simp] theorem State.later_focus (s : State) (d : Nat) (i : Instr) : (s.later d i).focus = s.focus := rfl
@[simp] theorem State.later_fires (s : State) (d : Nat) (i : Instr) : (s.later d i).fires = s.fires := rfl
@[simp] theorem State.later_nextId (s : State) (d : Nat) (i : Instr) : (s.later d i).nextId = s.nextId := rfl
@[simp] theorem State.later_freeCount (s : State) (d : Nat) (i : Instr) : (s.later d i).freeCount = s.freeCount := rfl
@[simp] theorem State.later_boot (s : State) (d : Nat) (i : Instr) : (s.later d i).boot = s.boot := rfl
@[simp] theorem State.later_hub (s : State) (d : Nat) (i : Instr) : (s.later d i).hub = s.hub := rfl
@[simp] theorem State.later_mem (s : State) (d : Nat) (i : Instr) : (s.later d i).mem = s.mem := rfl
@[simp] theorem State.later_tmem (s : State) (d : Nat) (i : Instr) : (s.later d i).tmem = s.tmem := rfl
@[simp] theorem State.later_eccBad (s : State) (d : Nat) (i : Instr) : (s.later d i).eccBad = s.eccBad := rfl
@[simp] theorem State.later_els (s : State) (d : Nat) (i : Instr) : (s.later d i).els = s.els := rfl
@[simp] theorem State.later_bays (s : State) (d : Nat) (i : Instr) : (s.later d i).bays = s.bays := rfl
@[simp] theorem State.later_loans (s : State) (d : Nat) (i : Instr) : (s.later d i).loans = s.loans := rfl
@[simp] theorem State.later_accs (s : State) (d : Nat) (i : Instr) : (s.later d i).accs = s.accs := rfl
@[simp] theorem State.later_xch (s : State) (d : Nat) (i : Instr) : (s.later d i).xch = s.xch := rfl
@[simp] theorem State.later_outgoing (s : State) (d : Nat) (i : Instr) : (s.later d i).outgoing = s.outgoing := rfl
@[simp] theorem State.later_trans (s : State) (d : Nat) (i : Instr) : (s.later d i).trans = s.trans := rfl
@[simp] theorem State.later_snaps (s : State) (d : Nat) (i : Instr) : (s.later d i).snaps = s.snaps := rfl
@[simp] theorem State.later_glaed (s : State) (d : Nat) (i : Instr) : (s.later d i).glaed = s.glaed := rfl

@[simp] theorem State.laterFirst_cycle (s : State) (d : Nat) (i : Instr) : (s.laterFirst d i).cycle = s.cycle := rfl
@[simp] theorem State.laterFirst_inputs (s : State) (d : Nat) (i : Instr) : (s.laterFirst d i).inputs = s.inputs := rfl
@[simp] theorem State.laterFirst_chosen (s : State) (d : Nat) (i : Instr) : (s.laterFirst d i).chosen = s.chosen := rfl
@[simp] theorem State.laterFirst_focus (s : State) (d : Nat) (i : Instr) : (s.laterFirst d i).focus = s.focus := rfl
@[simp] theorem State.laterFirst_fires (s : State) (d : Nat) (i : Instr) : (s.laterFirst d i).fires = s.fires := rfl
@[simp] theorem State.laterFirst_nextId (s : State) (d : Nat) (i : Instr) : (s.laterFirst d i).nextId = s.nextId := rfl
@[simp] theorem State.laterFirst_freeCount (s : State) (d : Nat) (i : Instr) : (s.laterFirst d i).freeCount = s.freeCount := rfl
@[simp] theorem State.laterFirst_boot (s : State) (d : Nat) (i : Instr) : (s.laterFirst d i).boot = s.boot := rfl
@[simp] theorem State.laterFirst_hub (s : State) (d : Nat) (i : Instr) : (s.laterFirst d i).hub = s.hub := rfl
@[simp] theorem State.laterFirst_mem (s : State) (d : Nat) (i : Instr) : (s.laterFirst d i).mem = s.mem := rfl
@[simp] theorem State.laterFirst_tmem (s : State) (d : Nat) (i : Instr) : (s.laterFirst d i).tmem = s.tmem := rfl
@[simp] theorem State.laterFirst_eccBad (s : State) (d : Nat) (i : Instr) : (s.laterFirst d i).eccBad = s.eccBad := rfl
@[simp] theorem State.laterFirst_els (s : State) (d : Nat) (i : Instr) : (s.laterFirst d i).els = s.els := rfl
@[simp] theorem State.laterFirst_bays (s : State) (d : Nat) (i : Instr) : (s.laterFirst d i).bays = s.bays := rfl
@[simp] theorem State.laterFirst_loans (s : State) (d : Nat) (i : Instr) : (s.laterFirst d i).loans = s.loans := rfl
@[simp] theorem State.laterFirst_accs (s : State) (d : Nat) (i : Instr) : (s.laterFirst d i).accs = s.accs := rfl
@[simp] theorem State.laterFirst_xch (s : State) (d : Nat) (i : Instr) : (s.laterFirst d i).xch = s.xch := rfl
@[simp] theorem State.laterFirst_outgoing (s : State) (d : Nat) (i : Instr) : (s.laterFirst d i).outgoing = s.outgoing := rfl
@[simp] theorem State.laterFirst_trans (s : State) (d : Nat) (i : Instr) : (s.laterFirst d i).trans = s.trans := rfl
@[simp] theorem State.laterFirst_snaps (s : State) (d : Nat) (i : Instr) : (s.laterFirst d i).snaps = s.snaps := rfl
@[simp] theorem State.laterFirst_glaed (s : State) (d : Nat) (i : Instr) : (s.laterFirst d i).glaed = s.glaed := rfl

@[simp] theorem State.updEl_cycle (s : State) (k : Nat) (g : Element → Element) : (s.updEl k g).cycle = s.cycle := rfl
@[simp] theorem State.updEl_agenda (s : State) (k : Nat) (g : Element → Element) : (s.updEl k g).agenda = s.agenda := rfl
@[simp] theorem State.updEl_inputs (s : State) (k : Nat) (g : Element → Element) : (s.updEl k g).inputs = s.inputs := rfl
@[simp] theorem State.updEl_chosen (s : State) (k : Nat) (g : Element → Element) : (s.updEl k g).chosen = s.chosen := rfl
@[simp] theorem State.updEl_focus (s : State) (k : Nat) (g : Element → Element) : (s.updEl k g).focus = s.focus := rfl
@[simp] theorem State.updEl_fires (s : State) (k : Nat) (g : Element → Element) : (s.updEl k g).fires = s.fires := rfl
@[simp] theorem State.updEl_nextId (s : State) (k : Nat) (g : Element → Element) : (s.updEl k g).nextId = s.nextId := rfl
@[simp] theorem State.updEl_freeCount (s : State) (k : Nat) (g : Element → Element) : (s.updEl k g).freeCount = s.freeCount := rfl
@[simp] theorem State.updEl_boot (s : State) (k : Nat) (g : Element → Element) : (s.updEl k g).boot = s.boot := rfl
@[simp] theorem State.updEl_hub (s : State) (k : Nat) (g : Element → Element) : (s.updEl k g).hub = s.hub := rfl
@[simp] theorem State.updEl_mem (s : State) (k : Nat) (g : Element → Element) : (s.updEl k g).mem = s.mem := rfl
@[simp] theorem State.updEl_tmem (s : State) (k : Nat) (g : Element → Element) : (s.updEl k g).tmem = s.tmem := rfl
@[simp] theorem State.updEl_eccBad (s : State) (k : Nat) (g : Element → Element) : (s.updEl k g).eccBad = s.eccBad := rfl
@[simp] theorem State.updEl_bays (s : State) (k : Nat) (g : Element → Element) : (s.updEl k g).bays = s.bays := rfl
@[simp] theorem State.updEl_loans (s : State) (k : Nat) (g : Element → Element) : (s.updEl k g).loans = s.loans := rfl
@[simp] theorem State.updEl_accs (s : State) (k : Nat) (g : Element → Element) : (s.updEl k g).accs = s.accs := rfl
@[simp] theorem State.updEl_xch (s : State) (k : Nat) (g : Element → Element) : (s.updEl k g).xch = s.xch := rfl
@[simp] theorem State.updEl_outgoing (s : State) (k : Nat) (g : Element → Element) : (s.updEl k g).outgoing = s.outgoing := rfl
@[simp] theorem State.updEl_trans (s : State) (k : Nat) (g : Element → Element) : (s.updEl k g).trans = s.trans := rfl
@[simp] theorem State.updEl_snaps (s : State) (k : Nat) (g : Element → Element) : (s.updEl k g).snaps = s.snaps := rfl
@[simp] theorem State.updEl_glaed (s : State) (k : Nat) (g : Element → Element) : (s.updEl k g).glaed = s.glaed := rfl

@[simp] theorem State.updBay_cycle (s : State) (b : Nat) (g : Bay → Bay) : (s.updBay b g).cycle = s.cycle := rfl
@[simp] theorem State.updBay_agenda (s : State) (b : Nat) (g : Bay → Bay) : (s.updBay b g).agenda = s.agenda := rfl
@[simp] theorem State.updBay_inputs (s : State) (b : Nat) (g : Bay → Bay) : (s.updBay b g).inputs = s.inputs := rfl
@[simp] theorem State.updBay_chosen (s : State) (b : Nat) (g : Bay → Bay) : (s.updBay b g).chosen = s.chosen := rfl
@[simp] theorem State.updBay_focus (s : State) (b : Nat) (g : Bay → Bay) : (s.updBay b g).focus = s.focus := rfl
@[simp] theorem State.updBay_fires (s : State) (b : Nat) (g : Bay → Bay) : (s.updBay b g).fires = s.fires := rfl
@[simp] theorem State.updBay_nextId (s : State) (b : Nat) (g : Bay → Bay) : (s.updBay b g).nextId = s.nextId := rfl
@[simp] theorem State.updBay_freeCount (s : State) (b : Nat) (g : Bay → Bay) : (s.updBay b g).freeCount = s.freeCount := rfl
@[simp] theorem State.updBay_boot (s : State) (b : Nat) (g : Bay → Bay) : (s.updBay b g).boot = s.boot := rfl
@[simp] theorem State.updBay_hub (s : State) (b : Nat) (g : Bay → Bay) : (s.updBay b g).hub = s.hub := rfl
@[simp] theorem State.updBay_mem (s : State) (b : Nat) (g : Bay → Bay) : (s.updBay b g).mem = s.mem := rfl
@[simp] theorem State.updBay_tmem (s : State) (b : Nat) (g : Bay → Bay) : (s.updBay b g).tmem = s.tmem := rfl
@[simp] theorem State.updBay_eccBad (s : State) (b : Nat) (g : Bay → Bay) : (s.updBay b g).eccBad = s.eccBad := rfl
@[simp] theorem State.updBay_els (s : State) (b : Nat) (g : Bay → Bay) : (s.updBay b g).els = s.els := rfl
@[simp] theorem State.updBay_loans (s : State) (b : Nat) (g : Bay → Bay) : (s.updBay b g).loans = s.loans := rfl
@[simp] theorem State.updBay_accs (s : State) (b : Nat) (g : Bay → Bay) : (s.updBay b g).accs = s.accs := rfl
@[simp] theorem State.updBay_xch (s : State) (b : Nat) (g : Bay → Bay) : (s.updBay b g).xch = s.xch := rfl
@[simp] theorem State.updBay_outgoing (s : State) (b : Nat) (g : Bay → Bay) : (s.updBay b g).outgoing = s.outgoing := rfl
@[simp] theorem State.updBay_trans (s : State) (b : Nat) (g : Bay → Bay) : (s.updBay b g).trans = s.trans := rfl
@[simp] theorem State.updBay_snaps (s : State) (b : Nat) (g : Bay → Bay) : (s.updBay b g).snaps = s.snaps := rfl
@[simp] theorem State.updBay_glaed (s : State) (b : Nat) (g : Bay → Bay) : (s.updBay b g).glaed = s.glaed := rfl

@[simp] theorem State.updHub_cycle (s : State) (g : Hub → Hub) : (s.updHub g).cycle = s.cycle := rfl
@[simp] theorem State.updHub_agenda (s : State) (g : Hub → Hub) : (s.updHub g).agenda = s.agenda := rfl
@[simp] theorem State.updHub_inputs (s : State) (g : Hub → Hub) : (s.updHub g).inputs = s.inputs := rfl
@[simp] theorem State.updHub_chosen (s : State) (g : Hub → Hub) : (s.updHub g).chosen = s.chosen := rfl
@[simp] theorem State.updHub_focus (s : State) (g : Hub → Hub) : (s.updHub g).focus = s.focus := rfl
@[simp] theorem State.updHub_fires (s : State) (g : Hub → Hub) : (s.updHub g).fires = s.fires := rfl
@[simp] theorem State.updHub_nextId (s : State) (g : Hub → Hub) : (s.updHub g).nextId = s.nextId := rfl
@[simp] theorem State.updHub_freeCount (s : State) (g : Hub → Hub) : (s.updHub g).freeCount = s.freeCount := rfl
@[simp] theorem State.updHub_boot (s : State) (g : Hub → Hub) : (s.updHub g).boot = s.boot := rfl
@[simp] theorem State.updHub_mem (s : State) (g : Hub → Hub) : (s.updHub g).mem = s.mem := rfl
@[simp] theorem State.updHub_tmem (s : State) (g : Hub → Hub) : (s.updHub g).tmem = s.tmem := rfl
@[simp] theorem State.updHub_eccBad (s : State) (g : Hub → Hub) : (s.updHub g).eccBad = s.eccBad := rfl
@[simp] theorem State.updHub_els (s : State) (g : Hub → Hub) : (s.updHub g).els = s.els := rfl
@[simp] theorem State.updHub_bays (s : State) (g : Hub → Hub) : (s.updHub g).bays = s.bays := rfl
@[simp] theorem State.updHub_loans (s : State) (g : Hub → Hub) : (s.updHub g).loans = s.loans := rfl
@[simp] theorem State.updHub_accs (s : State) (g : Hub → Hub) : (s.updHub g).accs = s.accs := rfl
@[simp] theorem State.updHub_xch (s : State) (g : Hub → Hub) : (s.updHub g).xch = s.xch := rfl
@[simp] theorem State.updHub_outgoing (s : State) (g : Hub → Hub) : (s.updHub g).outgoing = s.outgoing := rfl
@[simp] theorem State.updHub_trans (s : State) (g : Hub → Hub) : (s.updHub g).trans = s.trans := rfl
@[simp] theorem State.updHub_snaps (s : State) (g : Hub → Hub) : (s.updHub g).snaps = s.snaps := rfl
@[simp] theorem State.updHub_glaed (s : State) (g : Hub → Hub) : (s.updHub g).glaed = s.glaed := rfl

@[simp] theorem State.focusOn_cycle (s : State) (k c h : Nat) : (s.focusOn k c h).cycle = s.cycle := rfl
@[simp] theorem State.focusOn_agenda (s : State) (k c h : Nat) : (s.focusOn k c h).agenda = s.agenda := rfl
@[simp] theorem State.focusOn_inputs (s : State) (k c h : Nat) : (s.focusOn k c h).inputs = s.inputs := rfl
@[simp] theorem State.focusOn_chosen (s : State) (k c h : Nat) : (s.focusOn k c h).chosen = s.chosen := rfl
@[simp] theorem State.focusOn_fires (s : State) (k c h : Nat) : (s.focusOn k c h).fires = s.fires := rfl
@[simp] theorem State.focusOn_nextId (s : State) (k c h : Nat) : (s.focusOn k c h).nextId = s.nextId := rfl
@[simp] theorem State.focusOn_freeCount (s : State) (k c h : Nat) : (s.focusOn k c h).freeCount = s.freeCount := rfl
@[simp] theorem State.focusOn_boot (s : State) (k c h : Nat) : (s.focusOn k c h).boot = s.boot := rfl
@[simp] theorem State.focusOn_hub (s : State) (k c h : Nat) : (s.focusOn k c h).hub = s.hub := rfl
@[simp] theorem State.focusOn_mem (s : State) (k c h : Nat) : (s.focusOn k c h).mem = s.mem := rfl
@[simp] theorem State.focusOn_tmem (s : State) (k c h : Nat) : (s.focusOn k c h).tmem = s.tmem := rfl
@[simp] theorem State.focusOn_eccBad (s : State) (k c h : Nat) : (s.focusOn k c h).eccBad = s.eccBad := rfl
@[simp] theorem State.focusOn_els (s : State) (k c h : Nat) : (s.focusOn k c h).els = s.els := rfl
@[simp] theorem State.focusOn_bays (s : State) (k c h : Nat) : (s.focusOn k c h).bays = s.bays := rfl
@[simp] theorem State.focusOn_loans (s : State) (k c h : Nat) : (s.focusOn k c h).loans = s.loans := rfl
@[simp] theorem State.focusOn_accs (s : State) (k c h : Nat) : (s.focusOn k c h).accs = s.accs := rfl
@[simp] theorem State.focusOn_xch (s : State) (k c h : Nat) : (s.focusOn k c h).xch = s.xch := rfl
@[simp] theorem State.focusOn_outgoing (s : State) (k c h : Nat) : (s.focusOn k c h).outgoing = s.outgoing := rfl
@[simp] theorem State.focusOn_trans (s : State) (k c h : Nat) : (s.focusOn k c h).trans = s.trans := rfl
@[simp] theorem State.focusOn_snaps (s : State) (k c h : Nat) : (s.focusOn k c h).snaps = s.snaps := rfl
@[simp] theorem State.focusOn_glaed (s : State) (k c h : Nat) : (s.focusOn k c h).glaed = s.glaed := rfl

@[simp] theorem State.updLoan_cycle (s : State) (id : Nat) (g : Loan → Loan) : (s.updLoan id g).cycle = s.cycle := by unfold State.updLoan; split <;> rfl
@[simp] theorem State.updLoan_agenda (s : State) (id : Nat) (g : Loan → Loan) : (s.updLoan id g).agenda = s.agenda := by unfold State.updLoan; split <;> rfl
@[simp] theorem State.updLoan_inputs (s : State) (id : Nat) (g : Loan → Loan) : (s.updLoan id g).inputs = s.inputs := by unfold State.updLoan; split <;> rfl
@[simp] theorem State.updLoan_chosen (s : State) (id : Nat) (g : Loan → Loan) : (s.updLoan id g).chosen = s.chosen := by unfold State.updLoan; split <;> rfl
@[simp] theorem State.updLoan_focus (s : State) (id : Nat) (g : Loan → Loan) : (s.updLoan id g).focus = s.focus := by unfold State.updLoan; split <;> rfl
@[simp] theorem State.updLoan_fires (s : State) (id : Nat) (g : Loan → Loan) : (s.updLoan id g).fires = s.fires := by unfold State.updLoan; split <;> rfl
@[simp] theorem State.updLoan_nextId (s : State) (id : Nat) (g : Loan → Loan) : (s.updLoan id g).nextId = s.nextId := by unfold State.updLoan; split <;> rfl
@[simp] theorem State.updLoan_freeCount (s : State) (id : Nat) (g : Loan → Loan) : (s.updLoan id g).freeCount = s.freeCount := by unfold State.updLoan; split <;> rfl
@[simp] theorem State.updLoan_boot (s : State) (id : Nat) (g : Loan → Loan) : (s.updLoan id g).boot = s.boot := by unfold State.updLoan; split <;> rfl
@[simp] theorem State.updLoan_hub (s : State) (id : Nat) (g : Loan → Loan) : (s.updLoan id g).hub = s.hub := by unfold State.updLoan; split <;> rfl
@[simp] theorem State.updLoan_mem (s : State) (id : Nat) (g : Loan → Loan) : (s.updLoan id g).mem = s.mem := by unfold State.updLoan; split <;> rfl
@[simp] theorem State.updLoan_tmem (s : State) (id : Nat) (g : Loan → Loan) : (s.updLoan id g).tmem = s.tmem := by unfold State.updLoan; split <;> rfl
@[simp] theorem State.updLoan_eccBad (s : State) (id : Nat) (g : Loan → Loan) : (s.updLoan id g).eccBad = s.eccBad := by unfold State.updLoan; split <;> rfl
@[simp] theorem State.updLoan_els (s : State) (id : Nat) (g : Loan → Loan) : (s.updLoan id g).els = s.els := by unfold State.updLoan; split <;> rfl
@[simp] theorem State.updLoan_bays (s : State) (id : Nat) (g : Loan → Loan) : (s.updLoan id g).bays = s.bays := by unfold State.updLoan; split <;> rfl
@[simp] theorem State.updLoan_accs (s : State) (id : Nat) (g : Loan → Loan) : (s.updLoan id g).accs = s.accs := by unfold State.updLoan; split <;> rfl
@[simp] theorem State.updLoan_xch (s : State) (id : Nat) (g : Loan → Loan) : (s.updLoan id g).xch = s.xch := by unfold State.updLoan; split <;> rfl
@[simp] theorem State.updLoan_outgoing (s : State) (id : Nat) (g : Loan → Loan) : (s.updLoan id g).outgoing = s.outgoing := by unfold State.updLoan; split <;> rfl
@[simp] theorem State.updLoan_trans (s : State) (id : Nat) (g : Loan → Loan) : (s.updLoan id g).trans = s.trans := by unfold State.updLoan; split <;> rfl
@[simp] theorem State.updLoan_snaps (s : State) (id : Nat) (g : Loan → Loan) : (s.updLoan id g).snaps = s.snaps := by unfold State.updLoan; split <;> rfl
@[simp] theorem State.updLoan_glaed (s : State) (id : Nat) (g : Loan → Loan) : (s.updLoan id g).glaed = s.glaed := by unfold State.updLoan; split <;> rfl

@[simp] theorem State.fresh_cycle (s : State) : (s.fresh.2).cycle = s.cycle := rfl
@[simp] theorem State.fresh_agenda (s : State) : (s.fresh.2).agenda = s.agenda := rfl
@[simp] theorem State.fresh_inputs (s : State) : (s.fresh.2).inputs = s.inputs := rfl
@[simp] theorem State.fresh_chosen (s : State) : (s.fresh.2).chosen = s.chosen := rfl
@[simp] theorem State.fresh_focus (s : State) : (s.fresh.2).focus = s.focus := rfl
@[simp] theorem State.fresh_fires (s : State) : (s.fresh.2).fires = s.fires := rfl
@[simp] theorem State.fresh_freeCount (s : State) : (s.fresh.2).freeCount = s.freeCount := rfl
@[simp] theorem State.fresh_boot (s : State) : (s.fresh.2).boot = s.boot := rfl
@[simp] theorem State.fresh_hub (s : State) : (s.fresh.2).hub = s.hub := rfl
@[simp] theorem State.fresh_mem (s : State) : (s.fresh.2).mem = s.mem := rfl
@[simp] theorem State.fresh_tmem (s : State) : (s.fresh.2).tmem = s.tmem := rfl
@[simp] theorem State.fresh_eccBad (s : State) : (s.fresh.2).eccBad = s.eccBad := rfl
@[simp] theorem State.fresh_els (s : State) : (s.fresh.2).els = s.els := rfl
@[simp] theorem State.fresh_bays (s : State) : (s.fresh.2).bays = s.bays := rfl
@[simp] theorem State.fresh_loans (s : State) : (s.fresh.2).loans = s.loans := rfl
@[simp] theorem State.fresh_accs (s : State) : (s.fresh.2).accs = s.accs := rfl
@[simp] theorem State.fresh_xch (s : State) : (s.fresh.2).xch = s.xch := rfl
@[simp] theorem State.fresh_outgoing (s : State) : (s.fresh.2).outgoing = s.outgoing := rfl
@[simp] theorem State.fresh_trans (s : State) : (s.fresh.2).trans = s.trans := rfl
@[simp] theorem State.fresh_snaps (s : State) : (s.fresh.2).snaps = s.snaps := rfl
@[simp] theorem State.fresh_glaed (s : State) : (s.fresh.2).glaed = s.glaed := rfl

@[simp] theorem State.drawNat_cycle (s : State) : (s.drawNat.2).cycle = s.cycle := rfl
@[simp] theorem State.drawNat_agenda (s : State) : (s.drawNat.2).agenda = s.agenda := rfl
@[simp] theorem State.drawNat_inputs (s : State) : (s.drawNat.2).inputs = s.inputs := rfl
@[simp] theorem State.drawNat_chosen (s : State) : (s.drawNat.2).chosen = s.chosen := rfl
@[simp] theorem State.drawNat_focus (s : State) : (s.drawNat.2).focus = s.focus := rfl
@[simp] theorem State.drawNat_fires (s : State) : (s.drawNat.2).fires = s.fires := rfl
@[simp] theorem State.drawNat_nextId (s : State) : (s.drawNat.2).nextId = s.nextId := rfl
@[simp] theorem State.drawNat_boot (s : State) : (s.drawNat.2).boot = s.boot := rfl
@[simp] theorem State.drawNat_hub (s : State) : (s.drawNat.2).hub = s.hub := rfl
@[simp] theorem State.drawNat_mem (s : State) : (s.drawNat.2).mem = s.mem := rfl
@[simp] theorem State.drawNat_tmem (s : State) : (s.drawNat.2).tmem = s.tmem := rfl
@[simp] theorem State.drawNat_eccBad (s : State) : (s.drawNat.2).eccBad = s.eccBad := rfl
@[simp] theorem State.drawNat_els (s : State) : (s.drawNat.2).els = s.els := rfl
@[simp] theorem State.drawNat_bays (s : State) : (s.drawNat.2).bays = s.bays := rfl
@[simp] theorem State.drawNat_loans (s : State) : (s.drawNat.2).loans = s.loans := rfl
@[simp] theorem State.drawNat_accs (s : State) : (s.drawNat.2).accs = s.accs := rfl
@[simp] theorem State.drawNat_xch (s : State) : (s.drawNat.2).xch = s.xch := rfl
@[simp] theorem State.drawNat_outgoing (s : State) : (s.drawNat.2).outgoing = s.outgoing := rfl
@[simp] theorem State.drawNat_trans (s : State) : (s.drawNat.2).trans = s.trans := rfl
@[simp] theorem State.drawNat_snaps (s : State) : (s.drawNat.2).snaps = s.snaps := rfl
@[simp] theorem State.drawNat_glaed (s : State) : (s.drawNat.2).glaed = s.glaed := rfl

@[simp] theorem State.drawBool_cycle (s : State) : (s.drawBool.2).cycle = s.cycle := rfl
@[simp] theorem State.drawBool_agenda (s : State) : (s.drawBool.2).agenda = s.agenda := rfl
@[simp] theorem State.drawBool_inputs (s : State) : (s.drawBool.2).inputs = s.inputs := rfl
@[simp] theorem State.drawBool_chosen (s : State) : (s.drawBool.2).chosen = s.chosen := rfl
@[simp] theorem State.drawBool_focus (s : State) : (s.drawBool.2).focus = s.focus := rfl
@[simp] theorem State.drawBool_fires (s : State) : (s.drawBool.2).fires = s.fires := rfl
@[simp] theorem State.drawBool_nextId (s : State) : (s.drawBool.2).nextId = s.nextId := rfl
@[simp] theorem State.drawBool_boot (s : State) : (s.drawBool.2).boot = s.boot := rfl
@[simp] theorem State.drawBool_hub (s : State) : (s.drawBool.2).hub = s.hub := rfl
@[simp] theorem State.drawBool_mem (s : State) : (s.drawBool.2).mem = s.mem := rfl
@[simp] theorem State.drawBool_tmem (s : State) : (s.drawBool.2).tmem = s.tmem := rfl
@[simp] theorem State.drawBool_eccBad (s : State) : (s.drawBool.2).eccBad = s.eccBad := rfl
@[simp] theorem State.drawBool_els (s : State) : (s.drawBool.2).els = s.els := rfl
@[simp] theorem State.drawBool_bays (s : State) : (s.drawBool.2).bays = s.bays := rfl
@[simp] theorem State.drawBool_loans (s : State) : (s.drawBool.2).loans = s.loans := rfl
@[simp] theorem State.drawBool_accs (s : State) : (s.drawBool.2).accs = s.accs := rfl
@[simp] theorem State.drawBool_xch (s : State) : (s.drawBool.2).xch = s.xch := rfl
@[simp] theorem State.drawBool_outgoing (s : State) : (s.drawBool.2).outgoing = s.outgoing := rfl
@[simp] theorem State.drawBool_trans (s : State) : (s.drawBool.2).trans = s.trans := rfl
@[simp] theorem State.drawBool_snaps (s : State) : (s.drawBool.2).snaps = s.snaps := rfl
@[simp] theorem State.drawBool_glaed (s : State) : (s.drawBool.2).glaed = s.glaed := rfl

@[simp] theorem State.ack_cycle (s : State) (id b : Nat) (its : List (Nat × List Nat)) : (s.ack id b its).cycle = s.cycle := by unfold State.ack; split <;> (try split) <;> rfl
@[simp] theorem State.ack_inputs (s : State) (id b : Nat) (its : List (Nat × List Nat)) : (s.ack id b its).inputs = s.inputs := by unfold State.ack; split <;> (try split) <;> rfl
@[simp] theorem State.ack_chosen (s : State) (id b : Nat) (its : List (Nat × List Nat)) : (s.ack id b its).chosen = s.chosen := by unfold State.ack; split <;> (try split) <;> rfl
@[simp] theorem State.ack_focus (s : State) (id b : Nat) (its : List (Nat × List Nat)) : (s.ack id b its).focus = s.focus := by unfold State.ack; split <;> (try split) <;> rfl
@[simp] theorem State.ack_fires (s : State) (id b : Nat) (its : List (Nat × List Nat)) : (s.ack id b its).fires = s.fires := by unfold State.ack; split <;> (try split) <;> rfl
@[simp] theorem State.ack_nextId (s : State) (id b : Nat) (its : List (Nat × List Nat)) : (s.ack id b its).nextId = s.nextId := by unfold State.ack; split <;> (try split) <;> rfl
@[simp] theorem State.ack_freeCount (s : State) (id b : Nat) (its : List (Nat × List Nat)) : (s.ack id b its).freeCount = s.freeCount := by unfold State.ack; split <;> (try split) <;> rfl
@[simp] theorem State.ack_boot (s : State) (id b : Nat) (its : List (Nat × List Nat)) : (s.ack id b its).boot = s.boot := by unfold State.ack; split <;> (try split) <;> rfl
@[simp] theorem State.ack_hub (s : State) (id b : Nat) (its : List (Nat × List Nat)) : (s.ack id b its).hub = s.hub := by unfold State.ack; split <;> (try split) <;> rfl
@[simp] theorem State.ack_mem (s : State) (id b : Nat) (its : List (Nat × List Nat)) : (s.ack id b its).mem = s.mem := by unfold State.ack; split <;> (try split) <;> rfl
@[simp] theorem State.ack_tmem (s : State) (id b : Nat) (its : List (Nat × List Nat)) : (s.ack id b its).tmem = s.tmem := by unfold State.ack; split <;> (try split) <;> rfl
@[simp] theorem State.ack_eccBad (s : State) (id b : Nat) (its : List (Nat × List Nat)) : (s.ack id b its).eccBad = s.eccBad := by unfold State.ack; split <;> (try split) <;> rfl
@[simp] theorem State.ack_els (s : State) (id b : Nat) (its : List (Nat × List Nat)) : (s.ack id b its).els = s.els := by unfold State.ack; split <;> (try split) <;> rfl
@[simp] theorem State.ack_bays (s : State) (id b : Nat) (its : List (Nat × List Nat)) : (s.ack id b its).bays = s.bays := by unfold State.ack; split <;> (try split) <;> rfl
@[simp] theorem State.ack_loans (s : State) (id b : Nat) (its : List (Nat × List Nat)) : (s.ack id b its).loans = s.loans := by unfold State.ack; split <;> (try split) <;> rfl
@[simp] theorem State.ack_accs (s : State) (id b : Nat) (its : List (Nat × List Nat)) : (s.ack id b its).accs = s.accs := by unfold State.ack; split <;> (try split) <;> rfl
@[simp] theorem State.ack_xch (s : State) (id b : Nat) (its : List (Nat × List Nat)) : (s.ack id b its).xch = s.xch := by unfold State.ack; split <;> (try split) <;> rfl
@[simp] theorem State.ack_outgoing (s : State) (id b : Nat) (its : List (Nat × List Nat)) : (s.ack id b its).outgoing = s.outgoing := by unfold State.ack; split <;> (try split) <;> rfl
@[simp] theorem State.ack_trans (s : State) (id b : Nat) (its : List (Nat × List Nat)) : (s.ack id b its).trans = s.trans := by unfold State.ack; split <;> (try split) <;> rfl
@[simp] theorem State.ack_snaps (s : State) (id b : Nat) (its : List (Nat × List Nat)) : (s.ack id b its).snaps = s.snaps := by unfold State.ack; split <;> (try split) <;> rfl
@[simp] theorem State.ack_glaed (s : State) (id b : Nat) (its : List (Nat × List Nat)) : (s.ack id b its).glaed = s.glaed := by unfold State.ack; split <;> (try split) <;> rfl

@[simp] theorem State.born_cycle (s : State) (id : Nat) (t : Tag) (its : List (Nat × List Nat)) : (s.born id t its).cycle = s.cycle := by simp [State.born]
@[simp] theorem State.born_agenda (s : State) (id : Nat) (t : Tag) (its : List (Nat × List Nat)) : (s.born id t its).agenda = s.agenda := by simp [State.born]
@[simp] theorem State.born_inputs (s : State) (id : Nat) (t : Tag) (its : List (Nat × List Nat)) : (s.born id t its).inputs = s.inputs := by simp [State.born]
@[simp] theorem State.born_chosen (s : State) (id : Nat) (t : Tag) (its : List (Nat × List Nat)) : (s.born id t its).chosen = s.chosen := by simp [State.born]
@[simp] theorem State.born_focus (s : State) (id : Nat) (t : Tag) (its : List (Nat × List Nat)) : (s.born id t its).focus = s.focus := by simp [State.born]
@[simp] theorem State.born_fires (s : State) (id : Nat) (t : Tag) (its : List (Nat × List Nat)) : (s.born id t its).fires = s.fires := by simp [State.born]
@[simp] theorem State.born_nextId (s : State) (id : Nat) (t : Tag) (its : List (Nat × List Nat)) : (s.born id t its).nextId = s.nextId := by simp [State.born]
@[simp] theorem State.born_freeCount (s : State) (id : Nat) (t : Tag) (its : List (Nat × List Nat)) : (s.born id t its).freeCount = s.freeCount := by simp [State.born]
@[simp] theorem State.born_boot (s : State) (id : Nat) (t : Tag) (its : List (Nat × List Nat)) : (s.born id t its).boot = s.boot := by simp [State.born]
@[simp] theorem State.born_hub (s : State) (id : Nat) (t : Tag) (its : List (Nat × List Nat)) : (s.born id t its).hub = s.hub := by simp [State.born]
@[simp] theorem State.born_mem (s : State) (id : Nat) (t : Tag) (its : List (Nat × List Nat)) : (s.born id t its).mem = s.mem := by simp [State.born]
@[simp] theorem State.born_tmem (s : State) (id : Nat) (t : Tag) (its : List (Nat × List Nat)) : (s.born id t its).tmem = s.tmem := by simp [State.born]
@[simp] theorem State.born_eccBad (s : State) (id : Nat) (t : Tag) (its : List (Nat × List Nat)) : (s.born id t its).eccBad = s.eccBad := by simp [State.born]
@[simp] theorem State.born_els (s : State) (id : Nat) (t : Tag) (its : List (Nat × List Nat)) : (s.born id t its).els = s.els := by simp [State.born]
@[simp] theorem State.born_bays (s : State) (id : Nat) (t : Tag) (its : List (Nat × List Nat)) : (s.born id t its).bays = s.bays := by simp [State.born]
@[simp] theorem State.born_accs (s : State) (id : Nat) (t : Tag) (its : List (Nat × List Nat)) : (s.born id t its).accs = s.accs := by simp [State.born]
@[simp] theorem State.born_xch (s : State) (id : Nat) (t : Tag) (its : List (Nat × List Nat)) : (s.born id t its).xch = s.xch := by simp [State.born]
@[simp] theorem State.born_outgoing (s : State) (id : Nat) (t : Tag) (its : List (Nat × List Nat)) : (s.born id t its).outgoing = s.outgoing := by simp [State.born]
@[simp] theorem State.born_trans (s : State) (id : Nat) (t : Tag) (its : List (Nat × List Nat)) : (s.born id t its).trans = s.trans := by simp [State.born]
@[simp] theorem State.born_snaps (s : State) (id : Nat) (t : Tag) (its : List (Nat × List Nat)) : (s.born id t its).snaps = s.snaps := by simp [State.born]
@[simp] theorem State.born_glaed (s : State) (id : Nat) (t : Tag) (its : List (Nat × List Nat)) : (s.born id t its).glaed = s.glaed := by simp [State.born]

@[simp] theorem State.gone_cycle (s : State) (id b : Nat) (t : Tag) (its : List (Nat × List Nat)) : (s.gone id b t its).cycle = s.cycle := by simp [State.gone]
@[simp] theorem State.gone_inputs (s : State) (id b : Nat) (t : Tag) (its : List (Nat × List Nat)) : (s.gone id b t its).inputs = s.inputs := by simp [State.gone]
@[simp] theorem State.gone_chosen (s : State) (id b : Nat) (t : Tag) (its : List (Nat × List Nat)) : (s.gone id b t its).chosen = s.chosen := by simp [State.gone]
@[simp] theorem State.gone_focus (s : State) (id b : Nat) (t : Tag) (its : List (Nat × List Nat)) : (s.gone id b t its).focus = s.focus := by simp [State.gone]
@[simp] theorem State.gone_fires (s : State) (id b : Nat) (t : Tag) (its : List (Nat × List Nat)) : (s.gone id b t its).fires = s.fires := by simp [State.gone]
@[simp] theorem State.gone_nextId (s : State) (id b : Nat) (t : Tag) (its : List (Nat × List Nat)) : (s.gone id b t its).nextId = s.nextId := by simp [State.gone]
@[simp] theorem State.gone_freeCount (s : State) (id b : Nat) (t : Tag) (its : List (Nat × List Nat)) : (s.gone id b t its).freeCount = s.freeCount := by simp [State.gone]
@[simp] theorem State.gone_boot (s : State) (id b : Nat) (t : Tag) (its : List (Nat × List Nat)) : (s.gone id b t its).boot = s.boot := by simp [State.gone]
@[simp] theorem State.gone_hub (s : State) (id b : Nat) (t : Tag) (its : List (Nat × List Nat)) : (s.gone id b t its).hub = s.hub := by simp [State.gone]
@[simp] theorem State.gone_mem (s : State) (id b : Nat) (t : Tag) (its : List (Nat × List Nat)) : (s.gone id b t its).mem = s.mem := by simp [State.gone]
@[simp] theorem State.gone_tmem (s : State) (id b : Nat) (t : Tag) (its : List (Nat × List Nat)) : (s.gone id b t its).tmem = s.tmem := by simp [State.gone]
@[simp] theorem State.gone_eccBad (s : State) (id b : Nat) (t : Tag) (its : List (Nat × List Nat)) : (s.gone id b t its).eccBad = s.eccBad := by simp [State.gone]
@[simp] theorem State.gone_els (s : State) (id b : Nat) (t : Tag) (its : List (Nat × List Nat)) : (s.gone id b t its).els = s.els := by simp [State.gone]
@[simp] theorem State.gone_bays (s : State) (id b : Nat) (t : Tag) (its : List (Nat × List Nat)) : (s.gone id b t its).bays = s.bays := by simp [State.gone]
@[simp] theorem State.gone_accs (s : State) (id b : Nat) (t : Tag) (its : List (Nat × List Nat)) : (s.gone id b t its).accs = s.accs := by simp [State.gone]
@[simp] theorem State.gone_xch (s : State) (id b : Nat) (t : Tag) (its : List (Nat × List Nat)) : (s.gone id b t its).xch = s.xch := by simp [State.gone]
@[simp] theorem State.gone_outgoing (s : State) (id b : Nat) (t : Tag) (its : List (Nat × List Nat)) : (s.gone id b t its).outgoing = s.outgoing := by simp [State.gone]
@[simp] theorem State.gone_trans (s : State) (id b : Nat) (t : Tag) (its : List (Nat × List Nat)) : (s.gone id b t its).trans = s.trans := by simp [State.gone]
@[simp] theorem State.gone_snaps (s : State) (id b : Nat) (t : Tag) (its : List (Nat × List Nat)) : (s.gone id b t its).snaps = s.snaps := by simp [State.gone]
@[simp] theorem State.gone_glaed (s : State) (id b : Nat) (t : Tag) (its : List (Nat × List Nat)) : (s.gone id b t its).glaed = s.glaed := by simp [State.gone]

@[simp] theorem State.addAccess_cycle (s : State) (a : Access) : ((s.addAccess a).2).cycle = s.cycle := rfl
@[simp] theorem State.addAccess_agenda (s : State) (a : Access) : ((s.addAccess a).2).agenda = s.agenda := rfl
@[simp] theorem State.addAccess_inputs (s : State) (a : Access) : ((s.addAccess a).2).inputs = s.inputs := rfl
@[simp] theorem State.addAccess_chosen (s : State) (a : Access) : ((s.addAccess a).2).chosen = s.chosen := rfl
@[simp] theorem State.addAccess_focus (s : State) (a : Access) : ((s.addAccess a).2).focus = s.focus := rfl
@[simp] theorem State.addAccess_fires (s : State) (a : Access) : ((s.addAccess a).2).fires = s.fires := rfl
@[simp] theorem State.addAccess_freeCount (s : State) (a : Access) : ((s.addAccess a).2).freeCount = s.freeCount := rfl
@[simp] theorem State.addAccess_boot (s : State) (a : Access) : ((s.addAccess a).2).boot = s.boot := rfl
@[simp] theorem State.addAccess_hub (s : State) (a : Access) : ((s.addAccess a).2).hub = s.hub := rfl
@[simp] theorem State.addAccess_mem (s : State) (a : Access) : ((s.addAccess a).2).mem = s.mem := rfl
@[simp] theorem State.addAccess_tmem (s : State) (a : Access) : ((s.addAccess a).2).tmem = s.tmem := rfl
@[simp] theorem State.addAccess_eccBad (s : State) (a : Access) : ((s.addAccess a).2).eccBad = s.eccBad := rfl
@[simp] theorem State.addAccess_els (s : State) (a : Access) : ((s.addAccess a).2).els = s.els := rfl
@[simp] theorem State.addAccess_bays (s : State) (a : Access) : ((s.addAccess a).2).bays = s.bays := rfl
@[simp] theorem State.addAccess_loans (s : State) (a : Access) : ((s.addAccess a).2).loans = s.loans := rfl
@[simp] theorem State.addAccess_xch (s : State) (a : Access) : ((s.addAccess a).2).xch = s.xch := rfl
@[simp] theorem State.addAccess_outgoing (s : State) (a : Access) : ((s.addAccess a).2).outgoing = s.outgoing := rfl
@[simp] theorem State.addAccess_trans (s : State) (a : Access) : ((s.addAccess a).2).trans = s.trans := rfl
@[simp] theorem State.addAccess_snaps (s : State) (a : Access) : ((s.addAccess a).2).snaps = s.snaps := rfl
@[simp] theorem State.addAccess_glaed (s : State) (a : Access) : ((s.addAccess a).2).glaed = s.glaed := rfl

@[simp] theorem Element.updCtx_planes (e : Element) (c : Nat) (g : ElCtx → ElCtx) : (e.updCtx c g).planes = e.planes := rfl
@[simp] theorem Element.updCtx_badPlane (e : Element) (c : Nat) (g : ElCtx → ElCtx) : (e.updCtx c g).badPlane = e.badPlane := rfl
@[simp] theorem Element.updCtx_random (e : Element) (c : Nat) (g : ElCtx → ElCtx) : (e.updCtx c g).random = e.random := rfl
@[simp] theorem Element.updCtx_out (e : Element) (c : Nat) (g : ElCtx → ElCtx) : (e.updCtx c g).out = e.out := rfl
@[simp] theorem Element.updCtx_reserved (e : Element) (c : Nat) (g : ElCtx → ElCtx) : (e.updCtx c g).reserved = e.reserved := rfl
@[simp] theorem Element.updCtx_links (e : Element) (c : Nat) (g : ElCtx → ElCtx) : (e.updCtx c g).links = e.links := rfl
@[simp] theorem Element.updCtx_pending (e : Element) (c : Nat) (g : ElCtx → ElCtx) : (e.updCtx c g).pending = e.pending := rfl
@[simp] theorem Element.updCtx_matching (e : Element) (c : Nat) (g : ElCtx → ElCtx) : (e.updCtx c g).matching = e.matching := rfl
@[simp] theorem Element.updCtx_ready (e : Element) (c : Nat) (g : ElCtx → ElCtx) : (e.updCtx c g).ready = e.ready := rfl
@[simp] theorem Element.updCtx_ordered (e : Element) (c : Nat) (g : ElCtx → ElCtx) : (e.updCtx c g).ordered = e.ordered := rfl
@[simp] theorem Element.updCtx_matchHeld (e : Element) (c : Nat) (g : ElCtx → ElCtx) : (e.updCtx c g).matchHeld = e.matchHeld := rfl
@[simp] theorem Element.updCtx_iterBusy (e : Element) (c : Nat) (g : ElCtx → ElCtx) : (e.updCtx c g).iterBusy = e.iterBusy := rfl
@[simp] theorem Element.updCtx_lastCtx (e : Element) (c : Nat) (g : ElCtx → ElCtx) : (e.updCtx c g).lastCtx = e.lastCtx := rfl
@[simp] theorem Element.updCtx_fired (e : Element) (c : Nat) (g : ElCtx → ElCtx) : (e.updCtx c g).fired = e.fired := rfl
@[simp] theorem Element.updCtx_popped (e : Element) (c : Nat) (g : ElCtx → ElCtx) : (e.updCtx c g).popped = e.popped := rfl
@[simp] theorem Element.updCtx_linkUsed (e : Element) (c : Nat) (g : ElCtx → ElCtx) : (e.updCtx c g).linkUsed = e.linkUsed := rfl
@[simp] theorem Element.updCtx_freed (e : Element) (c : Nat) (g : ElCtx → ElCtx) : (e.updCtx c g).freed = e.freed := rfl
@[simp] theorem Element.updCtx_accepted (e : Element) (c : Nat) (g : ElCtx → ElCtx) : (e.updCtx c g).accepted = e.accepted := rfl
@[simp] theorem Element.updCtx_outside (e : Element) (c : Nat) (g : ElCtx → ElCtx) : (e.updCtx c g).outside = e.outside := rfl
@[simp] theorem Element.updCtx_opA (e : Element) (c : Nat) (g : ElCtx → ElCtx) : (e.updCtx c g).opA = e.opA := rfl
@[simp] theorem Element.updCtx_opB (e : Element) (c : Nat) (g : ElCtx → ElCtx) : (e.updCtx c g).opB = e.opB := rfl
@[simp] theorem Element.updCtx_scA (e : Element) (c : Nat) (g : ElCtx → ElCtx) : (e.updCtx c g).scA = e.scA := rfl
@[simp] theorem Element.updCtx_scB (e : Element) (c : Nat) (g : ElCtx → ElCtx) : (e.updCtx c g).scB = e.scB := rfl
@[simp] theorem Element.updCtx_beatLink (e : Element) (c : Nat) (g : ElCtx → ElCtx) : (e.updCtx c g).beatLink = e.beatLink := rfl

@[simp] theorem Element.updActive_ctxs (e : Element) (c : Nat) (g : Plane → Plane) : (e.updActive c g).ctxs = e.ctxs := by unfold Element.updActive; split <;> rfl
@[simp] theorem Element.updActive_badPlane (e : Element) (c : Nat) (g : Plane → Plane) : (e.updActive c g).badPlane = e.badPlane := by unfold Element.updActive; split <;> rfl
@[simp] theorem Element.updActive_random (e : Element) (c : Nat) (g : Plane → Plane) : (e.updActive c g).random = e.random := by unfold Element.updActive; split <;> rfl
@[simp] theorem Element.updActive_out (e : Element) (c : Nat) (g : Plane → Plane) : (e.updActive c g).out = e.out := by unfold Element.updActive; split <;> rfl
@[simp] theorem Element.updActive_reserved (e : Element) (c : Nat) (g : Plane → Plane) : (e.updActive c g).reserved = e.reserved := by unfold Element.updActive; split <;> rfl
@[simp] theorem Element.updActive_links (e : Element) (c : Nat) (g : Plane → Plane) : (e.updActive c g).links = e.links := by unfold Element.updActive; split <;> rfl
@[simp] theorem Element.updActive_pending (e : Element) (c : Nat) (g : Plane → Plane) : (e.updActive c g).pending = e.pending := by unfold Element.updActive; split <;> rfl
@[simp] theorem Element.updActive_matching (e : Element) (c : Nat) (g : Plane → Plane) : (e.updActive c g).matching = e.matching := by unfold Element.updActive; split <;> rfl
@[simp] theorem Element.updActive_ready (e : Element) (c : Nat) (g : Plane → Plane) : (e.updActive c g).ready = e.ready := by unfold Element.updActive; split <;> rfl
@[simp] theorem Element.updActive_ordered (e : Element) (c : Nat) (g : Plane → Plane) : (e.updActive c g).ordered = e.ordered := by unfold Element.updActive; split <;> rfl
@[simp] theorem Element.updActive_matchHeld (e : Element) (c : Nat) (g : Plane → Plane) : (e.updActive c g).matchHeld = e.matchHeld := by unfold Element.updActive; split <;> rfl
@[simp] theorem Element.updActive_iterBusy (e : Element) (c : Nat) (g : Plane → Plane) : (e.updActive c g).iterBusy = e.iterBusy := by unfold Element.updActive; split <;> rfl
@[simp] theorem Element.updActive_lastCtx (e : Element) (c : Nat) (g : Plane → Plane) : (e.updActive c g).lastCtx = e.lastCtx := by unfold Element.updActive; split <;> rfl
@[simp] theorem Element.updActive_fired (e : Element) (c : Nat) (g : Plane → Plane) : (e.updActive c g).fired = e.fired := by unfold Element.updActive; split <;> rfl
@[simp] theorem Element.updActive_popped (e : Element) (c : Nat) (g : Plane → Plane) : (e.updActive c g).popped = e.popped := by unfold Element.updActive; split <;> rfl
@[simp] theorem Element.updActive_linkUsed (e : Element) (c : Nat) (g : Plane → Plane) : (e.updActive c g).linkUsed = e.linkUsed := by unfold Element.updActive; split <;> rfl
@[simp] theorem Element.updActive_freed (e : Element) (c : Nat) (g : Plane → Plane) : (e.updActive c g).freed = e.freed := by unfold Element.updActive; split <;> rfl
@[simp] theorem Element.updActive_accepted (e : Element) (c : Nat) (g : Plane → Plane) : (e.updActive c g).accepted = e.accepted := by unfold Element.updActive; split <;> rfl
@[simp] theorem Element.updActive_outside (e : Element) (c : Nat) (g : Plane → Plane) : (e.updActive c g).outside = e.outside := by unfold Element.updActive; split <;> rfl
@[simp] theorem Element.updActive_opA (e : Element) (c : Nat) (g : Plane → Plane) : (e.updActive c g).opA = e.opA := by unfold Element.updActive; split <;> rfl
@[simp] theorem Element.updActive_opB (e : Element) (c : Nat) (g : Plane → Plane) : (e.updActive c g).opB = e.opB := by unfold Element.updActive; split <;> rfl
@[simp] theorem Element.updActive_scA (e : Element) (c : Nat) (g : Plane → Plane) : (e.updActive c g).scA = e.scA := by unfold Element.updActive; split <;> rfl
@[simp] theorem Element.updActive_scB (e : Element) (c : Nat) (g : Plane → Plane) : (e.updActive c g).scB = e.scB := by unfold Element.updActive; split <;> rfl
@[simp] theorem Element.updActive_beatLink (e : Element) (c : Nat) (g : Plane → Plane) : (e.updActive c g).beatLink = e.beatLink := by unfold Element.updActive; split <;> rfl

/-! ### Reading back -/

@[simp] theorem State.el_updEl_same (s : State) (k : Nat) (g : Element → Element) : (s.updEl k g).el k = g (s.el k) := by
  simp [State.el, State.updEl]

theorem State.el_updEl_other (s : State) {k j : Nat} (g : Element → Element) (h : j ≠ k) : (s.updEl k g).el j = s.el j := by
  simp [State.el, State.updEl, AMap.get_upd_other _ _ _ h]

@[simp] theorem State.bay_updBay_same (s : State) (b : Nat) (g : Bay → Bay) : (s.updBay b g).bay b = g (s.bay b) := by
  simp [State.bay, State.updBay]

theorem State.bay_updBay_other (s : State) {b c : Nat} (g : Bay → Bay) (h : c ≠ b) : (s.updBay b g).bay c = s.bay c := by
  simp [State.bay, State.updBay, AMap.get_upd_other _ _ _ h]

theorem State.find_updLoan_same (s : State) (id : Nat) (g : Loan → Loan) :
    AMap.find (s.updLoan id g).loans id = (AMap.find s.loans id).map g := by
  unfold State.updLoan; split <;> simp_all

theorem State.find_updLoan_other (s : State) {id j : Nat} (g : Loan → Loan) (h : j ≠ id) :
    AMap.find (s.updLoan id g).loans j = AMap.find s.loans j := by
  unfold State.updLoan; split
  · exact AMap.find_put_other _ _ h
  · rfl

@[simp] theorem State.updHub_hub (s : State) (g : Hub → Hub) : (s.updHub g).hub = g s.hub := rfl

@[simp] theorem Element.ctx_updCtx_same (e : Element) (c : Nat) (g : ElCtx → ElCtx) : (e.updCtx c g).ctx c = g (e.ctx c) := by
  simp [Element.ctx, Element.updCtx]

theorem Element.ctx_updCtx_other (e : Element) {c d : Nat} (g : ElCtx → ElCtx) (h : d ≠ c) : (e.updCtx c g).ctx d = e.ctx d := by
  simp [Element.ctx, Element.updCtx, AMap.get_upd_other _ _ _ h]

@[simp] theorem Element.ctx_updActive (e : Element) (c d : Nat) (g : Plane → Plane) : (e.updActive c g).ctx d = e.ctx d := by
  simp [Element.ctx]

theorem Element.active_updActive (e : Element) (c : Nat) (g : Plane → Plane) (h : (e.ctx c).plane.isSome = true) :
    (e.updActive c g).active c = g (e.active c) := by
  unfold Element.active
  simp only [Element.ctx_updActive]
  unfold Element.updActive
  cases hp : (e.ctx c).plane with
  | none => simp [hp] at h
  | some i => simp [Element.plane]

end Sys2Proof.Machine
end

