-- ==== Sys2Proof/Laws/Fire.lean ====
section
/-! SUPPORT. What a firing leaves: one lemma about the shared operation of every element instruction. -/
namespace Sys2Proof.Machine

theorem range_filter_eq (n d : Nat) (p : Nat → Bool) :
    (List.range n).filter (fun x => x == d && p x) = if d < n ∧ p d = true then [d] else [] := by
  induction n with
  | zero => simp
  | succ n ih =>
    rw [List.range_succ, List.filter_append, ih]
    by_cases hd : d = n
    · subst hd; by_cases hp : p d = true <;> simp [hp]
    · have h1 : (n == d) = false := by simp [Ne.symm hd]
      have h2 : d < n + 1 ↔ d < n := by omega
      simp [h1, h2]

theorem le_maxDelay (ems : List Emission) (m : Nat) (e : Emission) (h : e ∈ ems) :
    e.delay ≤ ems.foldl (fun m (e : Emission) => max m e.delay) m := by
  have mono : ∀ (l : List Emission) (m : Nat), m ≤ l.foldl (fun m (e : Emission) => max m e.delay) m := by
    intro l; induction l with
    | nil => intro m; simp
    | cons x xs ih => intro m; exact le_trans (le_max_left _ _) (ih _)
  induction ems generalizing m with
  | nil => cases h
  | cons x xs ih =>
    rcases List.mem_cons.1 h with rfl | h
    · exact le_trans (le_max_right _ _) (mono xs _)
    · exact ih _ h

/-- The entries of the pipeline carry each emission for the cycle of its delay. -/
theorem pendings_emits (s : State) (f : FireCtx) (lat : Nat) (ems : List Emission) (accW : List (Nat × W32)) (post : Option Post)
    (d : Nat) :
    ((pendings s f lat ems accW post).filter (fun p => p.due == s.cycle + lat + d)).flatMap Pending.emits =
      (ems.filter (fun e => e.delay == d)).map (fun e => (e.buf, e.flit)) := by
  unfold pendings
  rw [List.filter_map]
  simp only [Function.comp_def, List.filter_filter]
  have hd : ∀ x : Nat, (s.cycle + lat + x == s.cycle + lat + d) = (x == d) := by
    intro x; by_cases h : x = d <;> simp [h]
  simp only [hd]
  rw [range_filter_eq]
  split
  · simp
  · rename_i h
    have hnone : ems.filter (fun e => e.delay == d) = [] := by
      rw [List.filter_eq_nil_iff]
      intro e he hx
      have hx : e.delay = d := by simpa using hx
      have hle := le_maxDelay ems 0 e he
      refine h ⟨by omega, ?_⟩
      have : ems.any (fun e => e.delay == d) = true := List.any_eq_true.2 ⟨e, he, by simp [hx]⟩
      simp [this]
    simp [hnone]

theorem pendings_accW (s : State) (f : FireCtx) (lat : Nat) (ems : List Emission) (accW : List (Nat × W32)) (post : Option Post) :
    (pendings s f lat ems accW post).flatMap Pending.accW = accW := by
  unfold pendings
  rw [List.flatMap_map]
  generalize ems.foldl (fun m (e : Emission) => max m e.delay) 0 = n
  rw [List.range_succ_eq_map, List.filter_cons]
  simp only [beq_self_eq_true, Bool.true_or, if_true, List.flatMap_cons]
  have : ∀ l : List Nat, ((l.map Nat.succ).filter (fun d => d == 0 || d == n || ems.any (fun e => e.delay == d))).flatMap
      (fun a => if a = 0 then accW else []) = [] := by
    intro l
    rw [List.flatMap_eq_nil_iff]
    intro x hx
    have := (List.mem_filter.1 hx).1
    obtain ⟨y, _, rfl⟩ := List.mem_map.1 this
    simp
  simp [this]

theorem pendings_post (s : State) (f : FireCtx) (lat : Nat) (ems : List Emission) (accW : List (Nat × W32)) (post : Option Post) :
    (pendings s f lat ems accW post).filterMap Pending.post = post.toList := by
  unfold pendings
  rw [List.filterMap_map]
  simp only [Function.comp_def]
  generalize ems.foldl (fun m (e : Emission) => max m e.delay) 0 = n
  rw [List.range_succ, List.filter_append, List.filterMap_append]
  have h1 : ((List.range n).filter (fun d => d == 0 || d == n || ems.any (fun e => e.delay == d))).filterMap
      (fun d => if d = n then post else none) = [] := by
    rw [List.filterMap_eq_nil_iff]
    intro x hx
    have := List.mem_range.1 (List.mem_filter.1 hx).1
    simp; omega
  rw [h1]
  cases post <;> simp

/-! ### The commit of a firing -/

/-- Steps put on the agenda change nothing else. -/
theorem foldl_later_eq (s : State) (d : State → Pending → Nat) (i : Pending → Instr) (ps : List Pending) :
    ∃ a, ps.foldl (fun s p => s.later (d s p) (i p)) s = { s with agenda := a } := by
  induction ps generalizing s with
  | nil => exact ⟨s.agenda, rfl⟩
  | cons p ps ih =>
    obtain ⟨a, ha⟩ := ih (s.later (d s p) (i p))
    exact ⟨a, by rw [List.foldl_cons, ha]; rfl⟩

/-- An acknowledgement changes only the agenda. -/
theorem ack_eq (s : State) (id b : Nat) (its : List (Nat × List Nat)) : ∃ a, s.ack id b its = { s with agenda := a } := by
  unfold State.ack
  split
  · exact ⟨s.agenda, rfl⟩
  · split
    · exact ⟨s.agenda, rfl⟩
    · exact ⟨_, rfl⟩

/-- The change of a loan touches that loan only. -/
theorem updLoan_eq (s : State) (id : Nat) (h : Loan → Loan) :
    ∃ ls, (∀ j, j ≠ id → AMap.find ls j = AMap.find s.loans j) ∧ s.updLoan id h = { s with loans := ls } := by
  unfold State.updLoan
  split
  · exact ⟨_, fun j hj => AMap.find_put_other _ _ hj, rfl⟩
  · exact ⟨s.loans, fun _ _ => rfl, rfl⟩

theorem takeAccord_eq (g : Got) (key : Nat) (s : State) :
    ∃ bs, ((∀ i, g.src ≠ .accord i) → bs = s.bays) ∧ g.takeAccord key s = { s with bays := bs } := by
  unfold Got.takeAccord
  split
  · rename_i i h; exact ⟨_, fun hn => absurd h (hn i), rfl⟩
  · exact ⟨s.bays, fun _ => rfl, rfl⟩

theorem ackTaken_eq (f : FireCtx) (g : Got) (eff : Eff) (s : State) : ∃ a, ackTaken f g eff s = { s with agenda := a } := by
  unfold ackTaken
  split
  · exact ⟨s.agenda, rfl⟩
  · exact ack_eq s _ _ _

/-- What a commit changes: the element that fires, its loan, the accord that it takes, counters and the agenda. -/
theorem commit_eq (s : State) (f : FireCtx) (sh : Shape) (g : Got) (eff : Eff) (ems : List Emission) :
    ∃ a n ls bs, (∀ id, id ≠ f.id → AMap.find ls id = AMap.find s.loans id) ∧ ((∀ i, g.src ≠ .accord i) → bs = s.bays) ∧
      commit s f sh g eff ems = { s with
        els := AMap.put s.els f.key (fireElement s f sh g eff ems (pendings s f sh.latency ems eff.accW (firingPost sh g eff)))
        nextId := n
        fires := s.fires + 1
        loans := ls
        bays := bs
        agenda := a } := by
  unfold commit
  dsimp only
  generalize pendings s f sh.latency ems eff.accW (firingPost sh g eff) = ps
  generalize fireElement s f sh g eff ems ps = e
  generalize s.nextId + 1 + ems.foldl (fun m (x : Emission) => max m x.delay) 0 = n
  obtain ⟨bs, hbs, e1⟩ := takeAccord_eq g f.key { s with els := AMap.put s.els f.key e, nextId := n, fires := s.fires + 1 }
  rw [e1]
  obtain ⟨ls, hls, e2⟩ := updLoan_eq { s with els := AMap.put s.els f.key e, nextId := n, fires := s.fires + 1, bays := bs } f.id
    (fireLoan s.cycle f sh g eff ems)
  rw [e2]
  obtain ⟨a3, e3⟩ := ackTaken_eq f g eff
    { s with els := AMap.put s.els f.key e, nextId := n, fires := s.fires + 1, bays := bs, loans := ls }
  rw [e3]
  obtain ⟨a4, e4⟩ := foldl_later_eq
    { s with els := AMap.put s.els f.key e, nextId := n, fires := s.fires + 1, bays := bs, loans := ls, agenda := a3 }
    (fun s p => p.due - s.cycle) (fun p => .firingResultWrite f.key p.id) ps
  exact ⟨a4, n, ls, bs, hls, hbs, e4⟩

end Sys2Proof.Machine
end

