-- ==== Sys2Proof/Laws/Firing.lean ====
section
/-! SUPPORT. A firing whose handler issues and whose outputs can leave: what it leaves, said once for every element instruction. -/
namespace Sys2Proof.Machine

theorem planeAfter_take (f : FireCtx) (g : Got) (eff : Eff) (h : f.x.plane.isSome = true) (hx : f.x = f.e.ctx f.ctx) :
    (((if eff.keep then f.e else takeOperands f g f.e).updActive f.ctx
      (fun pl => eff.wW.foldl (fun pl w => { pl with w := AMap.put pl.w w.1 w.2 }) pl)).active f.ctx) = planeAfter f g eff := by
  have hp : (f.e.ctx f.ctx).plane.isSome = true := hx ▸ h
  unfold planeAfter
  cases hk : eff.keep with
  | true => simp only [if_true]; rw [Element.active_updActive _ _ _ hp]
  | false =>
    simp only [Bool.false_eq_true, if_false]
    unfold takeOperands
    cases hs : g.src with
    | queues takes =>
      rw [Element.active_updActive _ _ _ (by simpa using hp), Element.active_updActive _ _ _ hp]
    | trigger i =>
      rw [Element.active_updActive _ _ _ (by simpa [Element.ctx_updCtx_same] using hp)]
      congr 1
      simp [Element.active, Element.plane, Element.updCtx, Element.ctx]
    | ready i => exact Element.active_updActive { f.e with ready := removeAt f.e.ready i } f.ctx _ hp
    | accord i => exact Element.active_updActive f.e f.ctx _ hp

/-- What the context of a firing is: the element and context in focus. -/
theorem fireCtx_parts {s : State} {f : FireCtx} (h : fireCtx? s = some f) : f.e = s.el f.key ∧ f.x = f.e.ctx f.ctx := by
  unfold fireCtx? at h
  dsimp only at h
  split at h
  · cases h
  · split at h
    · cases h
    · split at h
      · cases h
      · split at h
        · cases h; exact ⟨rfl, rfl⟩
        · cases h

theorem takeOperands_same (f : FireCtx) (g : Got) (e : Element) :
    (takeOperands f g e).pending = e.pending ∧ (takeOperands f g e).random = e.random ∧
    (∀ c, c ≠ f.ctx → (takeOperands f g e).ctx c = e.ctx c) ∧ ((takeOperands f g e).ctx f.ctx).status = (e.ctx f.ctx).status ∧
    ((takeOperands f g e).ctx f.ctx).acc = (e.ctx f.ctx).acc := by
  unfold takeOperands
  split
  · simp
  · exact ⟨rfl, rfl, fun _ _ => rfl, rfl, rfl⟩
  · exact ⟨rfl, rfl, fun _ _ => rfl, rfl, rfl⟩
  · refine ⟨rfl, rfl, fun c hc => Element.ctx_updCtx_other _ _ hc, ?_, ?_⟩ <;> rw [Element.ctx_updCtx_same]

/-- The element after a firing, field by field. -/
theorem settleElement_same (f : FireCtx) (sh : Shape) (g : Got) (eff : Eff) (ems : List Emission) :
    (settleElement f sh g eff ems).pending = f.e.pending ∧ (settleElement f sh g eff ems).random = f.e.random ∧
    (∀ c, c ≠ f.ctx → (settleElement f sh g eff ems).ctx c = f.e.ctx c) ∧
    ((settleElement f sh g eff ems).ctx f.ctx).status = gather (f.e.ctx f.ctx).status eff.flags ∧
    ((settleElement f sh g eff ems).ctx f.ctx).acc = (f.e.ctx f.ctx).acc := by
  unfold settleElement
  obtain ⟨h1, h2, h3, h4, h5⟩ := takeOperands_same f g f.e
  refine ⟨?_, ?_, fun c hc => ?_, ?_, ?_⟩
  · rw [Element.updCtx_pending, Element.updActive_pending]; split <;> simp [h1]
  · rw [Element.updCtx_random, Element.updActive_random]; split <;> simp [h2]
  · rw [Element.ctx_updCtx_other _ _ hc, Element.ctx_updActive]; split
    · rfl
    · exact h3 c hc
  · rw [Element.ctx_updCtx_same, Element.ctx_updActive]; split
    · rfl
    · simp only [h4]
  · rw [Element.ctx_updCtx_same, Element.ctx_updActive]; split
    · rfl
    · exact h5

/-- A change of a context that keeps its plane keeps its active plane. -/
theorem Element.active_updCtx (e : Element) (c : Nat) (h : ElCtx → ElCtx) (hp : (h (e.ctx c)).plane = (e.ctx c).plane) :
    (e.updCtx c h).active c = e.active c := by
  unfold Element.active
  rw [Element.ctx_updCtx_same, hp]
  rfl

/-- The active plane after a firing. -/
theorem settleElement_active (f : FireCtx) (sh : Shape) (g : Got) (eff : Eff) (ems : List Emission)
    (hx : f.x = f.e.ctx f.ctx) (h : f.x.plane.isSome = true) :
    (settleElement f sh g eff ems).active f.ctx = planeAfter f g eff := by
  rw [← planeAfter_take f g eff h hx]
  unfold settleElement
  rw [Element.active_updCtx _ f.ctx _ rfl]

/-- A change of the firing's loan leaves the rest as a firing leaves it. -/
theorem Fired.updLoan {s u : State} {f : FireCtx} {sh : Shape} {g : Got} {eff : Eff} (h : Fired s u f sh g eff) (k : Loan → Loan) :
    Fired s (u.updLoan f.id k) f sh g eff := by
  obtain ⟨ls, hls, e⟩ := updLoan_eq u f.id k
  rw [e]
  exact ⟨h.pipeline, h.status, h.acc, h.plane, h.random, h.counted, h.request, h.otherContexts, h.otherElements,
    fun id hid => (hls id hid).trans (h.otherLoans id hid), h.bays, h.memory, h.rest⟩

/-- The commit of a firing, from a state that has numbered its request. -/
theorem commit_fired {s : State} {f : FireCtx} {sh : Shape} {g : Got} {eff : Eff} (hf : f.e = s.el f.key ∧ f.x = f.e.ctx f.ctx)
    (t : State) (ht : t = { s with nextId := t.nextId, accs := t.accs })
    (hr : t.accs = (match eff.req with | some a => AMap.put s.accs s.nextId { a with seq := s.nextId } | none => s.accs)) :
    Fired s (commit t f sh g eff (emitted s f sh eff)) f sh g eff := by
  obtain ⟨a, n, ls, bs, hls, hbs, e⟩ := commit_eq t f sh g eff (emitted s f sh eff)
  rw [e]
  have hc : t.cycle = s.cycle := by rw [ht]
  obtain ⟨hpend, hrnd, hother, hstatus, hacc⟩ := settleElement_same f sh g eff (emitted s f sh eff)
  generalize hps : pendings t f sh.latency (emitted s f sh eff) eff.accW (firingPost sh g eff) = ps
  have hself : AMap.get (AMap.put t.els f.key (fireElement t f sh g eff (emitted s f sh eff) ps)) Element.empty f.key =
      fireElement t f sh g eff (emitted s f sh eff) ps := AMap.get_put_same _ _ _ _
  refine ⟨⟨ps, ?_, ?_, hps ▸ pendings_accW _ _ _ _ _ _, ?_⟩, ?_, ?_, ?_, ?_, ?_, hr, ?_, ?_, ?_, ?_, ?_, ?_⟩
  · show Element.pending (AMap.get (AMap.put t.els f.key _) Element.empty f.key) = _
    rw [hself]; show Element.pending _ ++ ps = _; rw [hpend]
  · intro d; rw [← hc, ← hps]; exact pendings_emits _ _ _ _ _ _ d
  · rw [← hps, pendings_post]; unfold firingPost; split <;> rfl
  · show (Element.ctx (AMap.get (AMap.put t.els f.key _) Element.empty f.key) f.ctx).status = _
    rw [hself, hf.2]; exact hstatus
  · show (Element.ctx (AMap.get (AMap.put t.els f.key _) Element.empty f.key) f.ctx).acc = _
    rw [hself, hf.2]; exact hacc
  · intro h
    show Element.active (AMap.get (AMap.put t.els f.key _) Element.empty f.key) f.ctx = _
    rw [hself]; exact settleElement_active f sh g eff _ hf.2 h
  · show Element.random (AMap.get (AMap.put t.els f.key _) Element.empty f.key) = _
    rw [hself]; show eff.rnd.getD _ = _; rw [hrnd]
  · show t.fires + 1 = _; rw [ht]
  · intro c hc'
    show Element.ctx (AMap.get (AMap.put t.els f.key _) Element.empty f.key) c = _
    rw [hself]; exact hother c hc'
  · intro k hk
    show AMap.get (AMap.put t.els f.key _) Element.empty k = _
    rw [AMap.get_put_other _ _ _ hk, ht]; rfl
  · intro id hid
    show AMap.find ls id = _
    rw [hls id hid, ht]
  · intro h; show bs = _; rw [hbs h, ht]
  · exact ⟨by rw [ht], by rw [ht]⟩
  · refine ⟨hc, ?_, ?_, ?_, ?_, ?_, ?_, ?_⟩ <;> rw [ht]

/-- The state in which an instruction's `after` begins. -/
theorem firePerform_fired {s : State} {f : FireCtx} {sh : Shape} {gath : State → FireCtx → Gather} {g : Got} {eff : Eff}
    (after : FireCtx → Got → State → State) (hi : Issues s sh gath f g) (hg : Goes s f sh eff) :
    ∃ u, Fired s u f sh g eff ∧ firePerform s f sh g eff after = after f g u := by
  have hf := fireCtx_parts hi.runs
  have h1 : eff.outs.any (fun o => (o.finalTag sh.h.tagop).isNone) = false := by
    have := hg.tags
    rw [List.all_eq_true] at this
    rw [List.any_eq_false]
    intro o ho; have := this o ho
    cases h : o.finalTag sh.h.tagop <;> simp_all
  have h2 : eff.outs.any (Out.badTarget f) = false := by
    have := hg.targets
    rw [List.all_eq_true] at this
    rw [List.any_eq_false]
    intro o ho; have := this o ho
    simpa using this
  have hroom := hg.room
  unfold firePerform
  rw [hg.sound]
  simp only [h1, h2, Bool.false_eq_true, if_false]
  cases hr : eff.req with
  | none =>
    simp only [emitted, hr, Option.map_none] at hroom
    simp only [hroom, Bool.not_true, Bool.false_eq_true, if_false]
    refine ⟨_, ?_, rfl⟩
    have := commit_fired (sh := sh) (g := g) (eff := eff) hf s rfl (by rw [hr])
    simpa only [emitted, hr, Option.map_none] using this
  | some a =>
    simp only [emitted, hr, Option.map_some] at hroom
    have hroom' : roomFor s.cycle f.e (entriesNow (emissions f sh.h.tagop false eff.outs ++ requestEmission f (some (s.addAccess a).1))) = true := hroom
    simp only [hroom', Bool.not_true, Bool.false_eq_true, if_false]
    refine ⟨_, Fired.updLoan (f := f) ?_ _, rfl⟩
    have := commit_fired (sh := sh) (g := g) (eff := eff) hf (s.addAccess a).2 rfl (by rw [hr]; rfl)
    rw [emitted, hr] at this
    exact this

/-- A FIRING TAKES PLACE (R126 to R131): the handler in focus issues, its outputs can leave, and its instruction performs. -/
theorem fireFrom_fires {s : State} {f : FireCtx} {sh : Shape} {gath : State → FireCtx → Gather} {g : Got} {eff : Eff}
    {perform : FireCtx → Got → Option Eff} {after : FireCtx → Got → State → State} (hi : Issues s sh gath f g)
    (hp : perform f g = some eff) (hg : Goes s f sh eff) :
    ∃ u, Fired s u f sh g eff ∧ fireFrom sh gath perform after s = .next (after f g u) := by
  obtain ⟨u, hu, e⟩ := firePerform_fired after hi hg
  refine ⟨u, hu, ?_⟩
  unfold fireFrom
  obtain ⟨g0, hm, rfl⟩ := hi.meets
  simp only [hi.runs, hi.free, hm, hi.clean, hp, e, Bool.not_true, Bool.false_eq_true, if_false]
  have : (sh.h.fW && !f.x.latch.contains f.hnd) = false := by
    cases hw : sh.h.fW with
    | false => rfl
    | true => rw [hi.credit hw]; rfl
  simp only [this, Bool.false_eq_true, if_false]

end Sys2Proof.Machine
end

