-- ==== Sys2Proof/Laws/Memory.lean ====
section
/-! SUPPORT. Memories: what is read after a write, and that every operation over memory keeps the canonical form, in which equal
contents are equal data. -/
namespace Sys2Proof.Machine

/-! ### One byte -/

theorem readByte_writeByte_same (m : List Host.Cell) (k : Nat) (v : Byte) (n : Nat) (hk : n ≤ k) (hm : Memory.wfFrom n m = true) :
    readByte (writeByte m k v) k = v := by
  induction m generalizing n with
  | nil => by_cases hv : v = unlisted <;> simp [writeByte, readByte, hv]
  | cons p rest ih =>
    obtain ⟨a, b⟩ := p
    simp only [Memory.wfFrom, Bool.and_eq_true, decide_eq_true_eq] at hm
    have below : ∀ (r : List Host.Cell) (j : Nat), k < j → Memory.wfFrom j r = true → readByte r k = unlisted := by
      intro r
      induction r with
      | nil => intros; rfl
      | cons q r ihr =>
        obtain ⟨c, d⟩ := q
        intro j hj hr
        simp only [Memory.wfFrom, Bool.and_eq_true, decide_eq_true_eq] at hr
        have : c ≠ k := by omega
        simp only [readByte, this, if_false]
        exact ihr (c + 1) (by omega) hr.2
    by_cases h1 : k < a
    · by_cases hv : v = unlisted
      · have : a ≠ k := by omega
        simp only [writeByte, h1, hv, if_true, readByte, this, if_false]
        exact below rest (a + 1) (by omega) hm.2
      · simp [writeByte, h1, hv, readByte]
    · by_cases h2 : a = k
      · subst h2
        by_cases hv : v = unlisted
        · simp only [writeByte, h1, hv, if_true, if_false]; exact below rest (a + 1) (by omega) hm.2
        · simp [writeByte, hv, readByte]
      · simp only [writeByte, h1, h2, if_false, readByte]; exact ih (a + 1) (by omega) hm.2

theorem readByte_writeByte_other (m : List Host.Cell) {k j : Nat} (v : Byte) (h : j ≠ k) : readByte (writeByte m k v) j = readByte m j := by
  induction m with
  | nil => by_cases hv : v = unlisted <;> simp [writeByte, readByte, hv, Ne.symm h]
  | cons p rest ih =>
    obtain ⟨a, b⟩ := p
    simp only [writeByte]
    split
    · split
      · rfl
      · simp [readByte, Ne.symm h]
    · split
      · rename_i h2; subst h2
        split <;> simp [readByte, Ne.symm h]
      · simp only [readByte, ih]

theorem Memory.wfFrom_mono {m : List Host.Cell} {n k : Nat} (h : k ≤ n) (hm : Memory.wfFrom n m = true) : Memory.wfFrom k m = true := by
  cases m with
  | nil => rfl
  | cons p rest => simp only [Memory.wfFrom, Bool.and_eq_true, decide_eq_true_eq] at *; exact ⟨⟨by omega, hm.1.2⟩, hm.2⟩

theorem Memory.wfFrom_writeByte {m : List Host.Cell} {n k : Nat} (v : Byte) (hk : n ≤ k) (hm : Memory.wfFrom n m = true) :
    Memory.wfFrom n (writeByte m k v) = true := by
  induction m generalizing n with
  | nil => by_cases hv : v = unlisted <;> simp [writeByte, Memory.wfFrom, hv, hk]
  | cons p rest ih =>
    obtain ⟨a, b⟩ := p
    have hm' := hm
    simp only [Memory.wfFrom, Bool.and_eq_true, decide_eq_true_eq] at hm
    by_cases h1 : k < a
    · by_cases hv : v = unlisted
      · simp only [writeByte, h1, hv, if_true]; exact hm'
      · simp only [writeByte, h1, hv, if_true, if_false, Memory.wfFrom, Bool.and_eq_true, decide_eq_true_eq]
        exact ⟨⟨hk, hv⟩, ⟨by omega, hm.1.2⟩, hm.2⟩
    · by_cases h2 : a = k
      · subst h2
        by_cases hv : v = unlisted
        · simp only [writeByte, h1, hv, if_true, if_false]; exact Memory.wfFrom_mono (by omega) hm.2
        · simp only [writeByte, h1, hv, if_true, if_false, Memory.wfFrom, Bool.and_eq_true, decide_eq_true_eq]
          exact ⟨⟨hk, hv⟩, hm.2⟩
      · simp only [writeByte, h1, h2, if_false, Memory.wfFrom, Bool.and_eq_true, decide_eq_true_eq]
        exact ⟨hm.1, ih (by omega) hm.2⟩

theorem Memory.wf_writeByte {m : List Host.Cell} (k : Nat) (v : Byte) (hm : Memory.wf m = true) : Memory.wf (writeByte m k v) = true :=
  Memory.wfFrom_writeByte v (Nat.zero_le _) hm

/-- A byte that has been written reads as written. -/
theorem readByte_written {m : List Host.Cell} (k : Nat) (v : Byte) (hm : Memory.wf m = true) : readByte (writeByte m k v) k = v :=
  readByte_writeByte_same m k v 0 (Nat.zero_le _) hm

/-- Two canonical memories that read alike from a bound up are equal. -/
theorem Memory.eq_of_reads {m n : List Host.Cell} (j : Nat) (hm : Memory.wfFrom j m = true) (hn : Memory.wfFrom j n = true)
    (h : ∀ a, readByte m a = readByte n a) : m = n := by
  have low : ∀ (r : List Host.Cell) (j k : Nat), k < j → Memory.wfFrom j r = true → readByte r k = unlisted := by
    intro r
    induction r with
    | nil => intros; rfl
    | cons q r ihr =>
      obtain ⟨c, d⟩ := q
      intro j k hj hr
      simp only [Memory.wfFrom, Bool.and_eq_true, decide_eq_true_eq] at hr
      have : c ≠ k := by omega
      simp only [readByte, this, if_false]
      exact ihr (c + 1) k (by omega) hr.2
  induction m generalizing n j with
  | nil =>
    cases n with
    | nil => rfl
    | cons q n =>
      obtain ⟨c, d⟩ := q
      simp only [Memory.wfFrom, Bool.and_eq_true, decide_eq_true_eq] at hn
      have := h c
      simp only [readByte, if_true] at this
      exact absurd this.symm hn.1.2
  | cons p m ih =>
    obtain ⟨a, b⟩ := p
    cases n with
    | nil =>
      simp only [Memory.wfFrom, Bool.and_eq_true, decide_eq_true_eq] at hm
      have := h a
      simp only [readByte, if_true] at this
      exact absurd this hm.1.2
    | cons q n =>
      obtain ⟨c, d⟩ := q
      simp only [Memory.wfFrom, Bool.and_eq_true, decide_eq_true_eq] at hm hn
      have hac : a = c := by
        by_contra hne
        have ha := h a
        have hc := h c
        simp only [readByte, if_true, hne, Ne.symm hne, if_false] at ha hc
        by_cases hlt : a < c
        · exact hm.1.2 (ha.trans (low n (c + 1) a (by omega) hn.2))
        · exact hn.1.2 (hc.symm.trans (low m (a + 1) c (by omega) hm.2))
      subst hac
      have hb := h a
      simp only [readByte, if_true] at hb
      subst hb
      congr 1
      refine ih (a + 1) hm.2 hn.2 (fun x => ?_)
      have hx := h x
      simp only [readByte] at hx
      by_cases hxa : a = x
      · subst hxa; rw [low m (a + 1) a (by omega) hm.2, low n (a + 1) a (by omega) hn.2]
      · simpa [hxa] using hx

/-- Two canonical memories that read alike at every address are equal. -/
theorem Memory.ext {m n : List Host.Cell} (hm : Memory.wf m = true) (hn : Memory.wf n = true) (h : ∀ a, readByte m a = readByte n a) :
    m = n := Memory.eq_of_reads 0 hm hn h

/-! ### Bytes, words, bits and lines -/

theorem Memory.wf_writeBytes {m : List Host.Cell} (a : Nat) (bs : List Byte) (hm : Memory.wf m = true) : Memory.wf (writeBytes m a bs) = true := by
  induction bs generalizing m a with
  | nil => exact hm
  | cons b bs ih => exact ih (a + 1) (Memory.wf_writeByte a b hm)

theorem readByte_writeBytes_other (m : List Host.Cell) (a x : Nat) (bs : List Byte) (h : x < a ∨ a + bs.length ≤ x) :
    readByte (writeBytes m a bs) x = readByte m x := by
  induction bs generalizing m a with
  | nil => rfl
  | cons b bs ih =>
    simp only [List.length_cons] at h
    rw [writeBytes, ih (writeByte m a b) (a + 1) (by omega), readByte_writeByte_other m b (by omega)]

theorem readByte_writeBytes_same {m : List Host.Cell} (a i : Nat) (bs : List Byte) (hm : Memory.wf m = true) (h : i < bs.length) :
    readByte (writeBytes m a bs) (a + i) = bs.getD i 0 := by
  induction bs generalizing m a i with
  | nil => simp at h
  | cons b bs ih =>
    cases i with
    | zero =>
      rw [writeBytes, readByte_writeBytes_other _ _ _ _ (by omega)]
      simpa using readByte_written a b hm
    | succ i =>
      have := ih (a + 1) i (Memory.wf_writeByte a b hm) (by simpa using h)
      rw [writeBytes, show a + (i + 1) = a + 1 + i by omega, this]
      simp

theorem Memory.wf_writeW32 {m : List Host.Cell} (a : Nat) (v : W32) (hm : Memory.wf m = true) : Memory.wf (writeW32 m a v) = true :=
  Memory.wf_writeBytes a _ hm

theorem Memory.wf_writeBit {m : List Host.Cell} (a i : Nat) (v : Bool) (hm : Memory.wf m = true) : Memory.wf (writeBit m a i v) = true :=
  Memory.wf_writeByte _ _ hm

theorem Memory.wf_writeBits {m : List Host.Cell} (a i n v : Nat) (hm : Memory.wf m = true) : Memory.wf (writeBits m a i n v) = true := by
  induction n generalizing m i v with
  | zero => exact hm
  | succ n ih => exact ih (i + 1) (v / 2) (Memory.wf_writeBit a i _ hm)

theorem Memory.wf_writeLineWord {m : List Host.Cell} (tr : Nat → Nat) (w : Window) (f q j : Nat) (o : Bool) (k : Nat) (v : W32)
    (hm : Memory.wf m = true) : Memory.wf (writeLineWord m tr w f q j o k v) = true := by
  have bits : ∀ n, Memory.wf (writeLineBits m tr w f q j o k v n) = true := by
    intro n
    induction n with
    | zero => exact hm
    | succ n ih => exact Memory.wf_writeBit _ _ _ ih
  unfold writeLineWord
  split
  · exact bits 32
  · exact Memory.wf_writeW32 _ _ hm

theorem Memory.wf_writePlaces {m : List Host.Cell} (tr : Nat → Nat) (w : Window) (f : Nat) (o : Bool) (ps : List ((Nat × Nat × Nat) × W32))
    (hm : Memory.wf m = true) : Memory.wf (writePlaces m tr w f o ps) = true := by
  induction ps generalizing m with
  | nil => exact hm
  | cons p ps ih =>
    obtain ⟨⟨q, j, k⟩, v⟩ := p
    exact ih (Memory.wf_writeLineWord tr w f q j o k v hm)

theorem Memory.wf_writeAccess {m : List Host.Cell} (tr : Nat → Nat) (w : Window) (f : Nat) (kind : AccKind) (o : Bool) (x : Nat) (data : List W32)
    (mask : BitVec 8) (hm : Memory.wf m = true) : Memory.wf (writeAccess m tr w f kind o x data mask) = true := Memory.wf_writePlaces _ _ _ _ _ hm

theorem Memory.wf_writeAt {m : List Host.Cell} (a : Access) (l : Loan) (w : Window) (hm : Memory.wf m = true) :
    Memory.wf (a.writeAt l w m) = true := Memory.wf_writePlaces _ _ _ _ _ hm

theorem Memory.wf_writeWord {m : List Host.Cell} (a : Access) (l : Loan) (w : Window) (v : W32) (hm : Memory.wf m = true) :
    Memory.wf (a.writeWord l w m v) = true := Memory.wf_writePlaces _ _ _ _ _ hm

theorem Memory.wf_writePayload {m : List Host.Cell} (bay : Nat) (w : Window) (first : Nat) (c : Cell) (hm : Memory.wf m = true) :
    Memory.wf (writePayload m bay w first c) = true := Memory.wf_writePlaces _ _ _ _ _ hm

/-- Cells taken out of a memory leave the canonical form. -/
theorem Memory.wf_filter {m : List Host.Cell} (p : Host.Cell → Bool) (hm : Memory.wf m = true) : Memory.wf (m.filter p) = true := by
  have gen : ∀ (m : List Host.Cell) (n : Nat), Memory.wfFrom n m = true → Memory.wfFrom n (m.filter p) = true := by
    intro m
    induction m with
    | nil => intro n h; exact h
    | cons q m ih =>
      obtain ⟨a, b⟩ := q
      intro n h
      simp only [Memory.wfFrom, Bool.and_eq_true, decide_eq_true_eq] at h
      simp only [List.filter]
      split
      · simp only [Memory.wfFrom, Bool.and_eq_true, decide_eq_true_eq]; exact ⟨h.1, ih (a + 1) h.2⟩
      · exact Memory.wfFrom_mono (by omega) (ih (a + 1) h.2)
  exact gen m 0 hm

end Sys2Proof.Machine
end

