-- ==== Sys2Proof/Laws/Ops.lean ====
section
/-! SUPPORT. What the shared operations leave as it was. `Within s t` says that a change from `s` to `t` stays within the fabric and the
hub: no memory, no Exchange, no translation, no time. Every operation that a firing, a fault or an acknowledgement is made of stays
within, and so does every firing whose own part does. -/
namespace Sys2Proof.Machine

/-- A change that leaves the memories, the Exchange, translation, the boot state, the debugger and time as they were. -/
structure Within (s t : State) : Prop where
  mem : t.mem = s.mem
  tmem : t.tmem = s.tmem
  eccBad : t.eccBad = s.eccBad
  xch : t.xch = s.xch
  outgoing : t.outgoing = s.outgoing
  trans : t.trans = s.trans
  boot : t.boot = s.boot
  snaps : t.snaps = s.snaps
  glaed : t.glaed = s.glaed
  cycle : t.cycle = s.cycle
  inputs : t.inputs = s.inputs

theorem Within.refl (s : State) : Within s s := ⟨rfl, rfl, rfl, rfl, rfl, rfl, rfl, rfl, rfl, rfl, rfl⟩

theorem Within.trans' {s t u : State} (h : Within s t) (k : Within t u) : Within s u :=
  ⟨k.mem.trans h.mem, k.tmem.trans h.tmem, k.eccBad.trans h.eccBad, k.xch.trans h.xch, k.outgoing.trans h.outgoing, k.trans.trans h.trans,
    k.boot.trans h.boot, k.snaps.trans h.snaps, k.glaed.trans h.glaed, k.cycle.trans h.cycle, k.inputs.trans h.inputs⟩

/-- A change that is the same as another but for the parts that may change. -/
theorem Within.of_eq {s t : State} (h : t = { s with
    agenda := t.agenda, els := t.els, bays := t.bays, loans := t.loans, accs := t.accs, hub := t.hub, focus := t.focus, fires := t.fires,
    nextId := t.nextId, freeCount := t.freeCount }) : Within s t := by
  constructor <;> rw [h]

/-- Changes one after another, each of which stays within. -/
theorem Within.foldl {β : Type} (f : State → β → State) (h : ∀ s b, Within s (f s b)) (bs : List β) (s : State) : Within s (bs.foldl f s) := by
  induction bs generalizing s with
  | nil => exact Within.refl s
  | cons b bs ih => exact (h s b).trans' (ih (f s b))

/-! ### The plain updates -/

theorem State.updEl_within (s : State) (k : Nat) (f : Element → Element) : Within s (s.updEl k f) := ⟨rfl, rfl, rfl, rfl, rfl, rfl, rfl, rfl, rfl, rfl, rfl⟩
theorem State.updBay_within (s : State) (b : Nat) (f : Bay → Bay) : Within s (s.updBay b f) := ⟨rfl, rfl, rfl, rfl, rfl, rfl, rfl, rfl, rfl, rfl, rfl⟩
theorem State.updHub_within (s : State) (f : Hub → Hub) : Within s (s.updHub f) := ⟨rfl, rfl, rfl, rfl, rfl, rfl, rfl, rfl, rfl, rfl, rfl⟩
theorem State.later_within (s : State) (d : Nat) (i : Instr) : Within s (s.later d i) := ⟨rfl, rfl, rfl, rfl, rfl, rfl, rfl, rfl, rfl, rfl, rfl⟩
theorem State.fresh_within (s : State) : Within s s.fresh.2 := ⟨rfl, rfl, rfl, rfl, rfl, rfl, rfl, rfl, rfl, rfl, rfl⟩
theorem State.drawNat_within (s : State) : Within s s.drawNat.2 := ⟨rfl, rfl, rfl, rfl, rfl, rfl, rfl, rfl, rfl, rfl, rfl⟩
theorem State.els_within (s : State) (m : AMap Element) : Within s { s with els := m } := ⟨rfl, rfl, rfl, rfl, rfl, rfl, rfl, rfl, rfl, rfl, rfl⟩
theorem State.loans_within (s : State) (m : AMap Loan) : Within s { s with loans := m } := ⟨rfl, rfl, rfl, rfl, rfl, rfl, rfl, rfl, rfl, rfl, rfl⟩
theorem State.accs_within (s : State) (m : AMap Access) : Within s { s with accs := m } := ⟨rfl, rfl, rfl, rfl, rfl, rfl, rfl, rfl, rfl, rfl, rfl⟩

theorem State.updLoan_within (s : State) (id : Nat) (f : Loan → Loan) : Within s (s.updLoan id f) := by
  unfold State.updLoan; split
  · exact State.loans_within s _
  · exact Within.refl s

/-! ### Counts and acknowledgements (R50, R382) -/

theorem State.ack_within (s : State) (loan b : Nat) (its : List (Nat × List Nat)) : Within s (s.ack loan b its) := by
  unfold State.ack; split
  · exact Within.refl s
  · split
    · exact Within.refl s
    · exact State.later_within s _ _

theorem State.born_within (s : State) (loan : Nat) (tag : Tag) (its : List (Nat × List Nat)) : Within s (s.born loan tag its) :=
  State.updLoan_within s _ _

theorem State.gone_within (s : State) (loan b : Nat) (tag : Tag) (its : List (Nat × List Nat)) : Within s (s.gone loan b tag its) :=
  (State.updLoan_within s _ _).trans' (State.ack_within _ _ _ _)

theorem State.dropFlit_within (s : State) (b : Nat) (f : Flit) : Within s (s.dropFlit b f) := by
  unfold State.dropFlit; split
  · exact State.gone_within _ _ _ _ _
  · exact Within.refl s

/-! ### Taking an exception (R339 to R343) -/

theorem State.parkTake_within (s : State) (loan b : Nat) (tag : Option Tag) : Within s (s.parkTake loan b tag).2 := by
  unfold State.parkTake; split
  · exact Within.refl s
  · split
    · exact State.updBay_within s _ _
    · split
      · exact State.updLoan_within s _ _
      · split
        · exact State.updLoan_within s _ _
        · exact ⟨rfl, rfl, rfl, rfl, rfl, rfl, rfl, rfl, rfl, rfl, rfl⟩

theorem State.parkGive_within (s : State) (loan place : Nat) : Within s (s.parkGive loan place) := by
  unfold State.parkGive; split
  · exact Within.refl s
  · dsimp only; split
    · exact State.updBay_within s _ _
    · exact State.updLoan_within s _ _
    · exact State.updLoan_within s _ _
    · exact Within.refl s

theorem State.parkFlit_within (s : State) (b f : Nat) (x : Flit) : Within s (s.parkFlit b f x) := by
  unfold State.parkFlit; split
  · exact Within.refl s
  · split
    · exact Within.refl s
    · split
      · exact Within.refl s
      · split
        · exact State.dropFlit_within s _ _
        · exact (State.parkTake_within s _ _ _).trans' (State.updLoan_within _ _ _)

theorem State.withdraw_within (s : State) (id f : Nat) : Within s (s.withdraw id f) := by
  unfold State.withdraw; split
  · exact Within.refl s
  · refine Within.foldl _ (fun s b => ?_) _ _
    obtain ⟨k, b⟩ := b
    refine Within.trans' ?_ (Within.foldl _ (fun u x => State.parkFlit_within u _ _ _) _ _)
    exact (State.updEl_within s _ _).trans' (Within.foldl _ (fun u x => State.updLoan_within u _ _) _ _)

theorem State.withdrawAccs_within (s : State) (id f : Nat) (faults : List (List Nat × Nat)) : Within s (s.withdrawAccs id f faults) := by
  unfold State.withdrawAccs; split
  · exact Within.refl s
  · refine Within.foldl _ (fun s b => ?_) _ _
    obtain ⟨n, a⟩ := b
    dsimp only
    split
    · split
      · exact ((State.accs_within s _).trans' (State.updEl_within _ _ _)).trans' (State.gone_within _ _ _ _ _)
      · exact State.accs_within s _
    · exact Within.refl s

theorem State.dropOrdered_within (s : State) (id f : Nat) (faults : List (List Nat × Nat)) : Within s (s.dropOrdered id f faults) := by
  unfold State.dropOrdered; split
  · exact Within.refl s
  · exact State.els_within s _

theorem State.withdrawTriggers_within (s : State) (id f : Nat) (faults : List (List Nat × Nat)) : Within s (s.withdrawTriggers id f faults) := by
  unfold State.withdrawTriggers; split
  · exact Within.refl s
  · refine Within.foldl _ (fun s b => ?_) _ _
    dsimp only
    split
    · exact Within.refl s
    · exact (State.updBay_within s _ _).trans' (Within.foldl _ (fun u x => State.gone_within u _ _ _ _) _ _)

theorem State.parkFrame_within (s : State) (id : Nat) (tag : Tag) (loops : List Nat) (fault : Bool) (kept : List Kept) :
    Within s (s.parkFrame id tag loops fault kept) := by
  unfold State.parkFrame; dsimp only; split
  · exact Within.refl s
  · split
    · exact Within.refl s
    · have core : ∀ (g : Loan → Loan) (lost : List (Nat × Flit)) (m : List (List Nat × Nat)), Within s ((((lost.foldl (fun s x =>
          (s.parkGive id x.1).dropFlit (x.1 / 4) x.2) (s.updLoan id g)).withdraw id tag.frame.toNat).withdrawAccs id tag.frame.toNat m).withdrawTriggers
          id tag.frame.toNat m) := fun g lost m =>
        ((((State.updLoan_within s _ _).trans' (Within.foldl _ (fun u x =>
          (State.parkGive_within u _ _).trans' (State.dropFlit_within _ _ _)) _ _)).trans' (State.withdraw_within _ _ _)).trans'
          (State.withdrawAccs_within _ _ _ _)).trans' (State.withdrawTriggers_within _ _ _ _)
      split
      · exact core _ _ _
      · exact (((core _ _ _).trans' (State.loans_within _ _)).trans' (State.dropOrdered_within _ _ _ _)).trans'
          (Within.foldl _ (fun u x => State.ack_within u _ _ _) _ _)

theorem State.translateParked_within (s : State) (id f : Nat) (r : Report) : Within s (s.translateParked id f r) := by
  unfold State.translateParked; split
  · exact Within.refl s
  · have core : ∀ (u : State) (b : Bool) (i : Instr), Within s u → Within s (if b then u.drawNat.2.later (1 + u.drawNat.1) i else u) := by
      intro u b i hu
      split
      · exact (hu.trans' (State.drawNat_within u)).trans' (State.later_within _ _ _)
      · exact hu
    exact core _ _ _ (State.updLoan_within s _ _)

/-- TAKING AN EXCEPTION stays within the fabric and the hub. -/
theorem State.raise_within (s : State) (r : Report) (loops : List Nat) (kept : List Kept) : Within s (s.raise r loops kept) := by
  have core : ∀ (u : State) (b : Bool) (id f : Nat) (tag : Tag) (fault : Bool), Within s u →
      Within s (if b then (u.parkFrame id tag loops fault kept).translateParked id f r else u) := by
    intro u b id f tag fault hu
    split
    · exact (hu.trans' (State.parkFrame_within _ _ _ _ _ _)).trans' (State.translateParked_within _ _ _ _)
    · exact hu
  cases hl : r.loan with
  | none => unfold State.raise; simp only [hl]; exact State.updHub_within s _
  | some id =>
    cases ht : r.tag with
    | none => unfold State.raise; simp only [hl, ht]; exact State.updHub_within s _
    | some t => unfold State.raise; simp only [hl, ht]; exact core _ _ _ _ _ _ (State.updHub_within s _)

/-! ### What comes from outside an element -/

theorem State.sendExit_within (s : State) (loan index hnd n d : Nat) : Within s (s.sendExit loan index hnd n d) :=
  (State.updLoan_within s _ _).trans' (State.later_within _ _ _)

theorem State.inject_within (s : State) (d index : Nat) (f : Flit) : Within s (s.inject d index f) := by
  unfold State.inject; split
  · exact Within.refl s
  · split
    · exact State.updLoan_within s _ _
    · split
      · exact (State.updEl_within s _ _).trans' (State.later_within _ _ _)
      · exact (State.updEl_within s _ _).trans' (State.later_within _ _ _)
      · exact (State.updEl_within s _ _).trans' (State.later_within _ _ _)
      · exact State.sendExit_within s _ _ _ _ _
      · exact (State.updBay_within s _ _).trans' (State.dropFlit_within _ _ _)
      · exact (State.updEl_within s _ _).trans' (State.later_within _ _ _)
      · exact Within.refl s
      · exact Within.refl s

theorem State.answer_within (s : State) (loan index ctx hnd d : Nat) (dest : Dest) (kind : Kind) (pred : Bool) (cont : BitVec 6) (v : W32)
    (tag : Tag) (prior : List Nat) : Within s (s.answer loan index ctx hnd d dest kind pred cont v tag prior) := by
  unfold State.answer; split
  · exact Within.refl s
  · dsimp only
    split
    · exact State.raise_within s _ _ _
    · split
      · exact Within.refl s
      · exact (State.born_within s _ _ _).trans' (State.inject_within _ _ _ _)

/-! ### Firings -/

theorem Got.takeAccord_within (g : Got) (key : Nat) (s : State) : Within s (g.takeAccord key s) := by
  unfold Got.takeAccord; split
  · exact State.updBay_within s _ _
  · exact Within.refl s

theorem ackTaken_within (f : FireCtx) (g : Got) (eff : Eff) (s : State) : Within s (ackTaken f g eff s) := by
  unfold ackTaken; split
  · exact Within.refl s
  · exact State.ack_within s _ _ _

theorem commit_within (s : State) (f : FireCtx) (sh : Shape) (g : Got) (eff : Eff) (ems : List Emission) : Within s (commit s f sh g eff ems) := by
  unfold commit
  refine Within.trans' ?_ (Within.foldl _ (fun u x => State.later_within u _ _) _ _)
  refine Within.trans' ?_ (ackTaken_within _ _ _ _)
  refine Within.trans' ?_ (State.updLoan_within _ _ _)
  refine Within.trans' ?_ (Got.takeAccord_within _ _ _)
  exact ⟨rfl, rfl, rfl, rfl, rfl, rfl, rfl, rfl, rfl, rfl, rfl⟩

theorem firePoison_within (s : State) (f : FireCtx) (sh : Shape) (g : Got) (eff : Eff) (r : Report) :
    Within s (firePoison s f sh g eff r) := by
  unfold firePoison; dsimp only; split
  · exact Within.refl s
  · refine Within.trans' ?_ (State.raise_within _ _ _ _)
    split
    · exact (commit_within s _ _ _ _ _).trans' (State.updBay_within _ _ _)
    · exact commit_within s _ _ _ _ _

theorem fireEos_within (s : State) (f : FireCtx) (sh : Shape) (p : Nat) (q : QEntry) : Within s (fireEos s f sh p q) := by
  have close : ∀ (u : State) (isB : Bool), Within u (u.closeStream f isB) :=
    fun u isB => (State.updBay_within u _ _).trans' (State.later_within _ _ _)
  have core : ∀ (u : State) (m : Option Bool) (b : Bool) (r : Report) (ls : List Nat), Within s u →
      Within s (if b then (match m with | some isB => u.closeStream f isB | none => u).raise r ls []
        else (match m with | some isB => u.closeStream f isB | none => u)) := by
    intro u m b r ls hu
    have hm : Within s (match m with | some isB => u.closeStream f isB | none => u) := by
      cases m with
      | some isB => exact hu.trans' (close u isB)
      | none => exact hu
    split
    · exact hm.trans' (State.raise_within _ _ _ _)
    · exact hm
  unfold fireEos; dsimp only; split
  · exact firePoison_within s _ _ _ _ _
  · split
    · exact firePoison_within s _ _ _ _ _
    · split
      · exact Within.refl s
      · exact core _ _ _ _ _ (commit_within s _ _ _ _ _)

theorem firePerform_within (s : State) (f : FireCtx) (sh : Shape) (g : Got) (eff : Eff) (after : FireCtx → Got → State → State)
    (ha : ∀ u, Within u (after f g u)) : Within s (firePerform s f sh g eff after) := by
  have acc : ∀ a : Access, Within s (s.addAccess a).2 := fun a => ⟨rfl, rfl, rfl, rfl, rfl, rfl, rfl, rfl, rfl, rfl, rfl⟩
  unfold firePerform
  cases hb : eff.bad with
  | some cd => exact firePoison_within s _ _ _ _ _
  | none =>
    dsimp only
    split
    · exact firePoison_within s _ _ _ _ _
    · cases hr : eff.req with
      | none =>
        dsimp only
        split
        · exact Within.refl s
        · split
          · exact ((commit_within s _ _ _ _ _).trans' (ha _)).trans' (State.raise_within _ _ _ _)
          · exact (commit_within s _ _ _ _ _).trans' (ha _)
      | some a =>
        dsimp only
        split
        · exact Within.refl s
        · have step : ∀ ems, Within s (after f g ((commit (s.addAccess a).2 f sh g eff ems).born f.id a.tag (handlerIters f.img f.hkey a.tag))) :=
            fun ems => (((acc a).trans' (commit_within _ f sh g eff ems)).trans' (State.born_within _ _ _ _)).trans' (ha _)
          split
          · exact (step _).trans' (State.raise_within _ _ _ _)
          · exact step _

theorem sendClaim_within (s : State) (f : FireCtx) : Within s (sendClaim s f) := by
  unfold sendClaim; split
  · exact Within.refl s
  · exact (State.updEl_within s _ _).trans' (State.later_within _ _ _)

/-- A FIRING stays within the fabric and the hub on every way that it may take, when what it does beyond its element does. -/
theorem fireFrom_within {sh : Shape} {gath : State → FireCtx → Gather} {perform : FireCtx → Got → Option Eff}
    {after : FireCtx → Got → State → State} {s t : State} (ha : ∀ f g u, Within u (after f g u))
    (h : fireFrom sh gath perform after s = .next t) : Within s t := by
  unfold fireFrom at h
  split at h
  · cases h; exact Within.refl s
  · rename_i f hf
    split at h
    · cases h; exact Within.refl s
    · dsimp only at h
      have fired : Within s (match gath s f with
        | .none => s
        | .eos p q => fireEos s f sh p q
        | .ok g => match preFault f sh (g.descend s f sh) with
          | some (code, d) => firePoison s f sh (g.descend s f sh)
              { Eff.none with outs := stdOuts f (g.descend s f sh) (sh.dests.map (fun d => (d, 0))) } (f.report (g.descend s f sh) code d)
          | none => match perform f (g.descend s f sh) with
            | none => s
            | some eff => firePerform s f sh (g.descend s f sh) eff after) := by
        split
        · exact Within.refl s
        · exact fireEos_within s _ _ _ _
        · split
          · exact firePoison_within s _ _ _ _ _
          · split
            · exact Within.refl s
            · exact firePerform_within s _ _ _ _ _ (ha f _)
      have last : ∀ (u : State) (b : Bool), Within s u →
          (if b then Host.Outcome.next (φ := Fault) (ρ := Refusal) (if u.fires = s.fires then s else sendClaim s f) else .next u) = .next t →
          Within s t := by
        intro u b hu hb
        split at hb
        · cases hb
          split
          · exact Within.refl s
          · exact sendClaim_within s f
        · cases hb; exact hu
      exact last _ _ fired h

/-- Nothing beyond the element. -/
theorem noAfter_within (f : FireCtx) (g : Got) (s : State) : Within s (noAfter f g s) := Within.refl s

/-! ### Frames (R51, R52, R138, R140) -/

theorem State.startTriggers_within (s : State) (id c : Nat) (t : Tag) : Within s (s.startTriggers id c t) := State.els_within s _

theorem State.endFrame_within (s : State) (id f b : Nat) (note : Bool) : Within s (s.endFrame id f b note) := by
  unfold State.endFrame; split
  · exact Within.refl s
  · split
    · exact Within.refl s
    · dsimp only
      refine Within.trans' ?_ (State.ack_within _ _ _ _)
      refine Within.trans' ?_ (State.updLoan_within _ _ _)
      refine Within.trans' ?_ (Within.foldl _ (fun u x => State.ack_within u _ _ _) _ _)
      refine Within.trans' ?_ (Within.foldl _ (fun u x => State.ack_within u _ _ _) _ _)
      refine Within.trans' ?_ (State.els_within _ _)
      split
      · exact Within.refl s
      · exact State.updHub_within s _

theorem State.releaseFrame_within (s : State) (id f b : Nat) : Within s (s.releaseFrame id f b) := State.endFrame_within s id f b true

/-- An instruction that fires so has the effect that it says, at every state (R126 to R131): what its meaning performs is the effect. -/
theorem FiresAt.intro {i : Instr} {s : State} {sh : Shape} {gath : State → FireCtx → Gather} {cond : FireCtx → Got → Prop}
    {eff : FireCtx → Got → Eff} {after : FireCtx → Got → State → State} (perform : FireCtx → Got → Option Eff)
    (he : exec i s = fireFrom sh gath perform after s) (hp : ∀ f g, fireCtx? s = some f → cond f g → perform f g = some (eff f g)) :
    FiresAt i s sh gath cond eff after := by
  intro f g hi hc hg
  obtain ⟨u, hu, e⟩ := fireFrom_fires (after := after) hi (hp f g hi.runs hc) hg
  exact ⟨_, he.trans e, u, hu, rfl⟩

end Sys2Proof.Machine
end

