-- ==== Sys2Proof/Laws/PerInstr.lean ====
section
/-! SUPPORT. Each instruction's words, instruction by instruction: the row of R70 that its opcode has makes the instruction from its own
header and body, so that no two instructions share an opcode. -/
namespace Sys2Proof.Laws.Row
open Sys2Proof

/-- The instruction that a row makes of a header and a body of its format. -/
def rebuild (m : Maker) (h : Hdr) (b : Body) : Option Instr :=
  match m, b with
  | .di f, .di b => some (f h b)
  | .d f, .d b => some (f h b)
  | .i f, .i b => some (f h b)
  | .m f, .m b => some (f h b)
  | .x f, .x b => some (f h b)
  | .y f, .y b => some (f h b)
  | _, _ => none

/-- The row of an instruction's opcode makes it (R69, R70); an event or a Colophon instruction has no handler word. -/
def Statement (i : Instr) : Prop :=
  match handlerView i with
  | none => True
  | some v => ∃ r, rowOf v.op.toNat = some r ∧ rebuild r.make v.hdr v.body = some i

theorem reset : Statement (.reset) := True.intro
theorem hostLinkTrained : Statement (.hostLinkTrained) := True.intro
theorem wakeSequencerTick (die : Nat) : Statement (.wakeSequencerTick die) := True.intro
theorem bayGate (bay : Nat) : Statement (.bayGate bay) := True.intro
theorem rcdbGo (value : W64) : Statement (.rcdbGo value) := True.intro
theorem recoveryVerifyDone : Statement (.recoveryVerifyDone) := True.intro
theorem attestationSign : Statement (.attestationSign) := True.intro
theorem registerWrite (w : RegAccess) : Statement (.registerWrite w) := True.intro
theorem hqTailWrite (queue : Nat) (value : W64) : Statement (.hqTailWrite queue value) := True.intro
theorem hqRingSetup (queue : Nat) (size : Bool) (value : W64) : Statement (.hqRingSetup queue size value) := True.intro
theorem hqEnable (queue : Nat) : Statement (.hqEnable queue) := True.intro
theorem hqDisable (queue : Nat) : Statement (.hqDisable queue) := True.intro
theorem fqRingSetup (size : Bool) (value : W64) : Statement (.fqRingSetup size value) := True.intro
theorem fqheadWrite (value : W64) : Statement (.fqheadWrite value) := True.intro
theorem faultRecordDeliver : Statement (.faultRecordDeliver) := True.intro
theorem hostTimelineIncrement (timeline : Nat) (value : W64) : Statement (.hostTimelineIncrement timeline value) := True.intro
theorem mbiWrite (index : Nat) (value : W64) : Statement (.mbiWrite index value) := True.intro
theorem mailboxRequest : Statement (.mailboxRequest) := True.intro
theorem mailboxTake : Statement (.mailboxTake) := True.intro
theorem mailboxAnswer (words : List (Nat × W64)) : Statement (.mailboxAnswer words) := True.intro
theorem mailboxAnswerClear : Statement (.mailboxAnswerClear) := True.intro
theorem slipRead : Statement (.slipRead) := True.intro
theorem placementDecision : Statement (.placementDecision) := True.intro
theorem placementReservation : Statement (.placementReservation) := True.intro
theorem imageFetchDone (loan : Nat) : Statement (.imageFetchDone loan) := True.intro
theorem configWriteDone (loan : Nat) : Statement (.configWriteDone loan) := True.intro
theorem prefetchDone (id : Nat) : Statement (.prefetchDone id) := True.intro
theorem epochEnd (die : Nat) : Statement (.epochEnd die) := True.intro
theorem chunkMoveDone (die : Nat) (chunk : Nat) : Statement (.chunkMoveDone die chunk) := True.intro
theorem tokenHop (el : Nat) (src : HopSrc) : Statement (.tokenHop el src) := True.intro
theorem tokenArrive (el : Nat) (side : Side) : Statement (.tokenArrive el side) := True.intro
theorem firingResultWrite (el : Nat) (id : Nat) : Statement (.firingResultWrite el id) := True.intro
theorem weightRecompute (el : Nat) : Statement (.weightRecompute el) := True.intro
theorem matchToken (el : Nat) : Statement (.matchToken el) := True.intro
theorem matchDone (el : Nat) : Statement (.matchDone el) := True.intro
theorem frameSlotWrite (el : Nat) : Statement (.frameSlotWrite el) := True.intro
theorem frameSpill (loan : Nat) : Statement (.frameSpill loan) := True.intro
theorem frameRefill (loan : Nat) (frame : Nat) : Statement (.frameRefill loan frame) := True.intro
theorem rampTurnEnd (loan : Nat) : Statement (.rampTurnEnd loan) := True.intro
theorem feedBeat (loan : Nat) (index : Nat) (isB : Bool) : Statement (.feedBeat loan index isB) := True.intro
theorem matrixStep (el : Nat) (ctx : Nat) : Statement (.matrixStep el ctx) := True.intro
theorem runEnd (el : Nat) (ctx : Nat) : Statement (.runEnd el ctx) := True.intro
theorem layoutRecordApply (bay : Nat) (tile : Nat) (ctx : Nat) (isB : Bool) : Statement (.layoutRecordApply bay tile ctx isB) := True.intro
theorem tlbWalkDone (id : Nat) : Statement (.tlbWalkDone id) := True.intro
theorem waveAccessArrive (id : Nat) : Statement (.waveAccessArrive id) := True.intro
theorem accessPerform (id : Nat) : Statement (.accessPerform id) := True.intro
theorem bankAccess (bay : Nat) (tile : Nat) (bank : Nat) : Statement (.bankAccess bay tile bank) := True.intro
theorem aincbRoundEnd (place : Nat) : Statement (.aincbRoundEnd place) := True.intro
theorem decantTrigger (el : Nat) : Statement (.decantTrigger el) := True.intro
theorem decantBlockDone (bay : Nat) (decanter : Nat) : Statement (.decantBlockDone bay decanter) := True.intro
theorem decantArmApply (id : Nat) : Statement (.decantArmApply id) := True.intro
theorem cellEnqueue (id : Nat) : Statement (.cellEnqueue id) := True.intro
theorem exchangeSlot (die : Nat) : Statement (.exchangeSlot die) := True.intro
theorem ingressCell (bay : Nat) : Statement (.ingressCell bay) := True.intro
theorem memoryPortCell (die : Nat) (port : Nat) : Statement (.memoryPortCell die port) := True.intro
theorem lagDrop (die : Nat) (port : Nat) (id : Nat) : Statement (.lagDrop die port id) := True.intro
theorem tlwaitMet (id : Nat) : Statement (.tlwaitMet id) := True.intro
theorem launchAccept (id : Nat) : Statement (.launchAccept id) := True.intro
theorem watchSample (watch : Nat) : Statement (.watchSample watch) := True.intro
theorem sqClaimArrive (loan : Nat) (index : Nat) (hnd : Nat) : Statement (.sqClaimArrive loan index hnd) := True.intro
theorem sqGrantArrive (loan : Nat) (index : Nat) (hnd : Nat) : Statement (.sqGrantArrive loan index hnd) := True.intro
theorem sqPostArrive (loan : Nat) (post : SqPost) : Statement (.sqPostArrive loan post) := True.intro
theorem barrierArrive (id : Nat) : Statement (.barrierArrive id) := True.intro
theorem watchdogExpire (loan : Nat) : Statement (.watchdogExpire loan) := True.intro
theorem stocktakeSnapshot : Statement (.stocktakeSnapshot) := True.intro
theorem retireAck (loan : Nat) (deltas : List AckDelta) : Statement (.retireAck loan deltas) := True.intro
theorem iterationRetire (loan : Nat) : Statement (.iterationRetire loan) := True.intro
theorem exitTaken (loan : Nat) : Statement (.exitTaken loan) := True.intro
theorem exitDrainDone (loan : Nat) : Statement (.exitDrainDone loan) := True.intro
theorem loanReturn (loan : Nat) : Statement (.loanReturn loan) := True.intro
theorem kernelResume (loan : Nat) (frame : Nat) (abandon : Bool) : Statement (.kernelResume loan frame abandon) := True.intro
theorem kernelPrioWrite (loan : Nat) (prio : BitVec 2) (lock : Bool) : Statement (.kernelPrioWrite loan prio lock) := True.intro
theorem switchRequest (loan : Nat) : Statement (.switchRequest loan) := True.intro
theorem switchDrainDone (loan : Nat) : Statement (.switchDrainDone loan) := True.intro
theorem scanOutDone (loan : Nat) : Statement (.scanOutDone loan) := True.intro
theorem restore (loan : Nat) : Statement (.restore loan) := True.intro
theorem freezeMarkerArrive (loan : Nat) (bay : Nat) : Statement (.freezeMarkerArrive loan bay) := True.intro
theorem freezePoint (loan : Nat) : Statement (.freezePoint loan) := True.intro
theorem planeSpillDone (loan : Nat) : Statement (.planeSpillDone loan) := True.intro
theorem thawPop (loan : Nat) : Statement (.thawPop loan) := True.intro
theorem demandPageMap (space : Nat) (page : Nat) : Statement (.demandPageMap space page) := True.intro
theorem colophonRun (bay : Nat) (value : W64) : Statement (.colophonRun bay value) := True.intro
theorem colophonHalt (bay : Nat) : Statement (.colophonHalt bay) := True.intro
theorem colophonCapture (bay : Nat) (value : W64) : Statement (.colophonCapture bay value) := True.intro
theorem iadd (h b) : Statement (.iadd h b) := Exists.intro _ (And.intro rfl rfl)
theorem isub (h b) : Statement (.isub h b) := Exists.intro _ (And.intro rfl rfl)
theorem imul (h b) : Statement (.imul h b) := Exists.intro _ (And.intro rfl rfl)
theorem imulh (h b) : Statement (.imulh h b) := Exists.intro _ (And.intro rfl rfl)
theorem imad (h b) : Statement (.imad h b) := Exists.intro _ (And.intro rfl rfl)
theorem ineg (h b) : Statement (.ineg h b) := Exists.intro _ (And.intro rfl rfl)
theorem iabs (h b) : Statement (.iabs h b) := Exists.intro _ (And.intro rfl rfl)
theorem imin (h b) : Statement (.imin h b) := Exists.intro _ (And.intro rfl rfl)
theorem imax (h b) : Statement (.imax h b) := Exists.intro _ (And.intro rfl rfl)
theorem iadds (h b) : Statement (.iadds h b) := Exists.intro _ (And.intro rfl rfl)
theorem isubs (h b) : Statement (.isubs h b) := Exists.intro _ (And.intro rfl rfl)
theorem icmp (h b) : Statement (.icmp h b) := Exists.intro _ (And.intro rfl rfl)
theorem and (h b) : Statement (.and h b) := Exists.intro _ (And.intro rfl rfl)
theorem or (h b) : Statement (.or h b) := Exists.intro _ (And.intro rfl rfl)
theorem xor (h b) : Statement (.xor h b) := Exists.intro _ (And.intro rfl rfl)
theorem andn (h b) : Statement (.andn h b) := Exists.intro _ (And.intro rfl rfl)
theorem not (h b) : Statement (.not h b) := Exists.intro _ (And.intro rfl rfl)
theorem shl (h b) : Statement (.shl h b) := Exists.intro _ (And.intro rfl rfl)
theorem shr (h b) : Statement (.shr h b) := Exists.intro _ (And.intro rfl rfl)
theorem shra (h b) : Statement (.shra h b) := Exists.intro _ (And.intro rfl rfl)
theorem rotl (h b) : Statement (.rotl h b) := Exists.intro _ (And.intro rfl rfl)
theorem clz (h b) : Statement (.clz h b) := Exists.intro _ (And.intro rfl rfl)
theorem popc (h b) : Statement (.popc h b) := Exists.intro _ (And.intro rfl rfl)
theorem brev (h b) : Statement (.brev h b) := Exists.intro _ (And.intro rfl rfl)
theorem bfx (h b) : Statement (.bfx h b) := Exists.intro _ (And.intro rfl rfl)
theorem bfi (h b) : Statement (.bfi h b) := Exists.intro _ (And.intro rfl rfl)
theorem iaddc (h b) : Statement (.iaddc h b) := Exists.intro _ (And.intro rfl rfl)
theorem lea (h b) : Statement (.lea h b) := Exists.intro _ (And.intro rfl rfl)
theorem cellkey (h b) : Statement (.cellkey h b) := Exists.intro _ (And.intro rfl rfl)
theorem cellhash (h b) : Statement (.cellhash h b) := Exists.intro _ (And.intro rfl rfl)
theorem nbrkey (h b) : Statement (.nbrkey h b) := Exists.intro _ (And.intro rfl rfl)
theorem iclamp (h b) : Statement (.iclamp h b) := Exists.intro _ (And.intro rfl rfl)
theorem fadd (h b) : Statement (.fadd h b) := Exists.intro _ (And.intro rfl rfl)
theorem fsub (h b) : Statement (.fsub h b) := Exists.intro _ (And.intro rfl rfl)
theorem fmul (h b) : Statement (.fmul h b) := Exists.intro _ (And.intro rfl rfl)
theorem ffma (h b) : Statement (.ffma h b) := Exists.intro _ (And.intro rfl rfl)
theorem fmin (h b) : Statement (.fmin h b) := Exists.intro _ (And.intro rfl rfl)
theorem fmax (h b) : Statement (.fmax h b) := Exists.intro _ (And.intro rfl rfl)
theorem fabs (h b) : Statement (.fabs h b) := Exists.intro _ (And.intro rfl rfl)
theorem fneg (h b) : Statement (.fneg h b) := Exists.intro _ (And.intro rfl rfl)
theorem fcmp (h b) : Statement (.fcmp h b) := Exists.intro _ (And.intro rfl rfl)
theorem frcp (h b) : Statement (.frcp h b) := Exists.intro _ (And.intro rfl rfl)
theorem frsq (h b) : Statement (.frsq h b) := Exists.intro _ (And.intro rfl rfl)
theorem fexp2 (h b) : Statement (.fexp2 h b) := Exists.intro _ (And.intro rfl rfl)
theorem flog2 (h b) : Statement (.flog2 h b) := Exists.intro _ (And.intro rfl rfl)
theorem fsqrt (h b) : Statement (.fsqrt h b) := Exists.intro _ (And.intro rfl rfl)
theorem fscale (h b) : Statement (.fscale h b) := Exists.intro _ (And.intro rfl rfl)
theorem fround (h b) : Statement (.fround h b) := Exists.intro _ (And.intro rfl rfl)
theorem fcvt (h b) : Statement (.fcvt h b) := Exists.intro _ (And.intro rfl rfl)
theorem ftoi (h b) : Statement (.ftoi h b) := Exists.intro _ (And.intro rfl rfl)
theorem itof (h b) : Statement (.itof h b) := Exists.intro _ (And.intro rfl rfl)
theorem fclass (h b) : Statement (.fclass h b) := Exists.intro _ (And.intro rfl rfl)
theorem fdot2 (h b) : Statement (.fdot2 h b) := Exists.intro _ (And.intro rfl rfl)
theorem seed (h b) : Statement (.seed h b) := Exists.intro _ (And.intro rfl rfl)
theorem qpack (h b) : Statement (.qpack h b) := Exists.intro _ (And.intro rfl rfl)
theorem qunpk (h b) : Statement (.qunpk h b) := Exists.intro _ (And.intro rfl rfl)
theorem mov (h b) : Statement (.mov h b) := Exists.intro _ (And.intro rfl rfl)
theorem movi (h b) : Statement (.movi h b) := Exists.intro _ (And.intro rfl rfl)
theorem movhi (h b) : Statement (.movhi h b) := Exists.intro _ (And.intro rfl rfl)
theorem sel (h b) : Statement (.sel h b) := Exists.intro _ (And.intro rfl rfl)
theorem sink (h b) : Statement (.sink h b) := Exists.intro _ (And.intro rfl rfl)
theorem getw (h b) : Statement (.getw h b) := Exists.intro _ (And.intro rfl rfl)
theorem setw (h b) : Statement (.setw h b) := Exists.intro _ (And.intro rfl rfl)
theorem const (h b) : Statement (.const h b) := Exists.intro _ (And.intro rfl rfl)
theorem live (h b) : Statement (.live h b) := Exists.intro _ (And.intro rfl rfl)
theorem islive (h b) : Statement (.islive h b) := Exists.intro _ (And.intro rfl rfl)
theorem count (h b) : Statement (.count h b) := Exists.intro _ (And.intro rfl rfl)
theorem stride (h b) : Statement (.stride h b) := Exists.intro _ (And.intro rfl rfl)
theorem steer (h b) : Statement (.steer h b) := Exists.intro _ (And.intro rfl rfl)
theorem steerx (h b) : Statement (.steerx h b) := Exists.intro _ (And.intro rfl rfl)
theorem merge (h b) : Statement (.merge h b) := Exists.intro _ (And.intro rfl rfl)
theorem mergeo (h b) : Statement (.mergeo h b) := Exists.intro _ (And.intro rfl rfl)
theorem gate (h b) : Statement (.gate h b) := Exists.intro _ (And.intro rfl rfl)
theorem prime (h b) : Statement (.prime h b) := Exists.intro _ (And.intro rfl rfl)
theorem loopin (h b) : Statement (.loopin h b) := Exists.intro _ (And.intro rfl rfl)
theorem next (h b) : Statement (.next h b) := Exists.intro _ (And.intro rfl rfl)
theorem loopout (h b) : Statement (.loopout h b) := Exists.intro _ (And.intro rfl rfl)
theorem bound (h b) : Statement (.bound h b) := Exists.intro _ (And.intro rfl rfl)
theorem callf (h b) : Statement (.callf h b) := Exists.intro _ (And.intro rfl rfl)
theorem retf (h b) : Statement (.retf h b) := Exists.intro _ (And.intro rfl rfl)
theorem tagrd (h b) : Statement (.tagrd h b) := Exists.intro _ (And.intro rfl rfl)
theorem tagwr (h b) : Statement (.tagwr h b) := Exists.intro _ (And.intro rfl rfl)
theorem exit (h b) : Statement (.exit h b) := Exists.intro _ (And.intro rfl rfl)
theorem ends (h b) : Statement (.ends h b) := Exists.intro _ (And.intro rfl rfl)
theorem accadd (h b) : Statement (.accadd h b) := Exists.intro _ (And.intro rfl rfl)
theorem accmax (h b) : Statement (.accmax h b) := Exists.intro _ (And.intro rfl rfl)
theorem accrd (h b) : Statement (.accrd h b) := Exists.intro _ (And.intro rfl rfl)
theorem accz (h b) : Statement (.accz h b) := Exists.intro _ (And.intro rfl rfl)
theorem accscl (h b) : Statement (.accscl h b) := Exists.intro _ (And.intro rfl rfl)
theorem ordred (h b) : Statement (.ordred h b) := Exists.intro _ (And.intro rfl rfl)
theorem xacc (h b) : Statement (.xacc h b) := Exists.intro _ (And.intro rfl rfl)
theorem xrnd (h b) : Statement (.xrnd h b) := Exists.intro _ (And.intro rfl rfl)
theorem cfwd (h b) : Statement (.cfwd h b) := Exists.intro _ (And.intro rfl rfl)
theorem cfwdx (h b) : Statement (.cfwdx h b) := Exists.intro _ (And.intro rfl rfl)
theorem slog (h b) : Statement (.slog h b) := Exists.intro _ (And.intro rfl rfl)
theorem sread (h b) : Statement (.sread h b) := Exists.intro _ (And.intro rfl rfl)
theorem mxcfg (h b) : Statement (.mxcfg h b) := Exists.intro _ (And.intro rfl rfl)
theorem mxstep (h b) : Statement (.mxstep h b) := Exists.intro _ (And.intro rfl rfl)
theorem mxfade (h b) : Statement (.mxfade h b) := Exists.intro _ (And.intro rfl rfl)
theorem mxscl (h b) : Statement (.mxscl h b) := Exists.intro _ (And.intro rfl rfl)
theorem mxdrn (h b) : Statement (.mxdrn h b) := Exists.intro _ (And.intro rfl rfl)
theorem mxpass (h b) : Statement (.mxpass h b) := Exists.intro _ (And.intro rfl rfl)
theorem mxldacc (h b) : Statement (.mxldacc h b) := Exists.intro _ (And.intro rfl rfl)
theorem ld (h b) : Statement (.ld h b) := Exists.intro _ (And.intro rfl rfl)
theorem st (h b) : Statement (.st h b) := Exists.intro _ (And.intro rfl rfl)
theorem lds (h b) : Statement (.lds h b) := Exists.intro _ (And.intro rfl rfl)
theorem sts (h b) : Statement (.sts h b) := Exists.intro _ (And.intro rfl rfl)
theorem ldq (h b) : Statement (.ldq h b) := Exists.intro _ (And.intro rfl rfl)
theorem stq (h b) : Statement (.stq h b) := Exists.intro _ (And.intro rfl rfl)
theorem pref (h b) : Statement (.pref h b) := Exists.intro _ (And.intro rfl rfl)
theorem fence (h b) : Statement (.fence h b) := Exists.intro _ (And.intro rfl rfl)
theorem aadd (h b) : Statement (.aadd h b) := Exists.intro _ (And.intro rfl rfl)
theorem afadd (h b) : Statement (.afadd h b) := Exists.intro _ (And.intro rfl rfl)
theorem amin (h b) : Statement (.amin h b) := Exists.intro _ (And.intro rfl rfl)
theorem amax (h b) : Statement (.amax h b) := Exists.intro _ (And.intro rfl rfl)
theorem axchg (h b) : Statement (.axchg h b) := Exists.intro _ (And.intro rfl rfl)
theorem acas (h b) : Statement (.acas h b) := Exists.intro _ (And.intro rfl rfl)
theorem abit (h b) : Statement (.abit h b) := Exists.intro _ (And.intro rfl rfl)
theorem aincb (h b) : Statement (.aincb h b) := Exists.intro _ (And.intro rfl rfl)
theorem sendc (h b) : Statement (.sendc h b) := Exists.intro _ (And.intro rfl rfl)
theorem sendm (h b) : Statement (.sendm h b) := Exists.intro _ (And.intro rfl rfl)
theorem creq (h b) : Statement (.creq h b) := Exists.intro _ (And.intro rfl rfl)
theorem cgrp (h b) : Statement (.cgrp h b) := Exists.intro _ (And.intro rfl rfl)
theorem darm (h b) : Statement (.darm h b) := Exists.intro _ (And.intro rfl rfl)
theorem dfire (h b) : Statement (.dfire h b) := Exists.intro _ (And.intro rfl rfl)
theorem dlay (h b) : Statement (.dlay h b) := Exists.intro _ (And.intro rfl rfl)
theorem dstat (h b) : Statement (.dstat h b) := Exists.intro _ (And.intro rfl rfl)
theorem dcan (h b) : Statement (.dcan h b) := Exists.intro _ (And.intro rfl rfl)
theorem tlinc (h b) : Statement (.tlinc h b) := Exists.intro _ (And.intro rfl rfl)
theorem tlwait (h b) : Statement (.tlwait h b) := Exists.intro _ (And.intro rfl rfl)
theorem tlrd (h b) : Statement (.tlrd h b) := Exists.intro _ (And.intro rfl rfl)
theorem barr (h b) : Statement (.barr h b) := Exists.intro _ (And.intro rfl rfl)
theorem launch (h b) : Statement (.launch h b) := Exists.intro _ (And.intro rfl rfl)
theorem tlset (h b) : Statement (.tlset h b) := Exists.intro _ (And.intro rfl rfl)
theorem stock (h b) : Statement (.stock h b) := Exists.intro _ (And.intro rfl rfl)
theorem evwatch (h b) : Statement (.evwatch h b) := Exists.intro _ (And.intro rfl rfl)
theorem trap (h b) : Statement (.trap h b) := Exists.intro _ (And.intro rfl rfl)
theorem brk (h b) : Statement (.brk h b) := Exists.intro _ (And.intro rfl rfl)
theorem prio (h b) : Statement (.prio h b) := Exists.intro _ (And.intro rfl rfl)
theorem ccall (h b) : Statement (.ccall h b) := Exists.intro _ (And.intro rfl rfl)
theorem cret (h b) : Statement (.cret h b) := Exists.intro _ (And.intro rfl rfl)
theorem resume (h b) : Statement (.resume h b) := Exists.intro _ (And.intro rfl rfl)
theorem park (h b) : Statement (.park h b) := Exists.intro _ (And.intro rfl rfl)
theorem fltrd (h b) : Statement (.fltrd h b) := Exists.intro _ (And.intro rfl rfl)
theorem perfrd (h b) : Statement (.perfrd h b) := Exists.intro _ (And.intro rfl rfl)
theorem timerd (h b) : Statement (.timerd h b) := Exists.intro _ (And.intro rfl rfl)
theorem scanout (h b) : Statement (.scanout h b) := Exists.intro _ (And.intro rfl rfl)
theorem scanin (h b) : Statement (.scanin h b) := Exists.intro _ (And.intro rfl rfl)
theorem cflush (h b) : Statement (.cflush h b) := Exists.intro _ (And.intro rfl rfl)
theorem eadd (rd ra rb : BitVec 4) (t : BitVec 2) : Statement (.eadd rd ra rb t) := True.intro
theorem esub (rd ra rb : BitVec 4) (t : BitVec 2) : Statement (.esub rd ra rb t) := True.intro
theorem emul (rd ra rb : BitVec 4) (t : BitVec 2) : Statement (.emul rd ra rb t) := True.intro
theorem efma (rd ra rb : BitVec 4) : Statement (.efma rd ra rb) := True.intro
theorem emax (rd ra rb : BitVec 4) (t : BitVec 2) : Statement (.emax rd ra rb t) := True.intro
theorem emin (rd ra rb : BitVec 4) (t : BitVec 2) : Statement (.emin rd ra rb t) := True.intro
theorem ecvt (rd ra : BitVec 4) (ty : BitVec 4) (rnd : BitVec 3) (sat : Bool) : Statement (.ecvt rd ra ty rnd sat) := True.intro
theorem eclmp (rd ra rb : BitVec 4) : Statement (.eclmp rd ra rb) := True.intro
theorem eldr (rd : BitVec 4) (m : Bool) : Statement (.eldr rd m) := True.intro
theorem estr (ra rb : BitVec 4) (k : BitVec 14) : Statement (.estr ra rb k) := True.intro
theorem eldi (rd ra : BitVec 4) (v : BitVec 14) : Statement (.eldi rd ra v) := True.intro
theorem emov (rd ra : BitVec 4) : Statement (.emov rd ra) := True.intro
theorem eand (rd ra rb : BitVec 4) : Statement (.eand rd ra rb) := True.intro
theorem eshf (rd ra : BitVec 4) (n : BitVec 5) (how : BitVec 2) : Statement (.eshf rd ra n how) := True.intro
theorem ebnz (ra : BitVec 4) (off : BitVec 14) : Statement (.ebnz ra off) := True.intro
theorem ejmp (off : BitVec 14) : Statement (.ejmp off) := True.intro
theorem eloop (rd : BitVec 4) (off : BitVec 14) : Statement (.eloop rd off) := True.intro
theorem ewait (n : BitVec 7) : Statement (.ewait n) := True.intro
theorem ehalt (code : BitVec 14) : Statement (.ehalt code) := True.intro
theorem esig (ra : BitVec 4) (el : BitVec 7) (port : BitVec 2) (hnd : BitVec 3) : Statement (.esig ra el port hnd) := True.intro
theorem glaedBreak (b : BreakSpec) : Statement (.glaedBreak b) := True.intro
theorem glaedWatch (cfg : Nat) (window : Nat) (offset : Nat) : Statement (.glaedWatch cfg window offset) := True.intro
theorem glaedRun (src : GlaedSource) : Statement (.glaedRun src) := True.intro
theorem glaedContinue : Statement (.glaedContinue) := True.intro
theorem glaedStep (cycles : Nat) : Statement (.glaedStep cycles) := True.intro
theorem glaedShowQueues (loan : Nat) (index : Nat) (hnd : Nat) : Statement (.glaedShowQueues loan index hnd) := True.intro
theorem glaedShowFrame (loan : Nat) (frame : Nat) : Statement (.glaedShowFrame loan frame) := True.intro
theorem glaedShowAcc (loan : Nat) (index : Nat) (hnd : Nat) : Statement (.glaedShowAcc loan index hnd) := True.intro
theorem glaedShowPlanes (loan : Nat) (index : Nat) : Statement (.glaedShowPlanes loan index) := True.intro
theorem glaedShowVoq (die : Nat) (port : Nat) : Statement (.glaedShowVoq die port) := True.intro
theorem glaedShowWave (loan : Nat) : Statement (.glaedShowWave loan) := True.intro
theorem glaedShowRetire : Statement (.glaedShowRetire) := True.intro
theorem glaedShowSillage (loan : Nat) (entry : Nat) : Statement (.glaedShowSillage loan entry) := True.intro
theorem glaedStocktake : Statement (.glaedStocktake) := True.intro
theorem glaedFaults : Statement (.glaedFaults) := True.intro
theorem glaedPreempt (loan : Nat) (prio : BitVec 2) : Statement (.glaedPreempt loan prio) := True.intro
theorem glaedSwitch (loan : Nat) : Statement (.glaedSwitch loan) := True.intro
theorem kernelTimelineWrite (timeline : Nat) (value : W64) (increment : Bool) : Statement (.kernelTimelineWrite timeline value increment) := True.intro
theorem kernelPageInvalidate (space : Nat) (va : Nat) (entryAddr : Nat) (entry : W64) : Statement (.kernelPageInvalidate space va entryAddr entry) := True.intro
theorem hostMemoryAccess (a : AgentAccess) : Statement (.hostMemoryAccess a) := True.intro
theorem curatorMemoryAccess (a : AgentAccess) : Statement (.curatorMemoryAccess a) := True.intro
theorem orderRingTick : Statement (.orderRingTick) := True.intro
theorem thrumArrival (a : ThrumMsg) : Statement (.thrumArrival a) := True.intro

end Sys2Proof.Laws.Row
end

