-- ==== Sys2Proof/Tests/Slice0.lean ====
section
/-! SUPPORT. Tests. Expected words and results are the spec's own worked examples or computed by hand from its tables; witnesses show states
and operands that meet the hypotheses of the statements. -/
-- One test after another: each is one kernel evaluation, and running them together only multiplies the memory in use.
set_option Elab.async false
namespace Sys2Proof.Tests
open Sys2Proof Sys2Proof.Machine

/-! ### Ill-formed instructions are refused, one for each check (R59 to R68, R73) -/

/-- A queue-mode header without flags. -/
def q (arity : BitVec 2) (ty : Ty) : Hdr := ⟨.queue, arity, .keep, ty, false, false, false, false⟩

/-- Element 1, port a, handler 0. -/
def nx : Dest := .element 1 0 0

theorem test_good_word : wellFormed (.iadd (q 2 .i32) (.d ⟨nx, .dest .sink⟩)) = true := by decide
theorem test_bad_mode : wellFormed (.iadd { q 2 .i32 with mode := .accord } (.d ⟨nx, .dest .sink⟩)) = false := by decide
theorem test_bad_arity : wellFormed (.iadd (q 1 .i32) (.d ⟨nx, .dest .sink⟩)) = false := by decide
theorem test_bad_tagop : wellFormed (.iadd { q 2 .i32 with tagop := .call } (.d ⟨nx, .dest .sink⟩)) = false := by decide
theorem test_bad_type : wellFormed (.iadd (q 2 .f32) (.d ⟨nx, .dest .sink⟩)) = false := by decide
theorem test_bad_flags : wellFormed (.imad { q 3 .i32 with fI := true } ⟨nx, .dest .sink⟩) = false := by decide
theorem test_bad_destination : wellFormed (.sink (q 1 .i32) ⟨nx, .dest .sink⟩) = false := by decide
theorem test_bad_sync_queue_field : wellFormed (.iadd { q 2 .i32 with fP := true } (.d ⟨nx, .dest .sink⟩)) = false := by decide
theorem test_bad_format_flag : wellFormed (.iadd (q 2 .i32) (.i ⟨nx, 1⟩)) = false := by decide
theorem test_bad_condition : handlerCheck ⟨0x0B, q 2 .i32, .i ⟨nx, 8⟩⟩ = some .condition := by decide
theorem test_bad_immediate : wellFormed (.lea (q 2 .i32) ⟨nx, 8⟩) = false := by decide
theorem test_bad_field_width : wellFormed (.bfx (q 1 .i32) ⟨nx, 0x3FF⟩) = false := by decide
theorem test_bad_shape : wellFormed (.mxdrn (q 1 .f32) ⟨false, true, false, false, 1, 0, 0⟩) = false := by decide
theorem test_bad_system_code : wellFormed (.barr (q 1 .i32) ⟨2, 1, nx⟩) = false := by decide
theorem test_bad_opcode : handlerCheck ⟨0x38, q 1 .i32, .d ⟨nx, .dest .sink⟩⟩ = some .opcode := by decide
theorem test_bad_die : wellFormed (.epochEnd 4) = false ∧ wellFormed (.exchangeSlot 3) = true := by decide
theorem test_bad_bay : wellFormed (.bayGate 512) = false ∧ wellFormed (.colophonHalt 511) = true := by decide
theorem test_bad_queue : wellFormed (.hqEnable 64) = false ∧ wellFormed (.hqEnable 63) = true := by decide
theorem test_bad_timeline : wellFormed (.hostTimelineIncrement 65536 1) = false ∧ wellFormed (.kernelTimelineWrite 65535 1 true) = true := by decide
theorem test_bad_mailbox_word : wellFormed (.mbiWrite 16 0) = false ∧ wellFormed (.mailboxAnswer [(16, 0)]) = false := by decide
theorem test_bad_port : wellFormed (.memoryPortCell 0 240) = false ∧ wellFormed (.watchSample 64) = false := by decide
theorem test_bad_unit : wellFormed (.decantBlockDone 0 4) = false ∧ wellFormed (.bankAccess 0 4 0) = false := by decide

/-! ### Words that the spec derives bit by bit -/

/-- The instruction in a handler word, or in a Colophon word. -/
def dec (w : W64) : Option Instr := (decodeHandler w).toOption
@[inherit_doc dec] def decC (w : W32) : Option Instr := (decodeColophon w).toOption

/-- 04_encodings, `fix`. -/
theorem test_word_iadd_immediate : dec 0x0020080102000020 = some (.iadd { q 2 .i32 with fI := true } (.i ⟨.element 129 0 0, 32⟩)) := by decide
/-- 01_first_fragments. -/
theorem test_word_iadd : dec 0x00200000020C0000 = some (.iadd (q 2 .i32) (.d ⟨nx, .dest .sink⟩)) := by decide
/-- 19_program_routing, `om`. -/
theorem test_word_or : dec 0x0D6010C000200160 = some (.or { q 2 .n32 with mode := .frame } (.d ⟨.slot 0, .dest (.element 11 0 0)⟩)) := by decide
/-- 09_scalar_instructions, `key`. -/
theorem test_word_cellkey : dec 0x1C20200002000824 = some (.cellkey (q 2 .f32) ⟨nx, 0x824⟩) := by decide
/-- 22_program_linear_attention, `g`. -/
theorem test_word_steer : dec 0x5020000000500809 = some (.steer (q 2 .i32) ⟨.element 0 0 5, .dest (.element 64 1 1)⟩) := by decide
/-- 15_program_collatz, `gt`. -/
theorem test_word_gate : dec 0x546000004A0C0000 = some (.gate { q 2 .i32 with mode := .frame } ⟨.element 37 0 0, .dest .sink⟩) := by decide
/-- 15_program_collatz, `pc`. -/
theorem test_word_prime : dec 0x55C00000B00FFFFF = some (.prime { q 0 .i32 with mode := .trigger } ⟨.element 88 0 0, 0xFFFFF⟩) := by decide
/-- 04_encodings, `lp`. -/
theorem test_word_loopin : dec 0x562000000200000B = some (.loopin (q 2 .i32) ⟨nx, 11⟩) := by decide
/-- 15_program_collatz, `cf`. -/
theorem test_word_callf : dec 0x5A10000040000040 = some (.callf (q 1 .i32) ⟨.element 32 0 0, 0x40⟩) := by decide
/-- 10_control_instructions. -/
theorem test_word_cfwd : dec 0x6830200008000088 = some (.cfwd (q 3 .f32) ⟨.element 4 0 0, .dest (.element 4 1 0)⟩) := by decide
/-- 11_matrix_mode, `cf0`. -/
theorem test_word_mxcfg : dec 0x7010500000100005 = some (.mxcfg (q 1 .e4m3x4) ⟨.element 0 0 1, 5⟩) := by decide
/-- 11_matrix_mode, `st0`. -/
theorem test_word_mxstep : dec 0x711000802000001F = some (.mxstep (q 1 .i32) ⟨true, false, false, false, 64, 0, 31⟩) := by decide
/-- 22_program_linear_attention, `s1` and `s`. -/
theorem test_word_mxstep_keep : dec 0x711000C010200003 = some (.mxstep (q 1 .i32) ⟨true, true, false, false, 32, 1, 3⟩) ∧
    dec 0x7110006010200003 = some (.mxstep (q 1 .i32) ⟨false, true, true, false, 32, 1, 3⟩) := by decide
/-- 18_program_multicast, `lg1`. -/
theorem test_word_ld : dec 0x801022085FD010E0 = some (.ld { q 1 .f32 with fW := true } ⟨2, 5, 7, 7, false, true, .element 135 0 0⟩) := by decide
/-- 23_program_recursive_binning, `so`, and 15_program_collatz, `sv`. -/
theorem test_word_st : dec 0x812011083FCC0000 = some (.st { q 2 .n32 with fK := true } ⟨2, 3, 7, 7, false, false, .sink⟩) ∧
    dec 0x816000042FCC0000 = some (.st { q 2 .i32 with mode := .frame } ⟨1, 2, 7, 7, false, false, .sink⟩) := by decide
/-- 22_program_linear_attention, `sq`. -/
theorem test_word_stq : dec 0x852020103FC00C00 = some (.stq (q 2 .f32) ⟨4, 3, 7, 7, false, false, .element 96 0 0⟩) := by decide
/-- 14_memory_instructions and 19_program_routing, `cl`. -/
theorem test_word_aincb : dec 0x8F3010081FC00020 = some (.aincb (q 3 .n32) ⟨2, 1, 7, 7, false, false, nx⟩) ∧
    dec 0x8F3011086FC00120 = some (.aincb { q 3 .n32 with fK := true } ⟨2, 6, 7, 7, false, false, .element 9 0 0⟩) := by decide
/-- 18_program_multicast. -/
theorem test_word_sendm : dec 0x913004001FD01000 = some (.sendm { q 3 .i32 with fP := true } ⟨0, 1, 7, 7, false, true, .element 128 0 0⟩) := by decide
/-- 05_launch, `tick`. -/
theorem test_word_tlinc : dec 0xA020000000500040 = some (.tlinc (q 2 .i32) ⟨0, 5, .element 2 0 0⟩) := by decide
/-- 16_synchronisation, R310. -/
theorem test_word_barr : dec 0xA310001100800080 = some (.barr (q 1 .i32) ⟨0x11, 8, .element 4 0 0⟩) := by decide
/-- 16_synchronisation. -/
theorem test_word_stock : dec 0xA610000000000020 = some (.stock (q 1 .i32) ⟨0, 0, nx⟩) := by decide
/-- 20_interruption. -/
theorem test_word_trap : dec 0xB010000000500020 = some (.trap (q 1 .i32) ⟨0, 5, nx⟩) := by decide
/-- 20_interruption. -/
theorem test_word_ccall : dec 0xB3100009004C0000 = some (.ccall (q 1 .i32) ⟨9, 4, .sink⟩) := by decide
/-- 23_program_recursive_binning, `cr`. -/
theorem test_word_cret : dec 0xB4100000000C0000 = some (.cret (q 1 .i32) ⟨0, 0, .sink⟩) := by decide
/-- 21_recovery: `EFMA e8, e6, e2`, `ECVT e8, e8` with type 3, `ELOOP e5` by −14, and `ESIG e1` to element 3. -/
theorem test_words_colophon : decC 0x0E188000 = some (.efma 8 6 2) ∧ decC 0x1A200003 = some (.ecvt 8 8 3 0 false) ∧
    decC 0x41403FF2 = some (.eloop 5 (BitVec.ofInt 14 (-14))) ∧ decC 0x4C040003 = some (.esig 1 3 0 0) := by decide
/-- R71: `NOP` never fires, and the all-zero word is refused. -/
theorem test_word_none : dec 0xBD00000000000000 = none ∧ decodeHandler 0 = .error .arity := by exact ⟨by decide, rfl⟩
/-- R370: an opcode from 0x14 up and a non-zero unused field halt with 1 and 2. -/
theorem test_word_colophon_refused : decodeColophon 0x50000000 = .error .opcode ∧ decodeColophon 0x2C000001 = .error .unusedField := ⟨rfl, rfl⟩
/-- The encoder gives the spec's words back. -/
theorem test_encode : encode (.iadd { q 2 .i32 with fI := true } (.i ⟨.element 129 0 0, 32⟩)) = [0x0020080102000020] ∧
    encode (.tlinc (q 2 .i32) ⟨0, 5, .element 2 0 0⟩) = [0xA020000000500040] ∧ encode (.efma 8 6 2) = [0x0E188000] := by decide
theorem test_table_word : decodeTableWord 64 0xB010000000500020 = some (.trap (q 1 .i32) ⟨0, 5, nx⟩) ∧
    decodeTableWord 32 0x0E188000 = some (.efma 8 6 2) ∧ decodeTableWord 16 0 = none := by decide
theorem witness_DecodeWords : wellFormed (.trap (q 1 .i32) ⟨0, 5, nx⟩) = true := by decide

/-! ### Words laid out by hand from R56, R57, R63, R64, R69, R70 and R370 to R372: every other instruction, with fields at their edges -/

theorem test_words_integers_1 :
    dec 0x012091000200004B = some (.isub { q 2 .i16x2 with fK := true } (.d ⟨nx, .dest (.element 2 1 3)⟩)) ∧
    dec 0x022091000200004B = some (.imul { q 2 .i16x2 with fK := true } (.d ⟨nx, .dest (.element 2 1 3)⟩)) ∧
    dec 0x032091000200004B = some (.imulh { q 2 .i16x2 with fK := true } (.d ⟨nx, .dest (.element 2 1 3)⟩)) ∧
    dec 0x072091000200004B = some (.imin { q 2 .i16x2 with fK := true } (.d ⟨nx, .dest (.element 2 1 3)⟩)) ∧
    dec 0x082091000200004B = some (.imax { q 2 .i16x2 with fK := true } (.d ⟨nx, .dest (.element 2 1 3)⟩)) ∧
    dec 0x092091000200004B = some (.iadds { q 2 .i16x2 with fK := true } (.d ⟨nx, .dest (.element 2 1 3)⟩)) ∧
    dec 0x0A2091000200004B = some (.isubs { q 2 .i16x2 with fK := true } (.d ⟨nx, .dest (.element 2 1 3)⟩)) ∧
    dec 0x0020B4000200000B = some (.iadd { q 2 .n8x4 with fP := true } (.d ⟨nx, .sq 11⟩)) := by
  decide
theorem test_words_integers_2 :
    dec 0x0430A1000200004B = some (.imad { q 3 .n16x2 with fK := true } ⟨nx, .dest (.element 2 1 3)⟩) ∧
    dec 0x1A30A1000200004B = some (.iaddc { q 3 .n16x2 with fK := true } ⟨nx, .dest (.element 2 1 3)⟩) ∧
    dec 0x1F30A1000200004B = some (.iclamp { q 3 .n16x2 with fK := true } ⟨nx, .dest (.element 2 1 3)⟩) ∧
    dec 0x051080000200004B = some (.ineg (q 1 .i8x4) ⟨nx, .dest (.element 2 1 3)⟩) ∧
    dec 0x061080000200004B = some (.iabs (q 1 .i8x4) ⟨nx, .dest (.element 2 1 3)⟩) ∧
    dec 0x0B200800020FFF83 = some (.icmp { q 2 .i32 with fI := true } ⟨nx, 0xFFF83⟩) ∧
    dec 0x1B20110002000007 = some (.lea { q 2 .n32 with fK := true } ⟨nx, 0x7⟩) ∧
    dec 0x1810C00002000124 = some (.bfx (q 1 .b32) ⟨nx, 0x124⟩) := by
  decide
theorem test_words_integers_3 :
    dec 0x1920C10002000124 = some (.bfi { q 2 .b32 with fK := true } ⟨nx, 0x124⟩) := by
  decide
theorem test_words_bits_1 :
    dec 0x0C20C0000200004B = some (.and (q 2 .b32) (.d ⟨nx, .dest (.element 2 1 3)⟩)) ∧
    dec 0x0E20C0000200004B = some (.xor (q 2 .b32) (.d ⟨nx, .dest (.element 2 1 3)⟩)) ∧
    dec 0x0F20C0000200004B = some (.andn (q 2 .b32) (.d ⟨nx, .dest (.element 2 1 3)⟩)) ∧
    dec 0x1120C0000200004B = some (.shl (q 2 .b32) (.d ⟨nx, .dest (.element 2 1 3)⟩)) ∧
    dec 0x1220C0000200004B = some (.shr (q 2 .b32) (.d ⟨nx, .dest (.element 2 1 3)⟩)) ∧
    dec 0x1320C0000200004B = some (.shra (q 2 .b32) (.d ⟨nx, .dest (.element 2 1 3)⟩)) ∧
    dec 0x1420C0000200004B = some (.rotl (q 2 .b32) (.d ⟨nx, .dest (.element 2 1 3)⟩)) ∧
    dec 0x0D20C80002080001 = some (.or { q 2 .b32 with fI := true } (.i ⟨nx, 0x80001⟩)) := by
  decide
theorem test_words_bits_2 :
    dec 0x1010C0800090004B = some (.not (q 1 .b32) ⟨(.cont 9), .dest (.element 2 1 3)⟩) ∧
    dec 0x1510C0800090004B = some (.clz (q 1 .b32) ⟨(.cont 9), .dest (.element 2 1 3)⟩) ∧
    dec 0x1610C0800090004B = some (.popc (q 1 .b32) ⟨(.cont 9), .dest (.element 2 1 3)⟩) ∧
    dec 0x1710C0800090004B = some (.brev (q 1 .b32) ⟨(.cont 9), .dest (.element 2 1 3)⟩) ∧
    dec 0x1D10100002000008 = some (.cellhash (q 1 .n32) ⟨nx, 0x8⟩) ∧
    dec 0x1E20110002000064 = some (.nbrkey { q 2 .n32 with fK := true } ⟨nx, 0x64⟩) := by
  decide
theorem test_words_floats_1 :
    dec 0x202031000200004B = some (.fadd { q 2 .bf16x2 with fK := true } (.d ⟨nx, .dest (.element 2 1 3)⟩)) ∧
    dec 0x212031000200004B = some (.fsub { q 2 .bf16x2 with fK := true } (.d ⟨nx, .dest (.element 2 1 3)⟩)) ∧
    dec 0x222031000200004B = some (.fmul { q 2 .bf16x2 with fK := true } (.d ⟨nx, .dest (.element 2 1 3)⟩)) ∧
    dec 0x242031000200004B = some (.fmin { q 2 .bf16x2 with fK := true } (.d ⟨nx, .dest (.element 2 1 3)⟩)) ∧
    dec 0x252031000200004B = some (.fmax { q 2 .bf16x2 with fK := true } (.d ⟨nx, .dest (.element 2 1 3)⟩)) ∧
    dec 0x2E2031000200004B = some (.fscale { q 2 .bf16x2 with fK := true } (.d ⟨nx, .dest (.element 2 1 3)⟩)) ∧
    dec 0x233040000200004B = some (.ffma (q 3 .f16x2) ⟨nx, .dest (.element 2 1 3)⟩) ∧
    dec 0x343040000200004B = some (.fdot2 (q 3 .f16x2) ⟨nx, .dest (.element 2 1 3)⟩) := by
  decide
theorem test_words_floats_2 :
    dec 0x265020000200004B = some (.fabs { q 1 .f32 with mode := .frame } ⟨nx, .dest (.element 2 1 3)⟩) ∧
    dec 0x275020000200004B = some (.fneg { q 1 .f32 with mode := .frame } ⟨nx, .dest (.element 2 1 3)⟩) ∧
    dec 0x295020000200004B = some (.frcp { q 1 .f32 with mode := .frame } ⟨nx, .dest (.element 2 1 3)⟩) ∧
    dec 0x2A5020000200004B = some (.frsq { q 1 .f32 with mode := .frame } ⟨nx, .dest (.element 2 1 3)⟩) ∧
    dec 0x2B5020000200004B = some (.fexp2 { q 1 .f32 with mode := .frame } ⟨nx, .dest (.element 2 1 3)⟩) ∧
    dec 0x2C5020000200004B = some (.flog2 { q 1 .f32 with mode := .frame } ⟨nx, .dest (.element 2 1 3)⟩) ∧
    dec 0x2D5020000200004B = some (.fsqrt { q 1 .f32 with mode := .frame } ⟨nx, .dest (.element 2 1 3)⟩) ∧
    dec 0x335020000200004B = some (.fclass { q 1 .f32 with mode := .frame } ⟨nx, .dest (.element 2 1 3)⟩) := by
  decide
theorem test_words_floats_3 :
    dec 0x2820200002000009 = some (.fcmp (q 2 .f32) ⟨nx, 0x9⟩) ∧
    dec 0x2F10200002000004 = some (.fround (q 1 .f32) ⟨nx, 0x4⟩) ∧
    dec 0x3010700002000093 = some (.fcvt (q 1 .e2m1x8) ⟨nx, 0x93⟩) ∧
    dec 0x31102000020000A8 = some (.ftoi (q 1 .f32) ⟨nx, 0xA8⟩) ∧
    dec 0x3210A00002000034 = some (.itof (q 1 .n16x2) ⟨nx, 0x34⟩) ∧
    dec 0x3620200002000046 = some (.qpack (q 2 .f32) ⟨nx, 0x46⟩) ∧
    dec 0x3710700002000072 = some (.qunpk (q 1 .e2m1x8) ⟨nx, 0x72⟩) ∧
    dec 0x351000000200004B = some (.seed (q 1 .i32) ⟨nx, .dest (.element 2 1 3)⟩) := by
  decide
theorem test_words_moves_1 :
    dec 0x401000C00010004B = some (.mov (q 1 .i32) ⟨.park, .dest (.element 2 1 3)⟩) ∧
    dec 0x41100000020FFFFF = some (.movi (q 1 .i32) ⟨nx, 0xFFFFF⟩) ∧
    dec 0x4210000002012345 = some (.movhi (q 1 .i32) ⟨nx, 0x12345⟩) ∧
    dec 0x433001000200004B = some (.sel { q 3 .i32 with fK := true } ⟨nx, .dest (.element 2 1 3)⟩) ∧
    dec 0x441000C0000C0000 = some (.sink (q 1 .i32) ⟨.sink, .dest .sink⟩) ∧
    dec 0x4510000002000007 = some (.getw (q 1 .i32) ⟨nx, 0x7⟩) ∧
    dec 0x4610000002000003 = some (.setw (q 1 .i32) ⟨nx, 0x3⟩) ∧
    dec 0x47C0000002080000 = some (.const { q 0 .i32 with mode := .trigger } ⟨nx, 0x80000⟩) := by
  decide
theorem test_words_moves_2 :
    dec 0x482001000200004B = some (.live { q 2 .i32 with fK := true } ⟨nx, .dest (.element 2 1 3)⟩) ∧
    dec 0x491000000200004B = some (.islive (q 1 .i32) ⟨nx, .dest (.element 2 1 3)⟩) ∧
    dec 0x4A10100002000007 = some (.count (q 1 .n32) ⟨nx, 0x7⟩) ∧
    dec 0x4B20110002000008 = some (.stride { q 2 .n32 with fK := true } ⟨nx, 0x8⟩) := by
  decide
theorem test_words_control_1 :
    dec 0x512000C0000001C4 = some (.steerx (q 2 .i32) ⟨.sink, 0x1C4⟩) ∧
    dec 0x522000000200004B = some (.merge (q 2 .i32) ⟨nx, .dest (.element 2 1 3)⟩) ∧
    dec 0x532000000200004B = some (.mergeo (q 2 .i32) ⟨nx, .dest (.element 2 1 3)⟩) ∧
    dec 0x571000000200004B = some (.next (q 1 .i32) ⟨nx, .dest (.element 2 1 3)⟩) ∧
    dec 0x581000000200004B = some (.loopout (q 1 .i32) ⟨nx, .dest (.element 2 1 3)⟩) ∧
    dec 0x5910000002000040 = some (.bound (q 1 .i32) ⟨nx, 0x40⟩) ∧
    dec 0x5B1000C0000C0000 = some (.retf (q 1 .i32) ⟨.sink, .dest .sink⟩) ∧
    dec 0x5C1000000200004B = some (.tagrd (q 1 .i32) ⟨nx, .dest (.element 2 1 3)⟩) := by
  decide
theorem test_words_control_2 :
    dec 0x5D2000000200004B = some (.tagwr (q 2 .i32) ⟨nx, .dest (.element 2 1 3)⟩) ∧
    dec 0x5E100040005C0000 = some (.exit (q 1 .i32) ⟨(.exit 5), .dest .sink⟩) ∧
    dec 0x5F1000000200004B = some (.ends (q 1 .i32) ⟨nx, .dest (.element 2 1 3)⟩) := by
  decide
theorem test_words_accumulators_1 :
    dec 0x601020000200003F = some (.accadd (q 1 .f32) ⟨nx, 0x3F⟩) ∧
    dec 0x611020000200003F = some (.accmax (q 1 .f32) ⟨nx, 0x3F⟩) ∧
    dec 0x641020000200003F = some (.accscl (q 1 .f32) ⟨nx, 0x3F⟩) ∧
    dec 0x62100000020000FC = some (.accrd (q 1 .i32) ⟨nx, 0xFC⟩) ∧
    dec 0x6310000002000FC0 = some (.accz (q 1 .i32) ⟨nx, 0xFC0⟩) ∧
    dec 0x6550200002000005 = some (.ordred { q 1 .f32 with mode := .frame } ⟨nx, 0x5⟩) ∧
    dec 0x661030000200003A = some (.xacc (q 1 .bf16x2) ⟨nx, 0x3A⟩) ∧
    dec 0x671000000200027A = some (.xrnd (q 1 .i32) ⟨nx, 0x27A⟩) := by
  decide
theorem test_words_accumulators_2 :
    dec 0x693020000200004B = some (.cfwdx (q 3 .f32) ⟨nx, .dest (.element 2 1 3)⟩) := by
  decide
theorem test_words_matrix_1 :
    dec 0x718000A7D0600FFF = some (.mxstep { q 0 .i32 with mode := .accord } ⟨true, false, true, false, 4000, 3, 0xFFF⟩) ∧
    dec 0x7210000002000000 = some (.mxfade (q 1 .i32) ⟨nx, 0x0⟩) ∧
    dec 0x7310000002A0001F = some (.mxscl (q 1 .i32) ⟨false, false, false, false, 5, 1, 0x1F⟩) ∧
    dec 0x7410200010C00103 = some (.mxdrn (q 1 .f32) ⟨false, false, false, false, 33, 2, 0x103⟩) ∧
    dec 0x75100000020ABCDE = some (.mxpass (q 1 .i32) ⟨nx, 0xABCDE⟩) ∧
    dec 0x7610042432B00020 = some (.mxldacc { q 1 .i32 with fP := true } ⟨9, 3, 1, 2, true, true, nx⟩) := by
  decide
theorem test_words_memory_1 :
    dec 0x821020FFFD600020 = some (.lds (q 1 .f32) ⟨63, 63, 6, 5, true, false, nx⟩) ∧
    dec 0x8320960427100020 = some (.sts { q 2 .i16x2 with fP := true, fW := true } ⟨1, 2, 3, 4, false, true, nx⟩) ∧
    dec 0x8410C01400200020 = some (.ldq (q 1 .b32) ⟨5, 0, 0, 0, true, false, nx⟩) ∧
    dec 0x8610501400400020 = some (.pref (q 1 .e4m3x4) ⟨5, 0, 0, 1, false, false, nx⟩) ∧
    dec 0x8820111C1FC00020 = some (.aadd { q 2 .n32 with fK := true } ⟨7, 1, 7, 7, false, false, nx⟩) ∧
    dec 0x8920311C1FC00020 = some (.afadd { q 2 .bf16x2 with fK := true } ⟨7, 1, 7, 7, false, false, nx⟩) ∧
    dec 0x8A20011C1FC00020 = some (.amin { q 2 .i32 with fK := true } ⟨7, 1, 7, 7, false, false, nx⟩) ∧
    dec 0x8B20111C1FC00020 = some (.amax { q 2 .n32 with fK := true } ⟨7, 1, 7, 7, false, false, nx⟩) := by
  decide
theorem test_words_memory_2 :
    dec 0x8C20011C1FC00020 = some (.axchg { q 2 .i32 with fK := true } ⟨7, 1, 7, 7, false, false, nx⟩) ∧
    dec 0x8E20C11C1FC00020 = some (.abit { q 2 .b32 with fK := true } ⟨7, 1, 7, 7, false, false, nx⟩) ∧
    dec 0x8D30001C1FC00020 = some (.acas (q 3 .i32) ⟨7, 1, 7, 7, false, false, nx⟩) ∧
    dec 0x6A3000081FC00020 = some (.slog (q 3 .i32) ⟨2, 1, 7, 7, false, false, nx⟩) ∧
    dec 0x6B1000081FE80009 = some (.sread (q 1 .i32) ⟨2, 1, 7, 7, true, false, (.cont 9)⟩) ∧
    dec 0x9020000C1FE00020 = some (.sendc (q 2 .i32) ⟨3, 1, 7, 7, true, false, nx⟩) ∧
    dec 0x9220000C1FC80009 = some (.creq (q 2 .i32) ⟨3, 1, 7, 7, false, false, (.cont 9)⟩) ∧
    dec 0x9610000C1FE00020 = some (.dlay (q 1 .i32) ⟨3, 1, 7, 7, true, false, nx⟩) := by
  decide
theorem test_words_memory_3 :
    dec 0x8710002400000020 = some (.fence (q 1 .i32) ⟨0x24, 0, nx⟩) := by
  decide
theorem test_words_system_1 :
    dec 0x9310000100000020 = some (.cgrp (q 1 .i32) ⟨0x1, 0, nx⟩) ∧
    dec 0x9410000F00000020 = some (.darm (q 1 .i32) ⟨0xF, 0, nx⟩) ∧
    dec 0x95800003000C0000 = some (.dfire { q 0 .i32 with mode := .accord } ⟨0x3, 0, .sink⟩) ∧
    dec 0x9710000900000020 = some (.dstat (q 1 .i32) ⟨0x9, 0, nx⟩) ∧
    dec 0x9810001F00000020 = some (.dcan (q 1 .i32) ⟨0x1F, 0, nx⟩) ∧
    dec 0xA110001FFFF00020 = some (.tlwait (q 1 .i32) ⟨0x1F, 4095, nx⟩) ∧
    dec 0xA210001000700020 = some (.tlrd (q 1 .i32) ⟨0x10, 7, nx⟩) ∧
    dec 0xA520000FFFF00020 = some (.tlset (q 2 .i32) ⟨0xF, 4095, nx⟩) := by
  decide
theorem test_words_system_2 :
    dec 0xA410000100000020 = some (.launch (q 1 .i32) ⟨0x1, 0, nx⟩) ∧
    dec 0xA730000103F00020 = some (.evwatch (q 3 .i32) ⟨0x1, 63, nx⟩) ∧
    dec 0xB1100000FFF00020 = some (.brk (q 1 .i32) ⟨0x0, 4095, nx⟩) ∧
    dec 0xB210000700000020 = some (.prio (q 1 .i32) ⟨0x7, 0, nx⟩) ∧
    dec 0xB510000100000020 = some (.resume (q 1 .i32) ⟨0x1, 0, nx⟩) ∧
    dec 0xB610000000900020 = some (.park (q 1 .i32) ⟨0x0, 9, nx⟩) ∧
    dec 0xB710000100000020 = some (.fltrd (q 1 .i32) ⟨0x1, 0, nx⟩) ∧
    dec 0xB810000001600020 = some (.perfrd (q 1 .i32) ⟨0x0, 22, nx⟩) := by
  decide
theorem test_words_system_3 :
    dec 0xB910000100000020 = some (.timerd (q 1 .i32) ⟨0x1, 0, nx⟩) ∧
    dec 0xBA10000000000020 = some (.scanout (q 1 .i32) ⟨0x0, 0, nx⟩) ∧
    dec 0xBB10000000000020 = some (.scanin (q 1 .i32) ⟨0x0, 0, nx⟩) ∧
    dec 0xBC10000100000020 = some (.cflush (q 1 .i32) ⟨0x1, 0, nx⟩) := by
  decide
theorem test_words_colophon_more :
    decC 0x00F9C002 = some (.eadd 3 14 7 2) ∧
    decC 0x04F9C002 = some (.esub 3 14 7 2) ∧
    decC 0x08F9C002 = some (.emul 3 14 7 2) ∧
    decC 0x10F9C002 = some (.emax 3 14 7 2) ∧
    decC 0x14F9C002 = some (.emin 3 14 7 2) ∧
    decC 0x1C48C000 = some (.eclmp 1 2 3) ∧
    decC 0x22400001 = some (.eldr 9 true) ∧
    decC 0x24116ABC = some (.estr 4 5 0x2ABC) ∧
    decC 0x28883C00 = some (.eldi 2 2 0x3C00) ∧
    decC 0x2FC40000 = some (.emov 15 1) ∧
    decC 0x3048C000 = some (.eand 1 2 3) ∧
    decC 0x34480071 = some (.eshf 1 2 17 3) ∧
    decC 0x38183FFF = some (.ebnz 6 0x3FFF) ∧
    decC 0x3C001FFF = some (.ejmp 0x1FFF) ∧
    decC 0x44000040 = some (.ewait 64) ∧
    decC 0x48002222 = some (.ehalt 0x2222) := by
  decide

/-! ### Results: the spec's worked examples -/

/-- R161: `IADDS.i8x4` and `IADD.i8x4`. -/
theorem test_iadds : aluIadds .i8x4 0x7F800102 0x0180FF05 = 0x7F800007 ∧ aluIadd .i8x4 0x7F800102 0x0180FF05 = 0x80000007 := by decide
/-- R165: `SHL.i8x4 a, 3`. -/
theorem test_shl_immediate : immOperand .i8x4 20 3 = 0x03030303 ∧ aluShl .i8x4 0x01020381 0x03030303 = 0x08101808 := by decide
/-- R168: the particle at (2.75, 1.5) with cells of one half has key 27; R170: its east neighbour of 5 is 30. -/
theorem test_cellkey : (aluCellkey .f32 4 1 true [0x40300000, 0x3FC00000]).1 = 27 := by decide +kernel
theorem test_nbrkey : aluNbrkey 4 false false 27 5 = some (30, true) ∧ (aluNbrkey 4 false false 85 5).map Prod.snd = some false := by decide +kernel
/-- R169: bucket 175. -/
theorem test_cellhash : aluCellhash 8 27 = 175 := by decide
/-- R180: 1.0, 2.0, 0.5 and −1.0 into e4m3x4. -/
theorem test_qpack : (aluQpack .e4m3x4 0 false 0 0x3F800000 0).1 = 0x38000000 ∧ (aluQpack .e4m3x4 0 false 0 0x40000000 0x38000000).1 = 0x40380000 ∧
    (aluQpack .e4m3x4 0 false 0 0xBF800000 0x30403800).1 = 0xB8304038 := by decide +kernel
/-- R171: 0.1 + 0.2 is rounded; an infinity less itself is an invalid operation. -/
theorem test_fadd : aluFadd .f32 0x3DCCCCCD 0x3E4CCCCD = (0x3E99999A, Flag.NX) ∧ aluFsub .f32 0x7F800000 0x7F800000 = (0x7FC00000, Flag.NV) := by
  decide +kernel
/-- R172: −0 lies below +0. -/
theorem test_fmin : (aluFmin .f32 0x80000000 0).1 = 0x80000000 ∧ (aluFmax .f32 0x80000000 0).1 = 0 := by decide +kernel
/-- R156: 1.0 in an exact group is one in its accumulator 4, and 2^40 added and taken away leaves it; XRND gives it back. -/
theorem test_xacc : (xaccAdd (xaccAdd (xaccAdd 0 (laneFV .f32 0x53800000 0)).1 (laneFV .f32 0x3F800000 0)).1 (laneFV .f32 0xD3800000 0)).1 = 2 ^ 128 ∧
    groupWords (2 ^ 128) = [0, 0, 0, 0, 1, 0] ∧ (fp32.write 0 0 false (ofScaled (2 ^ 128) (-128))).1 = 0x3F800000 := by decide +kernel
/-- R209: 1 + 2^−9 rounds to BF16 as 1.0, inexactly. -/
theorem test_xrnd : bf16.write 0 0 false (ofScaled (2 ^ 128 + 2 ^ 119) (-128)) = (0x3F80, Flag.NX) := by decide +kernel

/-! ### Steps: one step on a small machine -/

/-- A live operand for handler 0 in the initial tag of frame 1. -/
def tok (v : W32) : QTok := { placedToken with e := { placedToken.e with operand := v } }

/-- Handler 0 of element 0 with a word and operands, in a loan of one bay, and nothing else due. -/
def bench (w : W64) (ops : List W32 := [0, 0, 0, 0]) (l : Loan → Loan := id) (x : ElCtx → ElCtx := id) (s : State := State.reset) : State :=
  let s := placeHandlerWord s w.toNat
  { s with
    els := [(0, { Element.empty with
      ctxs := [(0, x (placedCtx w.toNat))]
      planes := [(0, ⟨ops.zipIdx.map (fun p => (p.2, [tok p.1])), [], some (1, 0)⟩)] })]
    loans := [(1, l placedLoan)] }

/-- The bench of a well-formed instruction. -/
def benchOf (i : Instr) (ops : List W32 := [0, 0, 0, 0]) (l : Loan → Loan := id) (x : ElCtx → ElCtx := id) : State :=
  bench (BitVec.ofNat 64 ((encode i).headD 0)) ops l x

/-- The tokens that a firing of the bench sends: buffer, destination element, operand and liveness. -/
def sent (s : State) : List (Nat × BitVec 13 × W32 × Bool) :=
  match step s with
  | .next t => (t.el 0).pending.flatMap (fun p => p.emits.filterMap (fun e => match e.2.emit with
      | .token x => some (e.1, x.el, x.q.operand, x.q.pred)
      | _ => none))
  | _ => []

/-- R161: the sum goes east to element 1. -/
theorem test_step_iadd : sent (benchOf (.iadd (q 2 .i32) (.d ⟨nx, .dest .sink⟩)) [7, 0xFFFFFFFE]) = [(1, 1, 5, true)] := by decide +kernel
/-- R162: `IADDC` sends its sum and its carry. -/
theorem test_step_iaddc : (sent (benchOf (.iaddc (q 3 .i32) ⟨nx, .dest (.element 2 0 0)⟩) [0xFFFFFFFF, 0, 1])).map (fun x => x.2.2.1) = [0, 1] := by
  decide +kernel
/-- R193: `STEER` sends `b` to its second destination when `a` is zero. -/
theorem test_step_steer : (sent (benchOf (.steer (q 2 .i32) ⟨nx, .dest (.element 2 0 0)⟩) [0, 9])).map (fun x => (x.2.1, x.2.2.1)) = [(2, 9)] := by
  decide +kernel
/-- The bench with a plane of its own. -/
def withPlane (s : State) (pl : Plane) : State := s.updEl 0 (fun e => { e with planes := [(0, pl)] })

/-- R141: a dead operand makes the outputs dead. -/
theorem test_step_dead : (match step (withPlane (benchOf (.mov (q 1 .i32) ⟨nx, .dest .sink⟩))
      ⟨[(0, [{ tok 5 with e := { (tok 5).e with pred := false } }])], [], some (1, 0)⟩) with
    | .next t => (t.el 0).pending.flatMap (fun p => p.emits.filterMap (fun e => e.2.emit.entry.map (fun y => y.pred)))
    | _ => []) = [false] := by decide +kernel
/-- R183: `SEED` with zero leaves 1. -/
theorem test_step_seed : (match step (benchOf (.seed (q 1 .i32) ⟨nx, .dest .sink⟩) [0]) with | .next t => (t.el 0).random | _ => 0) = 1 := by
  decide +kernel
/-- R186: `SETW` writes its register. -/
theorem test_step_setw : (match step (benchOf (.setw (q 1 .i32) ⟨nx, 3⟩) [42]) with | .next t => AMap.get ((t.el 0).active 0).w 0 3 | _ => 0) = 42 := by
  decide +kernel
/-- R132: operands whose tags differ make poison and a record. -/
theorem test_step_mismatch : (match step (withPlane (benchOf (.iadd (q 2 .i32) (.d ⟨nx, .dest .sink⟩)))
      ⟨[(0, [tok 5]), (1, [{ tok 5 with e := { (tok 5).e with tag := Tag.initial 2 } }])], [], some (1, 0)⟩) with
    | .next t => (t.hub.store.map (fun r => (r.code, r.parked)))
    | _ => []) = [(BitVec.ofNat 8 fMISMATCH, true)] := by decide +kernel
/-- R340: `TRAP` leaves its record with operand and code, and parks its frame. -/
theorem test_step_trap : (match step (benchOf (.trap (q 1 .i32) ⟨0, 5, nx⟩) [77]) with
    | .next t => (t.hub.store.map (fun r => (r.code, r.detail, r.parked)), (AMap.find t.loans 1).bind (fun l => (AMap.find l.frames 1).map (fun f => f.parked.isSome)))
    | _ => ([], none)) = ([(BitVec.ofNat 8 fTRAP, 0x500000000 + 77, true)], some true) := by decide +kernel
/-- R104: `TLINC` adds to its timeline at the firing and sends the sum. -/
theorem test_step_tlinc : (match step (benchOf (.tlinc (q 2 .i32) ⟨0, 5, nx⟩) [3, 0]) with | .next t => t.timeline 5 | _ => 0) = 3 := by decide +kernel
/-- R345: `PRIO` with the operand writes the element's priority. -/
theorem test_step_prio : (match step (benchOf (.prio (q 1 .i32) ⟨4, 0, nx⟩) [3]) with | .next t => ((t.el 0).ctx 0).prio | _ => 0) = 3 := by decide +kernel

/-- The Colophon of bay 0, with a word, registers and words at its port. -/
def colBench (i : Instr) (regs : AMap W32 := []) (port : List PortWord := []) : State :=
  let s := placeColophonWord State.reset ((encode i).headD 0)
  s.updBay 0 (fun b => { b with colophon := { b.colophon with regs := regs, port := port } })

/-- A register of bay 0's Colophon after one step. -/
def colReg (s : State) (r : BitVec 4) : W32 := match step s with | .next t => (t.bay 0).colophon.reg r | _ => 0

/-- R371: the three `ELDI`s of 0.5, of which the second shifts. -/
theorem test_step_eldi : colReg (colBench (.eldi 2 2 0x3C00) [(2, 3)]) 2 = 0xFC00 ∧ colReg (colBench (.eldi 2 2 0) [(2, 0xFC00)]) 2 = 0x3F000000 := by
  decide +kernel
/-- 21_recovery: 0.5 × 1.5 + 0.25 is 1.0, and `e0` is never written. -/
theorem test_step_efma : colReg (colBench (.efma 8 6 2) [(2, 0x3F000000), (6, 0x3FC00000), (8, 0x3E800000)]) 8 = 0x3F800000 ∧
    colReg (colBench (.eadd 0 1 1 1) [(1, 5)]) 0 = 0 := by decide +kernel
/-- R372: `ELOOP` branches back while its register is not zero. -/
theorem test_step_eloop : (match step (colBench (.eloop 5 2) [(5, 2)]) with | .next t => ((t.bay 0).colophon.pc, (t.bay 0).colophon.reg 5) | _ => (0, 0)) = (2, 1) := by
  decide +kernel
/-- R370: a word that is no instruction halts with `ECODE` 1. -/
theorem test_step_colophon_halt : (match step (placeColophonWord State.reset 0x50000000) with
    | .next t => ((t.bay 0).colophon.halt, (t.bay 0).colophon.err, (t.bay 0).colophon.ecode) | _ => (false, false, 0)) = (true, true, 1) := by decide +kernel

/-- An event as the next input. -/
def after (s : State) (i : Instr) : State := match step { s with inputs := [i] } with | .next t => t | _ => State.reset

/-- The device with its link up. -/
def up : State := { State.reset with boot := { Boot.reset with stage := .up, link := true, layout := true }, agenda := [] }

/-- R27: a queue of 16 entries takes a tail of 15 and refuses 16. -/
theorem test_step_tail : ((after (after up (.hqRingSetup 3 true 4)) (.hqTailWrite 3 15)).hub.queue 3).tail = 15 ∧
    ((after (after up (.hqRingSetup 3 true 4)) (.hqTailWrite 3 16)).hub.queue 3).ovf = true := by decide +kernel
/-- R26: a size out of 4 to 15 is never enabled. -/
theorem test_step_enable : ((after (after up (.hqRingSetup 3 true 3)) (.hqEnable 3)).hub.queue 3).en = false ∧
    ((after (after up (.hqRingSetup 3 true 15)) (.hqEnable 3)).hub.queue 3).en = true := by decide +kernel
/-- R101: a timeline saturates. -/
theorem test_step_timeline : (after (after up (.kernelTimelineWrite 9 0xFFFFFFFFFFFFFFFF false)) (.hostTimelineIncrement 9 1)).timeline 9 = 2 ^ 64 - 1 := by
  decide +kernel
/-- R33: an access of four bytes sets `ACC` and reads all ones. -/
theorem test_step_bar : (after up (.registerWrite (.barRead 0x100008 4))).hub.errAcc = true ∧
    (after up (.registerWrite (.barRead 0x100008 4))).hub.answers = [(0, 0xFFFFFFFFFFFFFFFF)] := by decide +kernel
/-- R3: device memory is little-endian. -/
theorem test_memory : readW32 (writeBytes up.mem 64 [0x47, 0x46, 0x43, 0x4B]) 64 = 0x4B434647 := by decide +kernel
/-- R328: the order ring's token goes from the hub's node to the first one. -/
theorem test_step_ring : (after up .orderRingTick).hub.ringPos = 0 := by decide +kernel
/-- The cycle ends when nothing is due (R360). -/
theorem test_step_tick : (match step up with | .next t => t.cycle | _ => 0) = 1 := by decide +kernel


/-! ### Witnesses: states and operands that meet the hypotheses of the statements about element instructions -/

/-- What a statement about a firing assumes: the state, the shape, where the operands come from, the condition and the effect. -/
structure Case where
  s : State
  sh : Shape
  gath : State → FireCtx → Gather
  cond : FireCtx → Got → Bool
  eff : FireCtx → Got → Eff

/-- A handler issues with operands that meet the condition, and its outputs can leave. -/
def Case.meets (k : Case) : Prop := ∃ f g, Issues k.s k.sh k.gath f g ∧ k.cond f g = true ∧ Goes k.s f k.sh (k.eff f g)

/-- The same, computed. -/
def Case.runs (k : Case) : Bool :=
  match fireCtx? k.s with
  | none => false
  | some f => match k.gath k.s f with
    | .ok g0 =>
      let g := g0.descend k.s f k.sh
      readyToFire k.s f k.sh && (preFault f k.sh g).isNone && (!k.sh.h.fW || f.x.latch.contains f.hnd) && k.cond f g &&
        (k.eff f g).bad.isNone && (k.eff f g).outs.all (fun o => (o.finalTag k.sh.h.tagop).isSome) &&
        (k.eff f g).outs.all (fun o => !o.badTarget f) && roomFor k.s.cycle f.e (entriesNow (emitted k.s f k.sh (k.eff f g)))
    | _ => false

theorem Case.meets_of_runs {k : Case} (h : k.runs = true) : k.meets := by
  unfold Case.runs at h
  split at h
  · cases h
  · rename_i f hf
    split at h
    · rename_i g hg
      simp only [Bool.and_eq_true, Option.isNone_iff_eq_none, Bool.or_eq_true, Bool.not_eq_true'] at h
      obtain ⟨⟨⟨⟨⟨⟨⟨h1, h2⟩, h3⟩, h4⟩, h5⟩, h6⟩, h7⟩, h8⟩ := h
      exact ⟨f, g.descend k.s f k.sh, ⟨hf, h1, ⟨g, hg, rfl⟩, h2, fun hw => h3.resolve_left (by simp [hw])⟩, h4, ⟨h5, h6, by simpa using h7, h8⟩⟩
    · cases h

theorem all_meet {ks : List Case} (h : ks.all Case.runs = true) : ∀ k ∈ ks, k.meets :=
  fun k hk => Case.meets_of_runs (List.all_eq_true.mp h k hk)

/-- No condition. -/
def always (_ : FireCtx) (_ : Got) : Bool := true
/-- Live operands. -/
def live (_ : FireCtx) (g : Got) : Bool := g.live
/-- Bodies with one destination, or two. -/
def bD : FD := ⟨nx, .dest .sink⟩
@[inherit_doc bD] def bI (imm : BitVec 20) : FI := ⟨nx, imm⟩
@[inherit_doc bD] def bM : FM := ⟨2, 0, 7, 7, false, false, nx⟩

/-- A word that is computed from the operands. -/
def computes (i : Instr) (sh : Shape) (v : FireCtx → Got → W32 × Flags) (ops : List W32 := [1, 1, 1, 1]) : Case :=
  ⟨benchOf i ops, sh, byMode sh, always, fun f g => valueEff f g (toAll sh (v f g).1) (v f g).2⟩
def computesDI (t : Ty) (i : Hdr → FDI → Instr) (lat : Nat) (v : Ty → W32 → W32 → W32) : Case :=
  computes (i (q 2 t) (.d bD)) (shapeDI (q 2 t) (.d bD) lat) (fun _ g => (v t (g.op 0) (operandB (q 2 t) (.d bD) g), Flag.none))
def computesD (n : BitVec 2) (t : Ty) (i : Hdr → FD → Instr) (lat : Nat) (v : Ty → (Nat → W32) → W32) : Case :=
  computes (i (q n t) bD) (shapeD (q n t) bD lat) (fun _ g => (v t g.op, Flag.none))
def computesI (h : Hdr) (imm : BitVec 20) (i : Hdr → FI → Instr) (lat : Nat) (v : Hdr → FI → (Nat → W32) → W32) : Case :=
  computes (i h (bI imm)) (shapeI h (bI imm) lat) (fun _ g => (v h (bI imm) g.op, Flag.none))
def computesFloat (n : BitVec 2) (i : Hdr → FD → Instr) (lat : Nat) (iter : Bool) (v : Ty → (Nat → W32) → W32 × Flags) : Case :=
  computes (i (q n .f32) bD) { shapeD (q n .f32) bD lat with iterative := iter } (fun _ g => v .f32 g.op)
def draws (i : Hdr → FI → Instr) (h : Hdr) (imm : BitVec 20) (mode n : Nat) (v : FI → Got → List Nat → W32 × Flags) : Case :=
  ⟨benchOf (i h (bI imm)) [1, 1, 1, 1], shapeI h (bI imm) 2, byMode (shapeI h (bI imm) 2), always, fun f g =>
    let d := randomDraws n f.e.random
    { valueEff f g (toAll (shapeI h (bI imm) 2) (v (bI imm) g d.1).1) (v (bI imm) g d.1).2 with
      rnd := if g.live && mode == 4 then some d.2 else none }⟩
/-- A trigger-mode header without operands. -/
def tr (t : Ty) : Hdr := { q 0 t with mode := .trigger }

theorem witness_TwoInputIntegers : ∀ k ∈ ([.iadd, .isub, .imul, .imulh, .imin, .imax, .iadds, .isubs] : List (Hdr → FDI → Instr)).flatMap (fun i =>
    [1, 3].flatMap (fun lat => [computesDI .i32 i lat aluIadd, computesDI .i8x4 i lat aluIadd])), k.meets := all_meet (by decide +kernel)
theorem witness_OneInputIntegers : ∀ k ∈ ([.ineg, .iabs, .not, .clz, .popc, .brev] : List (Hdr → FD → Instr)).map (fun i =>
    computesD 1 .i16x2 i 1 (fun t o => aluIneg t (o 0))), k.meets := all_meet (by decide +kernel)
theorem witness_BitsAndShifts : (∀ k ∈ ([.and, .or, .xor, .andn, .shl, .shr, .shra, .rotl] : List (Hdr → FDI → Instr)).map (fun i =>
    computesDI .b32 i 1 (fun _ a b => a &&& b)), k.meets) ∧ (q 2 .i8x4).ty = .i8x4 ∧ (q 2 .i8x4).fP = false ∧ (q 2 .i8x4).fW = false :=
  ⟨all_meet (by decide +kernel), rfl, rfl, rfl⟩
theorem witness_IntegersAndFields : ∀ k ∈ [
    computesD 3 .i32 .imad 3 (fun t o => aluImad t (o 0) (o 1) (o 2)), computesD 3 .i32 .iclamp 1 (fun t o => aluIclamp t (o 0) (o 1) (o 2)),
    ⟨benchOf (.iaddc (q 3 .i32) bD) [1, 1, 1], shapeD (q 3 .i32) bD 1, byMode (shapeD (q 3 .i32) bD 1), always, fun f g => valueEff f g
      ((bD.d0, aluIaddcSum .i32 (g.op 0) (g.op 1) (g.op 2)) ::
        (dest1Of bD).toList.map (fun d => (d, aluIaddcCarry .i32 (g.op 0) (g.op 1) (g.op 2)))) Flag.none⟩,
    computesI (q 1 .b32) 0x124 .bfx 1 (fun h b o => aluBfx h.ty (immBits b.imm 0 5) (immBits b.imm 5 5) (o 0)),
    computesI (q 2 .b32) 0x124 .bfi 1 (fun _ b o => aluBfi (immBits b.imm 0 5) (immBits b.imm 5 5) (o 0) (o 1)),
    computesI (q 2 .n32) 7 .lea 1 (fun _ b o => o 0 + (o 1 <<< immBits b.imm 0 3)),
    computesI { q 2 .i32 with fI := true } 0x52 .icmp 1 (fun h b o => aluIcmp h.ty (immBits b.imm 0 4) (o 0) (if h.fI then icmpImm h b else o 1))],
    k.meets := all_meet (by decide +kernel)
theorem witness_integer_lanes : Ty.i8x4 ∈ tyInt ∧ 3 < Ty.i8x4.lanes ∧ laneInt .i8x4 (laneOf 0x01000000 8 3) < laneInt .i8x4 (laneOf 0x02000000 8 3) := by
  decide
theorem witness_SpatialKeys : ∀ k ∈ [
    computes (.cellkey (q 2 .f32) (bI 0x824)) (shapeI (q 2 .f32) (bI 0x824) 2) (fun _ g => aluCellkey .f32 4 1 true [g.op 0, g.op 1])
      [0x40300000, 0x3FC00000],
    computes (.cellkey (q 3 .f32) (bI 0x824)) (shapeI (q 3 .f32) (bI 0x824) 2) (fun _ g => aluCellkey .f32 4 1 true [g.op 0, g.op 1, g.op 2]),
    computesI (q 1 .n32) 8 .cellhash 2 (fun _ b o => (o 0 * 0x9E3779B1#32) >>> (32 - immBits b.imm 0 5)),
    ⟨benchOf (.nbrkey (q 2 .n32) (bI 4)) [27, 5], shapeI (q 2 .n32) (bI 4) 2, byMode (shapeI (q 2 .n32) (bI 4) 2),
      fun _ g => g.live && aluNbrkey 4 false false (g.op 0) (g.op 1) == some (30, true),
      fun f g => { Eff.none with outs := [{ Out.std f g nx 30 with pred := true }] }⟩,
    ⟨benchOf (.nbrkey (q 2 .n32) (bI 4)) [85, 5], shapeI (q 2 .n32) (bI 4) 2, byMode (shapeI (q 2 .n32) (bI 4) 2),
      fun _ g => g.live && (aluNbrkey 4 false false (g.op 0) (g.op 1)).map Prod.snd == some false,
      fun f g => { Eff.none with outs := [{ Out.std f g nx 0 with pred := false }] }⟩], k.meets := all_meet (by decide +kernel)
theorem witness_FloatArithmetic : ∀ k ∈ [
    computes (.fadd (q 2 .f32) (.d bD)) (shapeDI (q 2 .f32) (.d bD) 3) (fun _ g => aluFadd .f32 (g.op 0) (g.op 1)),
    computes (.fsub (q 2 .f32) (.d bD)) (shapeDI (q 2 .f32) (.d bD) 3) (fun _ g => aluFsub .f32 (g.op 0) (g.op 1)),
    computes (.fmul (q 2 .f32) (.d bD)) (shapeDI (q 2 .f32) (.d bD) 3) (fun _ g => aluFmul .f32 (g.op 0) (g.op 1)),
    computes (.fmin (q 2 .f32) (.d bD)) (shapeDI (q 2 .f32) (.d bD) 1) (fun _ g => aluFmin .f32 (g.op 0) (g.op 1)),
    computes (.fmax (q 2 .f32) (.d bD)) (shapeDI (q 2 .f32) (.d bD) 1) (fun _ g => aluFmax .f32 (g.op 0) (g.op 1)),
    computes (.fscale (q 2 .f32) (.d bD)) (shapeDI (q 2 .f32) (.d bD) 2) (fun _ g => aluFscale .f32 (g.op 0) (g.op 1)),
    computes (.fcmp (q 2 .f32) (bI 2)) (shapeI (q 2 .f32) (bI 2) 1) (fun _ g => aluFcmp .f32 2 (g.op 0) (g.op 1)),
    computesFloat 3 .ffma 4 false (fun t o => aluFfma t (o 0) (o 1) (o 2)), computesFloat 3 .fdot2 4 false (fun t o => aluFdot2 t (o 0) (o 1) (o 2)),
    computesFloat 1 .fabs 1 false (fun t o => aluFabs t (o 0)), computesFloat 1 .fneg 1 false (fun t o => aluFneg t (o 0)),
    computesFloat 1 .fclass 1 false (fun t o => aluFclass t (o 0)), computesFloat 1 .frcp 8 true (fun t o => aluFrcp t (o 0)),
    computesFloat 1 .frsq 8 true (fun t o => aluFrsq t (o 0)), computesFloat 1 .fexp2 10 true (fun t o => aluFexp2 t (o 0)),
    computesFloat 1 .flog2 10 true (fun t o => aluFlog2 t (o 0)), computesFloat 1 .fsqrt 12 true (fun t o => aluFsqrt t (o 0))],
    k.meets := all_meet (by decide +kernel)
theorem witness_Conversions : ∀ k ∈ [
    draws .fround (q 1 .f32) 4 4 1 (fun b g rs => aluFround .f32 (immBits b.imm 0 3) rs (g.op 0)),
    draws .fcvt (q 1 .f32) 0x43 4 (convLanes .f32 (fieldTy (bI 0x43))) (fun b g rs =>
      aluConvert .f32 (fieldTy b) (immBits b.imm 4 3) (immBits b.imm 7 1 == 1) rs (g.op 0)),
    draws .ftoi (q 1 .f32) 0 0 (convLanes .f32 (fieldTy (bI 0))) (fun b g rs =>
      aluConvert .f32 (fieldTy b) (immBits b.imm 4 3) (immBits b.imm 7 1 == 1) rs (g.op 0)),
    draws .itof (q 1 .i32) 2 0 (convLanes .i32 (fieldTy (bI 2))) (fun b g rs => aluConvert .i32 (fieldTy b) (immBits b.imm 4 3) false rs (g.op 0)),
    draws .qpack (q 2 .f32) 5 0 1 (fun b g rs =>
      aluQpack (fieldTy b) (immBits b.imm 4 3) (immBits b.imm 7 1 == 1) (rs.getD 0 0) (g.op 0) (g.op 1)),
    computes (.qunpk (q 1 .e4m3x4) (bI 0x12)) (shapeI (q 1 .e4m3x4) (bI 0x12) 1) (fun _ g => aluQunpk .e4m3x4 (fieldTy (bI 0x12)) 1 (g.op 0)),
    ⟨benchOf (.seed (q 1 .i32) bD), shapeD (q 1 .i32) bD 1, byMode (shapeD (q 1 .i32) bD 1), always, fun f g =>
      { valueEff f g (toAll (shapeD (q 1 .i32) bD 1) (g.op 0)) Flag.none with rnd := if g.live then some (if g.op 0 = 0 then 1 else g.op 0) else none }⟩],
    k.meets := all_meet (by decide +kernel)

/-- A loan whose image says where handler 0 stands: in a loop at depth 1 whose iteration 0 is in flight. -/
def inLoop (l : Loan) : Loan :=
  { l with
    image := { l.image with hinfo := [(0, ⟨1, [1], 0, 0, 0, 1, [4]⟩)], loops := [(1, ⟨4, 1, 0, false, [0]⟩)], conts := [(3, ⟨nx, 0⟩), (4, ⟨nx, 0⟩)] }
    flights := [⟨1, 1, [0], [], false, [], []⟩] }
/-- A firing's case on the bench, at a state of its own. -/
def onBench (s : State) (sh : State → Shape) (cond : FireCtx → Got → Bool) (eff : FireCtx → Got → Eff) : Case := ⟨s, sh s, byMode (sh s), cond, eff⟩
/-- A shape that depends on where the handler stands. -/
def shapeFor (k : FireCtx → Shape) (s : State) : Shape := match fireCtx? s with | some f => k f | none => shapeD (q 0 .i32) bD 0

theorem witness_MovesAndStreams : ∀ k ∈ [
    computesD 1 .i32 .mov 1 (fun _ o => o 0), computesD 3 .i32 .sel 1 (fun _ o => if o 0 ≠ 0 then o 1 else o 2),
    computesI (q 1 .i32) 5 .movi 1 (fun _ b _ => signExtend32 20 b.imm.toNat),
    computesI (tr .i32) 5 .const 1 (fun _ b _ => signExtend32 20 b.imm.toNat),
    computesI (q 1 .b32) 5 .movhi 1 (fun _ b o => (b.imm.setWidth 32 <<< 12) ||| (o 0 &&& 0xFFF)),
    onBench (benchOf (.sink (q 1 .i32) ⟨.sink, .dest .sink⟩)) (fun _ => { shapeD (q 1 .i32) ⟨.sink, .dest .sink⟩ 1 with eosTo := [], dests := [] }) always
      (fun _ _ => Eff.none),
    onBench (benchOf (.getw (q 1 .i32) (bI 3))) (fun _ => shapeI (q 1 .i32) (bI 3) 1) always (fun f g =>
      valueEff f g [(nx, AMap.get (f.e.active f.ctx).w 0 3)] Flag.none),
    onBench (benchOf (.setw (q 1 .i32) (bI 3))) (fun _ => shapeI (q 1 .i32) (bI 3) 1) always (fun f g =>
      { valueEff f g [(nx, g.op 0)] Flag.none with wW := if g.live then [(3, g.op 0)] else [] }),
    onBench (benchOf (.live (q 2 .i32) bD)) (fun _ => shapeD (q 2 .i32) bD 1) live (fun f g =>
      { Eff.none with outs := (stdOuts f g (toAll (shapeD (q 2 .i32) bD 1) (g.op 1))).map (fun o => { o with pred := g.op 0 != 0 }) }),
    onBench (benchOf (.islive (q 1 .i32) bD)) (fun _ => shapeD (q 1 .i32) bD 1) always (fun f g =>
      { Eff.none with outs := stdOuts f g (toAll (shapeD (q 1 .i32) bD 1) (if g.live then 1 else 0)) }),
    onBench (benchOf (.count (q 1 .i32) (bI 3)) [5]) (fun _ => shapeI (q 1 .i32) (bI 3) 1) always (fun f g => streamEff f g (q 1 .i32) (bI 3) id),
    onBench (benchOf (.stride (q 2 .i32) (bI 0xB)) [5, 2]) (fun _ => shapeI (q 2 .i32) (bI 0xB) 1) always (fun f g =>
      streamEff f g (q 2 .i32) (bI 0xB) (fun k => k * g.op 1))], k.meets := all_meet (by decide +kernel)

theorem witness_SteeringAndMerging : ∀ k ∈ [
    onBench (benchOf (.steer (q 2 .i32) bD) [0, 9]) (fun _ => { shapeD (q 2 .i32) bD 1 with eosTo := (shapeD (q 2 .i32) bD 1).dests }) live (fun f g =>
      { Eff.none with outs := [{ Out.std f g (if g.op 0 != 0 then bD.d0 else (dest1Of bD).getD .sink) (g.op 1) with
        cont := contB g, taken := g.op 0 != 0 }] }),
    onBench (benchOf (.steerx (q 2 .i32) ⟨.sink, 0x43⟩) [1, 9] inLoop) (fun _ =>
      { shapeI (q 2 .i32) ⟨.sink, 0x43⟩ 1 with eosTo := (List.range 2).map (steerxArm ⟨.sink, 0x43⟩), dests := [] })
      (fun _ g => g.live && decide ((g.op 0).toNat ≤ 1)) (fun f g =>
      { Eff.none with outs := [{ Out.std f g (steerxArm ⟨.sink, 0x43⟩ (g.op 0).toNat) (g.op 1) with cont := contB g, taken := g.op 0 == 0 }] }),
    ⟨benchOf (.merge (q 2 .i32) bD), shapeD (q 2 .i32) bD 1, gatherMerge, always, mergeEff (shapeD (q 2 .i32) bD 1)⟩,
    ⟨benchOf (.mergeo (q 2 .i32) bD) [5] inLoop, shapeD (q 2 .i32) bD 1, gatherMergeo, always, mergeEff (shapeD (q 2 .i32) bD 1)⟩,
    computesD 2 .i32 .gate 1 (fun _ o => o 0),
    computesI (tr .i32) 0xFFFFF .prime 1 (fun _ b _ => signExtend32 20 b.imm.toNat)], k.meets := all_meet (by decide +kernel)

/-- The operand that enters a loop. -/
def entering (g : Got) : QEntry := match g.ops with | (_, q) :: _ => q | [] => mkEntry 0 0 .data false 0 0 g.tag
/-- The tag that `LOOPIN` gives. -/
def loopTag (f : FireCtx) (g : Got) : Tag := (applyTagop .keep (f.info.depth + 1) true (loopinTag f.info.depth g.port g.tag)).getD g.tag
/-- A loan whose image says that handler 0 is a `LOOPIN` at depth 0. -/
def atLoop (l : Loan) : Loan := { l with image := { l.image with hinfo := [(0, ⟨0, [], 0, 1, 0, 0, []⟩)], loops := [(1, ⟨11, 1, 0, false, []⟩)] } }
/-- `LOOPIN`'s case with an operand at port `p`. -/
def loopin (p : Nat) : Case :=
  ⟨withPlane (benchOf (.loopin (q 2 .i32) (bI 11)) [] atLoop) ⟨[(p, [tok 5])], [], some (1, 0)⟩, { shapeI (q 2 .i32) (bI 11) 1 with ports := [0, 1] },
    gatherLoopin .keep 11, fun f g => applyTagop .keep (f.info.depth + 1) true (loopinTag f.info.depth g.port g.tag) == some (loopTag f g) &&
      !(g.port == 1 && f.l.entered f.info.own f.info.depth f.hkey (loopTag f g)) && !f.l.logFull f.info.own f.info.depth (loopTag f g) && g.ops != [],
    fun f g =>
      let q := entering g
      let v := if g.live then q.operand else 0
      { Eff.none with
        outs := [⟨nx, v, g.live, .data, g.cont, loopinTag f.info.depth g.port g.tag, f.info.depth + 1, true, false, 0, []⟩]
        loan := some (f.l.enterLoop f.info.own f.info.depth f.hkey (loopTag f g) { q with tag := loopTag f g, operand := v, pred := g.live }) }⟩

theorem witness_Loops : ∀ k ∈ [loopin 0, loopin 1,
    onBench (benchOf (.next (q 1 .i32) bD) [5] inLoop) (fun _ => shapeD (q 1 .i32) bD 1) always (fun f g =>
      let e := valueEff f g (toAll (shapeD (q 1 .i32) bD 1) (g.op 0)) Flag.none
      { e with outs := e.outs.map (fun o => { o with tag := g.tag.setIt (f.info.depth - 1) (g.tag.it (f.info.depth - 1) + 1) }) }),
    onBench (benchOf (.loopout (q 1 .i32) bD) [5] inLoop) (fun _ => shapeD (q 1 .i32) bD 1) always (fun f g =>
      let e := valueEff f g (toAll (shapeD (q 1 .i32) bD 1) (g.op 0)) Flag.none
      { e with outs := e.outs.map (fun o => { o with tag := g.tag.setIt (f.info.depth - 1) 0, depth := f.info.depth - 1 }) }),
    onBench (benchOf (.bound (q 1 .i32) (bI 4)) [5] inLoop) (fun _ => shapeI (q 1 .i32) (bI 4) 1) (fun f g =>
      oldestIter (f.l.inflight f.info.loop g.tag.frame.toNat (g.tag.its (f.info.depth - 1))) == some 0 &&
      (f.l.inflight f.info.loop g.tag.frame.toNat (g.tag.its (f.info.depth - 1))).contains (g.tag.it (f.info.depth - 1)).toNat &&
      decide ((g.tag.it (f.info.depth - 1) - BitVec.ofNat 7 0).toNat < 4)) (fun f g => valueEff f g [(nx, g.op 0)] Flag.none)],
    k.meets := all_meet (by decide +kernel)

/-- A loan with a frame class and continuations, in which frame 1 was called. -/
def calling (l : Loan) : Loan :=
  { l with
    storeSize := 65536
    image := { l.image with classes := [(1, ⟨4, 0⟩)], conts := [(7, ⟨nx, 0⟩)], exits := [(2, ⟨true, 0⟩)] }
    frames := l.frames.map (fun (p : Nat × Frame) => (p.1, { p.2 with first := false, rcont := 7, caller := Tag.initial 1 })) }
/-- A `CALLF` of frame class 1 that returns through continuation 7. -/
def bCall : FI := ⟨.element 1 0 0, 0x47⟩
/-- Its new frame. -/
def newFrame (f : FireCtx) (g : Got) : Nat × Loan :=
  (f.l.allocFrame f.img (f.l.ownImage f.ctx) 1 (match f.l.running f.ctx with | some (a, _) => a | none => 0) false g.tag 7
    (handlerIters f.img f.hkey g.tag) 0).getD (0, f.l)

theorem witness_FramesAndTags : ∀ k ∈ [
    onBench (benchOf (.callf (q 2 .i32) bCall) [5, 6] calling) (shapeFor (fun f =>
      { shapeI (q 2 .i32) bCall (6 + f.l.hops f.b) with eosTo := [], dests := [.cont 7] })) (fun f g =>
        g.live && applyTagop .keep f.info.depth true g.tag == some g.tag &&
        f.l.allocFrame f.img (f.l.ownImage f.ctx) (immBits bCall.imm 6 4) (match f.l.running f.ctx with | some (a, _) => a | none => 0) false g.tag
          (bCall.imm.extractLsb' 0 6) (handlerIters f.img f.hkey g.tag) 0 == some (newFrame f g)) (fun f g =>
      { Eff.none with outs := callfOuts bCall 2 (newFrame f g).1 g, loan := some ((newFrame f g).2.addPend (handlerIters f.img f.hkey g.tag) 1) }),
    onBench (benchOf (.retf (q 1 .i32) ⟨.sink, .dest .sink⟩) [5] calling) (shapeFor (fun f =>
      { shapeD (q 1 .i32) ⟨.sink, .dest .sink⟩ (6 + f.l.hops f.b) with eosTo := [], dests := [] })) (fun f g =>
        match AMap.find f.l.frames g.tag.frame.toNat with | some fr => !fr.released && !fr.first | none => false) (fun f g =>
      { Eff.none with outs := [{ Out.std f g (.cont 7) (g.op 0) with tag := Tag.initial 1 }] }),
    onBench (benchOf (.tagrd (q 1 .i32) bD)) (fun _ => shapeD (q 1 .i32) bD 1) always (fun f g => valueEff f g
      ((nx, (Tag.bits g.tag).extractLsb' 32 32) :: (dest1Of bD).toList.map (fun d => (d, (Tag.bits g.tag).extractLsb' 0 32))) Flag.none),
    onBench (benchOf (.tagwr (q 2 .i32) bD) [5, 0x20000007]) (fun _ => shapeD (q 2 .i32) bD 1) (fun f g => g.live &&
        (stdOuts f g (toAll (shapeD (q 2 .i32) bD 1) (g.op 0))).all (fun o => applyTagop .keep f.info.depth o.taken o.tag == some o.tag &&
          tagwrTag (g.op 1) o.tag == some (o.tag.setIt 1 7))) (fun f g =>
      { Eff.none with outs := (stdOuts f g (toAll (shapeD (q 2 .i32) bD 1) (g.op 0))).map (fun o => { o with tag := o.tag.setIt 1 7, raw := true }) }),
    onBench (benchOf (.exit (q 1 .i32) ⟨.exit 2, .dest .sink⟩) [5] calling) (fun _ =>
      { shapeD (q 1 .i32) ⟨.exit 2, .dest .sink⟩ 1 with eosTo := [], dests := [] }) always (fun f g =>
      { Eff.none with outs := if g.live then [{ Out.std f g (.exit 2) 0 with kind := .exit, raw := true }] else [] }),
    onBench (benchOf (.ends (q 1 .i32) bD)) (fun _ => { shapeD (q 1 .i32) bD 1 with eosTo := (shapeD (q 1 .i32) bD 1).dests }) always (fun f g =>
      { Eff.none with outs := (stdOuts f g (toAll (shapeD (q 1 .i32) bD 1) (g.op 0))).map (fun o => { o with kind := .eos, pred := g.live }) })],
    k.meets := all_meet (by decide +kernel)

/-- An accumulator instruction's case. -/
def accumulates (t : Ty) (i : Hdr → FI → Instr) (lat : Nat) (op : W32 → W32 → W32 × Flags) : Case :=
  onBench (benchOf (i (q 1 t) (bI 5)) [3]) (fun _ => { shapeI (q 1 t) (bI 5) lat with accs := [5] }) always (fun f g =>
    let r := op (AMap.get f.x.acc 0 5) (g.op 0)
    { valueEff f g [(nx, r.1)] r.2 with accW := if g.live then [(5, r.1)] else [] })
/-- `ORDRED`'s bench: a firing that the match unit has released. -/
def ordered : State :=
  (benchOf (.ordred { q 1 .f32 with mode := .frame } (bI 5)) [] inLoop).updEl 0 (fun e => { e with ready := [⟨0, 0, [(0, (tok 0x3F800000).e)], Tag.initial 1⟩] })

theorem witness_AccumulatorsAndTournaments : ∀ k ∈ [
    accumulates .f32 .accadd 3 (aluFadd .f32), accumulates .i32 .accadd 1 (fun x a => (x + a, Flag.none)), accumulates .f32 .accmax 1 (aluFmax .f32),
    accumulates .i32 .accmax 1 (fun x a => (aluImax .i32 x a, Flag.none)), accumulates .f32 .accscl 3 (aluFmul .f32),
    accumulates .i32 .accscl 3 (fun x a => (x * a, Flag.none)),
    onBench (benchOf (.accrd (q 1 .i32) (bI 0x83))) (fun _ => { shapeI (q 1 .i32) (bI 0x83) 1 with accs := accRun (bI 0x83) }) always (fun f g =>
      { Eff.none with outs := (accRun (bI 0x83)).zipIdx.map (fun p =>
        { (if g.live then Out.std f g nx (AMap.get f.x.acc 0 p.1) else Out.dead f g nx) with delay := p.2 }) }),
    onBench (benchOf (.accz (q 1 .i32) (bI 0x83))) (fun _ => { shapeI (q 1 .i32) (bI 0x83) 1 with accs := accRun (bI 0x83), accOnly := true }) always
      (fun f g => { valueEff f g [(nx, g.op 0)] Flag.none with accW := if g.live then (accRun (bI 0x83)).map (fun n => (n, 0)) else [] }),
    ⟨ordered, { shapeI { q 1 .f32 with mode := .frame } (bI 5) 3 with accs := [5] },
      byMode { shapeI { q 1 .f32 with mode := .frame } (bI 5) 3 with accs := [5] }, always, fun f g =>
      let r := aluFadd .f32 (AMap.get f.x.acc 0 5) (g.op 0)
      { valueEff f g [(nx, r.1)] r.2 with accW := if g.live then [(5, r.1)] else [] }⟩,
    onBench (benchOf (.xacc (q 1 .f32) (bI 5)) [0x3F800000]) (fun _ => { shapeI (q 1 .f32) (bI 5) 2 with accs := groupAccs 5 }) always (fun f g =>
      let r := (List.range 1).foldl (fun (p : Int × Flags) i =>
        ((xaccAdd p.1 (laneFV .f32 (g.op 0) i)).1, p.2 ||| (xaccAdd p.1 (laneFV .f32 (g.op 0) i)).2))
        (groupInt ((groupAccs 5).map (fun n => AMap.get f.x.acc 0 n)), Flag.none)
      { valueEff f g [(nx, g.op 0)] r.2 with accW := if g.live then (groupAccs 5).zip (groupWords r.1) else [] }),
    onBench (benchOf (.xrnd (q 1 .f32) (bI 0x205))) (fun _ => { shapeI (q 1 .f32) (bI 0x205) 3 with accs := groupAccs 5 }) always (fun f g =>
      let d := randomDraws 1 f.e.random
      let r := fp32.write 4 (d.1.getD 0 0) false (ofScaled (groupInt ((groupAccs 5).map (fun n => AMap.get f.x.acc 0 n))) (-128))
      { valueEff f g [(nx, BitVec.ofNat 32 r.1)] r.2 with rnd := if g.live then some d.2 else none }),
    onBench (benchOf (.cfwd (q 3 .f32) bD) [0x3F800000, 1, 0x40000000, 2]) (fun _ => shapeTournament (q 3 .f32) bD 1) always (fun f g =>
      tournamentEff f g bD (g.op 0) (g.op 2)),
    onBench (benchOf (.cfwdx (q 3 .f32) bD) [0x3F800000, 1, 0x40000000, 255]) (fun _ => shapeTournament (q 3 .f32) bD 4)
      (fun _ g => !g.live || (decide ((g.op 1).toNat < 256) && decide ((g.op 3).toNat < 256))) (fun f g =>
      tournamentEff f g bD (if excluded f g.tag.frame.toNat (g.op 1) then 0xFF800000#32 else g.op 0)
        (if excluded f g.tag.frame.toNat (g.op 3) then 0xFF800000#32 else g.op 2))], k.meets := all_meet (by decide +kernel)

/-- A tile window of 64 KiB, and a small one. -/
def win (size : Nat) : Window := ⟨false, 0, 2, .i32, 6, 0, size⟩
/-- A loan whose image has window 2, a multicast group, an accord group and a decant template. -/
def withWindow (l : Loan) : Loan :=
  { l with image := { l.image with
      windows := [(2, win 65536)], mcasts := [(3, ⟨true, [0, 1]⟩)]
      templates := [(0, ⟨0, false, true, 0, 2, 2, 0, 0, nx, 0, 0, 1, 0, 0, 256, 0, 0, 256⟩)] } }
/-- A memory instruction on the bench: its window's number is 2. -/
def requests (i : Hdr → FM → Instr) (n : BitVec 2) (ops : List W32) (kind : AccKind) (ask : FireCtx → Got → Window → MemAsk)
    (accs : List Nat := []) (sh : Shape → Shape := id) : Case :=
  let h := q n .i32
  let s := benchOf (i h bM) ops withWindow
  let sh := memShape s bM (sh (shapeM h bM accs))
  ⟨s, sh, byMode sh, fun f g => f.l.windowAt f.ctx 2 == some (win 65536) && applyTagop .keep f.info.depth true g.tag == some g.tag &&
    (!g.live || (!(ask f g (win 65536)).illegal && (ask f g (win 65536)).fault.isNone)),
    fun f g => requestEff f g h bM (win 65536) kind g.tag (ask f g (win 65536)) false⟩

theorem witness_MemoryRequests : ∀ k ∈ [
    requests .ld 1 [64] .word (fun _ g w => askAt .word .load false g w),
    requests .st 2 [65532, 5] .word (fun _ g w => askAt .word (.store [g.op 1] 0xFF) false g w),
    requests .lds 1 [64] .line (fun _ g w => askAt .line .loadLine false g w),
    requests .sts 2 [64, 0xFF] .line (fun f g w =>
      askAt .line (.store ((List.range 8).map (fun i => AMap.get (f.e.active f.ctx).w 0 i)) ((g.op 1).extractLsb' 0 8)) ((g.op 1).extractLsb' 8 24 != 0) g w),
    requests .ldq 1 [256] .block (fun _ g w => askAt .block .loadBlock false g w),
    requests .stq 2 [256, 3] .block (fun f g w =>
      askAt .block (.store ((List.range 64).map (fun i => AMap.get f.x.acc 0 i)) ((g.op 1).extractLsb' 0 8)) ((g.op 1).extractLsb' 8 24 != 0) g w)
      (List.range 64),
    requests .pref 1 [64] .word (fun _ g _ => ⟨.pref, (g.op 0).toNat, false, [], []⟩),
    requests .slog 3 [1, 2, 3] .word (fun f g w =>
      ⟨.slog [g.op 0, g.op 1, g.op 2, BitVec.ofNat 32 (slogK f g + if (g.op 1).extractLsb' 16 16 = 0xFFFF then 8 else 0)],
        ((g.op 0).toNat * 8 + slogK f g) * 16, decide (7 < slogK f g), [], [(((g.op 0).toNat * 8 + slogK f g) * 16, 16, w.size)]⟩),
    requests .sread 1 [3] .word (fun _ g w => ⟨.sread, (g.op 0).toNat * 16, false, [], [((g.op 0).toNat * 16, 16, w.size)]⟩) []
      (fun sh => { sh with eosTo := sreadDests bM, dests := sreadDests bM }),
    requests .sendc 2 [0, 256] .block (fun _ g w => sendAsk g w 0 false),
    requests .sendm 3 [0, 256, 0x4003] .block (fun f g w => sendAsk g w (g.op 2) (cellWordBad f.img (g.op 2))),
    requests .creq 2 [0, 0x200100] .block (fun f g w =>
      let doff := ((g.op 1).extractLsb' 0 20).toNat
      let dw := f.l.windowAt f.ctx ((g.op 1).extractLsb' 20 6).toNat
      ⟨.creq doff ((g.op 1).extractLsb' 20 6).toNat, (g.op 0).toNat, (g.op 1).extractLsb' 26 6 != 0 || (match dw with | some v => v.virt | none => true),
        [((g.op 0).toNat, 256), (doff, 256)], [((g.op 0).toNat, 256, w.size), (doff, 256, match dw with | some v => v.size | none => 0)]⟩),
    requests .dlay 1 [64] .line (fun _ g w => askAt .line (.dlay false) false g w) [] (fun sh => { sh with marker := some false })] ++
    [(Instr.aadd, 0x88#8), (.afadd, 0x89#8), (.amin, 0x8A#8), (.amax, 0x8B#8), (.axchg, 0x8C#8), (.acas, 0x8D#8), (.abit, 0x8E#8), (.aincb, 0x8F#8)].map
      (fun p => requests p.1 (if p.2 = 0x8D ∨ p.2 = 0x8F then 3 else 2) [64, 1, 2] .word (fun _ g w =>
        askAt .word (.atomic p.2 .i32 (g.op 1) (g.op 2)) false g w)),
    k.meets := all_meet (by decide +kernel)

/-- A memory instruction whose offset is misaligned or outside its window. -/
def faults (i : Hdr → FM → Instr) (n : BitVec 2) (ops : List W32) (code off : Nat) (ask : FireCtx → Got → Window → MemAsk) : Case :=
  let h := q n .i32
  let s := benchOf (i h bM) ops withWindow
  let sh := memShape s bM (shapeM h bM [])
  ⟨s, sh, byMode sh, fun f g => f.l.windowAt f.ctx 2 == some (win 65536) && applyTagop .keep f.info.depth true g.tag == some g.tag && g.live &&
    !(ask f g (win 65536)).illegal && (ask f g (win 65536)).fault == some (code, off), fun _ _ => { Eff.none with ownPost := true }⟩

theorem witness_MemoryFaultsAtElement : ∀ k ∈ [
    faults .ld 1 [66] fALIGN 66 (fun _ g w => askAt .word .load false g w),
    faults .ld 1 [65536] fWINDOW 65536 (fun _ g w => askAt .word .load false g w),
    faults .st 2 [66, 1] fALIGN 66 (fun _ g w => askAt .word (.store [g.op 1] 0xFF) false g w),
    faults .lds 1 [65536] fWINDOW 65536 (fun _ g w => askAt .line .loadLine false g w),
    faults .ldq 1 [64] fALIGN 64 (fun _ g w => askAt .block .loadBlock false g w),
    faults .sendc 2 [0, 65536] fWINDOW 65536 (fun _ g w => sendAsk g w 0 false)], k.meets := all_meet (by decide +kernel)

/-- A format Y body. -/
def bY (scode : BitVec 8) (sarg : BitVec 12) : FY := ⟨scode, sarg, nx⟩
/-- An instruction of format Y on the bench, whose shape depends on where it stands. -/
def system (i : Hdr → FY → Instr) (n : BitVec 2) (b : FY) (ops : List W32) (lat : State → FireCtx → Nat) (cond : State → FireCtx → Got → Bool)
    (eff : State → FireCtx → Got → Eff) (l : Loan → Loan := withWindow) (more : Shape → Shape := id) : Case :=
  let s := benchOf (i (q n .i32) b) ops l
  let sh := shapeFor (fun f => more (shapeY (q n .i32) b (lat s f))) s
  ⟨s, sh, byMode sh, cond s, eff s⟩
/-- Operand `a` to the destination. -/
def passA (_ : State) (f : FireCtx) (g : Got) : Eff := valueEff f g [(nx, g.op 0)] Flag.none
@[inherit_doc passA] def nothing (_ : State) (_ : FireCtx) (_ : Got) : Eff := Eff.none
/-- A later output that has a tag and a place to go. -/
def lateOk (f : FireCtx) (g : Got) : Bool := ((Out.std f g nx 0).finalTag .keep).isSome && !(Out.std f g nx 0).badTarget f

theorem witness_FencesAndDropCounters : ∀ k ∈ [
    system .fence 1 (bY 0x24 0) [5] (fun s f => fenceLatency s f (shapeY (q 1 .i32) (bY 0x24 0) 1) 4 4) (fun _ f g => !g.live || f.releaseReady g) passA,
    system .fence 1 (bY 0x02 0) [5] (fun s f => fenceLatency s f (shapeY (q 1 .i32) (bY 0x02 0) 1) 2 0) (fun _ _ _ => true) passA,
    system .cgrp 1 (bY 1 0) [0x103] (fun _ f => 2 * f.l.hops f.b + 2) (fun _ f g => g.live && (g.op 0).toNat / 8192 == 0 &&
        (match AMap.find f.img.mcasts ((g.op 0).toNat % 256) with | some x => decide ((g.op 0).toNat / 256 % 32 < x.members.length) | none => false))
      (fun _ f g => { valueEff f g [(nx, AMap.get f.l.drops 0 (dropKey 3 1))] Flag.none with
        loan := some { f.l with drops := AMap.del f.l.drops (dropKey 3 1) } })], k.meets := all_meet (by decide +kernel)

/-- The element's tile in matrix mode, with scales from elements. -/
def matrixTile (t : Ty) (scl : Bool) (s : State) : State :=
  s.updBay 0 (fun b => { b with tiles := [(tileKey 0 0, ⟨.matrix, ⟨t, t, scl, scl⟩, []⟩)] })
/-- Format X with a drain target, over an image in which it is there. -/
def bX (shape : BitVec 20) : FX := ⟨true, false, false, false, 32, 1, shape⟩
/-- A matrix instruction on the bench. -/
def matrix (i : Instr) (sh : State → Shape) (prep : State → State) (cond : State → FireCtx → Got → Bool) (eff : FireCtx → Got → Eff) : Case :=
  let s := prep (benchOf i [5, 5] withWindow)
  ⟨s, sh s, byMode (sh s), cond s, eff⟩
/-- The element's tile is in matrix mode and no run is under way. -/
def atRest (s : State) (f : FireCtx) (g : Got) : Bool := g.live && f.x.run.isNone && (s.fireTile f).mode == .matrix
/-- A bay that holds a ready accord of one cell for handler 0. -/
def withAccord (s : State) : State := s.updBay 0 (fun b => { b with readyAccords := [⟨0, 0, 0, Tag.initial 1, [(0, { Cell.blank with live := 1 })], []⟩] })

theorem witness_MatrixInstructions : ∀ k ∈ [
    matrix (.mxcfg (q 1 .i8x4) (bI 8)) (fun _ => shapeI (q 1 .i8x4) (bI 8) 1) id (fun s f g => g.live && !s.mxcfgBlocked f && lateOk f g &&
      !(AMap.get (s.bay (f.l.bayKey f.b)).tiles Tile.empty (tileKey (tileOfIndex f.index) f.ctx)).counted.any (fun c => c.el == f.key))
      (fun _ _ => Eff.none),
    matrix (.mxstep (q 1 .i32) (bX 3)) (fun s => shapeX (q 1 .i32) (bX 3) (focusImage s) 1) (matrixTile .i8x4 false) (fun s f g =>
      atRest s f g && !((bX 3).f && (s.fireTile f).fields.aty == .i8x4) && !((bX 3).s && !(s.fireTile f).fields.scl) &&
      (applyTagop .keep f.info.depth true g.tag).isSome) (fun _ _ => Eff.none),
    matrix (.mxfade (q 1 .f32) (bI 0)) (fun _ => shapeI (q 1 .f32) (bI 0) 1) id (fun _ f g => g.live && f.x.run.isNone)
      (fun f g => valueEff f g [(nx, g.op 0)] Flag.none),
    matrix (.mxpass (q 1 .i32) (bI 0x401)) (fun _ => shapeI (q 1 .i32) (bI 0x401) 1) id (fun _ f g => g.live && f.x.run.isNone)
      (fun f g => valueEff f g [(nx, g.op 0)] Flag.none),
    matrix (.mxscl (q 1 .i32) (bX 1)) (fun s => shapeX (q 1 .i32) (bX 1) (focusImage s) 1) (matrixTile .e4m3x4 true) (fun s f g =>
      g.live && (s.fireTile f).mode == .matrix && (s.fireTile f).fields.scl && (s.fireTile f).fields.ssrc &&
      decide ((if (bX 1).shape.getLsbD 0 then f.e.scB else f.e.scA).length < 2)) (fun f g => valueEff f g [(drainDest (bX 1) f.img, g.op 0)] Flag.none),
    matrix (.mxscl { q 1 .i32 with mode := .accord } (bX 0)) (fun s => shapeX { q 1 .i32 with mode := .accord } (bX 0) (focusImage s) 1)
      (fun s => withAccord (matrixTile .e4m3x4 true s)) (fun s f g =>
      g.live && (s.fireTile f).mode == .matrix && (s.fireTile f).fields.scl && (s.fireTile f).fields.ssrc &&
      (f.edge false).all (fun p => decide ((s.el p.2).scA.length + g.cells.length ≤ 2)) &&
      (f.edge true).all (fun p => decide ((s.el p.2).scB.length + g.cells.length ≤ 2))) (fun f g => valueEff f g [(drainDest (bX 0) f.img, 0)] Flag.none),
    matrix (.mxdrn (q 1 .f32) (bX 0xC2)) (fun s => { shapeX (q 1 .f32) (bX 0xC2) (focusImage s) 2 with accs := [2, 3, 4, 5] }) id
      (fun s f _ => !s.captures (f.key / 256) f.ctx) (fun f g =>
      let r := drainWords .f32 (fun n => AMap.get f.x.acc 0 n) 2 4
      { Eff.none with
        outs := r.1.zipIdx.map (fun p =>
          { (if g.live then Out.std f g (drainDest (bX 0xC2) f.img) p.1 else Out.dead f g (drainDest (bX 0xC2) f.img)) with delay := p.2 })
        flags := if g.live then r.2 else Flag.none }),
    requests .mxldacc 1 [256] .block (fun _ g w => askAt .block .mxload false g w) (List.range 64) (fun sh => { sh with accOnly := true })],
    k.meets := all_meet (by decide +kernel)

theorem witness_DecantCommands : ∀ k ∈ [
    system .darm 1 (bY 0 0) [1] (fun _ f => f.commandRoute (bY 0 0) + 1) (fun _ _ _ => true) passA,
    system .dcan 1 (bY 0x10 0) [1] (fun _ f => f.commandRoute (bY 0x10 0) + 1) (fun _ f g => g.live && lateOk f g) nothing,
    system .dstat 1 (bY 0 0) [1] (fun _ f => f.commandRoute (bY 0 0) + 1) (fun _ f g => g.live && lateOk f g) nothing,
    system .dfire 1 (bY 0 0) [1] (fun _ _ => 1) (fun s f g => g.live && (match f.template (bY 0 0) with
      | some (t, m) => !((s.bay (f.templateBay m)).template (templKey f.ctx t)).arm && decide ((s.bay (f.templateBay m)).fireQueue.length < 16)
      | none => false)) nothing withWindow (fun sh => { sh with eosTo := [], dests := [] })], k.meets := all_meet (by decide +kernel)

theorem witness_TimelinesAndBarriers : ∀ k ∈ [
    system .tlinc 2 (bY 0 5) [3, 1] (fun s _ => focusCycles s) (fun _ f g => g.live && tlIndex (bY 0 5) (g.op 1) == some 6 && f.releaseReady g)
      (fun s f g => valueEff f g [(nx, BitVec.ofNat 32 (min (s.timeline 6 + (g.op 0).toNat) (2 ^ 64 - 1)))] Flag.none),
    system .tlrd 1 (bY 0 5) [1] (fun s _ => focusCycles s) (fun _ _ g => g.live && tlIndex (bY 0 5) (g.op 0) == some 6)
      (fun s f g => valueEff f g [(nx, halfOf (bY 0 5) (s.timeline 6))] Flag.none),
    system .tlset 2 (bY 0 5) [3, 1] (fun s _ => focusCycles s) (fun _ f g => !g.live || f.releaseReady g) passA,
    system .tlwait 1 (bY 0 5) [3] (fun _ _ => 1) (fun _ f g => g.live && decide (f.l.waits < 64) && lateOk f g) nothing,
    system .launch 1 (bY 0 0) [3] (fun _ _ => 1) (fun s f g => g.live && decide (f.l.launches < 16) && s.hub.freeHolds != 0 && f.releaseReady g &&
      lateOk f g) nothing,
    system .evwatch 3 (bY 0 9) [0x1000, 4, 0] (fun s _ => focusCycles s) (fun _ _ g => !g.live || selectorOk (g.op 0))
      (fun _ f g => valueEff f g [(nx, 9)] Flag.none),
    system .barr 1 (bY 0x11 8) [3] (fun _ _ => 1) (fun s f g => decide (s.wingWaits f.l.die < 64) && lateOk f g) nothing,
    system .stock 1 (bY 0 0) [3] (fun _ _ => 1) (fun _ f g => g.live && lateOk f g) nothing], k.meets := all_meet (by decide +kernel)

/-- The frame of the operand's tag is there and not released. -/
def inFrame (f : FireCtx) (g : Got) : Bool := match AMap.find f.l.frames g.tag.frame.toNat with | some fr => !fr.released | none => false

theorem witness_Traps : ∀ k ∈ [
    system .trap 1 (bY 0 5) [77] (fun _ _ => 1) (fun _ f g => g.live && lateOk f g && inFrame f g) nothing,
    system .brk 1 (bY 0 5) [77] (fun _ _ => 1) (fun _ f g => g.live && lateOk f g && inFrame f g) nothing,
    system .park 1 (bY 0 5) [77] (fun _ _ => 1) (fun s f g => g.live && decide (s.hub.parkList.length < 64) && lateOk f g && inFrame f g) nothing],
    k.meets := all_meet (by decide +kernel)

theorem witness_SystemInstructions : ∀ k ∈ [
    system .prio 1 (bY 4 0) [3] (fun _ _ => 1) (fun _ f g => g.live && !f.l.lock) passA,
    system .fltrd 1 (bY 1 0) [3] (fun _ _ => 1) (fun _ _ _ => true) (fun _ f g => valueEff f g [(nx, f.x.status)] Flag.none),
    system .perfrd 1 (bY 0 2) [3] (fun _ _ => 1) (fun _ _ _ => true) (fun _ f g =>
      valueEff f g [(nx, half64 false (AMap.get f.x.perf 0 2))] Flag.none),
    system .timerd 1 (bY 0 0) [3] (fun _ _ => 1) (fun _ _ _ => true) (fun s f g => valueEff f g [(nx, half64 false (BitVec.ofNat 64 s.cycle))] Flag.none),
    system .cflush 1 (bY 0 0) [3] (fun _ _ => 64) (fun _ _ _ => true) passA,
    system .resume 1 (bY 0 0) [0x10000] (fun s _ => focusCycles s) (fun _ _ g => g.live && !targetBad (g.op 0) true) (fun s f g =>
      valueEff f g [(nx, if (s.resumeTarget (g.op 0)).isSome then 0 else 1)] Flag.none),
    system .scanout 1 (bY 0 0) [0] (fun _ _ => 1) (fun _ f g => g.live && !targetBad (g.op 0) false && lateOk f g) nothing,
    system .scanin 1 (bY 0 0) [0] (fun _ _ => 1) (fun _ f g => g.live && !targetBad (g.op 0) false && lateOk f g) nothing],
    k.meets := all_meet (by decide +kernel)

/-- A loan whose running activation was called from another. -/
def called (l : Loan) : Loan :=
  { l with acts := [(0, ⟨0, 1, some ⟨Tag.initial 1, 0, 7, 1, 1, 1, 0, false, Image.empty, [], 0, 1, []⟩, false, false, [], [], 0⟩),
      (1, ⟨1, 2, none, true, false, [], [], 0⟩)] }
/-- A loan whose image has the continuations of a call. -/
def mayContinue (l : Loan) : Loan := { l with image := { l.image with conts := [(4, ⟨nx, 0⟩)], exits := [(1, ⟨true, 0⟩)] } }

theorem witness_ConfigurationCalls : ∀ k ∈ [
    system .ccall 1 (bY 9 4) [3] (fun _ _ => 1) (fun s f g => g.live && (applyTagop .keep f.info.depth true g.tag).isSome && f.mayCall s.cycle)
      nothing mayContinue,
    let s := withPlane (benchOf (.ccall (q 1 .i32) (bY 9 4)) [] mayContinue)
      ⟨[(0, [{ tok 5 with e := { (tok 5).e with pred := false } }])], [], some (1, 0)⟩
    ⟨s, shapeY (q 1 .i32) (bY 9 4) 1, byMode (shapeY (q 1 .i32) (bY 9 4) 1), fun _ g => g.live == false, fun f g =>
      { Eff.none with outs := [{ Out.dead f g (.cont 4) with delay := 0 }] }⟩,
    system .cret 1 (bY 0 0) [3] (fun _ _ => 1) (fun _ f _ => (match f.l.running f.ctx with | some (_, a) => a.call.isSome | none => false) &&
      !f.l.calling.isSome && !f.l.thaw.isSome) nothing called], k.meets := all_meet (by decide +kernel)

/-! ### Witnesses: the Colophon, the hub and the outside world -/

/-- A word at a Colophon's port. -/
def portWord : PortWord := ⟨5, true, 1, 2, Tag.initial 1, 0⟩
/-- A bay's Colophon with a register, in a device in which a loan holds context 0. -/
def colState (r : W32) (port : List PortWord := []) (pc : Nat := 0) (popped : Option PortWord := none) : State :=
  { (colBench (.emov 1 2) [(1, r)] port).updBay 0 (fun b => { b with colophon := { b.colophon with pc := pc, popped := popped } }) with
    loans := [(1, placedLoan)] }

theorem witness_ColophonArithmetic : (colState 3 [] 1022).col.pc + 1 < 1024 ∧
    (Ty.ofCode 6 = some .e5m2x4 ∧ (6 : BitVec 4).toNat ≤ 6 ∧ (3 : BitVec 3).toNat ≤ 3) ∧ (6 < (7 : BitVec 4).toNat ∨ 3 < (0 : BitVec 3).toNat) ∧
    (6 < (0 : BitVec 4).toNat ∨ 3 < (4 : BitVec 3).toNat) := by decide +kernel
theorem witness_ColophonPort : (colState 3 [portWord]).col.port = portWord :: [] ∧ (colState 3 [portWord]).col.pc + 1 < 1024 ∧
    (colState 3 [] 0 (some portWord)).col.popped = some portWord ∧ (colState 3).col.port = [] := by decide +kernel
theorem witness_ColophonStores : (((colState 0x3FFFF8).col.reg 1).toNat + 4 * (1 : BitVec 14).toNat) % 4 = 0 ∧
    ((colState 0x3FFFF8).col.reg 1).toNat + 4 * (1 : BitVec 14).toNat < 2 ^ 22 ∧
    (((colState 2).col.reg 1).toNat + 4 * (1 : BitVec 14).toNat) % 4 ≠ 0 ∧ 2 ^ 22 ≤ ((colState 0x3FFFF8).col.reg 1).toNat + 4 * (2 : BitVec 14).toNat := by
  decide +kernel
theorem witness_ColophonSignal : loanOn { colState 3 with loans := [] } 0 0 = none ∧
    (loanOn (colState 3 [] 0 (some portWord)) 0 (colState 3 [] 0 (some portWord)).col.cctx.toNat = some (1, placedLoan, 0) ∧
      ((colState 3 [] 0 (some portWord)).bay 0).estores = [] ∧ (colState 3 [] 0 (some portWord)).col.popped = some portWord ∧
      (colState 3 [] 0 (some portWord)).col.pc + 1 < 1024 ∧ AMap.find (colState 3 [] 0 (some portWord)).loans 1 = some placedLoan ∧
      placedLoan.state = .running) ∧
    (((colState 3).updBay 0 (fun b => { b with estores := [(0, 1)] })).bay 0).estores ≠ [] := by decide +kernel
theorem witness_ColophonControl : ((0 : Int) ≤ (colState 3 [] 5).col.pc + (BitVec.ofInt 14 (-5)).toInt ∧
      ((colState 3 [] 5).col.pc + (1018 : BitVec 14).toInt : Int) < 1024 ∧ ((colState 3 [] 5).col.pc + (BitVec.ofInt 14 (-6)).toInt : Int) < 0 ∧
      (1024 : Int) ≤ (colState 3 [] 5).col.pc + (1019 : BitVec 14).toInt) ∧
    ((colState 3).col.reg 1 ≠ 0 ∧ (colState 3).col.reg 1 ≠ 1 ∧ (colState 0).col.reg 1 = 0 ∧ (colState 1).col.reg 1 = 1) ∧
    (0 < (1 : BitVec 7).toNat ∧ (1 : BitVec 7).toNat ≤ (colState 3 [portWord]).col.port.length ∧ (64 : BitVec 7).toNat ≤ 64 ∧
      (colState 3 [portWord]).col.port.length < (2 : BitVec 7).toNat ∧ 64 < (65 : BitVec 7).toNat) := by decide +kernel

/-- A fault record. -/
def record (code : Nat) (kown : Bool) : FaultRec :=
  ⟨.loader, BitVec.ofNat 8 code, kown, true, false, 0, 0, 0, 0x200, Tag.bits (Tag.initial 1), 0, 0, 0, 0, 1, none⟩
/-- The device with a record in the hub's store, handled up to a count. -/
def withRecord (r : FaultRec) (handled : Nat) (log2n : BitVec 5 := 4) : State :=
  up.updHub (fun h => { h with store := [r], handled := handled, fqLog2n := log2n })

theorem witness_HostQueues : up.boot.link = true ∧ up.boot.layout = true ∧ (63 : Nat) < 64 ∧ (15 : Nat) < 16 ∧ up.hub.ringPos = 832 ∧
    (up.updHub (fun h => { h with ringPos := 3 })).hub.ringPos ≠ 832 := by decide +kernel
theorem witness_FaultRing : (up.boot.link = true ∧ up.boot.layout = true) ∧
    ((withRecord (record fTRAP false) 0).hub.unhandled = some (record fTRAP false) ∧ (record fTRAP false).fhs = none ∧ (record fTRAP false).kown = false ∧
      ¬((record fTRAP false).code = 0x0D ∧ (record fTRAP false).loan = 0xFFFF)) ∧
    ((withRecord (record fTRANSLATE true) 0).hub.unhandled = some (record fTRANSLATE true) ∧ (record fTRANSLATE true).kown = true) ∧
    ((withRecord (record fTRAP false) 1).hub.unhandled = none ∧ (withRecord (record fTRAP false) 1).hub.store = [record fTRAP false] ∧
      (withRecord (record fTRAP false) 1).hub.ringTakes = true ∧ (withRecord (record fTRAP false) 1).hub.ringPos = 832 ∧
      (withRecord (record fTRAP false) 1).chunkMoves 0 64 = false ∧ (withRecord (record fTRAP false) 1).hub.timelineHeld = [] ∧
      (withRecord (record fTRAP false) 1).hub.agentWaiting = []) ∧
    (withRecord (record fTRAP false) 1 3).hub.unhandled = none ∧ (withRecord (record fTRAP false) 1 3).hub.ringTakes = false := by decide +kernel
theorem witness_BarRegisters : up.boot.link = true ∧ up.boot.layout = true ∧ (4 ≠ 8 ∨ 0 % 8 ≠ 0) ∧ (8 ≠ 8 ∨ 4 % 8 ≠ 0) ∧ (65535 : Nat) < 65536 := by decide

/-- The device with its timeline store at an address. -/
def withTimelines : State := { up with trans := { up.trans with tlBase := some 0x10000000 } }

/-- An agent's read, and the device in which another waits for the same chunk. -/
def aRead : AgentAccess := ⟨.read 64, 2 ^ 52 - 64, false⟩
@[inherit_doc aRead] def agentsWait : State := up.updHub (fun h => { h with agentWaiting := [(0, aRead)] })

theorem witness_OutsideAccesses : ((2 ^ 52 - 64) + 64 ≤ 2 ^ 52 ∧ up.barUp = true ∧ ∀ n ∈ [0, 1, 2], up.agentHeld n aRead = false) ∧
    State.reset.barUp = false ∧ agentsWait.agentHeld 0 aRead = true ∧
    (withTimelines.inTimelinePages 0x10080000 4 = false ∧ 0x10080000 + [1, 2, 3, 4].length ≤ 2 ^ 52 ∧
      withTimelines.agentHeld 0 ⟨.write [1, 2, 3, 4], 0x10080000, false⟩ = false) ∧
    (withTimelines.inTimelinePages 0x1007FFFF 1 = true ∧ withTimelines.agentHeld 0 ⟨.write [1], 0x1007FFFF, false⟩ = false) ∧
    Memory.wf withTimelines.mem = true := by decide +kernel

/-- The device with a bay to wake. -/
def waking : State := { up with boot := { up.boot with stage := .kernel, wakeQueues := [(0, [3, 4])] } }
/-- A device whose bay 3 is awake, in a cycle. -/
def idleBay (cycle : Nat) : State := { up.updBay 3 (fun b => { b with awake := true }) with cycle := cycle }

theorem witness_ResetSequence : (waking.wakes 0 = true ∧ AMap.get waking.boot.wakeQueues [] 0 = 3 :: [4]) ∧
    ({ waking with boot := { waking.boot with wakeQueues := [] } }.boot.stage = .kernel ∧
      ∀ d, d < 4 → AMap.get { waking.boot with wakeQueues := [] }.wakeQueues [] d = []) ∧
    (((idleBay 262145).bay 3).awake = true ∧ (∀ p ∈ ((idleBay 262145).bay 3).ctxs, p.2.st ≠ CtxState.loaned) ∧
      ((idleBay 262145).bay 3).idleSince + 2 ^ 18 < (idleBay 262145).cycle) ∧
    (idleBay 262144).cycle ≤ ((idleBay 262144).bay 3).idleSince + 2 ^ 18 := by decide +kernel

/-- A device that waits for a recovery image. -/
def recovering (rclen : BitVec 23) (rcstate : BitVec 2) : State :=
  { State.reset with boot := { Boot.reset with stage := .recovery, link := true, rclen := rclen, rcstate := rcstate } }

theorem witness_RecoveryAndTiers : ((recovering 64 2).boot.link = true ∧ (recovering 64 2).boot.layout = false ∧ (1 : W64).getLsbD 0 = true ∧
      (recovering 64 2).boot.rcstate.toNat % 2 = 0) ∧
    ((recovering 0x400000 0).boot.rclen.toNat % 64 = 0 ∧ 64 ≤ (recovering 64 0).boot.rclen.toNat ∧ (recovering 0x400000 0).boot.rclen.toNat ≤ 2 ^ 22) ∧
    ((recovering 65 0).boot.rclen.toNat % 64 ≠ 0 ∧ (recovering 0 0).boot.rclen.toNat < 64 ∧ 2 ^ 22 < (recovering 0x400040 0).boot.rclen.toNat) ∧
    (recovering 64 1).boot.rcstate = 1 ∧
    AMap.find { up with trans := { up.trans with moving := [(5, [7])] } }.trans.moving 5 = some [7] := by decide +kernel
theorem witness_attestation : max State.reset.boot.lmsFuse State.reset.boot.lmsNvme < Config.lmsCapacity ∧
    Config.lmsCapacity ≤ max { Boot.reset with lmsFuse := Config.lmsCapacity }.lmsFuse { Boot.reset with lmsFuse := Config.lmsCapacity }.lmsNvme :=
  ⟨Nat.succ_pos _, Nat.le_max_left _ _⟩

/-- A loan with a changed frame 1. -/
def frame1 (k : Frame → Frame) (l : Loan) : Loan := { l with frames := l.frames.map (fun (p : Nat × Frame) => (p.1, k p.2)) }
/-- The bench with a loan, seen from the kernel. -/
def benchLoan (l : Loan → Loan) (x : ElCtx → ElCtx := id) : State := benchOf (.mov (q 1 .i32) bD) [5] l x
/-- A word access in window 2 at an offset. -/
def anAccess (op : AccOp) (stage : AccStage) : Access :=
  ⟨op, .word, 1, 0, 0, 0, 0, 2, 64, false, 0, 7, 7, 0, 2, none, nx, Tag.initial 1, Tag.initial 1, 0, true, false, stage, 1, 0, [], [], false, false, []⟩
/-- A loan whose window 2 is virt. -/
def virtWindow (l : Loan) : Loan := { l with image := { l.image with windows := [(2, { win 65536 with virt := true, base := 0x20000 })] } }

theorem witness_KernelCommands : (AMap.find (benchLoan id).loans 1 = some placedLoan ∧ (AMap.find (benchLoan id).els 0).isSome = true ∧
      (AMap.find ((benchLoan id).el 0).ctxs 0).isSome = true ∧ (((benchLoan id).el 0).ctx 0).loan = some 1) ∧
    ((2 ^ 52 - 8) + 8 ≤ 2 ^ 52 ∧ ({ benchLoan virtWindow with accs := [(1, anAccess .load .issued)] }.usesPages 0
        ({ benchLoan virtWindow with accs := [(1, anAccess .load .issued)] }.entryPages 0 0x20000 0).1
        ({ benchLoan virtWindow with accs := [(1, anAccess .load .issued)] }.entryPages 0 0x20000 0).2) = true ∧
      up.usesPages 0 (up.entryPages 0 0x20000 0).1 (up.entryPages 0 0x20000 0).2 = false ∧ Memory.wf up.mem = true) ∧
    (AMap.find (benchLoan (frame1 (fun f => { f with parked := some ⟨[], [], [], []⟩ }))).loans 1 =
        some (frame1 (fun f => { f with parked := some ⟨[], [], [], []⟩ }) placedLoan) ∧
      ((frame1 (fun f => { f with parked := some ⟨[], [], [], []⟩ }) placedLoan).parkedFrame 1).isSome = true) ∧
    ({ up with trans := { up.trans with reserved := [(0, 9)] } }.trans.reserved.contains (0, 9) = true ∧ up.loans = [] ∧
      up.trans.reserved.contains (0, 9) = false) := by decide +kernel

/-! ### Witnesses: the fabric -/

/-- A token of the bench's loan for an element, in a frame. -/
def aToken (el : Nat) (frame : Nat := 1) : Token := Token.seal ⟨BitVec.ofNat 13 el, 0, false, mkEntry 0 0 .data true 0 5 (Tag.initial frame)⟩
/-- Its flit. -/
def aFlit (t : Token) : Flit := ⟨1, .token t, []⟩
/-- The bench with element 0 changed. -/
def elBench (k : Element → Element) (l : Loan → Loan := id) : State := (benchLoan l).updEl 0 k

theorem witness_TokenHops :
    (standing ((elBench (fun e => { e with out := [(1, [aFlit (aToken 1)])] })).el 0) (.buf .east) = aFlit (aToken 1) :: [] ∧
      AMap.find (elBench id).loans 1 = some placedLoan ∧ (aFlit (aToken 1)).emit = .token (aToken 1)) ∧
    (badToken { aToken 1 with rsvd := true } = true ∧ badToken (aToken 1) = false) ∧
    (nextDir (placedLoan.place 0) (placedLoan.place (placedLoan.elKey (aToken 0).el.toNat)) = 4 ∧
      nextDir (placedLoan.place 0) (placedLoan.place (placedLoan.elKey (aToken 1).el.toNat)) = 1) ∧
    (AMap.get ((elBench (fun e => { e with linkUsed := [(1, 1)] })).el 0).linkUsed 0 1 = (elBench id).cycle + 1 ∧
      AMap.get ((elBench (fun e => { e with beatLink := [(1, 1)] })).el 0).beatLink 0 1 = (elBench id).cycle + 1) ∧
    (AMap.get ((elBench id).el 0).linkUsed 0 1 ≠ (elBench id).cycle + 1 ∧ AMap.get ((elBench id).el 0).beatLink 0 1 ≠ (elBench id).cycle + 1 ∧
      (AMap.get ((elBench id).el 1).links [] (opposite 1)).length < stepCycles 0 1 ∧ neighbour (placedLoan.place 0) 1 ≠ 0) := by decide +kernel

/-- The bench with tokens waiting in a queue and one on the western link. -/
def arrivals (waiting : Nat) (t : Token) (l : Loan → Loan := id) (w : W64 := 1) : State :=
  { elBench (fun e => { e with
      ctxs := [(0, { placedCtx 0 with handlers := [(0, w)] })]
      links := [(3, [aFlit t])], planes := [(0, ⟨[(0, List.replicate waiting (tok 1))], [], some (1, 0)⟩)] }) l with cycle := 9 }
/-- What the token finds there. -/
def lands (s : State) (l : Loan) (t : Token) : Landing := landing s 0 (sideIdx .west) l t

theorem witness_TokenArrivals :
    ((∀ j, j < sideIdx .west → (arrivals 3 (aToken 0)).dueNow (fun y => y == .tokenArrive 0 (sideOf j)) = false) ∧
      arriving (arrivals 3 (aToken 0)).cycle ((arrivals 3 (aToken 0)).el 0) (sideIdx .west) = some (aFlit (aToken 0)) ∧
      AMap.find (arrivals 3 (aToken 0)).loans 1 = some placedLoan ∧ badToken (aToken 0) = false ∧
      (((arrivals 3 (aToken 0)).el 0).ctx (aToken 0).q.ctx.toNat).plane.isSome = true) ∧
    lands (arrivals 3 (aToken 0)) placedLoan (aToken 0) = .queue ∧ lands (arrivals 4 (aToken 0)) placedLoan (aToken 0) = .wait ∧
    lands (arrivals 0 (aToken 0 2)) placedLoan (aToken 0 2) = .stale ∧ lands (arrivals 0 (aToken 0) id nopWord) placedLoan (aToken 0) = .illegal ∧
    (AMap.find ((arrivals 0 (aToken 0)).el 0).ctxs 0).isSome = true := by decide +kernel

/-- A firing's result at its latency. -/
def aResult (held : Bool) : Pending := ⟨7, 0, 0, 1, 0, [(1, aFlit (aToken 1))], [(3, 5)], some ⟨2, Tag.initial 1, []⟩, held, true⟩

theorem witness_ResultWrites :
    (((elBench (fun e => { e with pending := [aResult true] })).el 0).pending.find? (fun p => p.id == 7) = some (aResult true) ∧
      (aResult true).held = true ∧ (elBench (fun e => { e with pending := [aResult true] })).captureWaits (aResult true) = false ∧
      (∀ x ∈ (aResult true).emits, x.2.emit.buffered = true) ∧ ((elBench id).el 0 |>.ctx 0).loan = some (aResult true).loan ∧
      (aResult true).post = some ⟨2, Tag.initial 1, []⟩ ∧ AMap.find (elBench id).loans (aResult true).loan = some placedLoan) ∧
    ((aResult false).held = false ∧ roomFor 0 ((elBench (fun e => { e with pending := [aResult false], out := [(1, [aFlit (aToken 1), aFlit (aToken 1)])] })).el 0)
      ((aResult false).emits.map Prod.fst) = false) := by decide +kernel

/-- A loan whose image gives handler 0 two slots from slot 0. -/
def slots (l : Loan) : Loan := { l with image := { l.image with hinfo := [(0, ⟨0, [], 0, 0, 0, 2, []⟩)] } }
/-- A frame-mode handler of two operands, with a token at port `a`. -/
def matchBench (l : Loan → Loan) (w : Instr := .iadd { q 2 .i32 with mode := .frame } (.d bD)) : State :=
  withPlane (benchOf w [] (fun x => l (slots x))) ⟨[(0, [tok 5])], [], some (1, 0)⟩
/-- Operand `b` of handler 0 in slot 0. -/
def slotB : Frame → Frame := fun f => { f with slots := [(0, ⟨6, true, true, 0, 1, false, Tag.initial 1, []⟩)] }
/-- What the match unit finds at port `a`. -/
def found (s : State) (l : Loan) (fr : Frame) : Prop :=
  (s.el 0).ready.length < 4 ∧ s.stopped (.element 0) = false ∧ heldHead (s.el 0) = some (0, 0, tok 5) ∧ ((s.el 0).ctx 0).loan = some 1 ∧
  AMap.find s.loans 1 = some l ∧ AMap.find l.frames (tok 5).e.tag.frame.toNat = some fr ∧ fr.released = false ∧ fr.refilling = false ∧
  ((s.el 0).ctx 0).plane.isSome = true
/-- The frame of the bench. -/
def benchFrame : Frame := (AMap.find placedLoan.frames 1).getD ⟨0, 0, Tag.zero, false, 0, 0, 0, 0, 0, false, none, 0, false, false, 0, [], [], none⟩

theorem witness_Matching_spilled :
    found (matchBench (frame1 (fun f => { f with spilled := true }))) (frame1 (fun f => { f with spilled := true }) (slots placedLoan))
      { benchFrame with spilled := true } ∧ (∀ y ∈ (matchBench id).agenda, y.2 ≠ .frameRefill 1 (tok 5).e.tag.frame.toNat) := by
  unfold found; decide +kernel
theorem witness_Matching_first :
    found (matchBench id) (slots placedLoan) benchFrame ∧ benchFrame.spilled = false ∧
    (let info := hinfoOf ((slots placedLoan).imageOf 0) (handlerKey 0 0)
     let w := AMap.get (((matchBench id).el 0).ctx 0).handlers nopWord 0
     slotBase info (tok 5).e.tag + info.nh ≤ benchFrame.nslot ∧ (∀ h ∈ heldSlots benchFrame 0 (slotBase info (tok 5).e.tag) info.nh, h.2.port.toNat ≠ 0) ∧
     w.extractLsb' 56 8 ≠ 0x65 ∧ (heldSlots benchFrame 0 (slotBase info (tok 5).e.tag) info.nh).length < operandCount w - 1 ∧
     freeSlot benchFrame 0 (slotBase info (tok 5).e.tag) info.nh = some 0) := by
  unfold found; decide +kernel
theorem witness_Matching_last :
    found (matchBench (frame1 slotB)) (frame1 slotB (slots placedLoan)) (slotB benchFrame) ∧
    (let info := hinfoOf ((slots placedLoan).imageOf 0) (handlerKey 0 0)
     (∀ h ∈ heldSlots (slotB benchFrame) 0 (slotBase info (tok 5).e.tag) info.nh, h.2.port.toNat ≠ 0) ∧
     operandCount (AMap.get (((matchBench id).el 0).ctx 0).handlers nopWord 0) - 1 ≤
       (heldSlots (slotB benchFrame) 0 (slotBase info (tok 5).e.tag) info.nh).length) := by
  unfold found; decide +kernel
theorem witness_Matching_full : 4 ≤ ((elBench (fun e => { e with ready := List.replicate 4 ⟨0, 0, [], Tag.initial 1⟩ })).el 0).ready.length := by decide +kernel
theorem witness_Matching_done : (let s := elBench (fun e => { e with matching := [(0, ⟨0, 0, [], Tag.initial 1⟩)] })
    (s.el 0).ordered = [] ∧ (∀ m ∈ (s.el 0).matching, m.2.isOrdred (s.el 0) = false) ∧
      (s.el 0).ready.length + ((s.el 0).matching.filter (fun m => decide (m.1 ≤ s.cycle))).length ≤ 4) := by decide +kernel
theorem witness_Matching_slot_write :
    AMap.get ((elBench (fun e => { e with out := [(5, [⟨1, .slotWrite 0 3 (tok 5).e, []⟩])] })).el 0).out [] 5 = ⟨1, .slotWrite 0 3 (tok 5).e, []⟩ :: [] ∧
    AMap.find (elBench id).loans 1 = some placedLoan ∧ AMap.find placedLoan.frames (tok 5).e.tag.frame.toNat = some benchFrame ∧
    benchFrame.released = false ∧ 3 < benchFrame.nslot ∧
    (benchFrame.slot (((List.range (placedLoan.w * placedLoan.h)).find? (fun b => placedLoan.bayKey b == 0)).getD 0) 3).p = false := by decide +kernel

/-- A loan with room in its bay for spilled frames. -/
def annexed (k : Frame → Frame) (l : Loan) : Loan := { frame1 k l with annexRes := [(0, 65536)], storeSize := 65536 }
/-- The loan after a spill's place is taken. -/
def spillTaken : List Nat × Loan := (Loan.annexTake (annexed id placedLoan) (frameBytes 4096)).getD ([], placedLoan)

theorem witness_SpillsAndRefills :
    (AMap.find (benchLoan (annexed id)).loans 1 = some (annexed id placedLoan) ∧
      (annexed id placedLoan).frames.any (fun p => p.2.spilling) = false ∧
      spillVictim (benchLoan (annexed id)) 1 (annexed id placedLoan) 0 = some (1, benchFrame) ∧
      (annexed id placedLoan).annexTake (frameBytes benchFrame.nslot) = some spillTaken) ∧
    ((annexed (fun f => { f with spillPlace := some [], spillEnd := 9 }) placedLoan).frames.any (fun p => p.2.spilling) = true ∧
      (annexed (fun f => { f with spillPlace := some [], spillEnd := 9 }) placedLoan).frames.any (fun p => p.2.spilling) = true) ∧
    (AMap.find (endSpills (annexed (fun f => { f with spillPlace := some [], spilled := true }) placedLoan) 0).frames 1 =
        some { benchFrame with spillPlace := some [], spilled := true } ∧
      (endSpills (annexed (fun f => { f with spillPlace := some [], spilled := true }) placedLoan) 0).frames.any (fun p => p.2.spilling) = false ∧
      (endSpills (annexed (fun f => { f with spillPlace := some [], spilled := true }) placedLoan) 0).refillPlace
        { benchFrame with spillPlace := some [], spilled := true } = some 0) ∧
    (AMap.find (endSpills (annexed (fun f => { f with refilling := true }) placedLoan) 0).frames 1 = some { benchFrame with refilling := true }) := by
  decide +kernel

/-- The bench whose handler claims a credit of sync queue 11. -/
def claiming (sq : AMap Nat) : State :=
  benchOf (.iadd { q 2 .i32 with fW := true } (.d ⟨nx, .sq 11⟩)) [] (fun l => { l with sq := sq }) (fun x => { x with claims := [0] })

theorem witness_SyncQueues :
    (AMap.find (claiming []).loans 1 = some placedLoan ∧ claimCtx ((claiming []).el (placedLoan.elKey 0)) 1 0 = some 0 ∧
      (decodeHandler (AMap.get (((claiming []).el (placedLoan.elKey 0)).ctx 0).handlers nopWord 0)).toOption =
        some (.iadd { q 2 .i32 with fW := true } (.d ⟨nx, .sq 11⟩)) ∧
      (claiming []).dueNow (fun j => match j with | .sqClaimArrive x _ _ => x == 1 | _ => false) = false ∧ placedLoan.claims = [] ∧
      0 * 16 + sqNumber (placedLoan.imageOf 0) (handlerKey 0 0) (.iadd { q 2 .i32 with fW := true } (.d ⟨nx, .sq 11⟩)) < 64) ∧
    (AMap.find (claiming [(11, 3)]).loans 1 = some { placedLoan with sq := [(11, 3)] } ∧ AMap.get { placedLoan with sq := [(11, 3)] }.sq 0 11 ≠ 0) ∧
    (AMap.get placedLoan.sq 0 (0 * 16 + 11) < 65535 ∧ AMap.get placedLoan.claims [] (0 * 16 + 11) = []) ∧
    AMap.get { placedLoan with sq := [(11, 65535)] }.sq 0 (0 * 16 + 11) = 65535 := by decide +kernel

/-! ### Witnesses: memory at work -/

/-- The bench with an access under way. -/
def accBench (a : Access) (l : Loan → Loan := withWindow) : State := { benchLoan l with accs := [(4, a)] }
/-- A store in an iteration of an ordered loop, and its loan, whose commit buffer is full of an older one's. -/
def bigLoop (l : Loan) : Loan :=
  { withWindow (inLoop l) with
    image := { (withWindow l).image with hinfo := [(0, ⟨1, [1], 0, 0, 0, 1, [4]⟩)], loops := [(1, ⟨4, 1, 0, true, []⟩)], orderedLoops := [1] }
    flights := [⟨1, 1, [0], [], false, [], []⟩, ⟨1, 1, [1], [], false, [], []⟩] }
/-- The loop's iteration 1. -/
def iter1 (a : Access) : Access := { a with tag := (Tag.initial 1).setIt 0 1 }

theorem witness_AccessesPerformed_buffer :
    (AMap.find (accBench (anAccess .load .buffered)).accs 4 = some (anAccess .load .buffered) ∧
      AMap.find (accBench (anAccess .load .buffered)).loans 1 = some (withWindow placedLoan) ∧
      ((accBench (anAccess .load .buffered)).commitTakes (anAccess .load .buffered) (withWindow placedLoan) &&
        (accBench (anAccess .load .buffered)).replyPlace (anAccess .load .buffered) (withWindow placedLoan) &&
        (!(anAccess .load .buffered).passes (withWindow placedLoan) ||
          (accBench (anAccess .load .buffered)).waveRoom (anAccess .load .buffered) (withWindow placedLoan))) = true) ∧
    (let l := { bigLoop placedLoan with kept := List.replicate 1024 ⟨9, Tag.initial 1, 0, false⟩ }
     let a := anAccess (.atomic 0x88 .i32 1 0) .buffered
     AMap.find (accBench a (fun _ => l)).loans 1 = some l ∧
       ((accBench a (fun _ => l)).commitTakes a l && (accBench a (fun _ => l)).replyPlace a l && (!a.passes l || (accBench a (fun _ => l)).waveRoom a l)) = false) := by decide +kernel
theorem witness_AccessesPerformed_turn :
    (withWindow placedLoan).windowAt 0 2 = some (win 65536) ∧
    (let a := anAccess .load .waiting
     a.stage = .waiting ∧ (withWindow placedLoan).inTurn a 0 = true ∧ (withWindow placedLoan).ordersIn a = true ∧ a.skip = false ∧
       ¬2 ≤ a.strength ∧ a.isAtomic = false ∧ a.onRing = false ∧ (win 65536).virt = false ∧ a.op ≠ .pref ∧ a.deferred (withWindow placedLoan) = false ∧
       a.sends = false) ∧
    (withWindow placedLoan).inTurn { anAccess .load .waiting with predd := 0 } 0 = false ∧
    (bigLoop placedLoan).ordersIn (iter1 (anAccess .load .waiting)) = false ∧
    (let a := { anAccess .load .waiting with strength := 2, succd := 1 }
     let s := { accBench a with accs := [(4, a), (5, anAccess .load .issued)] }
     2 ≤ a.strength ∧ (withWindow placedLoan).inTurn a 0 = true ∧ a.deferred (withWindow placedLoan) = false ∧ s.priorDone 4 a (withWindow placedLoan) = false ∧
       (accBench a).priorDone 4 a (withWindow placedLoan) = true) := by decide +kernel
/-- A request of access 4 at a bank, which holds it for a cycle. -/
def anEntry : BankEntry := ⟨.access 4, 0, false, .alone, 1, 3, 0⟩

theorem witness_AccessesPerformed_bank :
    (let a := anAccess (.store [5] 0xFF) .issued
     let s := (accBench a).updBay 0 (fun b => { b with banks := [(bankKey 0 2, [anEntry])] })
     AMap.find s.accs 4 = some a ∧ s.eccBad = [] ∧ AMap.get (s.bay (a.bayOf (withWindow placedLoan))).banks [] (bankKey (win 65536).tile 2) = [anEntry] ∧
       anEntry.job = .access 4 ∧ anEntry.arrived ≤ s.cycle ∧ a.onRing = false ∧ s.bankComing = false ∧
       s.jobAlive 0 anEntry = true ∧ s.jobReady anEntry = true ∧ s.claimOf anEntry = none ∧
       AMap.get (s.bay (a.bayOf (withWindow placedLoan))).bankBusy 0 (bankKey (win 65536).tile 2) ≤ s.cycle) ∧
    (let s := (accBench (anAccess .load .issued)).updBay 0 (fun b => { b with banks := [(bankKey 0 2, [anEntry])], bankBusy := [(bankKey 0 2, 5)] })
     s.cycle < AMap.get (s.bay 0).bankBusy 0 (bankKey (win 65536).tile 2)) := by decide +kernel
theorem witness_AccessesPerformed_walk :
    AMap.find { up with trans := { up.trans with walks := [(3, ⟨0, 0, 9, 2, 1, [4]⟩)] } }.trans.walks 3 = some ⟨0, 0, 9, 2, 1, [4]⟩ ∧ 64 * 511 < 2 ^ 20 := by
  decide

/-- A deferred store of an iteration. -/
def aStore : Store := ⟨2, 1, 1, [0], (Tag.initial 1), win 65536, 0, 0, false, 0, 0, 0, 5, false, false, none, 2, 0, false, [], false⟩
/-- A decant template of two blocks, triggered at element 0. -/
def twoBlocks (n : Nat) (l : Loan) : Loan :=
  { withWindow l with image := { (withWindow l).image with templates := [(0, ⟨0, false, true, 0, 2, 2, 0, 0, nx, 0xFF, 2, n, 0, 0, 256, 0, 0, 256⟩)] } }
/-- The bench with a trigger at element 0 and its template armed. -/
def trigger (live : Bool) (k : Bay → Bay) : State :=
  (withPlane (benchLoan (twoBlocks 2)) ⟨[(0, [{ tok 5 with e := { (tok 5).e with pred := live } }])], [], some (1, 0)⟩).updBay 0 (fun b =>
    k { b with templates := [(templKey 0 0, { (Bay.empty.template 0) with arm := true })] })
/-- A firing of that template. -/
def aFiring (block : Nat) : Firing := ⟨1, 0, 5, Tag.initial 1, 0, 0, block, false, [], 0⟩
/-- What the trigger is. -/
def isArmed (s : State) (live : Bool) : Bool := match armedTrigger s 0 with | some (c, id, k, _, t) => c == 0 && id == 1 && k == 0 && t.e.pred == live | none => false

theorem witness_Decanting :
    (isArmed (trigger true id) true = true ∧ ((trigger true id).bay 0).fireQueue.length < 16 ∧
      (let s := trigger true (fun b => { b with decanters := [(0, aFiring 0), (1, aFiring 0), (2, aFiring 0), (3, aFiring 0)] })
       isArmed s true = true ∧ ∀ d, d < 4 → (AMap.find (s.bay 0).decanters d).isSome = true) ∧
      (let s := trigger true (fun b => { b with fireQueue := List.replicate 16 (aFiring 0) })
       isArmed s true = true ∧ 16 ≤ (s.bay 0).fireQueue.length) ∧
      isArmed (trigger false id) false = true) ∧
    (∀ n ∈ [1, 2], let s := (benchLoan (twoBlocks n)).updBay 0 (fun b => { b with decanters := [(1, aFiring 0)] })
     AMap.find (s.bay 0).decanters 1 = some (aFiring 0) ∧ AMap.find s.loans 1 = some (twoBlocks n placedLoan) ∧
       ((twoBlocks n placedLoan).templateAt 0 0).map Template.nblk = some n ∧
       s.blockOf 0 1 = none ∧ (twoBlocks n placedLoan).state ≠ .switching ∧ (aFiring 0).halted = false ∧
       (twoBlocks n placedLoan).committedPrior (aFiring 0).prior [] = true) ∧
    { twoBlocks 1 placedLoan with commit := [aStore] }.committedPrior { aFiring 0 with prior := [2] }.prior [] = false ∧
    (∀ op ∈ [DOp.arm, .disarm false, .disarm true, .status], let s := (benchLoan (twoBlocks 2)).updBay 0 (fun b =>
        { b with commands := [(9, ⟨op, 1, 0, 0, 0, some (aFlit (aToken 1)), none⟩)] })
     (s.commandBay 9).map Prod.fst = some 0 ∧ (s.commandBay 9).map (fun p => p.2.op) = some op) := by decide +kernel

/-- A cell of the bench's loan. -/
def aCell (body : CellBody) (c : Cell) (entered : Nat := 0) : QCell := ⟨9, 1, 1, 4, body, c, entered, []⟩
/-- A die's Exchange with a state of its own. -/
def xchBench (k : Exchange → Exchange) (s : State := up) : State := { s with xch := [(0, k Exchange.empty)] }
/-- A queue of an input port. -/
def aQueue (mc : Bool) (inp : Nat) (cells : List QCell) : Voq := ⟨inp, mc, 3, 0, 0, cells, 0⟩
/-- A multicast cell to group 3's member on bay 1. -/
def mcCell : QCell := { aCell .payload { Cell.blank with mc := true, group := 3 } with residue := [bayPort 1] }

theorem witness_CellExchange :
    (let s := { xchBench id with outgoing := [(9, 5, aCell .payload Cell.blank)] }
     AMap.find s.outgoing 9 = some (5, aCell .payload Cell.blank) ∧ (aCell .payload Cell.blank).cell.mc = false ∧
       AMap.get (s.xchOf 0).lastEntry 0 5 ≠ slotOf s.cycle + 1 ∧ (s.xchOf 0).admits 5 (aCell .payload Cell.blank).cell.note.toNat = true) ∧
    AMap.get ((xchBench (fun x => { x with lastEntry := [(5, 1)] })).xchOf 0).lastEntry 0 5 = slotOf 0 + 1 ∧
    (let q := aCell .payload Cell.blank
     let s := { xchBench id with outgoing := [(8, 5, { q with id := 8 }), (9, 5, q)] }
     s.behind 5 q = true ∧ { xchBench id with outgoing := [(9, 5, q)] }.behind 5 q = false) ∧
    ((xchBench (fun x => { x with voqs := [aQueue true 5 (List.replicate 8 mcCell)] })).xchOf 0).multicasts 5 = 8 ∧
    ((xchBench id).xchOf 0).multicasts 5 < 8 ∧ residueAt 0 5 3 [bayPort 1] ≠ [] ∧
    ((xchBench (fun x => { x with voqs := [aQueue false 5 (List.replicate 240 (aCell .payload Cell.blank))] })).xchOf 0).admits 5 0 = false ∧
    (let s := xchBench (fun x => { x with voqs := [aQueue true 5 [mcCell]] }) (benchLoan (fun l => { withWindow l with
        image := { (withWindow l).image with mcasts := [(3, ⟨true, [bayPort 1]⟩)] } }))
     (s.xchOf 0).voqs.zipIdx.find? (fun p => p.1.inp == 5 && p.1.mc && p.1.cells.any (fun c => c.id == 9)) = some (aQueue true 5 [mcCell], 0) ∧
       (aQueue true 5 [mcCell]).cells.find? (fun c => c.id == 9) = some mcCell ∧ s.groupOf mcCell = some ⟨true, [bayPort 1]⟩ ∧
       mcCell.residue.flatMap (fun o => membersBehind 0 5 o [bayPort 1]) = [bayPort 1] ∧ AMap.find s.accs mcCell.access = none) := by decide +kernel

theorem witness_CellsPerformed :
    (∀ op ∈ [AccOp.load, .store [5] 0xFF], let a := { anAccess op .issued with phys := 0x4000 }
     let s := xchBench (fun x => { x with memQueues := [(225, [aCell (.request 4) Cell.blank])] }) (accBench a virtWindow)
     AMap.get (s.xchOf 0).memQueues [] 225 = aCell (.request 4) Cell.blank :: [] ∧ (aCell (.request 4) Cell.blank).entered ≤ s.cycle ∧
       AMap.find s.accs 4 = some a ∧ AMap.find s.loans a.loan = some (virtWindow placedLoan) ∧
       ((virtWindow placedLoan).windowAt a.ctx a.win).isSome = true ∧ a.onRing = false ∧ s.scBehind 4 = false ∧
       s.stopped (.port 225) = false ∧ s.stalled 0 225 (aCell (.request 4) Cell.blank).cell.note false = false) ∧
    (accBench (anAccess .load .issued)).cycle < (aCell (.request 4) Cell.blank 9).entered ∧
    (let q := aCell .payload { Cell.blank with win := 2, live := 1 }
     let s := { benchLoan withWindow with bays := [(0, { Bay.empty with ingress := [q] })] }
     (s.bay 0).ingress = q :: [] ∧ q.entered ≤ s.cycle ∧ AMap.get (s.xchOf 0).lastEntry 0 (256 + bayPort 0) ≠ slotOf s.cycle + 1 ∧ q.body = .payload ∧
       s.stopped (bayUnit 0) = false ∧ (s.bay 0).payloads = 0 ∧ AMap.find s.accs q.access = none ∧
       AMap.find s.loans q.loan = some (withWindow placedLoan) ∧ (withWindow placedLoan).bayNumber 0 = some 0 ∧
       (withWindow placedLoan).ctxs.contains q.cell.ctx.toNat = true ∧
       (withWindow placedLoan).windowAt q.cell.ctx.toNat q.cell.win.toNat = some (win 65536) ∧ (win 65536).virt = false ∧
       q.cell.spos.toNat * 256 + 256 ≤ (win 65536).size ∧ (withWindow placedLoan).accordHere 0 q.cell = true ∧ q.cell.accn = 0) ∧
    (let q := aCell .payload { Cell.blank with win := 2, live := 1 }
     let s := (benchLoan withWindow).updBay 0 (fun b => { b with banks := [(bankKey 0 0, [⟨.payload q, 0, false, .alone, 8, 2, 0⟩])], ingress := [q] })
     AMap.get (s.bay 0).banks [] (bankKey 0 0) = [⟨.payload q, 0, false, .alone, 8, 2, 0⟩] ∧ AMap.get (s.bay 0).bankBusy 0 (bankKey 0 0) ≤ s.cycle ∧
       s.bankComing = false ∧ (s.bay 0).payloads ≠ 0) ∧
    ((virtWindow placedLoan).windowAt 0 2).map Window.virt = some true ∧ (win 65536).size < (256 : BitVec 32).toNat * 256 + 256 := by decide +kernel

/-- A row's stream of element 0. -/
def aLane : Lane := ⟨⟨0, 0, 4, 0, 0, Tag.initial 1, 0⟩, 4, 0, 0, 0, 0, 0, 0, none, false, 0, false, false⟩
/-- A layout record of window 2. -/
def aLayout : Layout := { Feed.empty.record with win := 2 }
/-- The bench with the A feed of its tile. -/
def feedBench (f : Feed) : State := (benchLoan withWindow).updBay 0 (fun b => { b with feeds := [(feedKey 0 0 false, f)] })
/-- A run of four steps, and the bench with it and its operands. -/
def aRun : Run := ⟨4, 1, 0, true, false, false, false, Tag.initial 1, 0, true, 32, 0, 0, 0, [], []⟩
@[inherit_doc aRun] def runBench : State :=
  (benchOf (.mov (q 1 .i32) bD) [5] withWindow (fun x => { x with run := some aRun, aout := true })).updEl 0 (fun e =>
    { e with opA := [⟨0, 0x0102⟩], opB := [⟨0, 0x0304⟩] })

theorem witness_ArraysAtWork :
    ({ placedLoan with ramps := [(0, 0, 1, 0), (16, 0, 2, 0)] }.ramps = (0, 0, 1, 0) :: [(16, 0, 2, 0)]) ∧
    (let l := withWindow placedLoan
     let f : Feed := ⟨aLayout, true, [], [(0, aLane)], 0, 0, 0, 0, []⟩
     let s := feedBench f
     let w := win 65536
     let place := aLane.place f.record w false
     AMap.find s.loans 1 = some l ∧ l.ended = false ∧ l.ctxs = [0] ∧ (s.bay (l.bayKey 0)).feed (feedKey (layoutTile 0 false) 0 false) = f ∧
       f.lanes = [(0, aLane)] ∧ f.queue = [] ∧ aLane.halted = false ∧ aLane.owed ≠ 0 ∧ aLane.asked = false ∧ aLane.lim = none ∧ aLane.req.start ≤ s.cycle ∧
       aLane.scaleOwed = 0 ∧ l.windowAt 0 f.record.win = some w ∧ w.virt = false ∧ lineInside w f.record.o place.2.2.1 place.2.2.2 = true ∧
       (entryRoom s l 0 false aLane).2.1 < 1 + (entryRoom s l 0 false aLane).1) ∧
    (let l := withWindow placedLoan
     let s := (feedBench ⟨aLayout, true, [], [(0, { aLane with asked := true })], 0, 0, 0, 0, []⟩).updBay 0 (fun b => { b with
       banks := [(bankKey 0 0, [⟨.beat 1 0 0 false 0, 0, false, .read, 1, 0, 0⟩])] })
     AMap.get (s.bay 0).banks [] (bankKey 0 0) = [⟨.beat 1 0 0 false 0, 0, false, .read, 1, 0, 0⟩] ∧ s.bankComing = false ∧ s.eccBad = [] ∧
       (s.feedRead l 0 0 false 0).any (fun p => p.2.2.1.asked) = true) ∧
    (let l := withWindow placedLoan
     (AMap.find runBench.loans 1 = some l ∧ ((runBench.el 0).ctx 0).run = some aRun ∧ ((runBench.el 0).ctx 0).loan = some 1 ∧ aRun.done < aRun.total ∧
        l.ended = false ∧ aRun.writes = [] ∧
        ((((runBench.updEl 0 (fun e => e.updCtx 0 (fun x => x.mxDue runBench.cycle))).el 0).ctx 0).run = some aRun)) ∧
     (planStep runBench l 0 0 aRun).any (fun p => p.a == 0x0102 && p.east.map Prod.fst != some 0 && p.south.map Prod.fst != some 0) = true) ∧
    (let f : Feed := ⟨aLayout, false, [.record { aLayout with base := 256 } 4], [(0, { aLane with owed := 0 })], 0, 0, 0, 0, []⟩
     ((feedBench f).bay 0).feed (feedKey 0 0 false) = f ∧ f.queue = [.record { aLayout with base := 256 } 4] ∧ (∀ p ∈ f.lanes, p.2.owed = 0) ∧ f.isOpen = false) := by decide +kernel

/-! ### Witnesses: circulation, loans and retirement -/

/-- A device memory whose first 16 GiB are mapped one to one in space 0, with some bytes. -/
def mapped (s : State) (writes : List (Nat × List Byte)) : State :=
  { s with
    trans := { s.trans with roots := [(0, 0x1000)] }
    mem := writes.foldl (fun m w => writeBytes m w.1 w.2) (writeBytes (writeBytes [] 0x1000 (leBytes 8 0x2001)) 0x2000 (leBytes 8 7)) }
/-- The smallest image: one element with a `SINK`, no continuation, and exits that return (R36, R38, R77 to R79). -/
def tinyImage : List Byte :=
  let words := leBytes 8 (((encode (.sink (q 1 .i32) ⟨.sink, .dest .sink⟩)).headD 0)) ++ (List.range 7).flatMap (fun _ => leBytes 8 nopWord.toNat)
  let entry (n off len count : Nat) : List Byte := leBytes 4 n ++ leBytes 4 off ++ leBytes 4 len ++ leBytes 4 count
  let body := leBytes 4 0x4B434647 ++ leBytes 2 1 ++ [1, 1] ++ leBytes 4 576 ++ leBytes 4 0 ++ leBytes 2 3 ++ List.replicate 46 0 ++
    entry 1 128 72 1 ++ entry 4 256 256 64 ++ entry 5 512 64 8 ++ List.replicate 16 0 ++
    leBytes 8 0 ++ words ++ List.replicate 56 0 ++ List.replicate 256 0 ++ List.replicate 64 0
  body.take 12 ++ leBytes 4 (imageCrc body).toNat ++ body.drop 16
/-- A slip of 128 bytes for the image at 0x10000, with one hold or none. -/
def slipBytes (holds : Nat) : List Byte :=
  leBytes 8 0x10000 ++ [1, 1, 0, BitVec.ofNat 8 holds] ++ List.replicate 4 0 ++ (if holds = 0 then leBytes 8 0 else leBytes 2 5 ++ leBytes 6 1) ++ List.replicate 104 0
/-- The origin of a slip of queue 0. -/
def fromQueue : Origin := ⟨0, false, 0xF, none⟩
/-- The device with queue 0 enabled and one slip published in it. -/
def published (bs : List Byte) (k : Hub → Hub := id) : State :=
  (mapped up [(0x12000, bs)]).updHub (fun h => k { h with queues := [(0, { HostQueue.empty with base := 0x12000, log2n := 4, tail := 1, en := true })] })

/-- A launch on its way, and the bench with it. -/
def aLaunch : Launching := ⟨1, 0, 0, 0, Tag.initial 1, 0x13000, false, some (aFlit (aToken 1)), false⟩
@[inherit_doc aLaunch] def launching (bs : List Byte) (roots : AMap Nat := [(0, 0x1000)]) : State :=
  let s := (mapped (benchLoan id) [(0x13000, bs)]).updHub (fun h => { h with launches := [(6, aLaunch)] })
  { s with trans := { s.trans with roots := roots } }
/-- What was read: nothing, a slip that is refused, or one in order. -/
def readAs (s : State) : Option Bool := (s.readSlip 0x13000 ⟨placedLoan.slip.space, placedLoan.slip.priv, 0xF, none⟩).map (fun p => p.2.toOption.isSome)

theorem witness_CirculationEvents_waits_and_launches :
    (let w : TlWait := ⟨5, 1, 1, 0, some (aFlit (aToken 1)), true⟩
     let s := (benchLoan id).updHub (fun h => { h with waits := [(6, w)] })
     AMap.find s.hub.waits 6 = some w ∧ w.met = true ∧ AMap.find s.loans w.loan = some placedLoan ∧ placedLoan.state = .running ∧
       w.flit = some (aFlit (aToken 1)) ∧ (aFlit (aToken 1)).loan = w.loan ∧ (aFlit (aToken 1)).emit = .token (aToken 1)) ∧
    (AMap.find (launching (slipBytes 0)).hub.launches 6 = some aLaunch ∧ AMap.find (launching (slipBytes 0)).loans aLaunch.loan = some placedLoan ∧
      (launching (slipBytes 0)).stopped .loader = false) ∧
    ((launching (slipBytes 0)).updHub (fun h => { h with blocked := [record fTRAP false] })).stopped .loader = true ∧
    readAs (launching (slipBytes 0)) = some true ∧ readAs (launching [1]) = some false ∧ readAs (launching (slipBytes 0) []) = none := by decide +kernel
theorem witness_CirculationEvents_watches :
    (let w : Watch := ⟨0x3000, 0, false, placedLoan.slip⟩
     let s := up.updHub (fun h => { h with watches := [(3, w)] })
     AMap.find s.hub.watches 3 = some w ∧ w.fall = false ∧ w.threshold.toNat ≤ (s.counter w.selector).1) ∧
    (let w : Watch := ⟨0x3000, 9, false, placedLoan.slip⟩
     w.fall = false ∧ ¬w.threshold.toNat ≤ (up.counter w.selector).1) := by decide +kernel

/-- An arrival at a barrier of the region, and a loan whose record is open, with a store that its release waits for. -/
def anArrival (count : Nat) (live : Bool) (prior : List Nat := []) : Arrival := ⟨1, 0, 0, 0, false, 3, count, Tag.initial 1, live, none, true, false, prior⟩
@[inherit_doc anArrival] def atBarrier (n : Nat) (commit : List Store) (l : Loan) : Loan := { l with barriers := [(3, ⟨4, n, []⟩)], commit := commit }
/-- The bench with an arrival. -/
def barrierBench (a : Arrival) (n : Nat) (commit : List Store) : State :=
  (benchLoan (atBarrier n commit)).updHub (fun h => { h with arrivals := [(6, a)] })
/-- Whether the stores of an arrival's prior set have committed. -/
def priorStores (a : Arrival) (l : Loan) : Bool := l.committedPrior a.prior (l.ownIters (l.imageOf a.ctx) (handlerKey a.index a.hnd) a.tag)

theorem witness_CirculationEvents_barriers :
    (AMap.find (barrierBench (anArrival 4 true) 2 []).hub.arrivals 6 = some (anArrival 4 true) ∧
      AMap.find (barrierBench (anArrival 4 true) 2 []).loans 1 = some (atBarrier 2 [] placedLoan) ∧
      (barrierBench (anArrival 4 true) 2 []).barrierOf (anArrival 4 true) = some ⟨4, 2, []⟩ ∧
      priorStores (anArrival 4 true) (atBarrier 2 [] placedLoan) = true ∧ 2 + 1 < 4) ∧
    ((barrierBench (anArrival 4 true) 3 []).barrierOf (anArrival 4 true) = some ⟨4, 3, []⟩ ∧ 3 + 1 = 4) ∧
    ((barrierBench (anArrival 5 true) 3 []).barrierOf (anArrival 5 true) = some ⟨4, 3, []⟩ ∧ 5 ≠ 4) ∧
    priorStores (anArrival 4 true [2]) (atBarrier 2 [aStore] placedLoan) = false ∧
    ((barrierBench (anArrival 4 true) 3 []).updLoan 1 (fun l => { l with barriers := [] })).barrierOf (anArrival 4 true) = none ∧
    (anArrival 4 true).tested = false ∧ { anArrival 4 true with tested := true }.tested = true ∧
    1024 ≤ (List.replicate 1024 (0, (⟨4, 0, []⟩ : Barrier))).length := by decide +kernel
theorem witness_CirculationEvents_stocktakes :
    (let k : Stocktake := ⟨0, false, [], [], false, [], [], none⟩
     (up.updHub (fun h => { h with stocktake := some k })).hub.stocktake = some k ∧ k.second = false ∧ { k with second := true }.second = true ∧ k.result = none ∧
       up.stopped .stocktake = false) ∧
    (let s := { benchLoan id with cycle := 1048576 }
     AMap.find s.loans 1 = some placedLoan ∧ placedLoan.overrun s.cycle = true ∧ s.tokensOf 1 placedLoan ≠ 0 ∧
       placedLoan.overrun (benchLoan id).cycle = false ∧ up.tokensOf 1 placedLoan = 0) := by decide +kernel

/-- A released slip. -/
def aReleased : Released := ⟨{ placedLoan.slip with cfg := 0x10000 }, 0, 0, none, 0, false⟩
/-- The device with a released slip, awake or not at all. -/
def releasedBench (cycle : Nat) (k : State → State := id) : State :=
  k { up.updHub (fun h => { h with released := [aReleased] }) with cycle := cycle }

/-- The hub while queue 0's slip is read. -/
def busy0 (h : Hub) : Hub := h.updQueue 0 (fun q => { q with busy := true })

theorem witness_SlipsAndPlacement :
    (up.hub.waitingSlips = [] ∧ up.hub.nextQueue = none ∧ up.stopped .loader = false ∧
      (up.updHub (fun h => { h with blocked := [record fTRAP false] })).stopped .loader = true) ∧
    (((published (slipBytes 0)).hub.queue 0).busy = false ∧ ((published (slipBytes 0)).hub.freeHolds ≠ 0) ∧
      ((published (slipBytes 0) busy0).hub.queue 0).busy = true ∧ (published (slipBytes 0) busy0).hub.nextQueue = some 0 ∧
      (published (slipBytes 0) busy0).chunkMoves 0x12000 128 = false) ∧
    ((published (slipBytes 0)).hub.waitingSlips = [] ∧ (published (slipBytes 0)).hub.nextQueue = some 0 ∧
      (checkSlip (readBytes (published (slipBytes 0)).mem 0x12000 128) fromQueue).toOption.map Slip.holds = some []) ∧
    (checkSlip (readBytes (published [1]).mem 0x12000 128) fromQueue).toOption = none ∧
    ((checkSlip (readBytes (published (slipBytes 1)).mem 0x12000 128) fromQueue).toOption.map (fun x =>
        x.holds.map (fun h => decide (h.2 ≤ (published (slipBytes 1)).timeline h.1.toNat))) = some [false] ∧
      0 < (published (slipBytes 1)).hub.freeHolds) ∧
    ((releasedBench 0).overdue = [] ∧ (releasedBench 65536).overdue.length = 1) := by decide +kernel
theorem witness_SlipsAndPlacement_full (h : Hub) : { h with holds := List.replicate 16320 (1, ⟨placedLoan.slip, [], 0, false⟩) }.freeHolds = 0 := by
  simp only [Hub.freeHolds, List.filter_replicate, Bool.not_false, if_true, List.length_replicate]; omega

/-- A slip of 16 × 4 bays for die 0, and the device in which one rectangle there is sound and holds loans in every context of a bay. -/
def bigSlip : Released := ⟨{ placedLoan.slip with w := 16, h := 4, dies := 1 }, 0, 0, none, 0, false⟩
@[inherit_doc bigSlip] def crowded : State :=
  let full : Bay := { Bay.empty with ctxs := [0, 1, 2, 3].map (fun c => (c, { BayCtx.empty with st := .loaned })) }
  let broken : Bay := { Bay.empty with badNodes := (List.range 8).map (fun i => (i, BitVec.ofNat 16 (64 * i + 1))) }
  { up with bays := [(0, broken), (16, broken), (32, broken), (48, broken), (64, full)], hub := { up.hub with released := [bigSlip] }, cycle := 65536 }

theorem witness_PlacementDecision :
    (let s := releasedBench 0
     let u := s.updHub (fun h => h.standing s.cycle)
     u.hub.released = [] ++ aReleased :: [] ∧ (u.tryPlace aReleased).isSome = true) ∧
    (let u := up.updHub (fun h => { h with released := [{ aReleased with held := true }] }.standing up.cycle)
     ∀ x ∈ u.hub.released, u.tryPlace x = none) ∧
    (crowded.overdue = [bigSlip] ∧ crowded.choices bigSlip (crowded.slipImage bigSlip.slip) = [] ∧ (crowded.soonest bigSlip).isSome = true) := by
  decide +kernel

/-- The loan in another state of its life. -/
def inState (st : LoanState) (k : Loan → Loan := id) (l : Loan) : Loan := { k l with state := st }
/-- A loan that fetches the image at an address. -/
def fetching (l : Loan) : Loan := inState .fetching (fun l => { l with slip := { l.slip with cfg := 0x10000 } }) l
/-- The bench with the image there, or nothing mapped. -/
def imageBench (there : Bool) : State :=
  let s := mapped (benchLoan fetching) []
  if there then { s with mem := s.mem ++ (tinyImage.zipIdx.filter (fun p => p.1 != 0)).map (fun p => (0x10000 + p.2, p.1)) } else benchLoan fetching
/-- What the loader makes of it. -/
def readImage (s : State) : Except CfgBad Image :=
  s.loadImage placedLoan.slip.space 0x10000 ⟨placedLoan.w, placedLoan.h, placedLoan.slip.priv, placedLoan.slip.mstore⟩
/-- A loan whose image is written into a context of a bay that is awake, with a store that holds a frame of class 0, or none. -/
def writing (store : Nat) (l : Loan) : Loan :=
  { inState .writing id l with image := { l.image with classes := [(0, ⟨4, 0⟩)] }, storeSize := store, frames := [] }
@[inherit_doc writing] def writeBench (store : Nat) : State := (benchLoan (writing store)).updBay 0 (fun b => { b with awake := true })
/-- The first activation after the image's words are written. -/
def starts (store : Nat) : Bool :=
  let s := writeBench store
  let l := writing store placedLoan
  let u := (s.writeContext 1 l l.ctx l.image l.hit).updLoan 1 (fun l => { l with images := AMap.put l.images l.ctx l.image, drops := [] })
  (((u.clearWindows l l.image).writeRecords l l.image).startFirst 1).isSome
/-- A prefetch in progress. -/
def aPrefetch : Prefetch := ⟨none, 0, 0, 1, 1, 1, 0, 0x10000, false, 0⟩

theorem witness_ImagesLoaded_refused :
    AMap.find (imageBench false).loans 1 = some (fetching placedLoan) ∧ (fetching placedLoan).state = .fetching ∧ (fetching placedLoan).exitTaken = none ∧
    (fetching placedLoan).hit = false ∧ (readImage (imageBench false)).toOption.isNone = true ∧
    (imageBench false).stopped .loader = false ∧ (imageBench true).stopped .loader = false := by decide +kernel
theorem witness_ImagesLoaded_read : ((readImage (imageBench true)).toOption.map (fun img => argsOk (img.placed placedLoan.rect) placedLoan.slip.args &&
    ((imageBench true).takeNeed 1 (fetching placedLoan) ((img.placed placedLoan.rect).need placedLoan.slip.mstore)).isSome)) = some true := by decide +kernel
theorem witness_ImagesLoaded_written :
    (AMap.find (benchLoan (writing 4096)).loans 1 = some (writing 4096 placedLoan) ∧ (benchLoan (writing 4096)).allAwake placedLoan.rect = false) ∧
    (AMap.find (writeBench 4096).loans 1 = some (writing 4096 placedLoan) ∧ (writeBench 4096).allAwake placedLoan.rect = true) ∧
    starts 4096 = true ∧ starts 0 = false := by decide +kernel
theorem witness_ImagesLoaded_prefetched :
    let s (there : Bool) := (imageBench there).updHub (fun h => { h with prefetches := [(2, aPrefetch)] })
    AMap.find (s true).hub.prefetches 2 = some aPrefetch ∧ aPrefetch.read = none ∧ { aPrefetch with read := some Image.empty }.read = some Image.empty ∧
    ∀ b ∈ [true, false], ((s b).loadImage aPrefetch.space aPrefetch.addr ⟨aPrefetch.w, aPrefetch.h, aPrefetch.priv, aPrefetch.mstore⟩).toOption.isSome = b := by
  decide +kernel

/-- A loan that drains for an exit. -/
def exiting (ret : Bool) (l : Loan) : Loan :=
  { inState .exiting id l with exitTaken := some 2, image := { l.image with exits := [(2, ⟨ret, 0x10000⟩)] } }

theorem witness_RetirementAndReturn :
    (AMap.find (benchLoan inLoop).loans 1 = some (inLoop placedLoan) ∧ (inLoop placedLoan).retirable = some ⟨1, 1, [0], [], false, [], []⟩) ∧
    (placedLoan.retirable = none ∧ placedLoan.releasing = []) ∧
    (let l := { placedLoan with exits := [(0, 0, 5, 2)] }
     l.exitTaken = none ∧ l.state = .running ∧ (firstExit (benchLoan id).cycle l.exits).map (fun e => e.2.2.2) = some 2) ∧
    ((exiting true placedLoan).exitTaken.isSome = true ∧ (exiting true placedLoan).state = .exiting ∧ (exiting true placedLoan).byKernel = false ∧
      (exiting true placedLoan).exitEntry = some (2, ⟨true, 0x10000⟩) ∧ (exiting false placedLoan).exitEntry = some (2, ⟨false, 0x10000⟩)) ∧
    ((benchLoan (exiting true)).drained 1 (exiting true placedLoan) = true ∧
      (accBench (anAccess .load .issued) (exiting true)).drained 1 (exiting true placedLoan) = false) ∧
    (inState .switching id placedLoan).state = .switching ∧ placedLoan.slip.cmpv = false ∧ (benchLoan id).stopped .timelines = false ∧
    (benchLoan (exiting false)).prefetchesOn (exiting false placedLoan) 0x10000 = false ∧ AMap.wf (benchLoan id).loans = true := by decide +kernel

/-! ### Witnesses: calls, switches and the debugger -/

/-- A configuration call under way, of a stage, in a region of two bays. -/
def aCall (stage : CallStage) (quiet : Nat) : Calling :=
  ⟨0, 0, 0, 0, 0, 0, Tag.initial 1, 0, 4, 1, 1, [], [], Image.empty, true, 0, 1, stage, quiet, [], 1, Image.empty, []⟩
@[inherit_doc aCall] def inCall (stage : CallStage) (quiet : Nat) (l : Loan) : Loan := { l with w := 2, calling := some (aCall stage quiet) }
/-- A loan whose called activation 1 returns. -/
def aRecord : CallRec := ⟨Tag.initial 1, 0, 4, 1, 0, 0, 1, false, Image.empty, [], 0, 1, []⟩
@[inherit_doc aRecord] def thawing (l : Loan) : Loan :=
  { l with
    acts := [(0, ⟨0, 1, none, true, false, [], [], 0⟩), (1, ⟨1, 2, some aRecord, false, false, [], [], 0⟩)]
    thaw := some ⟨1, 0, 0, [], 0, [], []⟩ }

theorem witness_CallEvents :
    (∀ st ∈ [CallStage.fetching, .freezing, .entering, .planes], ∀ n ∈ [0, 3], AMap.find (benchLoan (inCall st n)).loans 1 = some (inCall st n placedLoan) ∧
      (inCall st n placedLoan).state = .running ∧ (inCall st n placedLoan).calling = some (aCall st n)) ∧
    ((inCall .freezing 0 placedLoan).marked.length + 1 < (inCall .freezing 0 placedLoan).w * (inCall .freezing 0 placedLoan).h ∧
      (aCall .freezing 2).quiet < 3 ∧ 3 ≤ (aCall .freezing 3).quiet ∧ (aCall .fetching 0).stage ≠ .planes) ∧
    (AMap.find (benchLoan thawing).loans 1 = some (thawing placedLoan) ∧ (thawing placedLoan).state = .running ∧
      (thawing placedLoan).thaw = some ⟨1, 0, 0, [], 0, [], []⟩ ∧ (AMap.find (thawing placedLoan).acts 1).bind Activation.call = some aRecord ∧
      (AMap.find (thawing placedLoan).acts aRecord.callerAct).isSome = true ∧ (thawing placedLoan).marked = []) ∧ placedLoan.thaw = none := by decide +kernel

/-- A loan with a save area, and what is kept of it. -/
def withSave (save : Nat) (l : Loan) : Loan := { l with slip := { l.slip with save := save } }
/-- A loan that is being saved. -/
def saving (l : Loan) : Loan := withSave 0x100000 (inState .saving id l)
/-- The bench with a snapshot of its loan. -/
def snapBench (l : Loan → Loan) : State := { benchLoan l with snaps := [(1, ⟨[], [], []⟩)] }

theorem witness_SwitchEvents_requests :
    (placedLoan.state = .running ∧ placedLoan.slip.save = 0) ∧ (exiting true placedLoan).state ≠ .running ∧
    (let l := withSave 0x100000 placedLoan
     AMap.find (benchLoan (withSave 0x100000)).loans 1 = some l ∧ l.state = .running ∧ l.slip.save ≠ 0 ∧ l.calling = none ∧ l.thaw = none ∧
       ∀ p ∈ l.acts, p.2.call = none ∨ p.2.start ≠ (benchLoan id).cycle) ∧
    (let l := inState .switching id placedLoan
     AMap.find (benchLoan (inState .switching)).loans 1 = some l ∧ l.state = .switching ∧ l.exitTaken = none ∧
       (benchLoan (inState .switching)).settled 1 l = true ∧
       ({ accBench { anAccess .load .issued with kind := .word } (inState .switching withWindow) with cycle := 0 }).settled 1 (inState .switching withWindow placedLoan) =
         false) := by decide +kernel
theorem witness_SwitchEvents_unmapped : (saving placedLoan).state = .saving ∧ (saving placedLoan).saveFault = false ∧
    AMap.find (benchLoan saving).snaps 1 = none ∧ walk (benchLoan saving) 0 0x101000 = .error 0 := by decide +kernel
/-- Two memories with the same bytes below 64 KiB. -/
def sameLow (m n : List Host.Cell) : Prop := ∀ a, a < 65536 → readByte m a = readByte n a
theorem sameLow_word {m n : List Host.Cell} (h : sameLow m n) (a : Nat) (ha : a + 8 ≤ 65536) : readW64 m a = readW64 n a := by
  unfold readW64 readBytes
  congr 2
  exact List.map_congr_left fun i hi => h _ (by have := List.mem_range.1 hi; omega)
theorem pieces_within (fuel va n : Nat) : ∀ p ∈ pagePieces fuel va n, va ≤ p.1 ∧ p.1 < va + n := by
  induction fuel generalizing va n with
  | zero => simp [pagePieces]
  | succ f ih =>
    intro p hp
    unfold pagePieces at hp
    split at hp
    · simp at hp
    · rcases List.mem_cons.1 hp with rfl | hp
      · dsimp; omega
      · have := ih _ _ p hp; omega
theorem writeVirt_some (s : State) (hw : ∀ m, sameLow m s.mem → ∀ va, va < 2 ^ 34 → walkFrom m va [0, 1, 2, 3] (AMap.get s.trans.roots 0 0) = .ok ⟨0, 2 ^ 18, true⟩)
    (va : Nat) (bs : List Byte) (h1 : 65536 ≤ va) (h2 : va + bs.length ≤ 2 ^ 34) :
    ∃ u, s.writeVirt 0 va bs = some u ∧ u.trans = s.trans ∧ sameLow u.mem s.mem := by
  unfold State.writeVirt
  have hr := pieces_within (bs.length / 65536 + 2) va bs.length
  rw [show pagePieces (bs.length / 65536 + 2) va bs.length = rangePieces va bs.length from rfl] at hr
  generalize rangePieces va bs.length = ps at hr ⊢
  suffices h : ∀ (t : State) rest, t.trans = s.trans → sameLow t.mem s.mem → ∃ u, Option.map Prod.fst (ps.foldl _ (some (t, rest))) = some u ∧
      u.trans = s.trans ∧ sameLow u.mem s.mem from h s bs rfl (fun _ _ => rfl)
  induction ps with
  | nil => exact fun t rest ht hl => ⟨t, rfl, ht, hl⟩
  | cons p ps ih =>
    intro t rest ht hl
    have hp := hr p (.head _)
    have hk : walk t 0 p.1 = .ok ⟨0, 2 ^ 18, true⟩ := by unfold walk; rw [ht]; exact hw _ hl p.1 (by omega)
    simp only [List.foldl_cons]
    rw [hk]
    refine ih (fun q hq => hr q (.tail _ hq)) _ (rest.drop p.2) ht ?_
    intro a ha
    have : (⟨0, 2 ^ 18, true⟩ : Page).addr p.1 = p.1 := by simp only [Page.addr]; omega
    dsimp only
    rw [this, readByte_writeBytes_other t.mem p.1 a _ (.inl (by omega))]
    exact hl a ha
theorem flatMap_bound {α β : Type} (l : List α) (f : α → List β) (k : Nat) (h : ∀ x, (f x).length ≤ k) : (l.flatMap f).length ≤ l.length * k := by
  induction l with
  | nil => simp
  | cons x l ih => simp only [List.flatMap_cons, List.length_append, List.length_cons]; have := h x; rw [Nat.add_mul]; omega
theorem planeBytes_bound (p : Plane) : (planeBytes p).length ≤ 256 := by
  unfold planeBytes
  rw [List.length_append]
  refine Nat.le_trans (Nat.add_le_add (flatMap_bound _ _ 56 fun q => flatMap_bound _ _ 14 fun i => ?_) (flatMap_bound _ _ 4 fun i => ?_)) (by simp)
  · cases (p.queue q)[i]? <;> simp [entryBytes, leBytes]
  · simp [leBytes]
theorem elementBlock_bound (s : State) (id : Nat) (l : Loan) (i : Nat) : (s.elementBlock id l i).length ≤ 4096 := by
  unfold State.elementBlock
  simp only [List.length_append]
  refine Nat.le_trans (Nat.add_le_add (Nat.add_le_add (flatMap_bound _ _ 256 fun j => ?_) (flatMap_bound _ _ 256 fun j => ?_))
    (flatMap_bound _ _ 256 fun j => ?_)) (by simp)
  · split
    · exact flatMap_bound (List.range 64) _ 4 fun n => by simp [leBytes]
    · rw [List.length_replicate]
  · split
    · simp only [State.slotBytes, State.freeBytes, List.length_append, List.length_take, List.length_map, List.length_range, leBytes,
        List.length_replicate, List.length_cons, List.length_nil]
      omega
    · simp only [List.length_replicate]; omega
  · split
    · exact planeBytes_bound _
    · rw [List.length_replicate]
theorem saveBody_bound (s : State) (id : Nat) (l : Loan) (h : l.w * l.h ≤ 128) : (s.saveBody id l).length ≤ 2 ^ 27 := by
  unfold State.saveBody
  rw [List.length_append]
  refine Nat.le_trans (Nat.add_le_add_left (flatMap_bound _ _ 4096 fun j => elementBlock_bound s id l j) _) ?_
  simp only [State.freeBytes, List.length_map, List.length_range]
  omega
theorem mapped_walk (s : State) (m : List Host.Cell) (h : sameLow m (mapped s []).mem) (va : Nat) (hv : va < 2 ^ 34) :
    walkFrom m va [0, 1, 2, 3] 0x1000 = .ok ⟨0, 2 ^ 18, true⟩ := by
  have e0 : readW64 m 0x1000 = 0x2001 := (sameLow_word h _ (by decide)).trans (by show readW64 (mapped up []).mem _ = _; decide +kernel)
  have e1 : readW64 m 0x2000 = 7 := (sameLow_word h _ (by decide)).trans (by show readW64 (mapped up []).mem _ = _; decide +kernel)
  have i0 : va / 2 ^ 43 % 512 = 0 := by omega
  have i1 : va / 2 ^ 34 % 512 = 0 := by omega
  have e0' : readW64 m (0x1000 + 8 * (va / 2 ^ (43 - 9 * 0) % 512)) = 0x2001 := by rw [show va / 2 ^ (43 - 9 * 0) % 512 = 0 from i0]; exact e0
  have e1' : readW64 m (0x2000 + 8 * (va / 2 ^ (43 - 9 * 1) % 512)) = 7 := by rw [show va / 2 ^ (43 - 9 * 1) % 512 = 0 from i1]; exact e1
  have n0 : ((0x2001 : W64).toNat) = 0x2001 := rfl
  have n1 : ((7 : W64).toNat) = 7 := rfl
  simp only [walkFrom, e0', n0, show 0x2001 % 2 ^ 52 / 4096 * 4096 = 0x2000 from rfl, e1', n1]
  rfl
/-- A save area that is mapped is written, whatever is saved. -/
theorem witness_SwitchEvents_written :
    let s := mapped (benchLoan saving) []
    let l := saving placedLoan
    AMap.find s.loans 1 = some l ∧ l.state = .saving ∧ l.saveFault = false ∧ AMap.find s.snaps 1 = none ∧
    ∃ u v, s.writeVirt l.slip.space (l.slip.save + 4096) (s.saveBody 1 l) = some u ∧
      u.writeVirt l.slip.space l.slip.save (saveHeader s l 2 (crc32 (s.saveBody 1 l))) = some v := by
  refine ⟨by decide +kernel, by decide, by decide, by decide, ?_⟩
  obtain ⟨u, hu, ht, hl⟩ := writeVirt_some (mapped (benchLoan saving) []) (fun m h va hv => mapped_walk _ m h va hv) 0x101000
    ((mapped (benchLoan saving) []).saveBody 1 (saving placedLoan)) (by decide)
    (by have := saveBody_bound (mapped (benchLoan saving) []) 1 (saving placedLoan) (by decide); omega)
  obtain ⟨v, hv, _⟩ := writeVirt_some u (fun m h va hva => by rw [ht]; exact mapped_walk _ m (fun a ha => (h a ha).trans (hl a ha)) va hva) 0x100000
    (saveHeader (mapped (benchLoan saving) []) (saving placedLoan) 2 (crc32 ((mapped (benchLoan saving) []).saveBody 1 (saving placedLoan)))) (by decide)
    (by simp only [saveHeader, leBytes, List.length_append, List.length_map, List.length_range, List.length_replicate, List.length_cons,
      List.length_nil]; omega)
  exact ⟨u, v, hu, hv⟩
theorem witness_SwitchEvents_restores :
    (let l := inState .switchedOut id placedLoan
     AMap.find (snapBench (inState .switchedOut)).loans 1 = some l ∧ l.state = .switchedOut ∧
       AMap.find (snapBench (inState .switchedOut)).snaps 1 = some ⟨[], [], []⟩ ∧ l.restoreMark = false ∧ { l with restoreMark := true }.restoreMark = true) ∧
    (AMap.find (snapBench saving).loans 1 = some (saving placedLoan) ∧ (saving placedLoan).state = .saving ∧
      ((snapBench saving).updBay 0 (fun b => { b with awake := true })).allAwake placedLoan.rect = true) := by decide +kernel

theorem witness_ColophonKernelWrites : ((colState 3).bay 0).colophon.run = true ∧ (up.bay 0).colophon.run = false := by decide +kernel

/-- A source with nothing in it, and one with a slip for a queue that is not enabled. -/
def aSource : GlaedSource := ⟨[], [], [], [], [], [(5, 1)], [], [], [], []⟩

theorem witness_Glaed :
    ((up.startSource aSource).isSome = true ∧ (up.startSource { aSource with data := [(0x10000, [1])] }).isNone = true) ∧ 0 < 1 ∧
    AMap.find up.loans 1 = none ∧ (AMap.find (benchLoan id).loans 1 = some placedLoan ∧ placedLoan.state = .running) ∧
    (inState .switchedOut id placedLoan).state = .switchedOut := by decide +kernel

/-- The step of the run on the bench, and whether the operands pass on to other elements. -/
def runNext : Option StepPlan := planStep (runBench.updEl 0 (fun e => e.updCtx 0 (fun x => x.mxDue runBench.cycle))) (withWindow placedLoan) 0 0 aRun

theorem witness_EventsComplete_pages_and_decanters :
    (up.usesPages 0 (up.entryPages 0 0x20000 0).1 (up.entryPages 0 0x20000 0).2 = false ∧ (2 ^ 52 - 8) + 8 ≤ 2 ^ 52) ∧
    ({ benchLoan id with trans := { up.trans with reserved := [(0, 9)] } }.trans.reserved.contains (0, 9) = true ∧
      ∀ p ∈ (benchLoan id).loans, ∀ f ∈ p.2.frames, f.2.parked = none) ∧
    (isArmed (trigger true id) true = true ∧ ((trigger true id).bay 0).fireQueue.length < 16) ∧
    (let s := (benchLoan (twoBlocks 2)).updBay 0 (fun b => { b with decanters := [(1, aFiring 0)] })
     AMap.find (s.bay 0).decanters 1 = some (aFiring 0) ∧ ((twoBlocks 2 placedLoan).templateAt 0 0).map Template.nblk = some 2 ∧ s.blockOf 0 1 = none ∧
       (twoBlocks 2 placedLoan).state ≠ .switching ∧ (aFiring 0).block + 1 < 2) := by decide +kernel
theorem witness_EventsComplete_matrix :
    (AMap.find runBench.loans 1 = some (withWindow placedLoan) ∧ ((runBench.el 0).ctx 0).loan = some 1 ∧ (withWindow placedLoan).ended = false ∧
      aRun.done < aRun.total ∧ runNext.isSome = true) ∧
    (AMap.get (runBench.bay ((withWindow placedLoan).bayKey 0)).tiles Tile.empty (tileKey 0 0)).mode ≠ .matrix := by decide +kernel
theorem witness_EventsComplete_hub :
    (let a := anArrival 4 false
     AMap.find (barrierBench a 2 []).hub.arrivals 6 = some a ∧ (barrierBench a 2 []).barrierOf a = some ⟨4, 2, []⟩ ∧ a.live = false ∧ 2 + 1 ≠ 4) ∧
    (let l := inState .writing (fun l => { l with exitTaken := some 2 }) placedLoan
     let s := (benchLoan (inState .writing (fun l => { l with exitTaken := some 2 }))).updBay 0 (fun b => { b with awake := true })
     AMap.find s.loans 1 = some l ∧ s.stopped .loader = false ∧ s.allAwake l.rect = true ∧ l.exitTaken.isSome = true) ∧
    (let s := releasedBench 0
     s.stopped .loader = false ∧ (s.hub.standing s.cycle).released = [aReleased] ∧ ((s.updHub (fun h => h.standing s.cycle)).tryPlace aReleased).isSome = true) ∧
    (AMap.wf (benchLoan id).loans = true ∧ placedLoan.slip.cmpv = false) ∧
    ((up.bay 0).colophon.run = false ∧ ((colState 3).bay 0).colophon.run = true) ∧ (up.startSource aSource).isSome = true := by decide +kernel

/-! ### Witnesses: the machine as a whole -/

/-- The bench's word as the handler that fires next. -/
def addBench : State := benchOf (.iadd (q 2 .i32) (.d bD)) [7, 5]

theorem witness_StepRuns_first : { up with inputs := [.reset] }.inputs = .reset :: [] ∧ up.inputs = [] ∧
    { up with glaed := { up.glaed with stopped := true } }.glaed.stopped = true ∧ up.glaed.stopped = false := by decide
theorem witness_StepRuns_colophon : readyColophon (colState 3) = some 0 ∧
    decodeColophon (AMap.get ((colState 3).bay 0).colophon.program 0 ((colState 3).bay 0).colophon.pc) = .ok (.emov 1 2) ∧
    (let s := placeColophonWord State.reset 0x50000000
     readyColophon s = some 0 ∧ (decodeColophon (AMap.get (s.bay 0).colophon.program 0 (s.bay 0).colophon.pc)).toOption = none) := by decide +kernel
theorem witness_StepRuns_agenda : readyColophon { up with agenda := [(0, .reset), (5, .orderRingTick)] } = none ∧
    (0 : Nat) ≤ { up with agenda := [(0, .reset)] }.cycle ∧ ∀ p ∈ { up with agenda := [(5, .orderRingTick)] }.agenda.head?, up.cycle < p.1 := by decide +kernel
theorem witness_StepRuns_firing : readyColophon addBench = none ∧ (∀ p ∈ addBench.agenda.head?, addBench.cycle < p.1) ∧
    addBench.chosen = none ∧
    (match addBench.choosing exec with
     | (s, [x]) => x.el == 0 && x.ctx == 0 && x.hnd == 0 &&
        decodeHandler (AMap.get ((s.el x.el).ctx x.ctx).handlers nopWord x.hnd) == .ok (.iadd (q 2 .i32) (.d bD)) && !s.breaksAt x.el x.ctx x.hnd
     | _ => false) = true ∧ (up.choosing exec).2 = [] ∧ { up with chosen := some [] }.chosen = some [] := by decide +kernel
theorem witness_NopWord : (0xBD00000000000001 : W64).extractLsb' 56 8 = 0xBD ∧ (0xBD00000000000001 : W64) ≠ nopWord ∧
    AMap.find Image.empty.handlers (handlerKey 5 7) = none := by decide
theorem witness_EncodingsAgree : wellFormed (.iadd (q 2 .i32) (.d bD)) = true ∧ (handlerView (.iadd (q 2 .i32) (.d bD))).isSome = true ∧
    (decodeHandler 0x0020080102000020).toOption.isSome = true ∧ encodeColophon (.efma 8 6 2) = some 0x0E188000 := by decide
theorem witness_MemoryInvariant : Memory.wf addBench.mem = true ∧ Memory.wf addBench.tmem = true ∧ Memory.wf addBench.boot.staging = true ∧
    (match step addBench with | .next t => t.fires == 1 | _ => false) = true := by decide +kernel
/-- A report of a fault in the bench's frame. -/
def aReport (code : Nat) : Report := { Report.of code with loan := some 1, tag := some (Tag.initial 1) }
theorem witness_FaultTaking : (aReport fTRAP).loan = some 1 ∧ (aReport fTRAP).tag = some (Tag.initial 1) ∧
    AMap.find (benchLoan id).loans 1 = some placedLoan ∧ AMap.find placedLoan.frames (Tag.initial 1).frame.toNat = some benchFrame ∧
    benchFrame.released = false ∧ stopsFrame (aReport fTRAP).code = true ∧ benchFrame.parked = none ∧ stopsFrame (aReport fTLSAT).code = false := by
  decide +kernel
theorem witness_ElementFrame : ((handlerView (.iadd (q 2 .i32) (.d bD))).map (fun v => decide (v.op.toNat < 0x6A))) = some true ∧
    (match exec (.iadd (q 2 .i32) (.d bD)) addBench with | .next t => t.fires == 1 | _ => false) = true := by decide +kernel
end Sys2Proof.Tests
end

section
/-! PROOFS. What the hub leaves alone while it re-evaluates what hangs on a timeline, and what a write to a timeline leaves. -/
namespace Sys2Proof.Machine

/-- A change on the hub's side of the part: the hub, device memory, the agenda and the model's own numbers may change, and nothing
else, and of the hub no timeline changes. Releases, pool guards, refusals and answers of waits are such changes. -/
structure HubSide (s t : State) : Prop where
  frame : t = { s with hub := t.hub, mem := t.mem, nextId := t.nextId, agenda := t.agenda }
  timelines : t.hub.timelines = s.hub.timelines

theorem HubSide.refl (s : State) : HubSide s s := ⟨rfl, rfl⟩

theorem HubSide.trans {s t u : State} (h : HubSide s t) (k : HubSide t u) : HubSide s u :=
  ⟨k.frame.trans (by rw [h.frame]), k.timelines.trans h.timelines⟩

theorem HubSide.foldl {β : Type} (f : State → β → State) (h : ∀ s b, HubSide s (f s b)) (bs : List β) (s : State) :
    HubSide s (bs.foldl f s) := by
  induction bs generalizing s with
  | nil => exact .refl s
  | cons b bs ih => exact (h s b).trans (ih (f s b))

theorem HubSide.timeline {s t : State} (h : HubSide s t) (n : Nat) : t.timeline n = s.timeline n := by
  simp [State.timeline, h.timelines]

/-! ### Each operation of the hub -/

@[simp] theorem Hub.release_timelines (h : Hub) (now rank : Nat) (slip : Slip) : (h.release now rank slip).timelines = h.timelines := rfl

@[simp] theorem Hub.record_timelines (h : Hub) (r : FaultRec) : (h.record r).timelines = h.timelines := by
  unfold Hub.record Hub.enter
  dsimp only
  split <;> split <;> rfl

theorem State.updHub_hubSide (s : State) {f : Hub → Hub} (h : (f s.hub).timelines = s.hub.timelines) : HubSide s (s.updHub f) := ⟨rfl, h⟩

theorem State.later_hubSide (s : State) (d : Nat) (i : Instr) : HubSide s (s.later d i) := ⟨rfl, rfl⟩

theorem State.refuseSlip_hubSide (s : State) (bs : List Byte) (reason off : Nat) : HubSide s (s.refuseSlip bs reason off) :=
  s.updHub_hubSide (Hub.record_timelines _ _)

theorem State.accept_hubSide {s t : State} {slip : Slip} {rank : Nat} {reserved : Bool} (h : s.accept slip rank reserved = some t) :
    HubSide s t := by
  unfold State.accept at h
  dsimp only at h
  split at h
  · cases h; exact s.updHub_hubSide rfl
  · split at h
    · cases h; exact ⟨rfl, rfl⟩
    · cases h

theorem State.acceptOrWait_hubSide (s : State) (slip : Slip) (rank : Nat) : HubSide s (s.acceptOrWait slip rank) := by
  unfold State.acceptOrWait
  split
  next h => exact State.accept_hubSide h
  next => exact s.updHub_hubSide rfl

theorem State.acceptCopy_hubSide (s : State) (p : Pool) (rank : Nat) (bs : List Byte) : HubSide s (s.acceptCopy p rank bs) := by
  unfold State.acceptCopy
  split
  · exact s.acceptOrWait_hubSide _ _
  · exact s.refuseSlip_hubSide _ _ _

theorem State.poolLaunch_hubSide (s : State) (g e : Nat) : HubSide s (s.poolLaunch g e) := by
  unfold State.poolLaunch
  split
  · exact .refl s
  · split
    · exact .refl s
    · dsimp only
      split
      · refine HubSide.trans ?_ (State.acceptCopy_hubSide _ _ _ _)
        exact ⟨rfl, rfl⟩
      · exact ⟨rfl, rfl⟩

theorem State.poolDrain_hubSide (s : State) (g : Nat) : HubSide s (s.poolDrain g) := by
  unfold State.poolDrain
  split
  · exact .refl s
  next p _ =>
    split
    · exact .refl s
    · have launches := HubSide.foldl (fun u e => u.poolLaunch g e) (fun u e => u.poolLaunch_hubSide g e) (s.poolHeld p) s
      dsimp only
      split
      · exact launches
      · have disarmed : HubSide s (State.updHub _ fun h => { h with pools := AMap.del h.pools g }) := launches.trans (State.updHub_hubSide _ rfl)
        split
        · exact disarmed.trans (State.acceptCopy_hubSide _ _ _ _)
        · exact disarmed

theorem State.tlTake_hubSide (s : State) (t : Nat) : HubSide s (s.tlTake t) := s.updHub_hubSide rfl

theorem State.reevaluate_hubSide (s : State) (t : Nat) : HubSide s (s.reevaluate t) := by
  unfold State.reevaluate
  dsimp only
  refine .trans (.trans (State.updHub_hubSide s rfl) (.foldl _ (fun u p => ?_) _ _)) (.foldl _ (fun u p => ?_) _ _)
  · exact u.updHub_hubSide rfl
  · exact .trans (u.updHub_hubSide rfl) (State.later_hubSide _ _ _)

/-! ### Writes to a timeline (R99 to R102) -/

/-- What is left of a state when a timeline takes a value: that value, every other timeline, and all that is not on the hub's side. -/
structure TimelineSet (s : State) (n v : Nat) (t : State) : Prop where
  frame : t = { s with hub := t.hub, mem := t.mem, nextId := t.nextId, agenda := t.agenda }
  same : t.timeline n = v
  other : ∀ m, m ≠ n → t.timeline m = s.timeline m

theorem TimelineSet.after {s t u : State} {n v : Nat} (h : HubSide s t) (k : TimelineSet t n v u) : TimelineSet s n v u :=
  ⟨k.frame.trans (by rw [h.frame]), k.same, fun m hm => (k.other m hm).trans (h.timeline m)⟩

theorem TimelineSet.before {s t u : State} {n v : Nat} (k : TimelineSet s n v t) (h : HubSide t u) : TimelineSet s n v u :=
  ⟨h.frame.trans (by rw [k.frame]), (h.timeline n).trans k.same, fun m hm => (h.timeline m).trans (k.other m hm)⟩

theorem State.putTimeline_set (s : State) (n : Nat) (v : W64) :
    TimelineSet s n v.toNat (s.updHub (fun h => { h with timelines := AMap.put h.timelines n v })) :=
  ⟨rfl, by simp [State.timeline], fun m hm => by simp [State.timeline, AMap.get_put_other _ _ _ hm]⟩

theorem State.setTimeline_set (s : State) (n : Nat) (v : W64) : TimelineSet s n v.toNat (s.setTimeline n v) := by
  have put := (State.putTimeline_set (s.tlTake n) n v).after (s.tlTake_hubSide n)
  refine (put.before (State.reevaluate_hubSide _ n)).before (HubSide.foldl _ (fun u p => ?_) _ _)
  split
  · exact u.poolDrain_hubSide _
  · exact .refl u

/-- An increment saturates (R101). -/
theorem State.incTimeline_set (s : State) (n i : Nat) (r : Report) :
    TimelineSet s n (min (s.timeline n + i) (2 ^ 64 - 1)) (s.incTimeline n i r) := by
  unfold State.incTimeline
  dsimp only
  split
  next h =>
    have hv : (BitVec.ofNat 64 (s.timeline n + i)).toNat = min (s.timeline n + i) (2 ^ 64 - 1) := by
      rw [BitVec.toNat_ofNat, Nat.mod_eq_of_lt h]; omega
    exact hv ▸ s.setTimeline_set n _
  next h =>
    have hv : (BitVec.ofNat 64 (2 ^ 64 - 1)).toNat = min (s.timeline n + i) (2 ^ 64 - 1) := by
      rw [Nat.min_eq_right (by omega)]; rfl
    exact hv ▸ (State.setTimeline_set _ n _).after (s.updHub_hubSide (Hub.record_timelines _ _))

end Sys2Proof.Machine
end

section
/-! PROOFS. O27: BAR 0 in the layout of R26, and the timeline window. -/
namespace Sys2Proof.Machine

/-! ### Writes to timelines from outside (R31) -/

theorem State.writeOutside_held {s : State} {n : Nat} (v : W64) (b : Bool) (hn : n < 65536) (hs : s.stopped .timelines = true) :
    s.writeOutside n v b = { s with hub := { s.hub with timelineHeld := s.hub.timelineHeld ++ [(n, v, b)] } } := by
  simp [State.writeOutside, Nat.not_le.mpr hn, hs, State.updHub]

theorem State.writeOutside_increment_set {s : State} {n : Nat} (v : W64) (hn : n < 65536) (hs : s.stopped .timelines = false) :
    TimelineSet s n (min (s.timeline n + v.toNat) (2 ^ 64 - 1)) (s.writeOutside n v true) := by
  simpa [State.writeOutside, Nat.not_le.mpr hn, hs] using s.incTimeline_set n v.toNat (Report.of fTLSAT)

theorem State.writeOutside_value_set {s : State} {n : Nat} (v : W64) (hn : n < 65536) (hs : s.stopped .timelines = false) :
    TimelineSet s n v.toNat (s.writeOutside n v false) := by
  simpa [State.writeOutside, Nat.not_le.mpr hn, hs] using s.setTimeline_set n v

theorem exec_kernelTimelineWrite (s : State) (n : Nat) (v : W64) (b : Bool) :
    exec (.kernelTimelineWrite n v b) s = .next (s.writeOutside n v b) := rfl

theorem exec_hostTimelineIncrement {s : State} (n : Nat) (v : W64) (h : s.barUp = true) :
    exec (.hostTimelineIncrement n v) s = .next (s.writeOutside n v true) := by
  show Host.Outcome.next (if s.barUp then s.incOutside n v else s) = _
  rw [if_pos h]; rfl

/-! ### Accesses to BAR 0 (R26, R33) -/

theorem exec_barRead (s : State) (off size : Nat) : exec (.registerWrite (.barRead off size)) s = .next (s.barRead off size) := rfl

theorem exec_barWrite (s : State) (off size : Nat) (v : W64) :
    exec (.registerWrite (.barWrite off size v)) s = .next (s.barWrite off size v) := rfl

theorem State.barUp_iff (s : State) : s.barUp = true ↔ s.boot.link = true ∧ s.boot.layout = true := by simp [State.barUp]

section Up
variable {s : State} (hl : s.boot.link = true) (hy : s.boot.layout = true)
include hl hy

theorem State.barRead_refused {off size : Nat} (h : size ≠ 8 ∨ off % 8 ≠ 0) :
    s.barRead off size = (s.updHub (fun h => h.badAccess off)).answerAgent 0 allOnes := by
  simp [State.barRead, hl, hy, h]

theorem State.barWrite_refused {off size : Nat} (v : W64) (h : size ≠ 8 ∨ off % 8 ≠ 0) :
    s.barWrite off size v = s.updHub (fun h => h.badAccess off) := by
  simp [State.barWrite, hl, hy, h]

theorem State.barRead_aligned {off : Nat} (h : off % 8 = 0) : s.barRead off 8 = s.answerAgent 0 (s.barLoad off) := by
  simp [State.barRead, hl, hy, h]

theorem State.barWrite_aligned {off : Nat} (v : W64) (h : off % 8 = 0) : s.barWrite off 8 v = s.barStore off v := by
  simp [State.barWrite, hl, hy, h]

end Up

/-- The timeline window lies above every other register of the layout. -/
theorem State.barLoad_timeline (s : State) {n : Nat} (hn : n < 65536) : s.barLoad (0x100000 + 8 * n) = BitVec.ofNat 64 (s.timeline n) := by
  unfold State.barLoad
  dsimp only
  simp (disch := omega) only [if_neg, if_pos]
  rw [show (0x100000 + 8 * n - 0x100000) / 8 = n by omega, State.timeline, BitVec.ofNat_toNat, BitVec.setWidth_eq]

@[inherit_doc State.barLoad_timeline] theorem State.barStore_timeline (s : State) {n : Nat} (v : W64) (hn : n < 65536) :
    s.barStore (0x100000 + 8 * n) v = s.writeOutside n v true := by
  unfold State.barStore
  simp (disch := omega) only [if_neg, if_pos]
  rw [show (0x100000 + 8 * n - 0x100000) / 8 = n by omega, State.incOutside]

/-- Settles O27: refused and aligned accesses by the dispatch of BAR 0, the timeline window by what a write to a timeline leaves
(`TimelineSet`). -/
theorem barRegisters : Obligations.BarRegisters := by
  intro s hl hy
  have up : s.barUp = true := s.barUp_iff.mpr ⟨hl, hy⟩
  refine ⟨fun off size h => ⟨?_, fun v => ?_⟩, fun n hn => ?_, fun n v b hn hs => ?_, fun n v hn hs => ⟨?_, ?_, ?_, ?_⟩⟩
  · exact ⟨_, exec_barRead s off size, State.barRead_refused hl hy h⟩
  · exact ⟨_, exec_barWrite s off size v, State.barWrite_refused hl hy v h⟩
  · refine ⟨_, exec_barRead s _ 8, ?_⟩
    rw [State.barRead_aligned hl hy (by omega), s.barLoad_timeline hn]
    rfl
  · exact ⟨_, exec_kernelTimelineWrite s n v b, State.writeOutside_held v b hn hs⟩
  · have wrote := State.writeOutside_increment_set v hn hs
    exact ⟨_, exec_hostTimelineIncrement n v up, wrote.same, wrote.other, by rw [wrote.frame], by rw [wrote.frame], by rw [wrote.frame]⟩
  · rw [exec_barWrite, exec_hostTimelineIncrement n v up, State.barWrite_aligned hl hy v (by omega), s.barStore_timeline v hn]
  · exact ⟨_, exec_kernelTimelineWrite s n v true, (State.writeOutside_increment_set v hn hs).same⟩
  · have wrote := State.writeOutside_value_set v hn hs
    exact ⟨_, exec_kernelTimelineWrite s n v false, wrote.same, wrote.other⟩

end Sys2Proof.Machine
end

section
/-! PROOFS. O25: the registers of a host queue, and the mailbox. -/
namespace Sys2Proof.Machine

/-! ### Host queues (R28) -/

theorem bitsOf_low {n : Nat} (v : W64) : BitVec.ofNat n (bitsOf v 0 n) = v.setWidth n := by
  exact BitVec.eq_of_toNat_eq (by simp [bitsOf])

theorem bitsOf_extract (v : W64) (lo n : Nat) : bitsOf v lo n = (v.extractLsb' lo n).toNat := by
  simp [bitsOf, BitVec.extractLsb'_toNat, Nat.shiftRight_eq_div_pow]

theorem HostQueue.publish_eq (q : HostQueue) (v : W64) :
    q.publish v = if 2 ^ q.log2n.toNat - 1 < (v.setWidth 16 - q.head).toNat then { q with ovf := true } else { q with tail := v.setWidth 16 } := by
  simp only [HostQueue.publish, bitsOf_low]

theorem HostQueue.setup_base (q : HostQueue) (v : W64) : q.setup false v =
    if q.en then q else { q with base := (v.extractLsb' 7 45).toNat * 128, head := 0, tail := 0, busy := false } := by
  simp only [HostQueue.setup, bitsOf_extract, Bool.false_eq_true, if_false]

theorem HostQueue.setup_size (q : HostQueue) (v : W64) : q.setup true v =
    if q.en then q else { q with log2n := v.setWidth 5, head := 0, tail := 0, busy := false } := by
  simp only [HostQueue.setup, bitsOf_low, if_true]

theorem HostQueue.enable_eq (q : HostQueue) :
    q.enable = if 4 ≤ q.log2n.toNat ∧ q.log2n.toNat ≤ 15 then { q with en := true } else q := by
  simp [HostQueue.enable, validLog]

@[simp] theorem Hub.queue_updQueue_same (h : Hub) (n : Nat) (f : HostQueue → HostQueue) : (h.updQueue n f).queue n = f (h.queue n) := by
  simp [Hub.queue, Hub.updQueue]

theorem Hub.queue_updQueue_other (h : Hub) {n m : Nat} (f : HostQueue → HostQueue) (hm : m ≠ n) : (h.updQueue n f).queue m = h.queue m :=
  AMap.get_upd_other _ _ _ hm

/-- One host queue has become `q`, and nothing else has changed. -/
def QueueSet (s : State) (n : Nat) (q : HostQueue) (t : State) : Prop :=
  t.hub.queue n = q ∧ (∀ m, m ≠ n → t.hub.queue m = s.hub.queue m) ∧ t = { s with hub := { s.hub with queues := t.hub.queues } }

theorem State.writeQueue_set {s : State} {n : Nat} {f : HostQueue → HostQueue} {q : HostQueue} (up : s.barUp = true) (hn : n < 64)
    (hf : f (s.hub.queue n) = q) : QueueSet s n q (s.writeQueue n f) := by
  simp only [State.writeQueue, up, hn, decide_true, Bool.and_true, if_true]
  exact ⟨hf ▸ Hub.queue_updQueue_same _ _ _, fun m hm => Hub.queue_updQueue_other _ _ hm, rfl⟩

/-! ### The mailbox (R32) -/

theorem State.writeHub_up {s : State} (f : Hub → Hub) (up : s.barUp = true) : s.writeHub f = s.updHub f := by simp [State.writeHub, up]

theorem exec_mbiWrite {s : State} {n : Nat} (v : W64) (up : s.barUp = true) (hn : n < 16) :
    exec (.mbiWrite n v) s = .next (s.updHub (fun h => h.mailIn n v)) := by
  show Host.Outcome.next (if n < 16 then s.writeHub _ else s) = _
  rw [if_pos hn, State.writeHub_up _ up]

theorem exec_mailboxRequest {s : State} (up : s.barUp = true) : exec .mailboxRequest s = .next (s.updHub (fun h => h.doorbell true false)) :=
  congrArg Host.Outcome.next (State.writeHub_up _ up)

theorem exec_mailboxAnswerClear {s : State} (up : s.barUp = true) :
    exec .mailboxAnswerClear s = .next (s.updHub (fun h => h.doorbell false true)) := congrArg Host.Outcome.next (State.writeHub_up _ up)

theorem Hub.doorbell_request (h : Hub) :
    h.doorbell true false = if h.req || h.ans then { h with errMbw := true } else { h with req := true } := by
  simp only [Hub.doorbell, Bool.true_and, Bool.or_true, Bool.not_false, Bool.and_true]

theorem Hub.doorbell_clear (h : Hub) : h.doorbell false true = { h with ans := false } := by simp [Hub.doorbell]

theorem exec_mailboxAnswer_waits {s : State} (ws : List (Nat × W64)) (h : s.hub.ringPos ≠ 832) :
    exec (.mailboxAnswer ws) s = .next (s.later 1 (.mailboxAnswer ws)) := by
  show execMailboxAnswer ws s = _
  simp [execMailboxAnswer, h]

theorem exec_mailboxAnswer_word {s : State} {n : Nat} (v : W64) (hn : n < 16) (h : s.hub.ringPos = 832) :
    exec (.mailboxAnswer [(n, v)]) s = .next (s.fresh.2.updHub (fun h => { h with
      mbo := AMap.put h.mbo n v, ans := true, scOrder := h.scOrder ++ [s.nextId] })) := by
  show execMailboxAnswer _ s = _
  simp [execMailboxAnswer, h, hn, State.fresh]

/-- Settles O25: each queue register by the equation of its operation on the queue, the mailbox by those of its doorbell. -/
theorem hostQueues : Obligations.HostQueues := by
  refine ⟨fun s n v hl hy hn => ?_, fun s => ⟨fun hl hy => ⟨fun n v hn => ?_, ?_, ?_⟩, ⟨_, rfl, rfl⟩, fun n v hn hr => ?_, fun ws hr => ?_⟩⟩
  · have up : s.barUp = true := s.barUp_iff.mpr ⟨hl, hy⟩
    exact ⟨⟨_, rfl, State.writeQueue_set up hn (HostQueue.publish_eq _ v)⟩, ⟨_, rfl, State.writeQueue_set up hn (HostQueue.setup_base _ v)⟩,
      ⟨_, rfl, State.writeQueue_set up hn (HostQueue.setup_size _ v)⟩, ⟨_, rfl, State.writeQueue_set up hn (HostQueue.enable_eq _)⟩,
      ⟨_, rfl, State.writeQueue_set up hn rfl⟩⟩
  · exact ⟨_, exec_mbiWrite v (s.barUp_iff.mpr ⟨hl, hy⟩) hn, rfl⟩
  · exact ⟨_, exec_mailboxRequest (s.barUp_iff.mpr ⟨hl, hy⟩), congrArg (fun h => { s with hub := h }) (Hub.doorbell_request _)⟩
  · exact ⟨_, exec_mailboxAnswerClear (s.barUp_iff.mpr ⟨hl, hy⟩), congrArg (fun h => { s with hub := h }) (Hub.doorbell_clear _)⟩
  · exact ⟨_, exec_mailboxAnswer_word v hn hr, rfl, AMap.get_put_same _ _ _ _, fun m hm => AMap.get_put_other _ _ _ hm, rfl⟩
  · exact ⟨_, exec_mailboxAnswer_waits ws hr, rfl⟩

end Sys2Proof.Machine
end

section
/-! PROOFS. O26: the registers of the fault ring, and the delivery of a record. -/
namespace Sys2Proof.Machine

theorem exec_fqRingSetup {s : State} (b : Bool) (v : W64) (up : s.barUp = true) :
    exec (.fqRingSetup b v) s = .next (s.updHub (fun h => h.fqSetup b v)) := congrArg Host.Outcome.next (State.writeHub_up _ up)

theorem exec_fqheadWrite {s : State} (v : W64) (up : s.barUp = true) :
    exec (.fqheadWrite v) s = .next (s.updHub (fun h => h.fqConsume v)) := congrArg Host.Outcome.next (State.writeHub_up _ up)

theorem Hub.fqSetup_base (h : Hub) (v : W64) :
    h.fqSetup false v = { h with fqBase := (v.extractLsb' 6 46).toNat * 64, fqHead := 0, fqTail := 0 } := by
  simp only [Hub.fqSetup, bitsOf_extract, Bool.false_eq_true, if_false]

theorem Hub.fqSetup_size (h : Hub) (v : W64) : h.fqSetup true v = { h with fqLog2n := v.setWidth 5, fqHead := 0, fqTail := 0 } := by
  simp only [Hub.fqSetup, bitsOf_low, if_true]

theorem Hub.fqConsume_eq (h : Hub) (v : W64) : h.fqConsume v =
    if 2 ^ h.fqLog2n.toNat < (h.fqTail - v.setWidth 16).toNat then { h with errFqh := true } else { h with fqHead := v.setWidth 16 } := by
  simp only [Hub.fqConsume, bitsOf_low]

/-! ### What a record releases (R93) -/

theorem exec_faultRecordDeliver_unhandled {s : State} {r : FaultRec} (h : s.hub.unhandled = some r) :
    exec .faultRecordDeliver s = .next ((s.releaseHandler r).updHub (fun h => { h with handled := r.seq.toNat })) := by
  show execFaultRecordDeliver s = _
  simp only [execFaultRecordDeliver, h]

theorem exec_faultRecordDeliver_handled {s : State} (h : s.hub.unhandled = none) : exec .faultRecordDeliver s = .next s.passRecord := by
  show execFaultRecordDeliver s = _
  simp only [execFaultRecordDeliver, h]

theorem State.releaseHandler_kernel (s : State) {r : FaultRec} (h : r.kown = true) : s.releaseHandler r = s := by
  simp [State.releaseHandler, h]

theorem State.releaseHandler_interrupt (s : State) {r : FaultRec} (hf : r.fhs = none) (hk : r.kown = false)
    (hc : ¬(r.code = 0x0D ∧ r.loan = 0xFFFF)) : s.releaseHandler r = s.updHub (fun h => h.interrupt r) := by
  unfold State.releaseHandler
  rw [if_neg (by simpa [hk] using hc), hf]

/-! ### A record passes to the ring (R30, R125, R328) -/

/-- A record that a unit holds enters the store at its end; what the ring, the order of SC operations and the outside hold stays. -/
theorem Hub.refillStore_one (h : Hub) : (∃ more, (h.refillStore 1).store = h.store ++ more) ∧ (h.refillStore 1).fqTail = h.fqTail ∧
    (h.refillStore 1).scOrder = h.scOrder ∧ (h.refillStore 1).timelineHeld = h.timelineHeld ∧
    (h.refillStore 1).agentWaiting = h.agentWaiting := by
  unfold Hub.refillStore
  split
  · exact ⟨⟨[], (List.append_nil _).symm⟩, rfl, rfl, rfl, rfl⟩
  · split
    · exact ⟨⟨_, rfl⟩, rfl, rfl, rfl, rfl⟩
    · exact ⟨⟨[], (List.append_nil _).symm⟩, rfl, rfl, rfl, rfl⟩

theorem State.agentsGo_none {s : State} (h : s.hub.agentWaiting = []) : s.agentsGo = s := by
  simp only [State.agentsGo, h, List.foldl_nil]
  rw [← h]; rfl

theorem State.outsideGoes_none {s : State} (ht : s.hub.timelineHeld = []) (ha : s.hub.agentWaiting = []) : s.outsideGoes = s := by
  simp only [State.outsideGoes, ht, List.foldl_nil]
  rw [← ht]; exact State.agentsGo_none ha

theorem State.passRecord_full {s : State} (h : s.hub.ringTakes = false) : s.passRecord = s := by
  unfold State.passRecord
  split
  · rfl
  · simp [h]

/-- The hub once its first record has passed: the others stay, and the record has its place in the order of SC operations. -/
def Hub.passed (h : Hub) (n : Nat) (rest : List FaultRec) : Hub :=
  { h with store := rest, fqTail := h.fqTail + 1, scOrder := h.scOrder ++ [n] }

theorem State.passRecord_takes {s : State} {r : FaultRec} {rest : List FaultRec} (hs : s.hub.store = r :: rest) (ht : s.hub.ringTakes = true)
    (hp : s.hub.ringPos = 832) (hm : s.chunkMoves (s.hub.fqBase + 64 * (s.hub.fqTail.toNat % 2 ^ s.hub.fqLog2n.toNat)) 64 = false) :
    s.passRecord = State.outsideGoes { s with
      mem := writeBytes s.mem (s.hub.fqBase + 64 * (s.hub.fqTail.toNat % 2 ^ s.hub.fqLog2n.toNat)) r.bytes, nextId := s.nextId + 1, hub := (s.hub.passed s.nextId rest).refillStore 1 } := by
  simp [State.passRecord, Hub.passed, hs, ht, hp, hm, State.fresh, State.updHub]

/-- Settles O26: the registers by the equations of the hub's operations, a delivery by what its record releases, and then by `passRecord`. -/
theorem faultRing : Obligations.FaultRing := by
  intro s
  refine ⟨fun v hl hy => ?_, fun r hu hf hk hc => ?_, fun r hu hk => ?_, fun r rest hu hs ht hp hm hheld hwait => ?_, fun hu ht => ?_⟩
  · have up : s.barUp = true := s.barUp_iff.mpr ⟨hl, hy⟩
    exact ⟨⟨_, exec_fqRingSetup false v up, congrArg (fun h => { s with hub := h }) (Hub.fqSetup_base _ v)⟩,
      ⟨_, exec_fqRingSetup true v up, congrArg (fun h => { s with hub := h }) (Hub.fqSetup_size _ v)⟩,
      ⟨_, exec_fqheadWrite v up, congrArg (fun h => { s with hub := h }) (Hub.fqConsume_eq _ v)⟩⟩
  · exact ⟨_, exec_faultRecordDeliver_unhandled hu, by rw [s.releaseHandler_interrupt hf hk hc]; rfl⟩
  · exact ⟨_, exec_faultRecordDeliver_unhandled hu, by rw [s.releaseHandler_kernel hk]; rfl⟩
  · obtain ⟨stored, tail, order, held, waiting⟩ := Hub.refillStore_one (s.hub.passed s.nextId rest)
    refine ⟨_, exec_faultRecordDeliver_handled hu, ?_⟩
    rw [State.passRecord_takes hs ht hp hm, State.outsideGoes_none (held.trans hheld) (waiting.trans hwait)]
    refine ⟨?_, tail, stored, order, ?_⟩ <;> dsimp only
  · exact ⟨_, exec_faultRecordDeliver_handled hu, State.passRecord_full ht⟩

end Sys2Proof.Machine
end

section
/-! PROOFS. O56 and O29: what reset leaves, the sequence of R18, the wake sequencer, and gating. -/
namespace Sys2Proof.Machine

/-- Settles O56: every clause reads a field of the machine at reset, all of whose maps are empty. -/
theorem resetState : Obligations.ResetState :=
  ⟨rfl, fun _ => rfl, fun _ => ⟨rfl, rfl⟩, ⟨rfl, rfl, rfl⟩, fun _ => rfl, rfl, fun _ => ⟨rfl, rfl, rfl⟩, ⟨rfl, rfl⟩, rfl⟩

/-! ### The agenda -/

theorem mem_agendaPut_same (l : List (Nat × Instr)) (t : Nat) (i : Instr) : (t, i) ∈ agendaPut l t i := by
  induction l with
  | nil => exact List.mem_singleton.mpr rfl
  | cons p rest ih =>
    unfold agendaPut
    split
    · exact List.mem_cons_self
    · exact List.mem_cons_of_mem _ ih

theorem mem_agendaPut_of_mem {l : List (Nat × Instr)} {x : Nat × Instr} (t : Nat) (i : Instr) (h : x ∈ l) : x ∈ agendaPut l t i := by
  induction l with
  | nil => cases h
  | cons p rest ih =>
    unfold agendaPut
    split
    · exact List.mem_cons_of_mem _ h
    · rcases List.mem_cons.mp h with rfl | h
      · exact List.mem_cons_self
      · exact List.mem_cons_of_mem _ (ih h)

theorem State.mem_later (s : State) (d : Nat) (i : Instr) : (s.cycle + d, i) ∈ (s.later d i).agenda := mem_agendaPut_same _ _ _

/-- Changes one after another, each of a kind that is reflexive and transitive, are a change of that kind. -/
theorem foldl_rel {β : Type} {R : State → State → Prop} (refl : ∀ s, R s s) (trans : ∀ {s t u}, R s t → R t u → R s u)
    (f : State → β → State) (h : ∀ s b, R s (f s b)) (bs : List β) (s : State) : R s (bs.foldl f s) := by
  induction bs generalizing s with
  | nil => exact refl s
  | cons b bs ih => exact trans (h s b) (ih (f s b))

/-! ### Bring-up (R18, R19, R21, R25) -/

/-- A change that loads the bad-node registers of bays and draws free values, and changes nothing else. -/
structure NodesLoaded (s t : State) : Prop where
  frame : t = { s with freeCount := t.freeCount, bays := t.bays }
  bay : ∀ b, (t.bay b).awake = (s.bay b).awake ∧ (t.bay b).ctxs = (s.bay b).ctxs

theorem NodesLoaded.refl (s : State) : NodesLoaded s s := ⟨rfl, fun _ => ⟨rfl, rfl⟩⟩

theorem NodesLoaded.trans {s t u : State} (h : NodesLoaded s t) (k : NodesLoaded t u) : NodesLoaded s u :=
  ⟨k.frame.trans (by rw [h.frame]), fun b => ⟨(k.bay b).1.trans (h.bay b).1, (k.bay b).2.trans (h.bay b).2⟩⟩

theorem NodesLoaded.foldl {β : Type} (f : State → β → State) (h : ∀ s b, NodesLoaded s (f s b)) (bs : List β) (s : State) :
    NodesLoaded s (bs.foldl f s) :=
  foldl_rel .refl (fun h k => h.trans k) f h bs s

theorem State.updBay_nodesLoaded (s : State) (b n : Nat) : NodesLoaded s (s.updBay b (Bay.loadBadNodes n)) := by
  refine ⟨rfl, fun c => ?_⟩
  by_cases h : c = b
  · subst h; rw [State.bay_updBay_same]; exact ⟨rfl, rfl⟩
  · rw [State.bay_updBay_other s _ h]; exact ⟨rfl, rfl⟩

theorem State.bringUpDie_nodesLoaded (s : State) (d : Nat) : NodesLoaded s (s.bringUpDie d).2 := by
  have drawn : NodesLoaded s { s with freeCount := s.freeCount + 4 } := ⟨rfl, fun _ => ⟨rfl, rfl⟩⟩
  unfold State.bringUpDie State.drawBools
  dsimp only
  split
  · exact drawn.trans (.foldl _ (fun u b => u.updBay_nodesLoaded _ _) _ _)
  · exact drawn

/-- The dies brought up in order, with whether each failed. -/
def bringUpStep (r : List Bool × State) (d : Nat) : List Bool × State := (r.1 ++ [(r.2.bringUpDie d).1], (r.2.bringUpDie d).2)

theorem bringUpStep_nodesLoaded (ds : List Nat) (r : List Bool × State) : NodesLoaded r.2 (ds.foldl bringUpStep r).2 := by
  induction ds generalizing r with
  | nil => exact .refl _
  | cons d ds ih => exact (r.2.bringUpDie_nodesLoaded d).trans (ih (bringUpStep r d))

/-- What the kernel's part of bring-up leaves: the counters of attestation are equal, the bays wait to be woken, and the mailbox holds the
mask of fenced dies. -/
structure BroughtUp (s t : State) : Prop where
  frame : t = { s with
    freeCount := t.freeCount, bays := t.bays, hub := { s.hub with mbo := t.hub.mbo }, agenda := t.agenda
    boot := { s.boot with stage := .kernel, lmsFuse := max s.boot.lmsFuse s.boot.lmsNvme, lmsNvme := max s.boot.lmsFuse s.boot.lmsNvme
                          fenced := t.boot.fenced, wakeQueues := t.boot.wakeQueues } }
  bay : ∀ b, (t.bay b).awake = (s.bay b).awake ∧ (t.bay b).ctxs = (s.bay b).ctxs

theorem State.bringUp_broughtUp (s : State) : BroughtUp s s.bringUp := by
  have loaded : NodesLoaded s ((List.range 4).foldl bringUpStep ([], s)).2 := bringUpStep_nodesLoaded (List.range 4) ([], s)
  unfold State.bringUp
  dsimp only
  generalize hr : List.foldl _ ([], s) (List.range 4) = r
  have hr' : (List.range 4).foldl bringUpStep ([], s) = r := hr
  rw [hr'] at loaded
  obtain ⟨frame, bay⟩ := loaded
  split
  · exact ⟨by rw [frame]; rfl, bay⟩
  · exact ⟨by rw [frame]; rfl, bay⟩

/-! ### Reset (R18, R19) -/

/-- Both signatures of an image verify, for the next two free values. -/
def State.verifies (s : State) : Bool := Config.freeBool s.freeCount && Config.freeBool (s.freeCount + 1)

theorem State.verifyImage_eq (s : State) : s.verifyImage = (s.verifies, { s with freeCount := s.freeCount + 2 }) := by
  simp [State.verifyImage, State.drawBools, State.verifies, List.range_succ]

/-- The machine after power-on: what outlives it stays (R18, R25). -/
def State.powered (s : State) : State :=
  { State.reset with
    agenda := [], inputs := s.inputs, freeCount := s.freeCount
    boot := { Boot.reset with lmsFuse := s.boot.lmsFuse, lmsNvme := s.boot.lmsNvme } }

theorem exec_reset_verified {s : State} (h : s.verifies = true) :
    exec .reset s = .next (State.bringUp { s.powered with freeCount := s.freeCount + 2 }) := by
  show execReset s = _
  have hv : s.powered.verifyImage = (true, { s.powered with freeCount := s.freeCount + 2 }) := by
    rw [State.verifyImage_eq]; exact congrArg (·, _) h
  unfold State.powered at hv ⊢
  simp only [execReset, hv, if_true]

theorem exec_reset_refused {s : State} (h : s.verifies = false) :
    exec .reset s = .next { s.powered with
      freeCount := s.freeCount + 2, boot := { s.powered.boot with stage := .recovery, link := true } } := by
  show execReset s = _
  have hv : s.powered.verifyImage = (false, { s.powered with freeCount := s.freeCount + 2 }) := by
    rw [State.verifyImage_eq]; exact congrArg (·, _) h
  unfold State.powered at hv ⊢
  simp only [execReset, hv, Bool.false_eq_true, if_false]

/-! ### The wake sequencer (R22) -/

/-- The first bay of a die's queue is awake, and the others wait. -/
def State.wakeFirst (s : State) (die b : Nat) (rest : List Nat) : State :=
  { s.updBay b (fun y => { y with awake := true, idleSince := s.cycle }) with
    boot := { s.boot with wakeQueues := if rest = [] then AMap.del s.boot.wakeQueues die else AMap.put s.boot.wakeQueues die rest } }

theorem State.wakeFirst_awake (s : State) (die b : Nat) (rest : List Nat) : ((s.wakeFirst die b rest).bay b).awake = true :=
  congrArg Bay.awake (s.bay_updBay_same b (fun y => { y with awake := true, idleSince := s.cycle }))

theorem State.wakeFirst_others (s : State) (die : Nat) {b c : Nat} (rest : List Nat) (h : c ≠ b) :
    (s.wakeFirst die b rest).bay c = s.bay c := s.bay_updBay_other (fun y => { y with awake := true, idleSince := s.cycle }) h

theorem exec_wakeSequencerTick {s : State} {die b : Nat} {rest : List Nat} (hw : s.wakes die = true)
    (hq : AMap.get s.boot.wakeQueues [] die = b :: rest) : ∃ a n,
    exec (.wakeSequencerTick die) s = .next { s.wakeFirst die b rest with agenda := a, freeCount := n } ∧
    (rest ≠ [] → (s.cycle + 64, Instr.wakeSequencerTick die) ∈ a) := by
  show ∃ a n, execWakeSequencerTick die s = _ ∧ _
  unfold execWakeSequencerTick
  simp only [hw, hq, Bool.not_true, Bool.false_eq_true, if_false]
  cases rest with
  | nil =>
    simp only [bne_self_eq_false, Bool.false_eq_true, if_false, ne_eq, not_true_eq_false, false_implies, and_true]
    split
    · exact ⟨_, _, rfl⟩
    · split
      · exact ⟨_, _, rfl⟩
      · exact ⟨_, _, rfl⟩
  | cons r rs => exact ⟨_, _, rfl, fun _ => State.mem_later _ _ _⟩

theorem exec_hostLinkTrained {s : State} (hs : s.boot.stage = .kernel) (hq : ∀ d, d < 4 → AMap.get s.boot.wakeQueues [] d = []) :
    exec .hostLinkTrained s = .next { s with boot := { s.boot with stage := .up, link := true, layout := true } } := by
  show execHostLinkTrained s = _
  have idle : (List.range 4).all (fun d => AMap.get s.boot.wakeQueues [] d == []) = true :=
    List.all_eq_true.mpr fun d hd => by rw [hq d (List.mem_range.mp hd)]; rfl
  simp only [execHostLinkTrained, hs, idle, beq_self_eq_true, Bool.and_self, if_true]

/-! ### Gating (R116) -/

/-- A change that takes prefetches and what contexts held away, and changes nothing else. -/
structure CtxsEmptied (s t : State) : Prop where
  frame : t = { s with els := t.els, bays := t.bays, hub := t.hub }

theorem CtxsEmptied.refl (s : State) : CtxsEmptied s s := ⟨rfl⟩

theorem CtxsEmptied.trans {s t u : State} (h : CtxsEmptied s t) (k : CtxsEmptied t u) : CtxsEmptied s u :=
  ⟨k.frame.trans (by rw [h.frame])⟩

theorem CtxsEmptied.foldl {β : Type} (f : State → β → State) (h : ∀ s b, CtxsEmptied s (f s b)) (bs : List β) (s : State) :
    CtxsEmptied s (bs.foldl f s) :=
  foldl_rel .refl (fun h k => h.trans k) f h bs s

theorem State.emptyCtx_emptied (s : State) (bay c : Nat) : CtxsEmptied s (s.emptyCtx bay c) := ⟨rfl⟩

theorem State.claimCtx_emptied (s : State) (r : Rect) (c : Nat) : CtxsEmptied s (s.claimCtx r c) :=
  .foldl _ (fun u _ => .trans ⟨rfl⟩ (.foldl _ (fun u b => u.emptyCtx_emptied b c) _ (u.updHub _))) _ _

theorem Bay.gates_of_idle {y : Bay} {now : Nat} (ha : y.awake = true) (hc : ∀ p ∈ y.ctxs, p.2.st ≠ CtxState.loaned)
    (hi : y.idleSince + 2 ^ 18 < now) : y.gates now = true := by
  have unloaned : y.hasLoan = false := List.any_eq_false.mpr fun p hp => by simpa using hc p hp
  simp only [Bay.gates, ha, unloaned, hi, Bool.not_false, decide_true, Bool.and_self]

theorem Bay.gates_recent {y : Bay} {now : Nat} (hi : now ≤ y.idleSince + 2 ^ 18) : y.gates now = false := by
  simp only [Bay.gates, Nat.not_lt.mpr hi, decide_false, Bool.and_false]

theorem exec_bayGate_gates {s : State} {bay : Nat} (h : (s.bay bay).gates s.cycle = true) : ∃ u, CtxsEmptied s u ∧
    exec (.bayGate bay) s = .next (u.updBay bay (fun y => { y with awake := false, predictor := [] })) := by
  refine ⟨_, .foldl _ (fun u c => (u.claimCtx_emptied ⟨bay / 128, bay % 128, 1, 1⟩ c).trans (State.emptyCtx_emptied _ bay c)) (List.range 4) s, ?_⟩
  show execBayGate bay s = _
  simp only [execBayGate, h, Bool.not_true, Bool.false_eq_true, if_false]

theorem exec_bayGate_stays {s : State} {bay : Nat} (h : (s.bay bay).gates s.cycle = false) : exec (.bayGate bay) s = .next s := by
  show execBayGate bay s = _
  simp only [execBayGate, h, Bool.not_false, if_true]

/-- Settles O29: reset by whether the image verifies, then the sequencer, the link and gating by the equation of each. -/
theorem resetSequence : Obligations.ResetSequence := by
  refine ⟨fun s => ?_, fun s => ⟨fun die b rest hw hq => ?_, fun hs hq => ⟨_, exec_hostLinkTrained hs hq, rfl⟩, fun bay ha hc hi => ?_, fun bay hi => ?_⟩⟩
  · show Completes .reset s (fun t => _ ∧ _ ∧ _ ∧ _ ∧ _ ∧ _ ∧ _ ∧ _ ∧ _ ∧ _ ∧ _ ∧ if s.verifies = true then _ else _)
    cases hv : s.verifies with
    | true =>
      obtain ⟨frame, bay⟩ := State.bringUp_broughtUp { s.powered with freeCount := s.freeCount + 2 }
      refine ⟨_, exec_reset_verified hv, ?_⟩
      generalize State.bringUp _ = t at frame bay ⊢
      rw [frame]
      exact ⟨rfl, rfl, rfl, rfl, rfl, rfl, rfl, rfl, rfl, rfl, bay, rfl, rfl, rfl, rfl⟩
    | false => exact ⟨_, exec_reset_refused hv, rfl, rfl, rfl, rfl, rfl, rfl, rfl, rfl, rfl, rfl, fun _ => ⟨rfl, rfl⟩, rfl, rfl, rfl, rfl, rfl⟩
  · obtain ⟨a, n, e, next⟩ := exec_wakeSequencerTick hw hq
    refine ⟨_, e, s.wakeFirst_awake die b rest, fun c hc => s.wakeFirst_others die rest hc, rfl, rfl, fun hr => ⟨?_, next hr⟩⟩
    simp [State.wakeFirst, hr]
  · obtain ⟨u, emptied, e⟩ := exec_bayGate_gates (Bay.gates_of_idle ha hc hi)
    refine ⟨_, e, ?_, ?_, ?_, ?_⟩
    · rw [State.bay_updBay_same]
    · rw [State.bay_updBay_same]
    · show u.loans = s.loans; rw [emptied.frame]
    · show u.mem = s.mem; rw [emptied.frame]
  · exact ⟨_, exec_bayGate_stays (Bay.gates_recent hi), rfl⟩

end Sys2Proof.Machine
end

section
/-! PROOFS. O30: recovery, attestation, and the moves of chunks between the tiers of memory. -/
namespace Sys2Proof.Machine

/-! ### Recovery (R20) -/

theorem Boot.reject_eq (b : Boot) :
    b.reject = { b with rcstate := 2, nrej := BitVec.ofNat 16 (min (b.nrej.toNat + 1) 65535) } := by
  have counted : (if b.nrej = 0xFFFF then b.nrej else b.nrej + 1) = BitVec.ofNat 16 (min (b.nrej.toNat + 1) 65535) := by
    split
    next h => rw [h]; rfl
    next h =>
      have below : b.nrej.toNat ≠ 65535 := fun e => h (BitVec.eq_of_toNat_eq e)
      apply BitVec.eq_of_toNat_eq
      have one : (1 : BitVec 16).toNat = 1 := rfl
      have := b.nrej.isLt
      rw [BitVec.toNat_add, one, BitVec.toNat_ofNat]
      omega
  rw [Boot.reject, counted]

/-- Whether a write to `RCDB` in the recovery layout begins anything. -/
structure RecoveryIdle (s : State) (v : W64) : Prop where
  link : s.boot.link = true
  layout : s.boot.layout = false
  go : v.getLsbD 0 = true
  idle : s.boot.rcstate.toNat % 2 = 0

theorem State.recoveryGo_idle {s : State} {v : W64} (h : RecoveryIdle s v) : s.recoveryGo v =
    if s.boot.rclen.toNat % 64 ≠ 0 ∨ s.boot.rclen.toNat < 64 ∨ 2 ^ 22 < s.boot.rclen.toNat then { s with boot := s.boot.reject }
    else State.later { s with freeCount := s.freeCount + 1, boot := { s.boot with rcstate := 1 } } (1 + Config.freeNat s.freeCount)
      .recoveryVerifyDone := by
  obtain ⟨link, layout, go, idle⟩ := h
  have h1 : (s.boot.rcstate == 1) = false := beq_false_of_ne fun e => by rw [e] at idle; exact absurd idle (by decide)
  have h3 : (s.boot.rcstate == 3) = false := beq_false_of_ne fun e => by rw [e] at idle; exact absurd idle (by decide)
  simp only [State.recoveryGo, Boot.recoveryLayout, link, layout, go, h1, h3, Bool.not_true, Bool.not_false, Bool.and_self, Bool.or_self,
    Bool.false_eq_true, if_false, State.drawNat]

theorem exec_recoveryVerifyDone {s : State} (h : s.boot.rcstate = 1) : exec .recoveryVerifyDone s =
    .next (if s.verifies then State.bringUp { s with freeCount := s.freeCount + 2, boot := { s.boot with rcstate := 3 } }
      else { s with freeCount := s.freeCount + 2, boot := s.boot.reject }) := by
  show execRecoveryVerifyDone s = _
  simp only [execRecoveryVerifyDone, h, State.verifyImage_eq, bne_self_eq_false, Bool.false_eq_true, if_false]

/-! ### Attestation (R25) -/

theorem exec_attestationSign_signs {s : State} (h : max s.boot.lmsFuse s.boot.lmsNvme < Config.lmsCapacity) :
    exec .attestationSign s = .next { s with
      freeCount := s.freeCount + 2
      boot := { s.boot with
        lmsFuse := max s.boot.lmsFuse s.boot.lmsNvme + 1, lmsNvme := max s.boot.lmsFuse s.boot.lmsNvme + 1
        signed := s.boot.signed ++ [⟨max s.boot.lmsFuse s.boot.lmsNvme, Config.freeSignature s.freeCount,
          Config.freeSignature (s.freeCount + 1)⟩] } } := by
  show execAttestationSign s = _
  simp only [execAttestationSign, Nat.not_le.mpr h, if_false]

theorem exec_attestationSign_exhausted {s : State} (h : Config.lmsCapacity ≤ max s.boot.lmsFuse s.boot.lmsNvme) :
    exec .attestationSign s = .next (s.updHub (fun h => { h with mbo := AMap.put h.mbo 1 3 })) := by
  show execAttestationSign s = _
  simp only [execAttestationSign, h, if_true]

/-! ### Tiers of memory (R124, R125) -/

/-- A change that begins moves of chunks, and changes nothing else. -/
structure MovesBegun (s t : State) : Prop where
  frame : t = { s with freeCount := t.freeCount, agenda := t.agenda, trans := { s.trans with moving := t.trans.moving } }

theorem MovesBegun.refl (s : State) : MovesBegun s s := ⟨rfl⟩

theorem MovesBegun.trans {s t u : State} (h : MovesBegun s t) (k : MovesBegun t u) : MovesBegun s u :=
  ⟨k.frame.trans (by rw [h.frame])⟩

theorem MovesBegun.foldl {β : Type} (f : State → β → State) (h : ∀ s b, MovesBegun s (f s b)) (bs : List β) (s : State) :
    MovesBegun s (bs.foldl f s) :=
  foldl_rel .refl (fun h k => h.trans k) f h bs s

theorem State.beginMove_begun (s : State) (die c : Nat) : MovesBegun s (s.beginMove die c) := ⟨rfl⟩

/-- A die's counts start again at the end of an epoch, and moves begin (R124). -/
theorem exec_epochEnd (die : Nat) (s : State) : ∃ n t, exec (.epochEnd die) s = .next t ∧ MovesBegun { s with
    freeCount := n, trans := { s.trans with counts := s.trans.counts.filter (fun p => homeDie (p.1 * 65536) != die) } } t :=
  ⟨_, _, rfl, .foldl _ (fun u (p : Nat × Nat) => (u.beginMove_begun die p.1).trans (State.beginMove_begun _ die p.2)) _ _⟩

/-- The accesses that a chunk has held are due at once, and all that was due stays so. -/
theorem foldl_accessPerform (held : List Nat) (s : State) : ∃ a,
    held.foldl (fun s id => s.later 0 (.accessPerform id)) s = { s with agenda := a } ∧
    (∀ x ∈ s.agenda, x ∈ a) ∧ ∀ id ∈ held, (s.cycle, Instr.accessPerform id) ∈ a := by
  induction held generalizing s with
  | nil => exact ⟨s.agenda, rfl, fun _ h => h, fun _ h => absurd h List.not_mem_nil⟩
  | cons id held ih =>
    obtain ⟨a, e, keeps, due⟩ := ih (s.later 0 (.accessPerform id))
    refine ⟨a, e, fun x h => keeps x (mem_agendaPut_of_mem _ _ h), fun j hj => ?_⟩
    rcases List.mem_cons.mp hj with rfl | hj
    · exact keeps _ (s.mem_later 0 _)
    · exact due j hj

/-- The chunks away from where they begin, once a chunk has moved. -/
def Trans.movedAfter (x : Trans) (c : Nat) : List Nat := if x.moved.contains c then x.moved.erase c else x.moved ++ [c]

theorem Trans.movedAfter_contains (x : Trans) (c : Nat) :
    (x.movedAfter c).contains c = !x.moved.contains c ∨ 1 < x.moved.count c := by
  unfold Trans.movedAfter
  split
  next h =>
    by_cases twice : 1 < x.moved.count c
    · exact .inr twice
    · have gone : c ∉ x.moved.erase c := by
        rw [← List.count_eq_zero, List.count_erase_self]; omega
      exact .inl (by rw [h]; simpa using gone)
  next h => exact .inl (by rw [Bool.eq_false_iff.mpr h]; simp)

theorem exec_chunkMoveDone {s : State} {die c : Nat} {held : List Nat} (hm : AMap.find s.trans.moving c = some held)
    (hw : s.hub.agentWaiting = []) : ∃ a, exec (.chunkMoveDone die c) s = .next { s with
      trans := { s.trans with moving := AMap.del s.trans.moving c, moved := s.trans.movedAfter c }, agenda := a } ∧
      ∀ id ∈ held, (s.cycle, Instr.accessPerform id) ∈ a := by
  obtain ⟨a, e, _, due⟩ := foldl_accessPerform held { s with
    trans := { s.trans with moving := AMap.del s.trans.moving c, moved := s.trans.movedAfter c } }
  refine ⟨a, ?_, due⟩
  show execChunkMoveDone die c s = _
  unfold Trans.movedAfter at e ⊢
  rw [← e]
  simp only [execChunkMoveDone, hm]
  rw [State.agentsGo_none]
  exact hw

/-- Settles O30: recovery by the equations of its writes and of its verification, attestation and the tiers by those of their events. -/
theorem recoveryAndTiers : Obligations.RecoveryAndTiers := by
  intro s
  refine ⟨fun v hl hy hv hi => ⟨fun h64 hlo hhi => ?_, fun hbad => ?_⟩, fun hr => ?_, fun h => ⟨_, exec_attestationSign_signs h, _, rfl, rfl⟩,
    fun h => ⟨_, exec_attestationSign_exhausted h, rfl, AMap.get_put_same _ _ _ _⟩, fun die => ?_, fun die c held hm hw => ?_⟩
  · have good : ¬(s.boot.rclen.toNat % 64 ≠ 0 ∨ s.boot.rclen.toNat < 64 ∨ 2 ^ 22 < s.boot.rclen.toNat) := by omega
    have e := State.recoveryGo_idle ⟨hl, hy, hv, hi⟩
    rw [if_neg good] at e
    exact ⟨_, congrArg Host.Outcome.next e, rfl, 1 + Config.freeNat s.freeCount, by omega, State.mem_later _ _ _⟩
  · have e := State.recoveryGo_idle ⟨hl, hy, hv, hi⟩
    rw [if_pos hbad, Boot.reject_eq] at e
    exact ⟨_, congrArg Host.Outcome.next e, rfl⟩
  · refine ⟨_, exec_recoveryVerifyDone hr, ?_⟩
    show if s.verifies = true then _ else _
    cases s.verifies with
    | true =>
      obtain ⟨frame, _⟩ := State.bringUp_broughtUp { s with freeCount := s.freeCount + 2, boot := { s.boot with rcstate := 3 } }
      simp only [if_true]
      rw [frame]
      exact ⟨rfl, rfl⟩
    | false => simp only [Bool.false_eq_true, if_false]; exact Boot.reject_eq _
  · obtain ⟨n, t, e, ⟨frame⟩⟩ := exec_epochEnd die s
    exact ⟨t, e, by rw [frame], by rw [frame], by rw [frame], by rw [frame], by rw [frame]⟩
  · obtain ⟨a, e, due⟩ := exec_chunkMoveDone (die := die) hm hw
    exact ⟨_, e, Trans.movedAfter_contains _ _, due, rfl⟩

end Sys2Proof.Machine
end

section
/-! PROOFS. O44: slips read from host queues, their acceptance, placement, and reservations. -/
namespace Sys2Proof.Machine

/-! ### Records (R30, R89) -/

@[simp] theorem Hub.record_queues (h : Hub) (r : FaultRec) : (h.record r).queues = h.queues := by
  unfold Hub.record Hub.enter
  dsimp only
  split <;> split <;> rfl

/-- A record that is handed over enters the store, numbered, or is held by its unit. -/
theorem Hub.record_cases (h : Hub) (r : FaultRec) :
    (∃ q, (h.record r).store = h.store ++ [{ r with seq := q }] ∧ (h.record r).blocked = h.blocked) ∨
      ((h.record r).store = h.store ∧ (h.record r).blocked = h.blocked ++ [r]) := by
  unfold Hub.record Hub.enter
  dsimp only
  split
  · exact .inl ⟨_, by split <;> rfl, by split <;> rfl⟩
  · exact .inr ⟨by split <;> rfl, by split <;> rfl⟩

theorem Hub.record_mem (h : Hub) (r : FaultRec) : ∃ q, { r with seq := q } ∈ (h.record r).store ++ (h.record r).blocked := by
  rcases h.record_cases r with ⟨q, es, eb⟩ | ⟨es, eb⟩
  · exact ⟨q, by rw [es, eb]; simp⟩
  · exact ⟨r.seq, by rw [es, eb]; simp⟩

/-! ### A slip accepted (R96 to R98) -/

/-- The holds of a slip, each met or not at a state. -/
def State.holdsMet (s : State) (slip : Slip) : List Bool := slip.holds.map (fun h => decide (h.2 ≤ s.timeline h.1.toNat))

theorem mem_releasedPut (x : Released) (ys : List Released) : x ∈ releasedPut x ys := by
  induction ys with
  | nil => exact List.mem_singleton.mpr rfl
  | cons y ys ih =>
    unfold releasedPut
    split
    · exact List.mem_cons_self
    · exact List.mem_cons_of_mem _ ih

/-- The reserved entries are those of watches, whose ranks lie below those of queues. -/
theorem Hub.reservedFree_queue (h : Hub) (n : Nat) : h.reservedFree (rankQueue n) = false := by
  have above : ¬rankQueue n < 64 := Nat.not_lt.mpr (le_trans (by norm_num) (Nat.le_add_right (2 ^ 240) n))
  simp only [Hub.reservedFree, above, decide_false, Bool.false_and]

theorem State.accept_met {s : State} {slip : Slip} (rank : Nat) (h : (s.holdsMet slip).all id = true) :
    s.accept slip rank false = some (s.updHub (fun h => h.release s.cycle rank slip)) := by
  unfold State.holdsMet at h
  simp only [State.accept, h, if_true]

theorem State.accept_entry {s : State} {slip : Slip} {n : Nat} (h : (s.holdsMet slip).all id = false) (hf : 0 < s.hub.freeHolds) :
    s.accept slip (rankQueue n) false = some (s.fresh.2.updHub (fun h => { h with
      holds := AMap.put h.holds s.nextId ⟨slip, s.holdsMet slip, rankQueue n, false⟩ })) := by
  unfold State.holdsMet at h ⊢
  simp only [State.accept, h, hf, Hub.reservedFree_queue, State.fresh, decide_true, Bool.or_true, Bool.false_eq_true, if_false, if_true]

theorem State.accept_full {s : State} {slip : Slip} {n : Nat} (h : (s.holdsMet slip).all id = false) (hf : s.hub.freeHolds = 0) :
    s.accept slip (rankQueue n) false = none := by
  unfold State.holdsMet at h
  simp only [State.accept, h, hf, Hub.reservedFree_queue, Nat.lt_irrefl, decide_false, Bool.or_self, Bool.false_eq_true, if_false]

/-! ### A host queue served (R95) -/

/-- A queue's slip has been read: its head advances, and the rotation stands at it. -/
structure QueueServed (q : HostQueue) (n : Nat) (h : Hub) : Prop where
  head : (h.queue n).head = q.head + 1
  idle : (h.queue n).busy = false
  rotation : h.rotation = n

theorem Hub.served_queue {h : Hub} {q : HostQueue} (n : Nat) (hq : h.queue n = q) : QueueServed q n (h.served n) := by
  have e : (h.served n).queue n = { h.queue n with head := (h.queue n).head + 1, busy := false } :=
    Hub.queue_updQueue_same h n (fun q => { q with head := q.head + 1, busy := false })
  subst hq
  exact ⟨by rw [e], by rw [e], rfl⟩

theorem State.acceptWaiting_none {s : State} (h : s.hub.waitingSlips = []) : s.acceptWaiting = s := by
  simp only [State.acceptWaiting, h, List.foldl_nil]

theorem exec_slipRead_idle {s : State} (hw : s.hub.waitingSlips = []) (h : s.stopped .loader = true ∨ s.hub.nextQueue = none) :
    exec .slipRead s = .next s := by
  show execSlipRead s = _
  rw [execSlipRead, State.acceptWaiting_none hw]
  rcases h with h | h
  · simp only [h, if_true]
  · simp only [h, ite_self]

/-- The address of the next slip of a queue. -/
def HostQueue.slipAddr (q : HostQueue) : Nat := q.base + 128 * (q.head.toNat % 2 ^ q.log2n.toNat)

/-- The next slip of a queue, checked (R89). -/
def State.checkNext (s : State) (q : HostQueue) : Except (Nat × Nat) Slip :=
  checkSlip (readBytes s.mem q.slipAddr 128) ⟨q.space, q.privOk, q.dies, none⟩

section Serving
variable {s : State} {n : Nat} (hw : s.hub.waitingSlips = []) (hs : s.stopped .loader = false) (hn : s.hub.nextQueue = some n)
include hw hs hn

theorem exec_slipRead_begins (hb : (s.hub.queue n).busy = false) : exec .slipRead s =
    .next (if s.hub.freeHolds = 0 then s else s.updHub (fun h => h.updQueue n (fun q => { q with busy := true }))) := by
  show execSlipRead s = _
  rw [execSlipRead, State.acceptWaiting_none hw]
  simp only [hs, hn, hb, Bool.not_false, Bool.false_eq_true, if_false, if_true]

theorem exec_slipRead_waits (hb : (s.hub.queue n).busy = true) (hm : s.chunkMoves (s.hub.queue n).slipAddr 128 = true) :
    exec .slipRead s = .next s := by
  show execSlipRead s = _
  unfold HostQueue.slipAddr at hm
  rw [execSlipRead, State.acceptWaiting_none hw]
  simp only [hs, hn, hb, hm, Bool.not_true, Bool.false_eq_true, if_false, if_true]

theorem exec_slipRead_refuses (hb : (s.hub.queue n).busy = true) (hm : s.chunkMoves (s.hub.queue n).slipAddr 128 = false) {reason off : Nat}
    (hc : s.checkNext (s.hub.queue n) = .error (reason, off)) : exec .slipRead s =
      .next ((s.refuseSlip (readBytes s.mem (s.hub.queue n).slipAddr 128) reason off).updHub (fun h => h.served n)) := by
  show execSlipRead s = _
  unfold State.checkNext at hc
  unfold HostQueue.slipAddr at hm hc ⊢
  rw [execSlipRead, State.acceptWaiting_none hw]
  simp only [hs, hn, hb, hm, hc, Bool.not_true, Bool.false_eq_true, if_false]

theorem exec_slipRead_accepts (hb : (s.hub.queue n).busy = true) (hm : s.chunkMoves (s.hub.queue n).slipAddr 128 = false) {slip : Slip}
    (hc : s.checkNext (s.hub.queue n) = .ok slip) : exec .slipRead s =
      .next (match s.accept slip (rankQueue n) false with | some t => t.updHub (fun h => h.served n) | none => s) := by
  show execSlipRead s = _
  unfold State.checkNext at hc
  unfold HostQueue.slipAddr at hm hc
  rw [execSlipRead, State.acceptWaiting_none hw]
  simp only [hs, hn, hb, hm, hc, Bool.not_true, Bool.false_eq_true, if_false]
  cases s.accept slip (rankQueue n) false <;> rfl

end Serving

/-! ### Placement and reservations (R111, R112) -/

theorem exec_placementDecision_stopped {s : State} (h : s.stopped .loader = true) :
    exec .placementDecision s = .next (s.updHub (fun h => h.standing s.cycle)) := by
  show execPlacementDecision s = _
  have h' : (s.updHub (fun h => h.standing s.cycle)).stopped .loader = true := h
  simp only [execPlacementDecision, h', if_true]

theorem exec_placementDecision {s u : State} (h : s.stopped .loader = false) (hu : u = s.updHub (fun h => h.standing s.cycle)) :
    exec .placementDecision s = .next ((u.hub.released.findSome? (fun x => u.tryPlace x)).getD u) := by
  show execPlacementDecision s = _
  have h' : u.stopped .loader = false := hu ▸ h
  subst hu
  simp only [execPlacementDecision, h', Bool.false_eq_true, if_false]

theorem exec_placementReservation_none {s : State} (h : s.overdue = []) : exec .placementReservation s = .next s := by
  show execPlacementReservation s = _
  simp only [execPlacementReservation, h, List.foldl_nil]

theorem exec_placementReservation_one {s : State} {x : Released} {r : Rect} {c : Nat} (h : s.overdue = [x])
    (hc : s.choices x (s.slipImage x.slip) = []) (hr : s.soonest x = some (r, c)) : exec .placementReservation s =
      .next (s.updHub (fun h => { h with reservations := AMap.put h.reservations r.die ⟨x.slip, x.cycle, r.nwb, c⟩ })) := by
  show execPlacementReservation s = _
  simp only [execPlacementReservation, h, List.foldl_cons, List.foldl_nil, hc, hr, bne_self_eq_false, Bool.false_eq_true, if_false]

/-- Settles O44: the next queue by what is made of its slip, then placement and reservations by the equation of each. -/
theorem slipsAndPlacement : Obligations.SlipsAndPlacement := by
  intro s hw
  refine ⟨fun h => ⟨s, exec_slipRead_idle hw h, rfl⟩, fun n hs hn => ⟨fun hb hf => ?_, fun hb hf => ?_, fun hb hm => ?_,
    fun reason off hb hm hc => ?_, fun slip hb hm hc => ⟨fun hmet => ?_, fun hmet hf => ?_, fun hmet hf => ?_⟩⟩,
    fun h => ⟨_, exec_placementDecision_stopped h, rfl⟩, fun h => ⟨fun hno => ?_, fun pre x post v hrel hno hx => ?_⟩,
    fun h => ⟨s, exec_placementReservation_none h, rfl⟩, fun x r c h hc hr => ⟨_, exec_placementReservation_one h hc hr, rfl⟩⟩
  · exact ⟨_, exec_slipRead_begins hw hs hn hb, if_pos hf⟩
  · exact ⟨_, exec_slipRead_begins hw hs hn hb, if_neg hf⟩
  · exact ⟨s, exec_slipRead_waits hw hs hn hb hm, rfl⟩
  · obtain ⟨q, recorded⟩ := Hub.record_mem s.hub (mkRecord s { Report.of fCFG with
      detail := cfgDetail reason 0 0xFFFF off, sid := BitVec.ofNat 64 (field (readBytes s.mem (s.hub.queue n).slipAddr 128) 112 8) } false)
    obtain ⟨head, idle, rotation⟩ := Hub.served_queue (q := s.hub.queue n) n (congrArg (AMap.get · HostQueue.empty n) (Hub.record_queues s.hub _))
    exact ⟨_, exec_slipRead_refuses hw hs hn hb hm hc, head, idle, rotation, _, recorded, rfl, rfl⟩
  · have e := exec_slipRead_accepts hw hs hn hb hm hc
    rw [State.accept_met (rankQueue n) hmet] at e
    obtain ⟨head, -, rotation⟩ := Hub.served_queue (h := s.hub.release s.cycle (rankQueue n) slip) (q := s.hub.queue n) n rfl
    exact ⟨_, e, head, rotation, rfl, _, mem_releasedPut _ _, rfl, rfl, rfl⟩
  · have e := exec_slipRead_accepts hw hs hn hb hm hc
    rw [State.accept_entry hmet hf] at e
    refine ⟨_, e, ?_, rfl, AMap.find_put_same _ _ _⟩
    exact (Hub.served_queue (h := { s.hub with holds := _ }) (q := s.hub.queue n) n rfl).head
  · have e := exec_slipRead_accepts hw hs hn hb hm hc
    rw [State.accept_full hmet hf] at e
    exact ⟨s, e, rfl⟩
  · refine ⟨_, exec_placementDecision h rfl, ?_⟩
    rw [List.findSome?_eq_none_iff.mpr hno]; rfl
  · refine ⟨_, exec_placementDecision h rfl, ?_⟩
    rw [hrel, List.findSome?_append, List.findSome?_eq_none_iff.mpr hno, List.findSome?_cons, hx]; rfl

end Sys2Proof.Machine
end

section
/-! PROOFS. Taking an exception keeps every fault record that was made before, whatever it withdraws and parks. -/
namespace Sys2Proof.Machine

/-- The fault records that stand in the store or are held by their units. -/
def Hub.records (h : Hub) : List FaultRec := h.store ++ h.blocked

/-- A change that keeps every fault record. -/
structure RecordsKept (s t : State) : Prop where
  kept : ∀ x ∈ s.hub.records, x ∈ t.hub.records

theorem RecordsKept.refl (s : State) : RecordsKept s s := ⟨fun _ h => h⟩

theorem RecordsKept.trans {s t u : State} (h : RecordsKept s t) (k : RecordsKept t u) : RecordsKept s u := ⟨fun x hx => k.kept x (h.kept x hx)⟩

theorem RecordsKept.foldl {β : Type} (f : State → β → State) (h : ∀ s b, RecordsKept s (f s b)) (bs : List β) (s : State) :
    RecordsKept s (bs.foldl f s) := foldl_rel .refl (fun h k => h.trans k) f h bs s

theorem RecordsKept.of_hub {s t : State} (h : t.hub = s.hub) : RecordsKept s t := ⟨fun _ hx => by rw [h]; exact hx⟩

theorem Hub.record_keeps (h : Hub) (r x : FaultRec) (hx : x ∈ h.records) : x ∈ (h.record r).records := by
  unfold Hub.records at hx ⊢
  rcases h.record_cases r with ⟨q, es, eb⟩ | ⟨es, eb⟩ <;> rw [es, eb] <;> simp only [List.mem_append] at hx ⊢ <;> tauto

theorem State.record_recordsKept (s : State) (r : FaultRec) : RecordsKept s (s.updHub (fun h => h.record r)) := ⟨Hub.record_keeps s.hub r⟩

theorem State.loans_recordsKept (s : State) (m : AMap Loan) : RecordsKept s { s with loans := m } := ⟨fun _ h => h⟩

/-! ### Parking a frame (R342) -/

theorem State.updLoan_recordsKept (s : State) (id : Nat) (g : Loan → Loan) : RecordsKept s (s.updLoan id g) := .of_hub (s.updLoan_hub id g)

theorem State.dropFlit_recordsKept (s : State) (b : Nat) (f : Flit) : RecordsKept s (s.dropFlit b f) := by
  unfold State.dropFlit; split
  · exact .of_hub (s.gone_hub _ _ _ _)
  · exact .refl s

theorem State.parkTake_recordsKept (s : State) (loan b : Nat) (tag : Option Tag) : RecordsKept s (s.parkTake loan b tag).2 := by
  unfold State.parkTake; split
  · exact .refl s
  · split
    · exact .of_hub rfl
    · split
      · exact State.updLoan_recordsKept _ _ _
      · split
        · exact State.updLoan_recordsKept _ _ _
        · exact s.record_recordsKept _

theorem State.parkGive_recordsKept (s : State) (loan place : Nat) : RecordsKept s (s.parkGive loan place) := by
  unfold State.parkGive; split
  · exact .refl s
  · dsimp only; split
    · exact .of_hub rfl
    · exact s.updLoan_recordsKept _ _
    · exact s.updLoan_recordsKept _ _
    · exact .refl s

theorem State.parkFlit_recordsKept (s : State) (b f : Nat) (x : Flit) : RecordsKept s (s.parkFlit b f x) := by
  unfold State.parkFlit; split
  · exact .refl s
  · split
    · exact .refl s
    · split
      · exact .refl s
      · split
        · exact State.dropFlit_recordsKept _ _ _
        · exact (State.parkTake_recordsKept s _ _ _).trans (State.updLoan_recordsKept _ _ _)

theorem State.withdraw_recordsKept (s : State) (id f : Nat) : RecordsKept s (s.withdraw id f) := by
  unfold State.withdraw; split
  · exact .refl s
  · refine .foldl _ (fun s p => ?_) _ _
    refine RecordsKept.trans ?_ (.foldl _ (fun u x => u.parkFlit_recordsKept _ _ _) _ _)
    exact (RecordsKept.of_hub (State.updEl_hub s _ _)).trans (.foldl _ (fun u x => u.updLoan_recordsKept _ _) _ _)

theorem State.withdrawAccs_recordsKept (s : State) (id f : Nat) (faults : List (List Nat × Nat)) :
    RecordsKept s (s.withdrawAccs id f faults) := by
  unfold State.withdrawAccs; split
  · exact .refl s
  · refine .foldl _ (fun s p => ?_) _ _
    dsimp only
    split
    · split
      · exact .of_hub (State.gone_hub _ _ _ _ _)
      · exact .of_hub rfl
    · exact .refl s

theorem State.withdrawTriggers_recordsKept (s : State) (id f : Nat) (faults : List (List Nat × Nat)) :
    RecordsKept s (s.withdrawTriggers id f faults) := by
  unfold State.withdrawTriggers; split
  · exact .refl s
  · refine .foldl _ (fun s b => ?_) _ _
    dsimp only
    split
    · exact .refl s
    · exact (RecordsKept.of_hub (State.updBay_hub s _ _)).trans (.foldl _ (fun u x => .of_hub (u.gone_hub _ _ _ _)) _ _)

theorem State.dropOrdered_recordsKept (s : State) (id f : Nat) (faults : List (List Nat × Nat)) : RecordsKept s (s.dropOrdered id f faults) := by
  unfold State.dropOrdered; split
  · exact .refl s
  · exact .of_hub rfl

theorem State.ack_recordsKept (s : State) (id b : Nat) (its : List (Nat × List Nat)) : RecordsKept s (s.ack id b its) := .of_hub (s.ack_hub _ _ _)

theorem State.parkFrame_recordsKept (s : State) (id : Nat) (tag : Tag) (loops : List Nat) (fault : Bool) (kept : List Kept) :
    RecordsKept s (s.parkFrame id tag loops fault kept) := by
  have withdrawn : ∀ (g : Loan → Loan) (lost : List (Nat × Flit)) (m : List (List Nat × Nat)), RecordsKept s
      ((((lost.foldl (fun s x => (s.parkGive id x.1).dropFlit (x.1 / 4) x.2) (s.updLoan id g)).withdraw id tag.frame.toNat).withdrawAccs id
        tag.frame.toNat m).withdrawTriggers id tag.frame.toNat m) := fun g lost m =>
    ((((s.updLoan_recordsKept _ _).trans (RecordsKept.foldl _ (fun u x =>
      (u.parkGive_recordsKept _ _).trans (State.dropFlit_recordsKept _ _ _)) _ _)).trans (State.withdraw_recordsKept _ _ _)).trans
      (State.withdrawAccs_recordsKept _ _ _ _)).trans (State.withdrawTriggers_recordsKept _ _ _ _)
  unfold State.parkFrame; dsimp only; split
  · exact .refl s
  · split
    · exact .refl s
    · split
      · exact withdrawn _ _ _
      · exact (((withdrawn _ _ _).trans (State.loans_recordsKept _ _)).trans (State.dropOrdered_recordsKept _ _ _ _)).trans
          (.foldl _ (fun u x => u.ack_recordsKept _ _ _) _ _)

theorem State.translateParked_recordsKept (s : State) (id f : Nat) (r : Report) : RecordsKept s (s.translateParked id f r) := by
  refine .of_hub ?_
  have mapped : ∀ (u : State) (b : Bool) (i : Instr), u.hub = s.hub → (if b then u.drawNat.2.later (1 + u.drawNat.1) i else u).hub = s.hub := by
    intro u b i hu
    split <;> exact hu
  unfold State.translateParked; split
  · rfl
  · exact mapped _ _ _ (State.updLoan_hub _ _ _)

/-- TAKING AN EXCEPTION leaves its record with the hub (R30, R339). -/
theorem State.raise_recorded (s : State) (r : Report) (loops : List Nat) (kept : List Kept) {tag : Tag} (ht : r.tag = some tag) :
    Recorded (s.raise r loops kept) r.code tag := by
  have stands : ∀ (parks : Bool) (t : State), RecordsKept (s.updHub (fun h => h.record (mkRecord s r parks))) t → Recorded t r.code tag :=
    fun parks t h => by
      obtain ⟨q, recorded⟩ := Hub.record_mem s.hub (mkRecord s r parks)
      exact ⟨_, h.kept _ recorded, rfl, by simp only [mkRecord, ht]⟩
  have parked : ∀ (parks b : Bool) (id f : Nat) (tag : Tag) (fault : Bool), RecordsKept (s.updHub (fun h => h.record (mkRecord s r parks)))
      (if b then ((s.updHub (fun h => h.record (mkRecord s r parks))).parkFrame id tag loops fault kept).translateParked id f r
        else s.updHub (fun h => h.record (mkRecord s r parks))) := by
    intro parks b id f tag fault
    split
    · exact (State.parkFrame_recordsKept _ _ _ _ _ _).trans (State.translateParked_recordsKept _ _ _ _)
    · exact .refl _
  cases hl : r.loan with
  | none => unfold State.raise; simp only [hl]; exact stands _ _ (.refl _)
  | some id => unfold State.raise; simp only [hl, ht]; exact stands _ _ (parked _ _ _ _ _ _)

end Sys2Proof.Machine
end

section
/-! PROOFS. O33: arrivals of tokens, and the weights of a context. -/
namespace Sys2Proof.Machine

/-! ### Maps made or changed entry by entry -/

theorem AMap.find_map {β γ : Type} (m : AMap β) (g : β → γ) (k : Nat) :
    AMap.find (m.map (fun p => (p.1, g p.2))) k = (AMap.find m k).map g := by
  induction m with
  | nil => rfl
  | cons p m ih =>
    simp only [List.map_cons, AMap.find]
    split
    · rfl
    · exact ih

theorem AMap.find_tabulate {β : Type} (ks : List Nat) (w : Nat → β) {k : Nat} (h : k ∈ ks) :
    AMap.find (ks.map (fun j => (j, w j))) k = some (w k) := by
  induction ks with
  | nil => cases h
  | cons j ks ih =>
    simp only [List.map_cons, AMap.find]
    split
    next e => rw [e]
    next e => exact ih ((List.mem_cons.mp h).resolve_left (fun e' => e e'.symm))

/-! ### Queues -/

@[simp] theorem Plane.queue_updQueue_same (p : Plane) (q : Nat) (f : List QTok → List QTok) : (p.updQueue q f).queue q = f (p.queue q) := by
  simp [Plane.queue, Plane.updQueue]

theorem Plane.queue_updQueue_other (p : Plane) {q r : Nat} (f : List QTok → List QTok) (h : r ≠ q) : (p.updQueue q f).queue r = p.queue r := by
  simp [Plane.queue, Plane.updQueue, AMap.get_upd_other _ _ _ h]

theorem takeArriving_same (cycle : Nat) (e : Element) (side : Nat) :
    (takeArriving cycle e side).ctxs = e.ctxs ∧ (takeArriving cycle e side).planes = e.planes := by
  unfold takeArriving
  split
  · exact ⟨rfl, rfl⟩
  · split <;> exact ⟨rfl, rfl⟩

/-- The context and the active plane of an element that something has arrived at are as they were. -/
theorem takeArriving_active (cycle : Nat) (e : Element) (side c : Nat) :
    (takeArriving cycle e side).ctx c = e.ctx c ∧ (takeArriving cycle e side).active c = e.active c := by
  obtain ⟨ctxs, planes⟩ := takeArriving_same cycle e side
  have hc : (takeArriving cycle e side).ctx c = e.ctx c := by rw [Element.ctx, ctxs]; rfl
  refine ⟨hc, ?_⟩
  unfold Element.active Element.plane
  rw [hc, planes]

theorem enqueue_active {e : Element} {c : Nat} (cycle p : Nat) (q : QEntry) (served : Bool) (h : (e.ctx c).plane.isSome = true) :
    (enqueue cycle e c p q served).active c = (e.active c).updQueue p (· ++ [⟨q, cycle, served⟩]) :=
  Element.active_updActive e c _ h

@[simp] theorem State.arrived_el (s : State) (id k : Nat) : (s.arrived id).el k = s.el k := by
  simp [State.el, State.arrived]

theorem State.arrived_frame (s : State) (id : Nat) : s.arrived id = { s with loans := (s.arrived id).loans } := by
  unfold State.arrived State.updLoan; split <;> rfl

/-- A queue that takes a token holds fewer than four (R41): a full one holds it up or passes it on. -/
theorem landing_queue_room {s : State} {el side : Nat} {l : Loan} {x : Token} (h : landing s el side l x = .queue) :
    (((s.el el).active x.q.ctx.toNat).queue x.port.toNat).length < 4 := by
  by_contra full
  have fill : decide (4 ≤ queueFill s.cycle (s.el el) x.q.ctx.toNat x.port.toNat) = true :=
    decide_eq_true (le_trans (Nat.not_lt.mp full) (Nat.le_add_right _ _))
  simp only [landing, fill, Bool.or_true, if_true] at h
  repeat' split at h
  all_goals cases h

/-! ### Arrivals (R41, R46, R52) -/

theorem exec_tokenArrive_stopped {s : State} {el : Nat} (side : Side) (h : s.stopped (.element el) = true) :
    exec (.tokenArrive el side) s = .next (s.later 1 (.tokenArrive el side)) := by
  show execTokenArrive el side s = _
  simp only [execTokenArrive, h, if_true]

/-- No arrival from a side that goes before is due. -/
theorem noneBefore {s : State} {el i : Nat} (first : ∀ j, j < i → s.dueNow (fun y => y == .tokenArrive el (sideOf j)) = false) :
    (List.range i).any (fun j => s.dueNow (fun y => y == .tokenArrive el (sideOf j))) = false :=
  List.any_eq_false.mpr fun j hj => by rw [first j (List.mem_range.mp hj)]; exact Bool.false_ne_true

section Arriving
variable {s : State} {el : Nat} {side : Side} {f : Flit} {l : Loan} {x : Token} (running : s.stopped (.element el) = false)
  (first : ∀ j, j < sideIdx side → s.dueNow (fun y => y == .tokenArrive el (sideOf j)) = false)
  (stands : arriving s.cycle (s.el el) (sideIdx side) = some f) (loan : AMap.find s.loans f.loan = some l) (token : f.emit = .token x)
  (good : badToken x = false)
include running first stands loan token good

theorem exec_tokenArrive_passes (hi : sideIdx side < 4) (hk : l.elKey x.el.toNat ≠ el) :
    exec (.tokenArrive el side) s = .next (s.later 0 (.tokenHop el (.link side))) := by
  show execTokenArrive el side s = _
  have passes : (!badToken x && decide (sideIdx side < 4) && l.elKey x.el.toNat != el) = true := by simp [good, hi, hk]
  simp only [execTokenArrive, running, noneBefore first, stands, loan, token, Emit.asToken, passes, Bool.false_eq_true, if_false, if_true]

theorem exec_tokenArrive_lands (hk : sideIdx side < 4 → l.elKey x.el.toNat = el) : exec (.tokenArrive el side) s =
    .next (s.land (s.updEl el (fun e => takeArriving s.cycle e (sideIdx side))) el side (x.el.toNat / 128) l f x
      (landing s el (sideIdx side) l x)) := by
  show execTokenArrive el side s = _
  have stays : (decide (sideIdx side < 4) && l.elKey x.el.toNat != el) = false := by
    by_cases hi : sideIdx side < 4
    · simp [hk hi]
    · simp [hi]
  simp only [execTokenArrive, running, noneBefore first, stands, loan, token, Emit.asToken, good, Bool.not_false, Bool.true_and, stays,
    Bool.false_eq_true, if_false]

end Arriving

theorem State.land_queue (s gone : State) (el : Nat) (side : Side) (b : Nat) (l : Loan) {f : Flit} {x : Token} (token : f.emit = .token x) :
    s.land gone el side b l f x .queue =
      (gone.updEl el (fun e => enqueue s.cycle e x.q.ctx.toNat x.port.toNat x.q false)).arrived f.loan := by
  have fresh : (f.emit == .served x) = false := by rw [token]; exact beq_false_of_ne Emit.noConfusion
  show (gone.updEl el (fun e => enqueue s.cycle e x.q.ctx.toNat x.port.toNat x.q (f.emit == .served x))).arrived f.loan = _
  rw [fresh]

/-- A token has entered its queue (R41): that queue is longer by it, and nothing else but its element and its loan has changed. -/
theorem arrived_enqueue {s t : State} {el i c p id : Nat} {q : QEntry} (hp : ((s.el el).ctx c).plane.isSome = true)
    (ht : t = ((s.updEl el (fun e => takeArriving s.cycle e i)).updEl el (fun e => enqueue s.cycle e c p q false)).arrived id) :
    ((t.el el).active c).queue p = ((s.el el).active c).queue p ++ [⟨q, s.cycle, false⟩] ∧
    (∀ r, r ≠ p → ((t.el el).active c).queue r = ((s.el el).active c).queue r) ∧
    (∀ k, k ≠ el → t.el k = s.el k) ∧ t = { s with els := t.els, loans := t.loans } := by
  obtain ⟨ctx, active⟩ := takeArriving_active s.cycle (s.el el) i c
  have plane : (t.el el).active c = ((s.el el).active c).updQueue p (· ++ [⟨q, s.cycle, false⟩]) := by
    rw [ht, State.arrived_el, State.el_updEl_same, State.el_updEl_same, enqueue_active _ _ _ _ (by rw [ctx]; exact hp), active]
  refine ⟨?_, fun r hne => ?_, fun k hne => ?_, ?_⟩
  · rw [plane, Plane.queue_updQueue_same]
  · rw [plane, Plane.queue_updQueue_other _ _ hne]
  · rw [ht, State.arrived_el, State.el_updEl_other _ _ hne, State.el_updEl_other _ _ hne]
  · rw [ht, State.arrived_frame]; rfl

/-! ### Weights (R130) -/

theorem newWeights_get (x : ElCtx) {h : Nat} (hh : h < 8) :
    let top := (List.range 8).foldl (fun m h => max m (AMap.get x.occupancy 0 h)) 0
    AMap.get (newWeights x) 0 h = if top = 0 then 1 else 1 + 15 * AMap.get x.occupancy 0 h / top := by
  dsimp only
  rw [AMap.get, newWeights, AMap.find_tabulate _ _ (List.mem_range.mpr hh), Option.getD_some]

/-- A context, and an element, with new weights. -/
def ElCtx.reweigh (x : ElCtx) : ElCtx := { x with nextWeights := newWeights x, occupancy := [] }
@[inherit_doc ElCtx.reweigh] def Element.reweigh (e : Element) : Element := { e with ctxs := e.ctxs.map (fun p => (p.1, p.2.reweigh)) }

theorem Element.reweigh_ctx {e : Element} {c : Nat} (h : (AMap.find e.ctxs c).isSome = true) : e.reweigh.ctx c = (e.ctx c).reweigh := by
  obtain ⟨x, hx⟩ := Option.isSome_iff_exists.mp h
  have mapped : AMap.find e.reweigh.ctxs c = some x.reweigh := by rw [Element.reweigh, AMap.find_map, hx]; rfl
  rw [Element.ctx, Element.ctx, AMap.get, AMap.get, mapped, hx]
  rfl

/-- Settles O33: an arrival by where the token lands, and the weights by what each context takes. -/
theorem tokenArrivals : Obligations.TokenArrivals := by
  intro s el side
  refine ⟨fun h => ⟨_, exec_tokenArrive_stopped side h, rfl⟩, fun f l x running first stands loan token good =>
    ⟨fun hi hk => ⟨_, exec_tokenArrive_passes running first stands loan token good hi hk, rfl⟩, fun hk => ?_⟩, fun c hc => ?_⟩
  · have lands := exec_tokenArrive_lands running first stands loan token good hk
    refine ⟨fun h hp => ?_, fun h => ?_, fun h => ?_, fun h => ?_, landing_queue_room⟩
    · rw [h, State.land_queue _ _ _ _ _ _ token] at lands
      exact ⟨_, lands, arrived_enqueue hp rfl⟩
    · rw [h] at lands
      exact ⟨_, lands, rfl⟩
    · rw [h] at lands
      exact ⟨_, lands, State.raise_recorded _ _ _ _ rfl⟩
    · rw [h] at lands
      exact ⟨_, lands, State.raise_recorded _ _ _ _ rfl⟩
  · have here : ((s.updEl el Element.reweigh).el el).ctx c = ((s.el el).ctx c).reweigh := by
      rw [State.el_updEl_same]; exact Element.reweigh_ctx hc
    refine ⟨s.updEl el Element.reweigh, rfl, fun h hh => ?_, ?_, fun k hk => State.el_updEl_other s _ hk, rfl⟩
    · rw [here]; exact newWeights_get _ hh
    · rw [here]; rfl

end Sys2Proof.Machine
end

section
/-! PROOFS. O57: every instruction of an element is a firing, every event answers a next state on each of its branches, and an access from
outside is refused where it names no address. -/
namespace Sys2Proof.Machine

/-- An outcome is a next state. -/
def Runs (o : Host.Outcome State Fault Refusal) : Prop := ∃ t, o = .next t
theorem runs_next (t : State) : Runs (.next t) := ⟨t, rfl⟩

/-- A firing answers a next state whether or not its handler fires (R126, R302). -/
theorem fireFrom_runs (sh : Shape) (gath : State → FireCtx → Gather) (perform : FireCtx → Got → Option Eff)
    (after : FireCtx → Got → State → State) (s : State) : Runs (fireFrom sh gath perform after s) := by
  fun_cases fireFrom <;> exact runs_next _

theorem fire_runs (sh : Shape) (perform : FireCtx → Got → Option Eff) (after : FireCtx → Got → State → State) (s : State) :
    Runs (fire sh perform after s) := fireFrom_runs _ _ _ _ s

theorem fireValue_runs (sh : Shape) (compute : Got → W32 × Flags) (s : State) : Runs (fireValue sh compute s) := fire_runs _ _ _ s

theorem firePlain_runs (sh : Shape) (compute : Got → W32) (s : State) : Runs (firePlain sh compute s) := fireValue_runs _ _ s

theorem fireDraws_runs (sh : Shape) (mode n : Nat) (compute : Got → List Nat → W32 × Flags) (s : State) :
    Runs (fireDraws sh mode n compute s) := fire_runs _ _ _ s

theorem fireAcc_runs (h : Hdr) (b : FI) (lat : Nat) (op : W32 → W32 → W32 × Flags) (s : State) : Runs (fireAcc h b lat op s) :=
  fire_runs _ _ _ s

theorem fireMem_runs (sh : Shape) (h : Hdr) (b : FM) (kind : AccKind) (o : Bool) (ask : FireCtx → Got → Window → MemAsk) (s : State) :
    Runs (fireMem sh h b kind o ask s) := fire_runs _ _ _ s

theorem fireAtomic_runs (op : BitVec 8) (h : Hdr) (b : FM) (s : State) : Runs (fireAtomic op h b s) := fireMem_runs _ _ _ _ _ _ s

theorem fireCommand_runs (h : Hdr) (b : FY) (op : DOp) (s : State) : Runs (fireCommand h b op s) := fire_runs _ _ _ s

theorem fireTrap_runs (h : Hdr) (b : FY) (code : Nat) (s : State) : Runs (fireTrap h b code s) := fire_runs _ _ _ s

/-- Every instruction that has a handler word is a firing; the groups below are the model's ways to fire. -/
theorem exec_handler_runs {i : Instr} {v : Handler} (h : handlerView i = some v) (s : State) : Runs (exec i s) := by
  cases i <;> simp only [handlerView, reduceCtorEq] at h <;> dsimp only [exec]
  case iadd | isub | imul | imulh | imad | ineg | iabs | imin | imax | iadds | isubs | icmp | and | or | xor | andn | not | shl |
      shr | shra | rotl | clz | popc | brev | bfx | bfi | lea | cellhash | iclamp | mov | movi | movhi | sel | const | gate |
      prime =>
    exact firePlain_runs _ _ s
  case iaddc | nbrkey | seed | sink | getw | setw | live | islive | count | stride | next | loopout | bound | tagrd | tagwr |
      exit | ends | accrd | accz | cfwd | cfwdx | mxcfg | mxstep | mxfade | mxpass | darm | tlinc | tlwait | tlrd | launch |
      tlset | stock | prio | ccall | cret | resume | park | fltrd | perfrd | timerd | scanout | scanin | cflush | steer |
      steerx | callf | retf | ordred | xacc | xrnd | mxscl | mxdrn | fence | cgrp | barr | evwatch | dfire =>
    exact fire_runs _ _ _ s
  case cellkey | fadd | fsub | fmul | ffma | fmin | fmax | fabs | fneg | fcmp | frcp | frsq | fexp2 | flog2 | fsqrt | fscale |
      fclass | fdot2 | qunpk =>
    exact fireValue_runs _ _ s
  case fround | fcvt | ftoi | itof | qpack =>
    exact fireDraws_runs _ _ _ _ s
  case merge | mergeo =>
    exact fireFrom_runs _ _ _ _ s
  case loopin =>
    unfold execLoopin
    exact fireFrom_runs _ _ _ _ s
  case accadd | accmax | accscl =>
    exact fireAcc_runs _ _ _ _ s
  case slog | sread | mxldacc | ld | st | lds | sts | ldq | stq | pref | sendc | sendm | creq | dlay =>
    exact fireMem_runs _ _ _ _ _ _ s
  case aadd | afadd | amin | amax | axchg | acas | abit | aincb =>
    exact fireAtomic_runs _ _ _ s
  case dstat | dcan =>
    exact fireCommand_runs _ _ _ s
  case trap | brk =>
    exact fireTrap_runs _ _ _ s

/-! ### The fabric (R127 to R138, R302, R303) -/

theorem execFiringResultWrite_runs (el id : Nat) (s : State) : Runs (execFiringResultWrite el id s) := by
  fun_cases execFiringResultWrite <;> exact runs_next _

theorem execTokenHop_runs (el : Nat) (src : HopSrc) (s : State) : Runs (execTokenHop el src s) := by
  fun_cases execTokenHop <;> exact runs_next _

theorem execTokenArrive_runs (el : Nat) (side : Side) (s : State) : Runs (execTokenArrive el side s) := by
  fun_cases execTokenArrive <;> exact runs_next _

theorem execMatchToken_runs (el : Nat) (s : State) : Runs (execMatchToken el s) := by
  fun_cases execMatchToken <;> exact runs_next _

theorem execFrameSlotWrite_runs (el : Nat) (s : State) : Runs (execFrameSlotWrite el s) := by
  fun_cases execFrameSlotWrite <;> exact runs_next _

theorem execFrameSpill_runs (loan : Nat) (s : State) : Runs (execFrameSpill loan s) := by
  fun_cases execFrameSpill <;> exact runs_next _

theorem execFrameRefill_runs (loan frame : Nat) (s : State) : Runs (execFrameRefill loan frame s) := by
  fun_cases execFrameRefill <;> exact runs_next _

theorem execSqClaimArrive_runs (loan index hnd : Nat) (s : State) : Runs (execSqClaimArrive loan index hnd s) := by
  fun_cases execSqClaimArrive <;> exact runs_next _

theorem execSqGrantArrive_runs (loan index hnd : Nat) (s : State) : Runs (execSqGrantArrive loan index hnd s) := by
  fun_cases execSqGrantArrive <;> exact runs_next _

theorem execSqPostArrive_runs (loan : Nat) (post : SqPost) (s : State) : Runs (execSqPostArrive loan post s) := by
  fun_cases execSqPostArrive <;> exact runs_next _

/-! ### Accesses (R243 to R250, R289) -/

theorem execTlbWalkDone_runs (id : Nat) (s : State) : Runs (execTlbWalkDone id s) := by
  fun_cases execTlbWalkDone <;> exact runs_next _

theorem execWaveAccessArrive_runs (id : Nat) (s : State) : Runs (execWaveAccessArrive id s) := by
  fun_cases execWaveAccessArrive <;> exact runs_next _

theorem execAccessPerform_runs (id : Nat) (s : State) : Runs (execAccessPerform id s) := by
  fun_cases execAccessPerform <;> exact runs_next _

/-! ### Rounds of claims (R290) -/

theorem execAincbRoundEnd_runs (place : Nat) (s : State) : Runs (execAincbRoundEnd place s) := by
  fun_cases execAincbRoundEnd <;> exact runs_next _

/-! ### The Cell Exchange (R259 to R278) -/

theorem execCellEnqueue_runs (id : Nat) (s : State) : Runs (execCellEnqueue id s) := by
  fun_cases execCellEnqueue <;> exact runs_next _

theorem execExchangeSlot_runs (die : Nat) (s : State) : Runs (execExchangeSlot die s) := by
  unfold execExchangeSlot
  dsimp only
  exact runs_next _

theorem execLagDrop_runs (die port id : Nat) (s : State) : Runs (execLagDrop die port id s) := by
  fun_cases execLagDrop <;> exact runs_next _

theorem execMemoryPortCell_runs (die port : Nat) (s : State) : Runs (execMemoryPortCell die port s) := by
  fun_cases execMemoryPortCell <;> exact runs_next _

theorem execIngressCell_runs (bay : Nat) (s : State) : Runs (execIngressCell bay s) := by
  fun_cases execIngressCell <;> exact runs_next _

/-! ### Decanters (R257, R258, R295) -/

theorem execDecantBlockDone_runs (bay decanter : Nat) (s : State) : Runs (execDecantBlockDone bay decanter s) := by
  fun_cases execDecantBlockDone <;> exact runs_next _

theorem execDecantTrigger_runs (el : Nat) (s : State) : Runs (execDecantTrigger el s) := by
  fun_cases execDecantTrigger <;> exact runs_next _

theorem execDecantArmApply_runs (id : Nat) (s : State) : Runs (execDecantArmApply id s) := by
  fun_cases execDecantArmApply <;> exact runs_next _

/-! ### Arrays and feeds (R219 to R227) -/

theorem execRampTurnEnd_runs (loan : Nat) (s : State) : Runs (execRampTurnEnd loan s) := by
  fun_cases execRampTurnEnd <;> exact runs_next _

theorem execRunEnd_runs (el ctx : Nat) (s : State) : Runs (execRunEnd el ctx s) := by
  fun_cases execRunEnd <;> exact runs_next _

theorem execFeedBeat_runs (loan index : Nat) (isB : Bool) (s : State) : Runs (execFeedBeat loan index isB s) := by
  fun_cases execFeedBeat <;> exact runs_next _

theorem execMatrixStep_runs (el ctx : Nat) (s : State) : Runs (execMatrixStep el ctx s) := by
  fun_cases execMatrixStep <;> exact runs_next _

/-! ### Banks -/

theorem execBankAccess_runs (bay tile bank : Nat) (s : State) : Runs (execBankAccess bay tile bank s) := by
  fun_cases execBankAccess <;> exact runs_next _

/-! ### Timelines (R104 to R107) -/

theorem execTlwaitMet_runs (id : Nat) (s : State) : Runs (execTlwaitMet id s) := by
  fun_cases execTlwaitMet <;> exact runs_next _

theorem execLaunchAccept_runs (id : Nat) (s : State) : Runs (execLaunchAccept id s) := by
  fun_cases execLaunchAccept <;> exact runs_next _

theorem execWatchSample_runs (watch : Nat) (s : State) : Runs (execWatchSample watch s) := by
  fun_cases execWatchSample <;> exact runs_next _

/-! ### Barriers and stocktakes -/

theorem execBarrierArrive_runs (id : Nat) (s : State) : Runs (execBarrierArrive id s) := by
  fun_cases execBarrierArrive <;> exact runs_next _

theorem execStocktakeSnapshot_runs (s : State) : Runs (execStocktakeSnapshot s) := by
  fun_cases execStocktakeSnapshot <;> exact runs_next _

theorem execWatchdogExpire_runs (loan : Nat) (s : State) : Runs (execWatchdogExpire loan s) := by
  fun_cases execWatchdogExpire <;> exact runs_next _

/-! ### Exits and returns (R382 to R387) -/

theorem execExitTaken_runs (loan : Nat) (s : State) : Runs (execExitTaken loan s) := by
  fun_cases execExitTaken <;> exact runs_next _

theorem execExitDrainDone_runs (loan : Nat) (s : State) : Runs (execExitDrainDone loan s) := by
  fun_cases execExitDrainDone <;> exact runs_next _

theorem execLoanReturn_runs (loan : Nat) (s : State) : Runs (execLoanReturn loan s) := by
  fun_cases execLoanReturn <;> exact runs_next _

/-! ### Calls (R350 to R356) -/

theorem execPlaneSpillDone_runs (loan : Nat) (s : State) : Runs (execPlaneSpillDone loan s) := by
  fun_cases execPlaneSpillDone <;> exact runs_next _

theorem execFreezeMarkerArrive_runs (loan bay : Nat) (s : State) : Runs (execFreezeMarkerArrive loan bay s) := by
  fun_cases execFreezeMarkerArrive <;> exact runs_next _

theorem execFreezePoint_runs (loan : Nat) (s : State) : Runs (execFreezePoint loan s) := by
  fun_cases execFreezePoint <;> exact runs_next _

theorem execThawPop_runs (loan : Nat) (s : State) : Runs (execThawPop loan s) := by
  fun_cases execThawPop <;> exact runs_next _

/-! ### Switches (R347 to R350) -/

theorem execSwitchRequest_runs (loan : Nat) (s : State) : Runs (execSwitchRequest loan s) := by
  fun_cases execSwitchRequest <;> exact runs_next _

theorem execSwitchDrainDone_runs (loan : Nat) (s : State) : Runs (execSwitchDrainDone loan s) := by
  fun_cases execSwitchDrainDone <;> exact runs_next _

/-- Split by hand, the saved body kept as a name: reducing what is written to memory is too deep for the kernel. -/
theorem execScanOutDone_runs (loan : Nat) (s : State) : Runs (execScanOutDone loan s) := by
  unfold execScanOutDone
  split
  next => exact runs_next _
  next l _ =>
    split
    next => exact runs_next _
    next =>
      extract_lets body
      split
      next => exact runs_next _
      next => exact runs_next _

theorem execRestore_runs (loan : Nat) (s : State) : Runs (execRestore loan s) := by
  fun_cases execRestore <;> exact runs_next _

/-! ### Slips and placement (R95, R111 to R123) -/

theorem execSlipRead_runs (s : State) : Runs (execSlipRead s) := by
  unfold execSlipRead
  dsimp only
  repeat' split
  all_goals exact runs_next _

theorem execPlacementDecision_runs (s : State) : Runs (execPlacementDecision s) := by
  fun_cases execPlacementDecision <;> exact runs_next _

theorem execImageFetchDone_runs (loan : Nat) (s : State) : Runs (execImageFetchDone loan s) := by
  fun_cases execImageFetchDone <;> exact runs_next _

theorem execConfigWriteDone_runs (loan : Nat) (s : State) : Runs (execConfigWriteDone loan s) := by
  fun_cases execConfigWriteDone <;> exact runs_next _

theorem execPrefetchDone_runs (id : Nat) (s : State) : Runs (execPrefetchDone id s) := by
  fun_cases execPrefetchDone <;> exact runs_next _

/-! ### Bring-up and gating (R18 to R25, R116) -/

theorem execWakeSequencerTick_runs (die : Nat) (s : State) : Runs (execWakeSequencerTick die s) := by
  fun_cases execWakeSequencerTick <;> exact runs_next _

theorem execHostLinkTrained_runs (s : State) : Runs (execHostLinkTrained s) := by
  fun_cases execHostLinkTrained <;> exact runs_next _

theorem execRecoveryVerifyDone_runs (s : State) : Runs (execRecoveryVerifyDone s) := by
  fun_cases execRecoveryVerifyDone <;> exact runs_next _

theorem execAttestationSign_runs (s : State) : Runs (execAttestationSign s) := by
  fun_cases execAttestationSign <;> exact runs_next _

theorem execBayGate_runs (bay : Nat) (s : State) : Runs (execBayGate bay s) := by
  fun_cases execBayGate <;> exact runs_next _

/-! ### The Colophon (R367 to R373) -/

theorem colTyped_runs (rd : BitVec 4) (t : BitVec 2) (costF : Nat) (f : W32 × Flags) (i : W32) (n : W32) (s : State) :
    Runs (colTyped rd t costF f i n s) := by
  fun_cases colTyped <;> exact runs_next _

theorem execEcvt_runs (rd ra : BitVec 4) (ty : BitVec 4) (rnd : BitVec 3) (sat : Bool) (s : State) :
    Runs (execEcvt rd ra ty rnd sat s) := by
  fun_cases execEcvt <;> exact runs_next _

theorem execEldr_runs (rd : BitVec 4) (m : Bool) (s : State) : Runs (execEldr rd m s) := by
  fun_cases execEldr <;> exact runs_next _

theorem execEstr_runs (ra rb : BitVec 4) (k : BitVec 14) (s : State) : Runs (execEstr ra rb k s) := by
  fun_cases execEstr <;> exact runs_next _

theorem execEbnz_runs (ra : BitVec 4) (off : BitVec 14) (s : State) : Runs (execEbnz ra off s) := by
  fun_cases execEbnz <;> exact runs_next _

theorem execEloop_runs (rd : BitVec 4) (off : BitVec 14) (s : State) : Runs (execEloop rd off s) := by
  fun_cases execEloop <;> exact runs_next _

theorem execEwait_runs (n : BitVec 7) (s : State) : Runs (execEwait n s) := by
  fun_cases execEwait <;> exact runs_next _

theorem execEsig_runs (ra : BitVec 4) (el : BitVec 7) (port : BitVec 2) (hnd : BitVec 3) (s : State) :
    Runs (execEsig ra el port hnd s) := by
  fun_cases execEsig <;> exact runs_next _

/-! ### The hub (R30, R32, R125, R379) -/

theorem execFaultRecordDeliver_runs (s : State) : Runs (execFaultRecordDeliver s) := by
  fun_cases execFaultRecordDeliver <;> exact runs_next _

theorem execMailboxAnswer_runs (words : List (Nat × W64)) (s : State) : Runs (execMailboxAnswer words s) := by
  fun_cases execMailboxAnswer <;> exact runs_next _

theorem execChunkMoveDone_runs (_die chunk : Nat) (s : State) : Runs (execChunkMoveDone _die chunk s) := by
  fun_cases execChunkMoveDone <;> exact runs_next _

theorem execDemandPageMap_runs (space page : Nat) (s : State) : Runs (execDemandPageMap space page s) := by
  fun_cases execDemandPageMap <;> exact runs_next _

/-! ### What is beyond the address field (R27, R243) -/

/-- An instruction that names an address from outside which no address field holds (R27, R243). -/
def Beyond (i : Instr) : Prop :=
  (∃ a, 2 ^ 52 < a.addr + agentSize a.op ∧
      (i = .hostMemoryAccess a ∨ i = .curatorMemoryAccess a ∨ i = .thrumArrival (.access a))) ∨
    ∃ space va entry e, 2 ^ 52 < entry + 8 ∧ i = .kernelPageInvalidate space va entry e

/-- An access that reaches beyond the address field names such an address, whichever of the three ways it comes by. -/
theorem beyond_of_agentBeyond {i : Instr} {a : AgentAccess} (h : agentBeyond a = true)
    (hi : i = .hostMemoryAccess a ∨ i = .curatorMemoryAccess a ∨ i = .thrumArrival (.access a)) : Beyond i :=
  .inl ⟨a, of_decide_eq_true h, hi⟩

theorem execHostMemoryAccess_runs_or_beyond (a : AgentAccess) (s : State) :
    Runs (execHostMemoryAccess a s) ∨ execHostMemoryAccess a s = .fault .noSuchAddress ∧ Beyond (.hostMemoryAccess a) := by
  fun_cases execHostMemoryAccess
  case case1 h => exact .inr ⟨rfl, beyond_of_agentBeyond h (.inl rfl)⟩
  case case2 => exact .inl (runs_next _)

theorem execCuratorMemoryAccess_runs_or_beyond (a : AgentAccess) (s : State) :
    Runs (execCuratorMemoryAccess a s) ∨ execCuratorMemoryAccess a s = .fault .noSuchAddress ∧ Beyond (.curatorMemoryAccess a) := by
  fun_cases execCuratorMemoryAccess
  case case1 h => exact .inr ⟨rfl, beyond_of_agentBeyond h (.inr (.inl rfl))⟩
  all_goals exact .inl (runs_next _)

theorem execThrumArrival_runs_or_beyond (msg : ThrumMsg) (s : State) :
    Runs (execThrumArrival msg s) ∨ execThrumArrival msg s = .fault .noSuchAddress ∧ Beyond (.thrumArrival msg) := by
  fun_cases execThrumArrival
  case case2 h => exact .inr ⟨rfl, beyond_of_agentBeyond h (.inr (.inr rfl))⟩
  all_goals exact .inl (runs_next _)

theorem execKernelPageInvalidate_runs_or_beyond (space va entry : Nat) (e : W64) (s : State) :
    Runs (execKernelPageInvalidate space va entry e s) ∨
      execKernelPageInvalidate space va entry e s = .fault .noSuchAddress ∧ Beyond (.kernelPageInvalidate space va entry e) := by
  fun_cases execKernelPageInvalidate
  case case1 h => exact .inr ⟨rfl, .inr ⟨space, va, entry, e, h, rfl⟩⟩
  all_goals exact .inl (runs_next _)

/-- What has no handler word is an event: first those that an address from outside comes with, then those with branches, and last those
whose one equation is a next state. -/
theorem exec_event_runs_or_beyond {i : Instr} (h : handlerView i = none) (s : State) :
    Runs (exec i s) ∨ exec i s = .fault .noSuchAddress ∧ Beyond i := by
  cases i <;> simp only [handlerView, reduceCtorEq] at h <;> dsimp only [exec]
  case kernelPageInvalidate => exact execKernelPageInvalidate_runs_or_beyond _ _ _ _ s
  case thrumArrival => exact execThrumArrival_runs_or_beyond _ s
  case hostMemoryAccess => exact execHostMemoryAccess_runs_or_beyond _ s
  case curatorMemoryAccess => exact execCuratorMemoryAccess_runs_or_beyond _ s
  case eadd | esub | emul | emax | emin => exact .inl (colTyped_runs _ _ _ _ _ _ s)
  case mailboxAnswer => exact .inl (execMailboxAnswer_runs _ s)
  case demandPageMap => exact .inl (execDemandPageMap_runs _ _ s)
  case wakeSequencerTick => exact .inl (execWakeSequencerTick_runs _ s)
  case bayGate => exact .inl (execBayGate_runs _ s)
  case imageFetchDone => exact .inl (execImageFetchDone_runs _ s)
  case configWriteDone => exact .inl (execConfigWriteDone_runs _ s)
  case prefetchDone => exact .inl (execPrefetchDone_runs _ s)
  case chunkMoveDone => exact .inl (execChunkMoveDone_runs _ _ s)
  case tokenHop => exact .inl (execTokenHop_runs _ _ s)
  case tokenArrive => exact .inl (execTokenArrive_runs _ _ s)
  case firingResultWrite => exact .inl (execFiringResultWrite_runs _ _ s)
  case matchToken => exact .inl (execMatchToken_runs _ s)
  case frameSlotWrite => exact .inl (execFrameSlotWrite_runs _ s)
  case frameSpill => exact .inl (execFrameSpill_runs _ s)
  case frameRefill => exact .inl (execFrameRefill_runs _ _ s)
  case rampTurnEnd => exact .inl (execRampTurnEnd_runs _ s)
  case feedBeat => exact .inl (execFeedBeat_runs _ _ _ s)
  case matrixStep => exact .inl (execMatrixStep_runs _ _ s)
  case runEnd => exact .inl (execRunEnd_runs _ _ s)
  case tlbWalkDone => exact .inl (execTlbWalkDone_runs _ s)
  case waveAccessArrive => exact .inl (execWaveAccessArrive_runs _ s)
  case accessPerform => exact .inl (execAccessPerform_runs _ s)
  case bankAccess => exact .inl (execBankAccess_runs _ _ _ s)
  case aincbRoundEnd => exact .inl (execAincbRoundEnd_runs _ s)
  case decantTrigger => exact .inl (execDecantTrigger_runs _ s)
  case decantBlockDone => exact .inl (execDecantBlockDone_runs _ _ s)
  case decantArmApply => exact .inl (execDecantArmApply_runs _ s)
  case cellEnqueue => exact .inl (execCellEnqueue_runs _ s)
  case exchangeSlot => exact .inl (execExchangeSlot_runs _ s)
  case ingressCell => exact .inl (execIngressCell_runs _ s)
  case memoryPortCell => exact .inl (execMemoryPortCell_runs _ _ s)
  case lagDrop => exact .inl (execLagDrop_runs _ _ _ s)
  case tlwaitMet => exact .inl (execTlwaitMet_runs _ s)
  case launchAccept => exact .inl (execLaunchAccept_runs _ s)
  case watchSample => exact .inl (execWatchSample_runs _ s)
  case sqClaimArrive => exact .inl (execSqClaimArrive_runs _ _ _ s)
  case sqGrantArrive => exact .inl (execSqGrantArrive_runs _ _ _ s)
  case sqPostArrive => exact .inl (execSqPostArrive_runs _ _ s)
  case barrierArrive => exact .inl (execBarrierArrive_runs _ s)
  case watchdogExpire => exact .inl (execWatchdogExpire_runs _ s)
  case exitTaken => exact .inl (execExitTaken_runs _ s)
  case exitDrainDone => exact .inl (execExitDrainDone_runs _ s)
  case loanReturn => exact .inl (execLoanReturn_runs _ s)
  case switchRequest => exact .inl (execSwitchRequest_runs _ s)
  case switchDrainDone => exact .inl (execSwitchDrainDone_runs _ s)
  case scanOutDone => exact .inl (execScanOutDone_runs _ s)
  case restore => exact .inl (execRestore_runs _ s)
  case freezeMarkerArrive => exact .inl (execFreezeMarkerArrive_runs _ _ s)
  case freezePoint => exact .inl (execFreezePoint_runs _ s)
  case planeSpillDone => exact .inl (execPlaneSpillDone_runs _ s)
  case thawPop => exact .inl (execThawPop_runs _ s)
  case ecvt => exact .inl (execEcvt_runs _ _ _ _ _ s)
  case eldr => exact .inl (execEldr_runs _ _ s)
  case estr => exact .inl (execEstr_runs _ _ _ s)
  case ebnz => exact .inl (execEbnz_runs _ _ s)
  case eloop => exact .inl (execEloop_runs _ _ s)
  case ewait => exact .inl (execEwait_runs _ s)
  case esig => exact .inl (execEsig_runs _ _ _ _ s)
  case hostLinkTrained => exact .inl (execHostLinkTrained_runs s)
  case recoveryVerifyDone => exact .inl (execRecoveryVerifyDone_runs s)
  case attestationSign => exact .inl (execAttestationSign_runs s)
  case faultRecordDeliver => exact .inl (execFaultRecordDeliver_runs s)
  case slipRead => exact .inl (execSlipRead_runs s)
  case placementDecision => exact .inl (execPlacementDecision_runs s)
  case stocktakeSnapshot => exact .inl (execStocktakeSnapshot_runs s)
  case hqDisable | fqRingSetup | fqheadWrite | hostTimelineIncrement | epochEnd | weightRecompute | matchDone |
      layoutRecordApply | retireAck | iterationRetire | kernelResume | colophonRun | colophonHalt | colophonCapture | efma |
      eclmp | eldi | emov | eand | eshf | ejmp | ehalt | rcdbGo | registerWrite | hqTailWrite | hqRingSetup | hqEnable |
      glaedRun | mbiWrite | kernelPrioWrite | glaedBreak | glaedWatch | glaedStep | glaedShowQueues | glaedShowFrame |
      glaedShowAcc | glaedShowPlanes | glaedShowVoq | glaedShowWave | glaedShowSillage | glaedPreempt | glaedSwitch |
      kernelTimelineWrite | reset | mailboxRequest | mailboxTake | mailboxAnswerClear | placementReservation | glaedContinue |
      glaedShowRetire | glaedStocktake | glaedFaults | orderRingTick =>
    exact .inl ⟨_, rfl⟩

/-- Settles O57: a handler is a firing, which always answers a next state, and every branch of an event does but for the one refusal of an
address. -/
theorem everyInstructionRuns : Obligations.EveryInstructionRuns := by
  unfold Obligations.EveryInstructionRuns
  intro i s
  cases h : handlerView i with
  | some v => exact .inl (exec_handler_runs h s)
  | none => exact exec_event_runs_or_beyond h s

end Sys2Proof.Machine
end

section
/-! PROOFS. O32: the hops of a token over the links of the fabric. -/
namespace Sys2Proof.Machine

theorem standing_takeStanding (cycle : Nat) (e : Element) (src : HopSrc) : standing (takeStanding cycle e src) src = (standing e src).drop 1 := by
  cases src <;> exact AMap.get_upd_same _ _ _ _

/-- An emission crosses a link (R128): it leaves its place, the link is taken in this cycle, and it stands last on the side of the next
element. -/
def State.crossLink (s : State) (el : Nat) (src : HopSrc) (dir nk : Nat) (f : Flit) : State :=
  ((s.updEl el (fun e => takeStanding s.cycle e src)).updEl el (fun e => { e with linkUsed := AMap.put e.linkUsed dir (s.cycle + 1) })).updEl nk
    (fun e => { e with links := AMap.upd e.links [] (opposite dir) (· ++ [f]) })

section Crossing
variable (s : State) (src : HopSrc) (dir : Nat) (f : Flit) {el nk : Nat} (apart : nk ≠ el)
include apart

theorem State.crossLink_sender : (s.crossLink el src dir nk f).el el =
    { takeStanding s.cycle (s.el el) src with linkUsed := AMap.put (takeStanding s.cycle (s.el el) src).linkUsed dir (s.cycle + 1) } := by
  rw [State.crossLink, State.el_updEl_other _ _ apart.symm, State.el_updEl_same, State.el_updEl_same]

theorem State.crossLink_receiver : (s.crossLink el src dir nk f).el nk =
    { s.el nk with links := AMap.upd (s.el nk).links [] (opposite dir) (· ++ [f]) } := by
  rw [State.crossLink, State.el_updEl_same, State.el_updEl_other _ _ apart, State.el_updEl_other _ _ apart]

theorem State.crossLink_standing : standing ((s.crossLink el src dir nk f).el el) src = (standing (s.el el) src).drop 1 := by
  rw [State.crossLink_sender s src dir f apart, ← standing_takeStanding s.cycle]
  cases src <;> rfl

theorem State.crossLink_linkUsed : AMap.get ((s.crossLink el src dir nk f).el el).linkUsed 0 dir = s.cycle + 1 := by
  rw [State.crossLink_sender s src dir f apart]; exact AMap.get_put_same _ _ _ _

theorem State.crossLink_links :
    AMap.get ((s.crossLink el src dir nk f).el nk).links [] (opposite dir) = AMap.get (s.el nk).links [] (opposite dir) ++ [f] := by
  rw [State.crossLink_receiver s src dir f apart, AMap.get_upd_same]

end Crossing

theorem State.crossLink_others (s : State) (src : HopSrc) (dir : Nat) (f : Flit) {el nk k : Nat} (he : k ≠ el) (hn : k ≠ nk) :
    (s.crossLink el src dir nk f).el k = s.el k := by
  rw [State.crossLink, State.el_updEl_other _ _ hn, State.el_updEl_other _ _ he, State.el_updEl_other _ _ he]

/-! ### The way of a token (R128) -/

/-- The place that a token of a loan travels to. -/
def Loan.goalOf (l : Loan) (x : Token) : Nat := l.place (l.elKey x.el.toNat)

/-- The link that it takes from an element, the place where that ends, and the element there. -/
def Loan.hopDir (l : Loan) (el : Nat) (x : Token) : Nat := nextDir (l.place el) (l.goalOf x)
@[inherit_doc Loan.hopDir] def Loan.hopPlace (l : Loan) (el : Nat) (x : Token) : Nat := neighbour (l.place el) (l.hopDir el x)
@[inherit_doc Loan.hopDir] def Loan.hopKey (l : Loan) (el : Nat) (x : Token) : Nat :=
  if l.hopPlace el x = l.goalOf x then l.elKey x.el.toNat else l.hopPlace el x

/-- The cycles of the hop; a spare at either end costs one more (R115). -/
def Loan.hopCycles (l : Loan) (el : Nat) (x : Token) : Nat :=
  stepCycles (l.place el) (l.hopPlace el x) + (if 128 ≤ el % 256 then 1 else 0) + (if 128 ≤ l.hopKey el x % 256 then 1 else 0)

/-- What the token does at the end of the hop: it arrives where it is bound for, and goes on from any other place. -/
def Loan.afterHop (l : Loan) (el : Nat) (x : Token) : Instr :=
  if l.hopPlace el x = l.goalOf x then .tokenArrive (l.hopKey el x) (sideOf (opposite (l.hopDir el x)))
  else .tokenHop (l.hopKey el x) (.link (sideOf (opposite (l.hopDir el x))))

/-- The side from which a token that is there arrives: its link's, or its own element's. -/
def arrivalSide : HopSrc → Side
  | .link d => d
  | .buf _ => .own

/-! ### The cases of `TOKEN_HOP` (R45, R128, R361) -/

section Hopping
variable {s : State} {el : Nat} {src : HopSrc} {f : Flit} {rest : List Flit} {l : Loan} {x : Token} (running : s.stopped (.element el) = false)
  (stands : standing (s.el el) src = f :: rest) (loan : AMap.find s.loans f.loan = some l) (token : f.emit = .token x)
include running stands loan token

theorem exec_tokenHop_lost (bad : badToken x = true) : exec (.tokenHop el src) s =
    .next ((s.updEl el (fun e => takeStanding s.cycle e src)).lostToken el (some (senderOf l el src)) (x.el.toNat / 128) f x) := by
  show execTokenHop el src s = _
  simp only [execTokenHop, running, stands, loan, token, bad, Bool.false_eq_true, if_false, if_true]

variable (good : badToken x = false)
include good

theorem exec_tokenHop_there (there : l.hopDir el x = 4) : exec (.tokenHop el src) s = .next (s.later 0 (.tokenArrive el (arrivalSide src))) := by
  show execTokenHop el src s = _
  rw [Loan.hopDir, Loan.goalOf] at there
  simp only [execTokenHop, running, stands, loan, token, good, there, Bool.false_eq_true, if_false, if_true]
  rfl

variable (away : l.hopDir el x ≠ 4)
include away

/-- A token that is not there crosses its link, when the link is free in this cycle and the next stage has room. -/
theorem exec_tokenHop_away : exec (.tokenHop el src) s =
    if AMap.get (s.el el).linkUsed 0 (l.hopDir el x) = s.cycle + 1 ∨ AMap.get (s.el el).beatLink 0 (l.hopDir el x) = s.cycle + 1 then
      .next (s.later 1 (.tokenHop el src))
    else if l.hopCycles el x ≤ (AMap.get (s.el (l.hopKey el x)).links [] (opposite (l.hopDir el x))).length then
      .next (if s.linkMoves (l.hopKey el x) (opposite (l.hopDir el x)) then s.later 0 (.tokenHop el src) else s.later 1 (.tokenHop el src))
    else .next ((s.crossLink el src (l.hopDir el x) (l.hopKey el x) f).later (l.hopCycles el x) (l.afterHop el x)) := by
  show execTokenHop el src s = _
  rw [Loan.hopDir, Loan.goalOf] at away
  simp only [execTokenHop, running, stands, loan, token, good, away, Bool.false_eq_true, if_false]
  rfl

theorem exec_tokenHop_waits
    (taken : AMap.get (s.el el).linkUsed 0 (l.hopDir el x) = s.cycle + 1 ∨ AMap.get (s.el el).beatLink 0 (l.hopDir el x) = s.cycle + 1) :
    exec (.tokenHop el src) s = .next (s.later 1 (.tokenHop el src)) := by
  rw [exec_tokenHop_away running stands loan token good away, if_pos taken]

theorem exec_tokenHop_crosses (link : AMap.get (s.el el).linkUsed 0 (l.hopDir el x) ≠ s.cycle + 1)
    (beat : AMap.get (s.el el).beatLink 0 (l.hopDir el x) ≠ s.cycle + 1)
    (room : (AMap.get (s.el (l.hopKey el x)).links [] (opposite (l.hopDir el x))).length < l.hopCycles el x) :
    exec (.tokenHop el src) s = .next
      ((s.crossLink el src (l.hopDir el x) (l.hopKey el x) f).later (l.hopCycles el x) (l.afterHop el x)) := by
  rw [exec_tokenHop_away running stands loan token good away, if_neg (not_or.mpr ⟨link, beat⟩), if_neg (Nat.not_le.mpr room)]

end Hopping

/-- Settles O32: a bad token, one that is there, one whose link is taken, and one that crosses. -/
theorem tokenHops : Obligations.TokenHops := by
  intro s el src f rest l x running stands loan token goal dir np nk cost
  refine ⟨fun bad => ?_, fun good there => ?_, fun good away taken => ?_, fun good away link beat room apart => ?_⟩
  · exact ⟨_, exec_tokenHop_lost running stands loan token bad, State.raise_recorded _ _ _ _ rfl⟩
  · exact ⟨_, exec_tokenHop_there running stands loan token good there, rfl⟩
  · exact ⟨_, exec_tokenHop_waits running stands loan token good away taken, rfl⟩
  · have left : standing ((s.crossLink el src dir nk f).el el) src = rest := by rw [State.crossLink_standing s src dir f apart, stands]; rfl
    exact ⟨_, exec_tokenHop_crosses running stands loan token good away link beat room, s.crossLink_links src dir f apart, left,
      s.crossLink_linkUsed src dir f apart, State.mem_later _ _ _, fun k he hn => s.crossLink_others src dir f he hn, rfl⟩

end Sys2Proof.Machine
end

section
/-! PROOFS. O41: the cells at memory ports, at a bay's ingress, and at its banks. -/
namespace Sys2Proof.Machine

/-! ### What follows a performed access (R245, R303, R396) -/

/-- A change that only tells of an access: its post and its reply set out, and glaed's report grows. -/
structure Tells (s t : State) : Prop where
  frame : t = { s with agenda := t.agenda, nextId := t.nextId, freeCount := t.freeCount, outgoing := t.outgoing, glaed := t.glaed }

theorem Tells.refl (s : State) : Tells s s := ⟨rfl⟩

theorem Tells.trans {s t u : State} (h : Tells s t) (k : Tells t u) : Tells s u := ⟨k.frame.trans (by rw [h.frame])⟩

theorem Tells.same {s t : State} (h : Tells s t) : t.mem = s.mem ∧ t.tmem = s.tmem ∧ t.xch = s.xch ∧ t.accs = s.accs := by
  rw [h.frame]; exact ⟨rfl, rfl, rfl, rfl⟩

theorem State.postAccess_tells (s : State) (a : Access) : Tells s (s.postAccess a) := by
  unfold State.postAccess State.sendPost
  split
  · split <;> exact ⟨rfl⟩
  · exact .refl s

theorem State.noteWord_tells (s : State) (what : String) (loan win off : Nat) (v : W32) (extra : List Nat) :
    Tells s (s.noteWord what loan win off v extra) := by
  unfold State.noteWord
  extract_lets runs
  split
  · exact ⟨rfl⟩
  · exact .refl s

theorem State.noteStores_tells (s : State) (what : String) (a : Access) (w : Window) : Tells s (s.noteStores what a w) := by
  unfold State.noteStores
  split
  · exact .refl s
  · exact foldl_rel .refl (fun h k => h.trans k) _ (fun u p => u.noteWord_tells _ _ _ _ _ _) _ _

theorem State.replyCell_tells (s : State) (die port id : Nat) (a : Access) (l : Loan) : Tells s (s.replyCell die port id a l) := ⟨rfl⟩

/-! ### What a served cell leaves alone (R257, R277, R303) -/

/-- A change that leaves the memories and the hub as they were. -/
structure Quiet (s t : State) : Prop where
  mem : t.mem = s.mem
  tmem : t.tmem = s.tmem
  hub : t.hub = s.hub

theorem Quiet.refl (s : State) : Quiet s s := ⟨rfl, rfl, rfl⟩

theorem Quiet.trans {s t u : State} (h : Quiet s t) (k : Quiet t u) : Quiet s u :=
  ⟨k.mem.trans h.mem, k.tmem.trans h.tmem, k.hub.trans h.hub⟩

theorem State.later_quiet (s : State) (d : Nat) (i : Instr) : Quiet s (s.later d i) := ⟨rfl, rfl, rfl⟩

theorem State.gone_quiet (s : State) (id b : Nat) (t : Tag) (its : List (Nat × List Nat)) : Quiet s (s.gone id b t its) :=
  ⟨s.gone_mem id b t its, s.gone_tmem id b t its, s.gone_hub id b t its⟩

theorem State.postAccess_quiet (s : State) (a : Access) : Quiet s (s.postAccess a) := by
  rw [(s.postAccess_tells a).frame]
  exact ⟨rfl, rfl, rfl⟩

theorem State.dropAccess_quiet (s : State) (id : Nat) : Quiet s (s.dropAccess id) := by
  unfold State.dropAccess
  split
  · exact .refl s
  · dsimp only
    split
    · exact ⟨rfl, rfl, rfl⟩
    · refine .trans ?_ (State.gone_quiet _ _ _ _ _)
      exact ⟨rfl, rfl, rfl⟩

theorem State.endDecant_quiet (s : State) (id : Nat) (a : Access) (l : Loan) (dec : Nat) (keep : Bool) : Quiet s (s.endDecant id a l dec keep) := by
  cases keep with
  | false =>
    refine .trans ?_ (State.later_quiet _ _ _)
    refine .trans ?_ (State.gone_quiet _ _ _ _ _)
    exact ⟨rfl, rfl, rfl⟩
  | true => exact ⟨rfl, rfl, rfl⟩

theorem State.cellServed_quiet (s : State) (id : Nat) : Quiet s (s.cellServed id) := by
  unfold State.cellServed
  split
  · exact .refl s
  · split
    · exact s.endDecant_quiet _ _ _ _ _
    · split
      · split
        · exact s.dropAccess_quiet id
        · exact (s.postAccess_quiet _).trans (State.dropAccess_quiet _ _)
      · exact ⟨rfl, rfl, rfl⟩

/-- A cell that is refused leaves its record with the hub (R54), and tile memory as it was. -/
theorem State.refuseCell_recorded (s : State) (bay : Nat) (q : QCell) (code : Nat) :
    Recorded (s.refuseCell bay q code) code q.cell.tag ∧ (s.refuseCell bay q code).tmem = s.tmem := by
  unfold State.refuseCell
  obtain ⟨-, tmem, hub⟩ := State.cellServed_quiet (s.raise _ (s.senderLoops q) []) q.access
  refine ⟨?_, tmem.trans (State.raise_within _ _ _ _).tmem⟩
  unfold Recorded
  rw [hub]
  exact State.raise_recorded _ _ _ _ rfl

theorem State.complete_within (s : State) (l : Loan) (b : Nat) (q : QCell) : Within s (s.complete l b q) := by
  unfold State.complete
  dsimp only
  split
  · exact Within.refl s
  · split
    · exact (State.born_within _ _ _ _).trans' (State.inject_within _ _ _ _)
    · exact Within.refl s

/-! ### A memory port (R262, R271) -/

@[simp] theorem State.xchOf_updXch_same (s : State) (die : Nat) (g : Exchange → Exchange) : (s.updXch die g).xchOf die = g (s.xchOf die) := by
  simp [State.xchOf, State.updXch]

/-- The state without the cell that a memory port takes. -/
def State.portTook (s : State) (die port : Nat) : State :=
  s.updXch die (fun x => { x with memQueues := AMap.upd x.memQueues [] port (·.drop 1) })

section Port
variable {s : State} {die port : Nat} {q : QCell} {rest : List QCell} (waits : AMap.get (s.xchOf die).memQueues [] port = q :: rest)
include waits

theorem State.memQueue_of_portTook {t : State} (xch : t.xch = (s.portTook die port).xch) : AMap.get (t.xchOf die).memQueues [] port = rest := by
  have took : t.xchOf die = (s.portTook die port).xchOf die := by rw [State.xchOf, xch, State.xchOf]
  rw [took, State.portTook, State.xchOf_updXch_same, AMap.get_upd_same, waits, List.drop_one, List.tail_cons]

theorem exec_memoryPortCell_early (early : s.cycle < q.entered) :
    exec (.memoryPortCell die port) s = .next (s.later (q.entered - s.cycle) (.memoryPortCell die port)) := by
  show execMemoryPortCell die port s = _
  simp only [execMemoryPortCell, waits, early, if_true]

theorem exec_memoryPortCell_request {id : Nat} {a : Access} (entered : q.entered ≤ s.cycle)
    (running : s.stopped (.port (die * 256 + port)) = false) (clear : s.stalled die port q.cell.note false = false) (body : q.body = .request id)
    (acc : AMap.find s.accs id = some a) (free : a.onRing = false) (first : s.scBehind id = false) :
    exec (.memoryPortCell die port) s = .next ((s.portTook die port).portRequest die port id) := by
  show execMemoryPortCell die port s = _
  simp only [execMemoryPortCell, waits, Nat.not_lt.mpr entered, running, clear, body, acc, free, first, Bool.false_and, Bool.false_eq_true, if_false]
  rfl

end Port

/-- A counted access changes the counts of translation and nothing else. -/
theorem State.countChunk_frame (s : State) (phys : Nat) : ∃ c, s.countChunk phys = { s with trans := { s.trans with counts := c } } := by
  unfold State.countChunk; split <;> exact ⟨_, rfl⟩

section Request
variable {s : State} {id : Nat} {a : Access} {l : Loan} {w : Window} (die port : Nat) (acc : AMap.find s.accs id = some a)
  (loan : AMap.find s.loans a.loan = some l) (window : l.windowAt a.ctx a.win = some w)
include acc loan window

theorem State.portRequest_store {ws : List W32} {m : BitVec 8} (op : a.op = .store ws m) :
    ∃ u, Tells u (s.portRequest die port id) ∧ u.mem = a.writeAt l w s.mem ∧ u.tmem = s.tmem ∧ u.xch = s.xch := by
  obtain ⟨c, counted⟩ := s.countChunk_frame a.phys
  cases a
  cases op
  unfold State.portRequest
  simp only [acc, loan, window, counted]
  exact ⟨_, ((State.noteStores_tells _ _ _ _).trans (State.postAccess_tells _ _)).trans (State.replyCell_tells _ _ _ _ _ _), rfl, rfl, rfl⟩

theorem State.portRequest_load (op : a.op = .load) :
    ∃ u, Tells u (s.portRequest die port id) ∧ u.mem = s.mem ∧ u.tmem = s.tmem ∧ u.xch = s.xch ∧ AMap.find u.accs id = some { a with
      seen := l.seenStores a
      words := { a with seen := l.seenStores a }.readAt l w (s.loadMem a.phys (squareSize w.ty))
      stage := .performed } := by
  obtain ⟨c, counted⟩ := s.countChunk_frame a.phys
  cases a
  cases op
  unfold State.portRequest
  simp only [acc, loan, window, counted]
  exact ⟨_, (State.postAccess_tells _ _).trans (State.replyCell_tells _ _ _ _ _ _), rfl, rfl, rfl, AMap.find_put_same _ _ _⟩

end Request

/-! ### An ingress (R54, R270) -/

/-- The state without the cell that an ingress takes, which takes no other in the slot. -/
def State.ingressTook (s : State) (bay : Nat) : State :=
  (s.updBay bay (fun b => { b with ingress := b.ingress.drop 1 })).updXch (bay / 128) (fun x => { x with
    lastEntry := AMap.put x.lastEntry (256 + bayPort bay) (slotOf s.cycle + 1) })

section Ingress
variable {s : State} {bay : Nat} {q : QCell} {rest : List QCell} (waits : (s.bay bay).ingress = q :: rest)
include waits

theorem State.ingressTook_postBank_ingress (tile bank d : Nat) (e : BankEntry) :
    (((s.ingressTook bay).postBank bay tile bank d e).bay bay).ingress = rest := by
  simp only [State.postBank, State.ingressTook, State.bay, State.updXch, State.later_bays, State.updBay, AMap.get_upd_same]
  exact congrArg (List.drop 1) waits

theorem exec_ingressCell_early (early : s.cycle < q.entered) :
    exec (.ingressCell bay) s = .next (s.later (q.entered - s.cycle) (.ingressCell bay)) := by
  show execIngressCell bay s = _
  simp only [execIngressCell, waits, early, if_true]

variable (entered : q.entered ≤ s.cycle) (running : s.stopped (bayUnit bay) = false)
  (slot : AMap.get (s.xchOf (bay / 128)).lastEntry 0 (256 + bayPort bay) ≠ slotOf s.cycle + 1)
include entered running slot

theorem exec_ingressCell_waits (busy : (s.bay bay).payloads ≠ 0) : exec (.ingressCell bay) s = .next (s.later 1 (.ingressCell bay)) := by
  show execIngressCell bay s = _
  simp only [execIngressCell, waits, Nat.not_lt.mpr entered, running, slot, bne_iff_ne.mpr busy, Bool.false_eq_true, if_false, if_true]

theorem exec_ingressCell_payload (idle : (s.bay bay).payloads = 0) (body : q.body = .payload) :
    exec (.ingressCell bay) s = .next ((s.ingressTook bay).payloadArrives bay q) := by
  show execIngressCell bay s = _
  simp only [execIngressCell, waits, Nat.not_lt.mpr entered, running, slot, idle, body, bne_self_eq_false, Bool.false_eq_true, if_false]
  rfl

end Ingress

section Payload
variable {s : State} {bay b : Nat} {q : QCell} {l : Loan} {w : Window} (acc : AMap.find s.accs q.access = none)
  (loan : AMap.find s.loans q.loan = some l) (here : l.bayNumber bay = some b)
  (window : l.windowAt q.cell.ctx.toNat q.cell.win.toNat = some w)
include acc loan here window

theorem State.payloadArrives_window (held : l.ctxs.contains q.cell.ctx.toNat = true)
    (beyond : w.virt = true ∨ w.size < q.cell.spos.toNat * 256 + 256) : s.payloadArrives bay q = s.refuseCell bay q fWINDOW := by
  have refused : (w.virt || decide (w.size < q.cell.spos.toNat * 256 + 256)) = true := by simpa using beyond
  have stays : s.decantPasses q = none := by simp only [State.decantPasses, acc]
  simp only [State.payloadArrives, stays, loan, here, held, window, refused, if_true]

theorem State.payloadArrives_bank (held : l.ctxs.contains q.cell.ctx.toNat = true)
    (tile : w.virt = false) (within : q.cell.spos.toNat * 256 + 256 ≤ w.size) (accord : l.accordHere b q.cell = true) :
    let p := wordPlace w (q.cell.spos.toNat * 256)
    s.payloadArrives bay q = s.postBank bay w.tile (bankOfSquare w l.firstLine p.1) 0
      ⟨.payload q, lineId w l.firstLine p.1 p.2.1 false, false, .alone, 8, 2, 0⟩ := by
  have sound : (w.virt || decide (w.size < q.cell.spos.toNat * 256 + 256)) = false := by simpa [tile] using within
  have stays : s.decantPasses q = none := by simp only [State.decantPasses, acc]
  simp only [State.payloadArrives, stays, loan, here, held, window, sound, accord, Bool.not_true, Bool.false_eq_true, if_false]

/-- A payload's live words are written (R55, R270), and nothing else of the memories. -/
theorem State.payloadWritten_memories (plain : q.cell.accn = 0) :
    (s.payloadWritten bay q).tmem = writePayload s.tmem bay w l.firstLine q.cell ∧ (s.payloadWritten bay q).mem = s.mem := by
  simp only [State.payloadWritten, loan, here, window, State.updBay_accs, acc, plain, if_true]
  exact ⟨(State.complete_within _ _ _ _).tmem, (State.complete_within _ _ _ _).mem⟩

end Payload

theorem State.postBank_entry (s : State) (bay tile bank d : Nat) (e : BankEntry) :
    { e with arrived := s.cycle + d } ∈ AMap.get ((s.postBank bay tile bank d e).bay bay).banks [] (bankKey tile bank) := by
  simp only [State.postBank, State.bay, State.later_bays, State.updBay, AMap.get_upd_same]
  exact List.mem_append_right _ (List.mem_singleton_self _)

/-! ### A bank (R242) -/

@[simp] theorem State.jobReady_updBay (s : State) (b : Nat) (g : Bay → Bay) : (s.updBay b g).jobReady = s.jobReady := rfl
@[simp] theorem State.bankComing_updBay (s : State) (b : Nat) (g : Bay → Bay) : (s.updBay b g).bankComing = s.bankComing := rfl

theorem State.bankNext_alone {s : State} {e : BankEntry} (plain : s.claimOf e = none) : s.bankNext [e] = some e := by
  simp only [State.bankNext, bankFirst, plain, Option.isNone_none, if_true]

section Bank
variable {s : State} {bay tile bank : Nat} {e : BankEntry} {q : QCell} (alone : AMap.get (s.bay bay).banks [] (bankKey tile bank) = [e])
  (job : e.job = .payload q) (arrived : e.arrived ≤ s.cycle) (free : AMap.get (s.bay bay).bankBusy 0 (bankKey tile bank) ≤ s.cycle)
  (last : s.bankComing = false)
include alone job arrived free last

/-- A free bank writes the one payload that stands there. -/
theorem exec_bankAccess_payload : ∃ m, exec (.bankAccess bay tile bank) s = .next ({ s with bays := m }.payloadWritten bay q) := by
  have alive : s.jobAlive bay e = true := by simp only [State.jobAlive, job]
  have ready : s.jobReady e = true := by simp only [State.jobReady, job]
  have plain : ∀ u : State, u.claimOf e = none := fun u => by simp only [State.claimOf, job]
  show ∃ m, execBankAccess bay tile bank s = _
  simp only [execBankAccess, State.bay_updBay_same, AMap.get_upd_same, alone, List.filter_cons_of_pos alive, List.filter_nil, State.updBay_cycle,
    List.filter_cons, arrived, decide_true, if_true, List.cons_ne_nil, if_false, Nat.not_lt.mpr free, State.bankComing_updBay, last,
    State.jobReady_updBay, ready, State.bankNext_alone (plain _), bankSort, bankInsert, List.foldl, bne_self_eq_false, Bool.false_and,
    Bool.false_eq_true, job, le_refl, List.length_cons, State.performJob]
  exact ⟨_, rfl⟩

end Bank

/-- Settles O41: a port that waits, stores and loads; an ingress that waits, keeps a sound payload and refuses one beyond its window; and a
bank that writes it. -/
theorem cellsPerformed : Obligations.CellsPerformed := by
  intro s
  refine ⟨fun die port q rest waits => ⟨?_, ?_, ?_⟩, fun bay q rest waits => ⟨?_, ?_, ?_⟩, ?_⟩
  · intro early
    exact ⟨_, exec_memoryPortCell_early waits early, rfl⟩
  · intro id a l w ws m entered running clear body acc loan window op free first
    obtain ⟨u, tells, mem, tmem, xch⟩ := State.portRequest_store (s := s.portTook die port) die port acc loan window op
    obtain ⟨toldMem, toldTmem, toldXch, -⟩ := tells.same
    exact ⟨_, exec_memoryPortCell_request waits entered running clear body acc free first, toldMem.trans mem, toldTmem.trans tmem,
      State.memQueue_of_portTook waits (toldXch.trans xch)⟩
  · intro id a l w entered running clear body acc loan window op free first
    obtain ⟨u, tells, mem, tmem, -, accs⟩ := State.portRequest_load (s := s.portTook die port) die port acc loan window op
    obtain ⟨toldMem, toldTmem, -, toldAccs⟩ := tells.same
    exact ⟨_, exec_memoryPortCell_request waits entered running clear body acc free first, toldMem.trans mem, toldTmem.trans tmem, _,
      toldAccs ▸ accs, rfl, rfl⟩
  · intro early
    exact ⟨_, exec_ingressCell_early waits early, rfl⟩
  · intro entered running slot busy
    exact ⟨_, exec_ingressCell_waits waits entered running slot busy, rfl⟩
  · intro l b w entered running slot body idle acc loan here held window
    have takes := exec_ingressCell_payload waits entered running slot idle body
    refine ⟨fun tile within accord => ?_, fun beyond => ?_⟩
    · rw [State.payloadArrives_bank (s := s.ingressTook bay) acc loan here window held tile within accord] at takes
      exact ⟨_, takes, State.ingressTook_postBank_ingress waits _ _ _ _, rfl, rfl, _, State.postBank_entry _ _ _ _ _ _, rfl, rfl, rfl⟩
    · rw [State.payloadArrives_window (s := s.ingressTook bay) acc loan here window held beyond] at takes
      exact ⟨_, takes, State.refuseCell_recorded _ _ _ _⟩
  · intro bay tile bank e q l b w alone job arrived free last plain acc loan here window
    obtain ⟨m, writes⟩ := exec_bankAccess_payload alone job arrived free last
    exact ⟨_, writes, State.payloadWritten_memories (s := { s with bays := m }) acc loan here window plain⟩

end Sys2Proof.Machine
end

section
/-! PROOFS. O54, O52, O53: handler words and Colophon words, field by field; reading inverts writing. -/
namespace Sys2Proof

/-! ### Fields of a word -/

/-- A word is put together from two parts exactly when these are its upper and its lower bits. -/
theorem append_eq_iff {m n : Nat} {a : BitVec m} {b : BitVec n} {w : BitVec (m + n)} :
    @Eq (BitVec (no_index (m + n))) (@HAppend.hAppend _ _ (BitVec (no_index (m + n))) _ a b) w ↔
      a = w.extractLsb' n m ∧ b = w.extractLsb' 0 n := by
  constructor
  · rintro rfl
    exact ⟨BitVec.extractLsb'_append_eq_left.symm, BitVec.extractLsb'_append_eq_right.symm⟩
  · rintro ⟨rfl, rfl⟩
    exact BitVec.extractLsb'_append_extractLsb'

theorem extract_extract {n s k t m : Nat} {w : BitVec n} (within : t + m ≤ k) :
    (w.extractLsb' s k).extractLsb' t m = w.extractLsb' (s + t) m := by
  ext i hi
  simp [show t + i < k by omega, Nat.add_assoc]

theorem extract_eq_comm {n s m : Nat} {w : BitVec n} {x : BitVec m} : w.extractLsb' s m = x ↔ x = w.extractLsb' s m := eq_comm

theorem bit1_eq_iff {n k : Nat} {b : Bool} {w : BitVec n} : bit1 b = w.extractLsb' k 1 ↔ w.getLsbD k = b := by
  rw [BitVec.eq_of_getLsbD_eq_iff]
  cases b <;> simp [bit1]

theorem zero_eq_bit_iff {n k : Nat} {w : BitVec n} : 0#1 = w.extractLsb' k 1 ↔ w.getLsbD k = false :=
  bit1_eq_iff (b := false)

theorem Mode.code_eq_iff {m : Mode} {c : BitVec 2} : m.code = c ↔ Mode.ofCode c = m := by
  revert c; cases m <;> decide

theorem TagOp.code_eq_iff {t : TagOp} {c : BitVec 4} : t.code = c ↔ TagOp.ofCode c = some t := by
  revert c; cases t <;> decide

theorem Ty.code_eq_iff {t : Ty} {c : BitVec 4} : t.code = c ↔ Ty.ofCode c = some t := by
  revert c; cases t <;> decide

/-! ### Destinations (R64) -/

/-- The unused bits and the code of `SINK` and of `PARK` are one field in writing and two in reading. -/
theorem sinkBits_iff {w : BitVec 20} : 0#18 = w.extractLsb' 0 18 ↔ 0#15 = w.extractLsb' 3 15 ∧ 0#3 = w.extractLsb' 0 3 := by
  rw [show 0#18 = 0#15 ++ 0#3 from rfl, append_eq_iff, extract_extract (by decide), extract_extract (by decide)]

@[inherit_doc sinkBits_iff] theorem parkBits_iff {w : BitVec 20} :
    1#18 = w.extractLsb' 0 18 ↔ 0#15 = w.extractLsb' 3 15 ∧ 1#3 = w.extractLsb' 0 3 := by
  rw [show 1#18 = 0#15 ++ 1#3 from rfl, append_eq_iff, extract_extract (by decide), extract_extract (by decide)]

/-- The kind that is none of the first three is the fourth. -/
theorem destKind_last : ∀ {k : BitVec 2}, k ≠ 0 → k ≠ 1 → k ≠ 2 → k = 3 := by decide

theorem decodeDest_eq_some {d : Dest} {w : BitVec 20} : decodeDest w = some d ↔ encodeDest d = w := by
  constructor
  · intro h
    unfold decodeDest at h
    extract_lets kind code at h
    have last := @destKind_last kind
    split_ifs at h <;> cases h <;>
      simp only [encodeDest, append_eq_iff, extract_extract, sinkBits_iff, parkBits_iff, Nat.reduceAdd, Nat.reduceLeDiff] <;>
      simp_all [kind, code]
  · intro h
    cases d <;>
      simp only [encodeDest, append_eq_iff, extract_extract, sinkBits_iff, parkBits_iff, Nat.reduceAdd, Nat.reduceLeDiff] at h <;>
      simp [decodeDest, ← h]

/-! ### Formats (R56, R57, R61) -/

theorem decodeHdr_eq_ok {h : Hdr} {w : W64} :
    decodeHdr w = .ok h ↔ encodeHeader (w.extractLsb' 56 8) h = w.extractLsb' 40 24 := by
  cases h
  simp only [encodeHeader, append_eq_iff, extract_extract, bit1_eq_iff, Mode.code_eq_iff, TagOp.code_eq_iff, Ty.code_eq_iff,
    Nat.reduceAdd, Nat.reduceLeDiff]
  unfold decodeHdr
  split <;> simp_all [and_assoc, extract_eq_comm]

theorem decodeFD_eq_ok {h : Hdr} {b : FD} {w : W64} :
    decodeFD h w = .ok b ↔ sqFieldOk h b = true ∧ encodeBody (.d b) = w.extractLsb' 0 40 := by
  obtain ⟨d0, d1⟩ := b
  simp only [encodeBody, append_eq_iff, extract_extract, Nat.reduceAdd, Nat.reduceLeDiff, ← decodeDest_eq_some]
  unfold decodeFD sqFieldOk
  cases decodeDest (w.extractLsb' 20 20) with
  | none => simp
  | some d =>
    cases (h.fP || h.fW) with
    | false =>
      cases d1 <;> cases second : decodeDest (w.extractLsb' 0 20) <;> simp [encodeDestOrSq, ← decodeDest_eq_some, second]
    | true =>
      cases d1 <;> by_cases zero : w.extractLsb' 4 16 = 0#16 <;>
        simp [encodeDestOrSq, append_eq_iff, extract_extract, zero, extract_eq_comm, @eq_comm _ 0#16]

theorem decodeFI_eq_ok {b : FI} {w : W64} : decodeFI w = .ok b ↔ encodeBody (.i b) = w.extractLsb' 0 40 := by
  cases b
  simp only [encodeBody, append_eq_iff, extract_extract, Nat.reduceAdd, Nat.reduceLeDiff, ← decodeDest_eq_some]
  unfold decodeFI
  split <;> simp_all [extract_eq_comm]

theorem decodeFM_eq_ok {b : FM} {w : W64} : decodeFM w = .ok b ↔ encodeBody (.m b) = w.extractLsb' 0 40 := by
  cases b
  simp only [encodeBody, append_eq_iff, extract_extract, bit1_eq_iff, Nat.reduceAdd, Nat.reduceLeDiff, ← decodeDest_eq_some]
  unfold decodeFM
  split <;> simp_all [and_assoc, extract_eq_comm]

theorem decodeFX_eq_ok {b : FX} {w : W64} : decodeFX w = .ok b ↔ encodeBody (.x b) = w.extractLsb' 0 40 := by
  cases b
  simp only [encodeBody, append_eq_iff, extract_extract, bit1_eq_iff, zero_eq_bit_iff, Nat.reduceAdd, Nat.reduceLeDiff]
  unfold decodeFX
  split <;> simp_all [and_assoc, extract_eq_comm]

theorem decodeFY_eq_ok {b : FY} {w : W64} : decodeFY w = .ok b ↔ encodeBody (.y b) = w.extractLsb' 0 40 := by
  cases b
  simp only [encodeBody, append_eq_iff, extract_extract, Nat.reduceAdd, Nat.reduceLeDiff, ← decodeDest_eq_some]
  unfold decodeFY
  split <;> simp_all [and_assoc, extract_eq_comm]

/-! ### Rows (R69, R70) -/

/-- The instructions that a constructor of a row's format makes are those with the row's opcode. -/
def Maker.Makes (m : Maker) (op : BitVec 8) : Prop :=
  ∀ h b i, Laws.Row.rebuild m h b = some i → handlerView i = some ⟨op, h, b⟩

theorem rowOf_makes {op : BitVec 8} {r : Row} (row : rowOf op.toNat = some r) : r.make.Makes op := by
  obtain ⟨n, hn⟩ : ∃ n, op.toNat = n := ⟨_, rfl⟩
  obtain rfl : op = BitVec.ofNat 8 n := by rw [← hn, BitVec.ofNat_toNat, BitVec.setWidth_eq]
  rw [hn] at row
  unfold rowOf at row
  split at row <;> cases row <;> intro h b i made <;> cases b <;> cases made <;> rfl

theorem row_of_handlerView {i : Instr} {v : Handler} (view : handlerView i = some v) :
    ∃ r, rowOf v.op.toNat = some r ∧ Laws.Row.rebuild r.make v.hdr v.body = some i := by
  unfold handlerView at view
  split at view <;> cases view <;> exact ⟨_, rfl, rfl⟩

/-! ### Bodies (R57, R58, R61) -/

/-- What a body's form must agree with in its header: flag `I` chooses the form of "D, or I" (R58), and `P` and `W` a sync queue (R61). -/
def Body.agrees (h : Hdr) : Body → Bool
  | .di (.d b) => !h.fI && sqFieldOk h b
  | .di (.i _) => h.fI
  | .d b => sqFieldOk h b
  | .i _ | .m _ | .x _ | .y _ => true

theorem Body.agrees_of_bodyCheck {v : Handler} (sound : bodyCheck v = none) : v.body.agrees v.hdr = true := by
  obtain ⟨op, h, b⟩ := v
  unfold bodyCheck at sound
  extract_lets at sound
  split at sound
  · cases sound
  · split at sound <;> simp_all [Body.agrees]

theorem Except.map_eq_ok {ε α β : Type} {f : α → β} {x : Except ε α} {y : β} : x.map f = .ok y ↔ ∃ a, x = .ok a ∧ f a = y := by
  cases x <;> simp [Except.map]

theorem decodeBody_eq_ok {m : Maker} {h : Hdr} {w : W64} {i : Instr} :
    decodeBody m h w = .ok i ↔ ∃ b, Laws.Row.rebuild m h b = some i ∧ b.agrees h = true ∧ encodeBody b = w.extractLsb' 0 40 := by
  constructor
  · intro read
    cases m
    case di f =>
      cases flag : h.fI <;> simp only [decodeBody, flag, Bool.false_eq_true, if_true, if_false, Except.map_eq_ok] at read
      · obtain ⟨b, fd, rfl⟩ := read
        obtain ⟨sq, word⟩ := decodeFD_eq_ok.mp fd
        exact ⟨.di (.d b), rfl, by simp [Body.agrees, flag, sq], word⟩
      · obtain ⟨b, fi, rfl⟩ := read
        exact ⟨.di (.i b), rfl, flag, decodeFI_eq_ok.mp fi⟩
    case d f =>
      obtain ⟨b, fd, rfl⟩ := Except.map_eq_ok.mp read
      obtain ⟨sq, word⟩ := decodeFD_eq_ok.mp fd
      exact ⟨.d b, rfl, sq, word⟩
    case i f => obtain ⟨b, fi, rfl⟩ := Except.map_eq_ok.mp read; exact ⟨.i b, rfl, rfl, decodeFI_eq_ok.mp fi⟩
    case m f => obtain ⟨b, fm, rfl⟩ := Except.map_eq_ok.mp read; exact ⟨.m b, rfl, rfl, decodeFM_eq_ok.mp fm⟩
    case x f => obtain ⟨b, fx, rfl⟩ := Except.map_eq_ok.mp read; exact ⟨.x b, rfl, rfl, decodeFX_eq_ok.mp fx⟩
    case y f => obtain ⟨b, fy, rfl⟩ := Except.map_eq_ok.mp read; exact ⟨.y b, rfl, rfl, decodeFY_eq_ok.mp fy⟩
  · rintro ⟨b, made, agrees, word⟩
    cases m <;> cases b <;> cases made
    case di.di.refl f b =>
      cases b with
      | d b =>
        obtain ⟨flag, sq⟩ : h.fI = false ∧ sqFieldOk h b = true := by simpa [Body.agrees] using agrees
        simp [decodeBody, flag, decodeFD_eq_ok.mpr ⟨sq, word⟩, Except.map]
      | i b =>
        have flag : h.fI = true := agrees
        simp [decodeBody, flag, decodeFI_eq_ok.mpr word, Except.map]
    case d.d.refl => exact Except.map_eq_ok.mpr ⟨_, decodeFD_eq_ok.mpr ⟨agrees, word⟩, rfl⟩
    case i.i.refl => exact Except.map_eq_ok.mpr ⟨_, decodeFI_eq_ok.mpr word, rfl⟩
    case m.m.refl => exact Except.map_eq_ok.mpr ⟨_, decodeFM_eq_ok.mpr word, rfl⟩
    case x.x.refl => exact Except.map_eq_ok.mpr ⟨_, decodeFX_eq_ok.mpr word, rfl⟩
    case y.y.refl => exact Except.map_eq_ok.mpr ⟨_, decodeFY_eq_ok.mpr word, rfl⟩

/-! ### Handler words (R56 to R73) -/

theorem encodeHandler_eq_iff {v : Handler} {w : W64} : encodeHandler v = w ↔
    v.op = w.extractLsb' 56 8 ∧ decodeHdr w = .ok v.hdr ∧ encodeBody v.body = w.extractLsb' 0 40 := by
  rw [decodeHdr_eq_ok, encodeHandler, append_eq_iff, ← and_assoc]
  refine and_congr_left fun _ => ⟨fun word => ?_, fun ⟨op, word⟩ => by rw [op, word]⟩
  have op : v.op = w.extractLsb' 56 8 := by
    simp only [encodeHeader, append_eq_iff, extract_extract, Nat.reduceAdd, Nat.reduceLeDiff] at word
    tauto
  exact ⟨op, op ▸ word⟩

theorem handlerCheck_eq_none {v : Handler} : handlerCheck v = none ↔
    ∃ r, rowOf v.op.toNat = some r ∧ headerCheck v.op.toNat r v.hdr = none ∧ bodyCheck v = none := by
  unfold handlerCheck
  cases rowOf v.op.toNat with
  | none => simp
  | some r => cases header : headerCheck v.op.toNat r v.hdr <;> simp [header]

/-- Reading a word inverts writing it, for what the loader accepts. -/
theorem decodeHandler_eq_ok {w : W64} {i : Instr} :
    decodeHandler w = .ok i ↔ ∃ v, handlerView i = some v ∧ handlerCheck v = none ∧ encodeHandler v = w := by
  simp only [encodeHandler_eq_iff, handlerCheck_eq_none]
  constructor
  · intro read
    unfold decodeHandler at read
    split at read
    · cases read
    next r row =>
    split at read
    · split_ifs at read
    next h hdr =>
    split at read
    · cases read
    next header =>
    split at read
    · cases read
    next made =>
    obtain ⟨b, built, -, word⟩ := decodeBody_eq_ok.mp made
    have view := rowOf_makes row _ _ _ built
    simp only [view] at read
    split at read <;> cases read
    next body => exact ⟨_, view, ⟨r, row, header, body⟩, rfl, hdr, word⟩
  · rintro ⟨v, view, ⟨r, row, header, body⟩, op, hdr, word⟩
    obtain ⟨r', row', made⟩ := row_of_handlerView view
    obtain rfl : r = r' := Option.some.inj (row.symm.trans row')
    have read : decodeBody r.make v.hdr w = .ok i := decodeBody_eq_ok.mpr ⟨_, made, Body.agrees_of_bodyCheck body, word⟩
    rw [op] at row header
    simp only [decodeHandler, row, hdr, header, read, view, body]

/-! ### Colophon words (R370 to R372) -/

/-- The unused bits of `ESIG` are one field in writing and two in reading. -/
theorem esigBits_iff {w : W32} : 0#6 = w.extractLsb' 12 6 ↔ 0#4 = w.extractLsb' 14 4 ∧ 0#2 = w.extractLsb' 12 2 := by
  rw [show 0#6 = 0#4 ++ 0#2 from rfl, append_eq_iff, extract_extract (by decide), extract_extract (by decide)]

theorem decodeColophon_of_encodeColophon {i : Instr} {w : W32} (h : encodeColophon i = some w) : decodeColophon w = .ok i := by
  unfold encodeColophon at h
  split at h <;> simp only [reduceCtorEq, Option.some.injEq, append_eq_iff, extract_extract, bit1_eq_iff, esigBits_iff, Nat.reduceAdd,
    Nat.reduceLeDiff] at h
  all_goals simp [decodeColophon, ← h, -BitVec.extractLsb'_toNat]

theorem encodeColophon_of_decodeColophon {i : Instr} {w : W32} (h : decodeColophon w = .ok i) : encodeColophon i = some w := by
  unfold decodeColophon at h
  extract_lets rd ra rb imm t need tz at h
  have need_ok (b : Bool) (i j : Instr) : need b i = .ok j ↔ b = true ∧ i = j := by cases b <;> simp [need]
  split at h <;> simp only [need_ok, reduceCtorEq] at h
  all_goals
    rename_i code
    obtain ⟨zero, rfl⟩ := h
    rw [BitVec.toNat_eq_nat] at code
    simp only [encodeColophon, Option.some.injEq, append_eq_iff, extract_extract, bit1_eq_iff, esigBits_iff, Nat.reduceAdd,
      Nat.reduceLeDiff]
    simp_all [rd, ra, rb, imm, t, tz]

theorem encodeColophon_eq_some {i : Instr} {w : W32} : encodeColophon i = some w ↔ decodeColophon w = .ok i :=
  ⟨decodeColophon_of_encodeColophon, encodeColophon_of_decodeColophon⟩

/-! ### The obligations about words alone -/

/-- Settles O54: on both kinds of word, reading inverts writing exactly. -/
theorem encodingsAgree : Obligations.EncodingsAgree := by
  refine ⟨fun i v sound view => ?_, fun w i read => ?_, fun w i => encodeColophon_eq_some⟩
  · have accepted : handlerCheck v = none := by simpa [wellFormed, view] using sound
    exact decodeHandler_eq_ok.mpr ⟨v, view, accepted, rfl⟩
  · obtain ⟨v, view, accepted, word⟩ := decodeHandler_eq_ok.mp read
    exact ⟨by simp [wellFormed, view, accepted], v, view, word⟩

/-- Settles O52: each word evaluates. -/
theorem decodeWords : Obligations.DecodeWords :=
  ⟨rfl, rfl, rfl, rfl, rfl, rfl, rfl, rfl, rfl, rfl, rfl, rfl⟩

end Sys2Proof

namespace Sys2Proof.Machine

/-! ### The words of a context (R71) -/

theorem AMap.find_tabulateSome {β : Type} (ks : List Nat) (w : Nat → Option β) (k : Nat) :
    AMap.find (ks.filterMap (fun j => (w j).map (fun v => (j, v)))) k = if k ∈ ks then w k else none := by
  induction ks with
  | nil => rfl
  | cons j ks ih =>
    rw [List.filterMap_cons]
    cases there : w j with
    | none =>
      rw [Option.map_none]
      dsimp only
      rw [ih]
      by_cases same : k = j <;> simp [same, there]
    | some v =>
      rw [Option.map_some]
      dsimp only [AMap.find]
      rw [ih]
      by_cases same : k = j
      · simp [same, there]
      · simp [same, Ne.symm same]

theorem Image.find_wordsAt (img : Image) (index k : Nat) :
    AMap.find (img.wordsAt index) k = if k < 8 then AMap.find img.handlers (handlerKey index k) else none := by
  simp only [Image.wordsAt, AMap.find_tabulateSome, List.mem_range]

theorem nopReason_ne_zero (w : W64) : nopReason w ≠ 0 := by
  unfold nopReason
  split_ifs <;> decide

theorem loadedCtx_unused {img : Image} {index k : Nat} (id : Nat) (bad : List Nat) (within : k < 8)
    (unused : AMap.find img.handlers (handlerKey index k) = none) :
    AMap.get (loadedCtx img id index bad).handlers nopWord k = nopWord := by
  show AMap.get (img.wordsAt index) nopWord k = nopWord
  rw [AMap.get, Image.find_wordsAt, if_pos within, unused, Option.getD_none]

namespace Encoding

/-- Settles O53: a word of `NOP`'s opcode is either the one of R71 or has a reason of its own, and the words of a context that its image
does not give read `NOP`. -/
theorem nopWord : Obligations.NopWord := by
  refine ⟨rfl, fun priv index => if_pos rfl, fun priv index w op other => ?_, fun img id index bad h within unused =>
    loadedCtx_unused id bad within unused, ⟨_, rfl, rfl⟩, fun _ _ => rfl⟩
  rw [wordReason, if_neg other, if_pos op]
  exact nopReason_ne_zero w

end Encoding
end Sys2Proof.Machine
end

section
/-! PROOFS. O35: the match unit and the matching store. -/
namespace Sys2Proof.Machine

@[simp] theorem State.el_later (s : State) (d : Nat) (i : Instr) (k : Nat) : (s.later d i).el k = s.el k := rfl

/-! ### Frames of a loan -/

/-- A loan with a frame put into its matching store. -/
def State.putFrame (s : State) (id f : Nat) (fr : Frame) : State := s.updLoan id (fun l => { l with frames := AMap.put l.frames f fr })

@[simp] theorem State.putFrame_cycle (s : State) (id f : Nat) (fr : Frame) : (s.putFrame id f fr).cycle = s.cycle :=
  State.updLoan_cycle _ _ _
@[simp] theorem State.putFrame_els (s : State) (id f : Nat) (fr : Frame) : (s.putFrame id f fr).els = s.els := State.updLoan_els _ _ _

theorem State.find_updLoan_of_some {s : State} {id : Nat} {l : Loan} (g : Loan → Loan) (loan : AMap.find s.loans id = some l) :
    AMap.find (s.updLoan id g).loans id = some (g l) := by
  rw [State.find_updLoan_same, loan, Option.map_some]

theorem State.putFrame_find {s : State} {id : Nat} {l : Loan} (f : Nat) (fr : Frame) (loan : AMap.find s.loans id = some l) :
    ∃ l', AMap.find (s.putFrame id f fr).loans id = some l' ∧ AMap.find l'.frames f = some fr :=
  ⟨{ l with frames := AMap.put l.frames f fr }, State.find_updLoan_of_some _ loan, AMap.find_put_same _ _ _⟩

@[simp] theorem State.putFrame_el (s : State) (id f : Nat) (fr : Frame) (k : Nat) : (s.putFrame id f fr).el k = s.el k := by
  rw [State.el, State.putFrame_els, State.el]

theorem State.putFrame_frame (s : State) (id f : Nat) (fr : Frame) : s.putFrame id f fr = { s with loans := (s.putFrame id f fr).loans } := by
  unfold State.putFrame State.updLoan; split <;> rfl

/-- A frame that is not released stays when its `LIVE` changes. -/
theorem Loan.addLive_kept {l : Loan} {f : Nat} {fr : Frame} (n : Int) (there : AMap.find l.frames f = some fr) (kept : fr.released = false) :
    l.addLive f n = { l with frames := AMap.put l.frames f { fr with live := fr.live + n } } := by
  simp only [Loan.addLive, there, kept, Bool.false_eq_true, false_and, if_false]

/-! ### The match unit takes a token (R135, R137, R299) -/

/-- A slot that holds a token's operand, from a port or from an output that names the slot. -/
def Slot.holding (q : QEntry) (port : BitVec 2) (sw : Bool) : Slot := ⟨q.operand, true, q.pred, q.cont, port, sw, q.tag, q.prior⟩

/-- An element whose match unit has taken a token from its queue. -/
def Element.matchTook (e : Element) (c p : Nat) : Element :=
  { (e.updActive c (fun pl => pl.updQueue p (·.drop 1))).updCtx c (fun x => { x with perf := AMap.upd x.perf 0 2 (· + 1) }) with matchHeld := none }

theorem Element.matchTook_queue {e : Element} {c : Nat} (p : Nat) (active : (e.ctx c).plane.isSome = true) :
    ((e.matchTook c p).active c).queue p = ((e.active c).queue p).drop 1 := by
  have same : (e.matchTook c p).active c = (e.updActive c (fun pl => pl.updQueue p (·.drop 1))).active c :=
    Element.active_updCtx _ _ (fun x => { x with perf := AMap.upd x.perf 0 2 (· + 1) }) rfl
  rw [same, Element.active_updActive _ _ _ active, Plane.queue_updQueue_same]

@[simp] theorem Element.matchTook_matching (e : Element) (c p : Nat) : (e.matchTook c p).matching = e.matching :=
  Element.updActive_matching _ _ _

theorem State.askRefill_unasked {s : State} {id f : Nat} (unasked : ∀ y ∈ s.agenda, y.2 ≠ .frameRefill id f) :
    s.askRefill id f = s.later 1 (.frameRefill id f) := by
  have none : s.agenda.any (fun y => y.2 == .frameRefill id f) = false := by simpa using unasked
  rw [State.askRefill, if_neg (ne_true_of_eq_false none)]

theorem exec_matchToken_full {s : State} {el : Nat} (full : 4 ≤ (s.el el).ready.length) : exec (.matchToken el) s = .next s := by
  show execMatchToken el s = _
  simp only [execMatchToken, full, true_or, if_true]

section Taking
variable {s : State} {el c p id : Nat} {q : QTok} {l : Loan} {fr : Frame} (room : (s.el el).ready.length < 4)
  (running : s.stopped (.element el) = false) (head : heldHead (s.el el) = some (c, p, q)) (lent : ((s.el el).ctx c).loan = some id)
  (loan : AMap.find s.loans id = some l) (there : AMap.find l.frames q.e.tag.frame.toNat = some fr) (kept : fr.released = false)
  (rests : fr.refilling = false)
include room running head lent loan there kept rests

theorem exec_matchToken_spilled (spilled : fr.spilled = true) : exec (.matchToken el) s =
    .next ((s.updEl el (fun e => { e with matchHeld := some (c, p) })).askRefill id q.e.tag.frame.toNat) := by
  show execMatchToken el s = _
  simp only [execMatchToken, Nat.not_le.mpr room, running, head, lent, loan, there, kept, rests, spilled, Bool.false_eq_true, or_self, if_false,
    if_true]

theorem exec_matchToken_here (here : fr.spilled = false) : exec (.matchToken el) s = .next (matchInto s el id l c p q fr) := by
  show execMatchToken el s = _
  simp only [execMatchToken, Nat.not_le.mpr room, running, head, lent, loan, there, kept, rests, here, Bool.false_eq_true, or_self, if_false]

end Taking

/-- What the loader has computed of a token's handler, the first of its slots, and those that hold an operand. -/
abbrev State.hinfoAt (s : State) (el c : Nat) (l : Loan) (q : QEntry) : HInfo :=
  hinfoOf (l.imageOf c) (handlerKey ((s.el el).ctx c).logical q.hnd.toNat)
@[inherit_doc State.hinfoAt] abbrev State.baseAt (s : State) (el c : Nat) (l : Loan) (q : QEntry) : Nat := slotBase (s.hinfoAt el c l q) q.tag
@[inherit_doc State.hinfoAt] abbrev State.heldAt (s : State) (el c : Nat) (l : Loan) (fr : Frame) (q : QEntry) : List (Nat × Slot) :=
  heldSlots fr (((s.el el).ctx c).logical / 128) (s.baseAt el c l q) (s.hinfoAt el c l q).nh
/-- The word of a token's handler. -/
abbrev State.wordAt (s : State) (el c : Nat) (q : QEntry) : W64 := AMap.get ((s.el el).ctx c).handlers nopWord q.hnd.toNat

/-- The firing that a token makes with the operands that its slots hold. -/
def State.meeting (s : State) (el c p : Nat) (l : Loan) (fr : Frame) (q : QEntry) : Ready :=
  let ops := byPort ((p, q) :: (s.heldAt el c l fr q).map (fun h => (h.2.port.toNat, slotEntry q h.2)))
  ⟨c, q.hnd.toNat, ops, ((ops.head?).map (fun o => o.2.tag)).getD q.tag⟩

section Into
variable {s : State} {el c p : Nat} (id : Nat) {q : QTok} {l : Loan} {fr : Frame}
  (fits : s.baseAt el c l q.e + (s.hinfoAt el c l q.e).nh ≤ fr.nslot) (fresh : ∀ h ∈ s.heldAt el c l fr q.e, h.2.port.toNat ≠ p)
  (plain : (s.wordAt el c q.e).extractLsb' 56 8 ≠ 0x65)
include fits fresh plain

theorem matchInto_waits {n : Nat} (fewer : (s.heldAt el c l fr q.e).length < operandCount (s.wordAt el c q.e) - 1)
    (free : freeSlot fr (((s.el el).ctx c).logical / 128) (s.baseAt el c l q.e) (s.hinfoAt el c l q.e).nh = some n) :
    matchInto s el id l c p q fr = (s.updEl el (fun e => e.matchTook c p)).putFrame id q.e.tag.frame.toNat { fr with
      slots := AMap.put fr.slots (slotKey (((s.el el).ctx c).logical / 128) n) (Slot.holding q.e (BitVec.ofNat 2 p) false)
      touched := s.cycle + 4 } := by
  have other : (s.heldAt el c l fr q.e).any (fun h => h.2.port.toNat == p) = false := by simpa using fresh
  have slots : (s.hinfoAt el c l q.e).nh ≠ 0 := fun none => by simp [freeSlot, none] at free
  have touched : (if (s.hinfoAt el c l q.e).nh = 0 then fr.touched else s.cycle + 4) = s.cycle + 4 := if_neg slots
  unfold matchInto
  extract_lets
  rw [if_neg (Nat.not_lt.mpr fits), if_neg (ne_true_of_eq_false other), if_neg plain, if_pos fewer, free, ← touched]
  rfl

theorem matchInto_meets (all : operandCount (s.wordAt el c q.e) - 1 ≤ (s.heldAt el c l fr q.e).length) :
    ∃ fr', matchInto s el id l c p q fr = (((s.updEl el (fun e => e.matchTook c p)).updEl el (fun e => { e with
      matching := e.matching ++ [(s.cycle + 4, s.meeting el c p l fr q.e)] })).putFrame id q.e.tag.frame.toNat fr').later 4 (.matchDone el) := by
  have other : (s.heldAt el c l fr q.e).any (fun h => h.2.port.toNat == p) = false := by simpa using fresh
  unfold matchInto
  extract_lets
  rw [if_neg (Nat.not_lt.mpr fits), if_neg (ne_true_of_eq_false other), if_neg plain, if_neg (Nat.not_lt.mpr all)]
  exact ⟨_, rfl⟩

end Into

/-! ### Completed matches (R135, R209) -/

/-- A change that only makes steps due. -/
structure Asks (s t : State) : Prop where
  frame : t = { s with agenda := t.agenda }

theorem State.askRefill_asks (s : State) (id f : Nat) : Asks s (s.askRefill id f) := by
  unfold State.askRefill
  split <;> exact ⟨rfl⟩

theorem Asks.foldl {β : Type} (f : State → β → State) (h : ∀ s b, Asks s (f s b)) (bs : List β) (s : State) : Asks s (bs.foldl f s) :=
  foldl_rel (fun _ => ⟨rfl⟩) (fun h k => ⟨k.frame.trans (by rw [h.frame])⟩) f h bs s

/-- The operands of `ORDRED` that take a place of the ready list, each with its place in the order of waiting. -/
def State.orderedIn (s : State) (e : Element) : List (Nat × Ready × Bool) :=
  ((releasedOrdered s e).filter (fun x => x.2.2)).take (4 - e.ready.length)

/-- An element after a `MATCH_DONE`. -/
def State.readied (s : State) (el : Nat) : Element :=
  let e := (s.el el).matched s.cycle
  { e with
    ready := e.ready ++ (s.orderedIn e).map (fun x => x.2.1)
    ordered := (e.ordered.zipIdx.filter (fun x => !(s.orderedIn e).any (fun y => y.1 == x.2))).map Prod.fst }

theorem State.readied_matching (s : State) (el : Nat) : (s.readied el).matching = ((s.el el).matched s.cycle).matching := rfl

theorem State.readied_ready {s : State} {el : Nat} (none : releasedOrdered s ((s.el el).matched s.cycle) = []) :
    (s.readied el).ready = ((s.el el).matched s.cycle).ready := by
  simp only [State.readied, State.orderedIn, none, List.filter_nil, List.take_nil, List.map_nil, List.append_nil]

theorem exec_matchDone_asks (s : State) (el : Nat) :
    ∃ t, exec (.matchDone el) s = .next t ∧ Asks (s.updEl el (fun _ => s.readied el)) t := by
  refine ⟨_, rfl, .foldl _ (fun u x => ?_) _ _⟩
  split
  · split
    · split
      · exact u.askRefill_asks _ _
      · exact ⟨rfl⟩
    · exact ⟨rfl⟩
  · exact ⟨rfl⟩

theorem exec_matchDone_plain {s : State} {el : Nat} (none : releasedOrdered s ((s.el el).matched s.cycle) = []) :
    exec (.matchDone el) s = .next (s.updEl el (fun _ => s.readied el)) := by
  show execMatchDone el s = _
  simp only [execMatchDone, none, List.filter_nil, List.foldl_nil]
  simp only [State.readied, State.orderedIn, none, List.filter_nil]

/-- Without `ORDRED`, and with places enough, every completed match enters the ready list. -/
theorem Element.matched_plain {e : Element} {now : Nat} (plain : ∀ m ∈ e.matching, m.2.isOrdred e = false)
    (room : e.ready.length + (e.matching.filter (fun m => decide (m.1 ≤ now))).length ≤ 4) : e.matched now = { e with
      ready := e.ready ++ (e.matching.filter (fun m => decide (m.1 ≤ now))).map Prod.snd
      matching := e.matching.filter (fun m => !decide (m.1 ≤ now)) } := by
  have noneOrdred : (e.matching.filter (fun m => decide (m.1 ≤ now))).filter (fun m => m.2.isOrdred e) = [] :=
    List.filter_eq_nil_iff.mpr fun m there => ne_true_of_eq_false (plain m (List.mem_of_mem_filter there))
  have others : (e.matching.filter (fun m => decide (m.1 ≤ now))).filter (not ∘ fun m => m.2.isOrdred e) =
      e.matching.filter (fun m => decide (m.1 ≤ now)) :=
    List.filter_eq_self.mpr fun m there => by simp [plain m (List.mem_of_mem_filter there)]
  have places : (e.matching.filter (fun m => decide (m.1 ≤ now))).length ≤ 4 - e.ready.length := by omega
  simp only [Element.matched, List.partition_eq_filter_filter, noneOrdred, others, List.take_of_length_le places,
    List.drop_eq_nil_of_le places, List.map_nil, List.append_nil, List.nil_append]
  rfl

theorem releasedOrdered_nil {s : State} {e : Element} (none : e.ordered = []) : releasedOrdered s e = [] := by
  simp [releasedOrdered, none, sortBy]

/-! ### A slot written by an output (R64, R138) -/

theorem State.dropFlit_slotWrite (s : State) (b : Nat) {f : Flit} {bay n : Nat} {q : QEntry} (write : f.emit = .slotWrite bay n q)
    (uncounted : f.iters = []) : s.dropFlit b f = s.updLoan f.loan (fun l => l.addLive q.tag.frame.toNat (-1)) := by
  obtain ⟨loan, emit, iters⟩ := f
  subst write uncounted
  simp only [State.dropFlit, Emit.entry, State.gone, State.ack, Flit.counted, if_true]
  split <;> rfl

/-- An element whose memory buffer has given up its first entry, which is free from the next cycle on. -/
def Element.gaveEntry (e : Element) (now : Nat) : Element := { e with
  out := AMap.upd e.out [] 5 (·.drop 1)
  freed := if e.freed.1 = now + 1 then (now + 1, 5 :: e.freed.2) else (now + 1, [5]) }

/-- A frame whose slot an output has written. -/
def Frame.written (fr : Frame) (b n : Nat) (q : QEntry) (now : Nat) : Frame :=
  { fr with live := fr.live + -1, slots := AMap.put fr.slots (slotKey b n) (Slot.holding q 0 true), touched := now }

theorem exec_frameSlotWrite_writes {s : State} {el : Nat} {f : Flit} {rest : List Flit} {bay n : Nat} {q : QEntry} {l : Loan} {fr : Frame}
    (head : AMap.get (s.el el).out [] 5 = f :: rest) (write : f.emit = .slotWrite bay n q) (uncounted : f.iters = [])
    (loan : AMap.find s.loans f.loan = some l) (there : AMap.find l.frames q.tag.frame.toNat = some fr) (kept : fr.released = false)
    (inside : n < fr.nslot) (empty : (fr.slot ((l.bayNumber bay).getD 0) n).p = false) :
    exec (.frameSlotWrite el) s = .next
      ((((s.updEl el (fun e => e.gaveEntry s.cycle)).updLoan f.loan (fun l => l.addLive q.tag.frame.toNat (-1))).putFrame f.loan
        q.tag.frame.toNat (fr.written ((l.bayNumber bay).getD 0) n q s.cycle)).arrived f.loan) := by
  have old : ∀ v, ({ fr with live := v }.slot ((l.bayNumber bay).getD 0) n).p = false := fun _ => empty
  unfold Loan.bayNumber at *
  show execFrameSlotWrite el s = _
  simp only [execFrameSlotWrite, head, write, loan]
  simp only [State.dropFlit_slotWrite _ _ write uncounted, State.find_updLoan_same, State.updEl_loans, loan, Option.map_some,
    Loan.addLive_kept _ there kept, AMap.find_put_same, Nat.not_le.mpr inside, if_false, old, Bool.false_and, Bool.false_eq_true,
    State.updLoan_cycle, State.updEl_cycle]
  rw [if_neg (ne_true_of_eq_false kept)]
  rfl

/-- Settles O35: a token of a spilled frame, one that waits in a slot, and one that makes a firing; a full ready list; completed matches,
with and without `ORDRED`; and an output to a slot. -/
theorem matching : Obligations.Matching := by
  intro s el
  refine ⟨fun c p q id l fr room running head lent loan there kept rests active =>
    ⟨fun spilled unasked => ?_, fun n here fits fresh plain fewer free => ?_, fun here fits fresh plain all => ?_⟩,
    fun full => ?_, ?_, fun unwaiting plain room => ?_, fun f rest bay n q l fr head write uncounted loan there kept inside empty => ?_⟩
  · refine ⟨_, exec_matchToken_spilled room running head lent loan there kept rests spilled, ?_⟩
    exact State.askRefill_unasked unasked
  · have takes := exec_matchToken_here room running head lent loan there kept rests here
    rw [matchInto_waits id fits fresh plain fewer free] at takes
    obtain ⟨l', loan', there'⟩ := State.putFrame_find (s := s.updEl el (fun e => e.matchTook c p)) (id := id) q.e.tag.frame.toNat { fr with
      slots := AMap.put fr.slots (slotKey (((s.el el).ctx c).logical / 128) n) (Slot.holding q.e (BitVec.ofNat 2 p) false)
      touched := s.cycle + 4 } loan
    refine ⟨_, takes, ⟨l', _, loan', there', rfl, AMap.get_put_same _ _ _ _⟩, ?_, ?_⟩
    · rw [State.putFrame_el, State.el_updEl_same]
      exact Element.matchTook_queue p active
    · rw [State.putFrame_frame]
      rfl
  · have takes := exec_matchToken_here room running head lent loan there kept rests here
    obtain ⟨fr', meets⟩ := matchInto_meets id fits fresh plain all
    rw [meets] at takes
    refine ⟨_, takes, ?_, ?_, ?_⟩
    · rw [State.el_later, State.putFrame_el, State.el_updEl_same, State.el_updEl_same, Element.matchTook_matching]
      rfl
    · rw [State.el_later, State.putFrame_el, State.el_updEl_same, State.el_updEl_same]
      exact Element.matchTook_queue p active
    · have due := State.mem_later (((s.updEl el (fun e => e.matchTook c p)).updEl el (fun e => { e with
        matching := e.matching ++ [(s.cycle + 4, s.meeting el c p l fr q.e)] })).putFrame id q.e.tag.frame.toNat fr') 4 (.matchDone el)
      rwa [State.putFrame_cycle] at due
  · exact ⟨s, exec_matchToken_full full, rfl⟩
  · obtain ⟨t, done, asks⟩ := exec_matchDone_asks s el
    have els : ∀ k, t.el k = (s.updEl el (fun _ => s.readied el)).el k := fun k => by rw [asks.frame]; rfl
    refine ⟨t, done, ?_, fun k other => (els k).trans (State.el_updEl_other _ _ other), ?_, ?_⟩
    · rw [asks.frame]; rfl
    · rw [els, State.el_updEl_same]; rfl
    · rw [els, State.el_updEl_same]; rfl
  · have matched := Element.matched_plain plain room
    have unordered : releasedOrdered s ((s.el el).matched s.cycle) = [] := releasedOrdered_nil (by rw [matched]; exact unwaiting)
    refine ⟨_, exec_matchDone_plain unordered, rfl, ?_, ?_⟩
    · rw [State.el_updEl_same, State.readied_ready unordered, matched]
    · rw [State.el_updEl_same, State.readied_matching, matched]
  · have writes := exec_frameSlotWrite_writes head write uncounted loan there kept inside empty
    obtain ⟨l', loan', there'⟩ := State.putFrame_find
      (s := (s.updEl el (fun e => e.gaveEntry s.cycle)).updLoan f.loan (fun l => l.addLive q.tag.frame.toNat (-1)))
      q.tag.frame.toNat (fr.written ((l.bayNumber bay).getD 0) n q s.cycle) (State.find_updLoan_of_some _ loan)
    refine ⟨_, writes, ?_, _, _, State.find_updLoan_of_some _ loan', there', AMap.get_put_same _ _ _ _⟩
    rw [State.arrived_el, State.putFrame_el, State.el, State.updLoan_els]
    show AMap.get ((s.updEl el (fun e => e.gaveEntry s.cycle)).el el).out [] 5 = rest
    rw [State.el_updEl_same, Element.gaveEntry, AMap.get_upd_same, head]
    rfl

end Sys2Proof.Machine
end

section
/-! PROOFS. O45: images fetched, written, and prefetched. -/
namespace Sys2Proof.Machine

/-! ### A loan's image read (R81, R94, R118) -/

theorem State.rejectLoan_goHome {s : State} {id : Nat} {l : Loan} (detail : W64) (loan : AMap.find s.loans id = some l) :
    (∃ l', AMap.find ((s.rejectLoan id detail).goHome id).loans id = some l' ∧ l'.state = .returning) ∧
    (s.cycle + 1, Instr.loanReturn id) ∈ ((s.rejectLoan id detail).goHome id).agenda ∧
    ∃ r ∈ ((s.rejectLoan id detail).goHome id).hub.store ++ ((s.rejectLoan id detail).goHome id).hub.blocked,
      r.code = BitVec.ofNat 8 fCFG ∧ r.loan = l.word ∧ r.detail = detail := by
  refine ⟨⟨{ l with state := .returning }, ?_, rfl⟩, ?_, ?_⟩
  · rw [State.goHome, State.later_loans]
    exact State.find_updLoan_of_some _ loan
  · have back := State.mem_later ((s.rejectLoan id detail).updLoan id (fun l => { l with state := .returning })) 1 (.loanReturn id)
    rwa [State.updLoan_cycle] at back
  · have hub : ((s.rejectLoan id detail).goHome id).hub =
        s.hub.record (mkRecord s { Report.of fCFG with loan := some id, detail := detail } false) := by
      rw [State.goHome, State.later_hub, State.updLoan_hub, State.rejectLoan, State.updHub_hub]
    obtain ⟨q, made⟩ := Hub.record_mem s.hub (mkRecord s { Report.of fCFG with loan := some id, detail := detail } false)
    rw [hub]
    exact ⟨_, made, rfl, by simp only [mkRecord, loan], rfl⟩

section Fetching
variable {s : State} {id : Nat} {l : Loan} (loan : AMap.find s.loans id = some l) (running : s.stopped .loader = false)
  (fetching : l.state = .fetching) (first : l.exitTaken = none) (miss : l.hit = false)
include loan running fetching first

theorem exec_imageFetchDone_first : exec (.imageFetchDone id) s = .next (s.firstFetched id l) := by
  show execImageFetchDone id s = _
  simp only [execImageFetchDone, loan, running, fetching, first, beq_self_eq_true, Bool.false_eq_true, if_false, if_true]

include miss

theorem exec_imageFetchDone_refused {bad : CfgBad}
    (read : s.loadImage l.slip.space l.slip.cfg ⟨l.w, l.h, l.slip.priv, l.slip.mstore⟩ = .error bad) :
    exec (.imageFetchDone id) s = .next ((s.rejectLoan id bad.detail).goHome id) := by
  rw [exec_imageFetchDone_first loan running fetching first]
  simp only [State.firstFetched, miss, read, Bool.false_eq_true, if_false, Except.map]

theorem exec_imageFetchDone_taken {img : Image} {l' : Loan}
    (read : s.loadImage l.slip.space l.slip.cfg ⟨l.w, l.h, l.slip.priv, l.slip.mstore⟩ = .ok img)
    (args : argsOk (img.placed l.rect) l.slip.args = true) (fits : s.takeNeed id l ((img.placed l.rect).need l.slip.mstore) = some l') :
    exec (.imageFetchDone id) s = .next
      ({ s with loans := AMap.put s.loans id { l' with image := img.placed l.rect, images := [], state := .writing } }.later
        ((img.placed l.rect).writeCycles (!l'.hit) true + 1) (.configWriteDone id)) := by
  rw [exec_imageFetchDone_first loan running fetching first]
  simp only [State.firstFetched, miss, read, Bool.false_eq_true, if_false, Except.map, args, fits, Bool.not_true]

end Fetching

/-! ### A loan's image written (R118, R385) -/

theorem exec_configWriteDone_writing {s : State} {id : Nat} {l : Loan} (loan : AMap.find s.loans id = some l)
    (running : s.stopped .loader = false) (writing : l.state = .writing) :
    exec (.configWriteDone id) s = .next (s.loanWritten id l) := by
  show execConfigWriteDone id s = _
  simp only [execConfigWriteDone, loan, running, writing, beq_self_eq_true, Bool.false_eq_true, if_false, if_true]

/-! ### Prefetched images (R122) -/

/-- A change in the nodes of the region alone. -/
structure InNodes (s t : State) : Prop where
  frame : t = { s with els := t.els, bays := t.bays }

theorem InNodes.refl (s : State) : InNodes s s := ⟨rfl⟩

theorem InNodes.trans {s t u : State} (h : InNodes s t) (k : InNodes t u) : InNodes s u := ⟨k.frame.trans (by rw [h.frame])⟩

theorem InNodes.foldl {β : Type} (f : State → β → State) (h : ∀ s b, InNodes s (f s b)) (bs : List β) (s : State) :
    InNodes s (bs.foldl f s) := foldl_rel .refl (fun h k => h.trans k) f h bs s

theorem InNodes.same {s t : State} (h : InNodes s t) : t.hub = s.hub ∧ t.loans = s.loans ∧ t.mem = s.mem := by
  rw [h.frame]; exact ⟨rfl, rfl, rfl⟩

/-- A bay of a prefetched image's rectangle, with its number, holds the image. -/
def State.keepImage (c : Nat) (img : Image) (s : State) (q : Nat × Nat) : State :=
  (s.emptyEls q.1 c).updBay q.1 (fun y => { y with ctxs := AMap.put y.ctxs c ⟨.resident, img, q.2, (y.ctxAt c).lastLoan, s.cycle⟩ })

/-- An element of a prefetched image holds its words. -/
def State.keepWords (c : Nat) (img : Image) (key : Nat → Nat) (s : State) (i : Nat) : State :=
  s.updEl (key i) (fun e => e.updCtx c (fun _ => { loadedCtx img 0 i [] with loan := none, logical := 0 }))

/-- The rectangle of a prefetch. -/
def Prefetch.rect (p : Prefetch) : Rect := ⟨p.die, p.nwb, p.w, p.h⟩

/-- Every bay of a prefetch that is done holds its image. -/
def State.keepImages (s : State) (n : Nat) (p : Prefetch) (img : Image) : State :=
  p.rect.bays.zipIdx.foldl (State.keepImage p.ctx img) (s.updHub (fun h => { h with prefetches := AMap.del h.prefetches n }))

/-- A context of a bay holds a resident image. -/
def Bay.Holds (y : Bay) (c : Nat) (img : Image) : Prop := (y.ctxAt c).st = .resident ∧ (y.ctxAt c).image = img

section Keeping
variable (c : Nat) (img : Image)

theorem State.keepImage_same (s : State) (q : Nat × Nat) : ((s.keepImage c img q).bay q.1).Holds c img := by
  rw [State.keepImage, State.bay_updBay_same]
  unfold Bay.Holds Bay.ctxAt
  rw [AMap.get_put_same]
  exact ⟨rfl, rfl⟩

theorem State.keepImage_keeps {s : State} {b : Nat} (held : (s.bay b).Holds c img) (q : Nat × Nat) :
    ((s.keepImage c img q).bay b).Holds c img := by
  by_cases same : b = q.1
  · subst same; exact s.keepImage_same c img q
  · rw [State.keepImage, State.bay_updBay_other _ _ same]; exact held

theorem State.foldl_keepImage_holds (qs : List (Nat × Nat)) (s : State) {b : Nat} (there : b ∈ qs.map Prod.fst ∨ (s.bay b).Holds c img) :
    ((qs.foldl (State.keepImage c img) s).bay b).Holds c img := by
  induction qs generalizing s with
  | nil => exact there.resolve_left List.not_mem_nil
  | cons q qs ih =>
    refine ih _ ?_
    rcases there with here | held
    · rcases List.mem_cons.mp here with rfl | later
      · exact .inr (s.keepImage_same c img q)
      · exact .inl later
    · exact .inr (State.keepImage_keeps c img held q)

end Keeping

theorem State.keepImages_holds (s : State) (n : Nat) (p : Prefetch) (img : Image) {b : Nat} (inside : b ∈ p.rect.bays) :
    ((s.keepImages n p img).bay b).Holds p.ctx img := by
  refine State.foldl_keepImage_holds _ _ _ _ (.inl ?_)
  rwa [List.zipIdx_map_fst]

theorem State.keepImages_inNodes (s : State) (n : Nat) (p : Prefetch) (img : Image) :
    InNodes (s.updHub (fun h => { h with prefetches := AMap.del h.prefetches n })) (s.keepImages n p img) :=
  .foldl _ (fun _ _ => ⟨rfl⟩) _ _

/-- A change in the elements alone. -/
structure InElements (s t : State) : Prop where
  frame : t = { s with els := t.els }

theorem State.keepWords_inElements (c : Nat) (img : Image) (key : Nat → Nat) (is : List Nat) (s : State) :
    InElements s (is.foldl (State.keepWords c img key) s) :=
  foldl_rel (fun _ => ⟨rfl⟩) (fun h k => ⟨k.frame.trans (by rw [h.frame])⟩) _ (fun _ _ => ⟨rfl⟩) _ _

section Prefetching
variable {s : State} {n : Nat} {p : Prefetch} (there : AMap.find s.hub.prefetches n = some p) (running : s.stopped .loader = false)
include there running

theorem exec_prefetchDone_refused {bad : CfgBad} (unread : p.read = none)
    (read : s.loadImage p.space p.addr ⟨p.w, p.h, p.priv, p.mstore⟩ = .error bad) :
    exec (.prefetchDone n) s = .next ((Rect.bays ⟨p.die, p.nwb, p.w, p.h⟩).foldl (fun s b => s.emptyCtx b p.ctx)
      (s.updHub (fun h => { h with prefetches := AMap.del h.prefetches n }))) := by
  show execPrefetchDone n s = _
  simp only [execPrefetchDone, there, running, unread, read, Bool.false_eq_true, if_false]

theorem exec_prefetchDone_read {img : Image} (unread : p.read = none)
    (read : s.loadImage p.space p.addr ⟨p.w, p.h, p.priv, p.mstore⟩ = .ok img) :
    exec (.prefetchDone n) s = .next ((s.updHub (fun h => { h with
      prefetches := AMap.put h.prefetches n { p with read := some (img.placed ⟨p.die, p.nwb, p.w, p.h⟩) } })).later
        (img.wordCycles + 1) (.prefetchDone n)) := by
  show execPrefetchDone n s = _
  simp only [execPrefetchDone, there, running, unread, read, Bool.false_eq_true, if_false]

theorem exec_prefetchDone_written {img : Image} (read : p.read = some img) :
    exec (.prefetchDone n) s = .next (img.elements.foldl
      (State.keepWords p.ctx img (p.rect.elKey ((s.keepImages n p img).spareMap p.rect))) (s.keepImages n p img)) := by
  show execPrefetchDone n s = _
  simp only [execPrefetchDone, there, running, read, Bool.false_eq_true, if_false]
  rfl

end Prefetching

/-- Settles O45: an image that is refused or taken, the end of its writing, and a prefetched one refused, read, and written. -/
theorem imagesLoaded : Obligations.ImagesLoaded := by
  intro s id l loan running
  refine ⟨fun fetching first miss => ⟨fun bad read => ?_, fun img l' read args fits => ?_⟩, fun writing asleep => ?_, fun writing awake => ?_,
    fun n p there => ⟨fun bad unread read => ?_, fun img unread read => ?_, fun img read => ?_⟩⟩
  · exact ⟨_, exec_imageFetchDone_refused loan running fetching first miss read, State.rejectLoan_goHome _ loan⟩
  · exact ⟨_, exec_imageFetchDone_taken loan running fetching first miss read args fits, AMap.find_put_same _ _ _, State.mem_later _ _ _⟩
  · refine ⟨_, exec_configWriteDone_writing loan running writing, ?_⟩
    simp only [State.loanWritten, asleep, Bool.not_false, if_true]
  · have written := exec_configWriteDone_writing loan running writing
    simp only [State.loanWritten, awake, Bool.not_true, Bool.false_eq_true, if_false] at written
    refine ⟨fun w begins => ?_, fun waits => ?_⟩
    · rw [begins] at written; exact ⟨_, written, rfl⟩
    · rw [waits] at written; exact ⟨_, written, rfl⟩
  · obtain ⟨hub, loans, mem⟩ := (InNodes.foldl (fun s b => s.emptyCtx b p.ctx) (fun _ _ => ⟨rfl⟩) (Rect.bays ⟨p.die, p.nwb, p.w, p.h⟩)
      (s.updHub (fun h => { h with prefetches := AMap.del h.prefetches n }))).same
    exact ⟨_, exec_prefetchDone_refused there running unread read, congrArg Hub.prefetches hub, loans, mem⟩
  · exact ⟨_, exec_prefetchDone_read there running unread read, rfl, State.mem_later _ _ _, rfl, rfl, rfl⟩
  · have words := (State.keepWords_inElements p.ctx img (p.rect.elKey ((s.keepImages n p img).spareMap p.rect)) img.elements
      (s.keepImages n p img)).frame
    obtain ⟨hub, loans, mem⟩ := (s.keepImages_inNodes n p img).same
    refine ⟨_, exec_prefetchDone_written there running read, ?_⟩
    rw [words]
    exact ⟨congrArg Hub.prefetches hub, loans, mem, fun b inside => s.keepImages_holds n p img inside⟩

end Sys2Proof.Machine
end

section
/-! PROOFS. O18: timeline instructions, launches, watches, arrivals at barriers, and stocktakes. -/
namespace Sys2Proof.Machine

/-- How a firing meets its operands does not depend on its latency, and it leaves what the instruction does beyond its element, as far as
the firing's condition tells. -/
theorem FiresAt.of_fire {i : Instr} {s : State} {h : Hdr} {b : FY} {latency : Nat} {cond : FireCtx → Got → Prop} {eff : FireCtx → Got → Eff}
    {after done : FireCtx → Got → State → State} (perform : FireCtx → Got → Option Eff)
    (he : exec i s = fire (shapeY h b latency) perform done s) (hp : ∀ f g, cond f g → perform f g = some (eff f g))
    (ha : ∀ f g u, cond f g → done f g u = after f g u) : FiresAt i s (shapeY h b latency) (byMode (shapeY h b 1)) cond eff after := by
  have fires : FiresAt i s (shapeY h b latency) (byMode (shapeY h b 1)) cond eff done := FiresAt.intro perform he (fun f g _ => hp f g)
  intro f g issues holds goes
  obtain ⟨t, he, u, fired, ht⟩ := fires f g issues holds goes
  exact ⟨t, he, u, fired, ht.trans (ha f g u holds)⟩

/-- A live firing whose output comes later, with a tag and a place to go, sends nothing yet. -/
theorem lateEff_live {f : FireCtx} {g : Got} {h : Hdr} {d : Dest} (live : g.live = true) (ok : LateOk f g h d) : lateEff f g h d = Eff.none := by
  obtain ⟨tag, target⟩ := ok
  simp only [lateEff, live, Option.isNone_eq_false_iff.mpr tag, target, Bool.not_true, Bool.or_self, Bool.false_eq_true, if_false]

/-- Settles O18: each instruction fires with what it performs under its condition; a late output is none yet (`lateEff_live`). -/
theorem timelinesAndBarriers : Obligations.TimelinesAndBarriers := by
  refine ⟨fun h b s n => ?tlinc, fun h b s n => ?tlrd, fun h b s => ?tlset, fun h b s => ?tlwait, fun h b s => ?launch,
    fun h b s => ?evwatch, fun h b s => ?barr, fun h b s => ?stock⟩
  case tlinc =>
    refine FiresAt.of_fire _ (show execTlinc h b s = _ from rfl) (fun f g ⟨live, index, ready, runs⟩ => ?_) (fun f g u ⟨live, index, _⟩ => ?_)
    · simp [live, index, ready, runs]
    · simp [live, index]
  case tlrd =>
    refine FiresAt.of_fire _ (show execTlrd h b s = _ from rfl) (fun f g ⟨live, index, runs⟩ => ?_) (fun f g u ⟨live, index, _⟩ => ?_)
    · simp [live, index, runs]
    · simp [live, index]
  case tlset =>
    refine FiresAt.of_fire _ (show execTlset h b s = _ from rfl) (fun f g may => ?_) (fun _ _ _ _ => rfl)
    refine if_neg (Bool.not_eq_true _ ▸ Bool.and_eq_false_imp.mpr fun live => ?_)
    obtain ⟨ready, runs⟩ := may live
    simp [ready, runs]
  case tlwait =>
    refine FiresAt.of_fire _ (show execTlwait h b s = _ from rfl) (fun f g ⟨live, room, runs, ok⟩ => ?_) (fun f g u ⟨live, _⟩ => ?_)
    · simp [lateEff_live live ok, Nat.not_le.mpr room, runs]
    · simp [live]
  case launch =>
    refine FiresAt.of_fire _ (show execLaunch h b s = _ from rfl) (fun f g ⟨live, room, entry, ready, ok⟩ => ?_) (fun f g u ⟨live, _⟩ => ?_)
    · simp [lateEff_live live ok, Nat.not_le.mpr room, entry, ready]
    · simp [live]
  case evwatch =>
    refine FiresAt.of_fire _ (show execEvwatch h b s = _ from rfl) (fun f g names => ?_) (fun _ _ _ _ => rfl)
    exact if_neg (Bool.not_eq_true _ ▸ Bool.and_eq_false_imp.mpr fun live => by simp [names live])
  case barr =>
    refine FiresAt.of_fire _ (show execBarr h b s = _ from rfl) (fun f g ⟨room, ok⟩ => ?_) (fun _ _ _ _ => rfl)
    have goes : (b.scode.toNat % 8 == 1 && decide (64 ≤ s.wingWaits f.l.die)) = false :=
      Bool.and_eq_false_imp.mpr fun wing => by simp [room (beq_iff_eq.mp wing)]
    have tagged : (applyTagop h.tagop f.info.depth true g.tag).isNone = false := Option.isNone_eq_false_iff.mpr ok.1
    cases live : g.live with
    | true => simp only [goes, lateEff_live live ok, Bool.false_eq_true, if_false, if_true]
    | false => simp only [goes, tagged, Bool.false_eq_true, if_false]
  case stock =>
    refine FiresAt.of_fire _ (show execStock h b s = _ from rfl) (fun f g ⟨live, ok⟩ => ?_) (fun f g u ⟨live, _⟩ => ?_)
    · exact congrArg some (lateEff_live live ok)
    · simp [live]

end Sys2Proof.Machine
end

section
/-! PROOFS. O43: what comes of waits, launches, watches, arrivals at barriers, and stocktakes; all of it holds but the second snapshot of a
stocktake, whose number may be taken at the order ring. -/
namespace Sys2Proof.Machine

/-! ### Waits that are met (R104, R106) -/

theorem mem_outsidePut (xs : List (Nat × Flit)) (t : Nat) (f : Flit) : (t, f) ∈ outsidePut xs t f := by
  induction xs with
  | nil => exact List.mem_singleton.mpr rfl
  | cons y ys ih =>
    unfold outsidePut
    split
    · exact List.mem_cons_self
    · exact List.mem_cons_of_mem _ ih

/-- A token has entered the fabric at an element's side, due at a cycle; the hub and the loans are as they were. -/
structure ArrivesOutside (s : State) (el due : Nat) (f : Flit) (t : State) : Prop where
  there : (due, f) ∈ (t.el el).outside
  step : (due, Instr.tokenArrive el .outside) ∈ t.agenda
  rest : t.hub = s.hub ∧ t.loans = s.loans

theorem State.inject_token {s : State} {f : Flit} {l : Loan} {x : Token} (d index : Nat) (loan : AMap.find s.loans f.loan = some l)
    (running : l.state = .running) (token : f.emit = .token x) :
    ArrivesOutside s (l.elKey x.el.toNat) (s.cycle + d) f (s.inject d index f) := by
  have here : (l.state == .saving || l.state == .switchedOut) = false := by rw [running]; rfl
  simp only [State.inject, loan, here, token, Bool.false_eq_true, if_false]
  refine ⟨?_, State.mem_later _ _ _, rfl, rfl⟩
  rw [State.el_later, State.el_updEl_same]
  exact mem_outsidePut _ _ _

/-- A wait gives back its entry. -/
def State.endWait (s : State) (id : Nat) (w : TlWait) : State :=
  (s.updHub (fun h => { h with waits := AMap.del h.waits id })).updLoan w.loan (fun l => { l with waits := l.waits - 1 })

theorem exec_tlwaitMet {s : State} {id : Nat} {w : TlWait} {f : Flit} (wait : AMap.find s.hub.waits id = some w) (met : w.met = true)
    (flit : w.flit = some f) : exec (.tlwaitMet id) s = .next ((s.endWait id w).inject 0 w.index f) := by
  show execTlwaitMet id s = _
  simp only [execTlwaitMet, wait, met, flit, Bool.not_true, Bool.false_eq_true, if_false]
  rfl

/-- The answer of a wait comes to its element, its entry is free, and its region waits for one answer less. -/
theorem tlwaitMet_answers {s : State} {id : Nat} {w : TlWait} {l : Loan} {f : Flit} {x : Token} (wait : AMap.find s.hub.waits id = some w)
    (met : w.met = true) (loan : AMap.find s.loans w.loan = some l) (running : l.state = .running) (flit : w.flit = some f)
    (own : f.loan = w.loan) (token : f.emit = .token x) :
    Completes (.tlwaitMet id) s (fun t => t.hub = { s.hub with waits := AMap.del s.hub.waits id } ∧
      (∃ l', AMap.find t.loans w.loan = some l' ∧ l'.waits = l.waits - 1) ∧ (s.cycle, f) ∈ (t.el (l.elKey x.el.toNat)).outside ∧
      (s.cycle, Instr.tokenArrive (l.elKey x.el.toNat) .outside) ∈ t.agenda) := by
  have ended : AMap.find (s.endWait id w).loans w.loan = some { l with waits := l.waits - 1 } := by
    rw [State.endWait, State.find_updLoan_same, State.updHub_loans, loan]; rfl
  obtain ⟨there, step, hub, loans⟩ := State.inject_token (l := { l with waits := l.waits - 1 }) 0 w.index (own ▸ ended) running token
  rw [Nat.add_zero, State.endWait, State.updLoan_cycle, State.updHub_cycle] at there step
  exact ⟨_, exec_tlwaitMet wait met flit, hub.trans (State.updLoan_hub _ _ _), ⟨_, loans ▸ ended, rfl⟩, there, step⟩

/-! ### Launches (R89, R104, R105) -/

theorem RecordsKept.goneFlit (s : State) (b : Nat) (f : Option Flit) : RecordsKept s (s.goneFlit b f) := by
  cases f with
  | none => exact .refl s
  | some f => exact s.dropFlit_recordsKept b f

/-- TAKING AN EXCEPTION makes the record of its report (R339). -/
theorem State.raise_makes (s : State) (r : Report) (loops : List Nat) (kept : List Kept) :
    ∃ parks q, { mkRecord s r parks with seq := q } ∈ (s.raise r loops kept).hub.records := by
  unfold State.raise
  dsimp only
  generalize (stopsFrame r.code && _) = parks
  obtain ⟨q, recorded⟩ := Hub.record_mem s.hub (mkRecord s r parks)
  refine ⟨parks, q, ?_⟩
  split
  · split
    · exact ((State.parkFrame_recordsKept _ _ _ _ _ _).trans (State.translateParked_recordsKept _ _ _ _)).kept _ recorded
    · exact recorded
  · exact recorded

/-- A launch has its entry of the pool already: its slip is accepted. -/
theorem State.accept_reserved (s : State) (slip : Slip) (rank : Nat) : ∃ t, s.accept slip rank true = some t := by
  simp only [State.accept, Bool.or_true, Bool.true_or, if_true]
  split <;> exact ⟨_, rfl⟩

/-- The slip of a launch, read in the launcher's space (R90). -/
def State.launchSlip (s : State) (x : Launching) (l : Loan) : Option (List Byte × Except (Nat × Nat) Slip) :=
  s.readSlip x.va ⟨l.slip.space, l.slip.priv, 0xF, none⟩

/-- The output of a launch comes with its operand. -/
def State.answerLaunch (s : State) (x : Launching) (v : W32) : State :=
  match x.flit with
  | some f => s.inject 0 x.index (f.withOperand v)
  | none => s

section Launched
variable {s : State} {id : Nat} {x : Launching} {l : Loan} (launch : AMap.find s.hub.launches id = some x)
include launch

theorem exec_launchAccept_stopped (stops : s.stopped .loader = true) : exec (.launchAccept id) s = .next (s.later 1 (.launchAccept id)) := by
  show execLaunchAccept id s = _
  simp only [execLaunchAccept, launch, stops, if_true]

variable (loan : AMap.find s.loans x.loan = some l) (runs : s.stopped .loader = false)
include loan runs

theorem exec_launchAccept_accepts {bs : List Byte} {slip : Slip} {v : State} (read : s.launchSlip x l = some (bs, .ok slip))
    (accepted : (s.endLaunch id x).accept (if x.inhw then { slip with wing := l.slip.wing } else slip) (x.rank s) true = some v) :
    exec (.launchAccept id) s = .next (v.answerLaunch x 0) := by
  show execLaunchAccept id s = _
  unfold State.launchSlip at read
  simp only [execLaunchAccept, launch, loan, runs, read, accepted, Option.getD_some, Bool.false_eq_true, if_false]
  rfl

theorem exec_launchAccept_refuses {bs : List Byte} {reason off : Nat} (read : s.launchSlip x l = some (bs, .error (reason, off))) :
    exec (.launchAccept id) s = .next (((s.endLaunch id x).refuseSlip bs reason off).answerLaunch x 1) := by
  show execLaunchAccept id s = _
  unfold State.launchSlip at read
  simp only [execLaunchAccept, launch, loan, runs, read, Bool.false_eq_true, if_false]
  rfl

/-- An unmapped slip raises TRANSLATE at its address. -/
theorem launchAccept_unmapped (read : s.launchSlip x l = none) : Completes (.launchAccept id) s (fun t =>
    ∃ r ∈ t.hub.records, r.code = BitVec.ofNat 8 fTRANSLATE ∧ r.addr = BitVec.ofNat 64 x.va) := by
  have raised : ∀ (u : State) (r : Report) (loops : List Nat) (kept : List Kept) (t : State), r.code = fTRANSLATE → r.addr = x.va →
      RecordsKept (u.raise r loops kept) t →
      ∃ r ∈ t.hub.records, r.code = BitVec.ofNat 8 fTRANSLATE ∧ r.addr = BitVec.ofNat 64 x.va := fun u r loops kept t code addr h => by
    obtain ⟨parks, q, made⟩ := u.raise_makes r loops kept
    exact ⟨_, h.kept _ made, congrArg (BitVec.ofNat 8) code, congrArg (BitVec.ofNat 64) addr⟩
  show ∃ t, execLaunchAccept id s = .next t ∧ _
  unfold State.launchSlip at read
  simp only [execLaunchAccept, launch, loan, runs, read, Bool.false_eq_true, if_false]
  refine ⟨_, rfl, ?_⟩
  split
  · exact raised _ _ _ _ _ rfl rfl (.refl _)
  · exact raised _ _ _ _ _ rfl rfl (.goneFlit _ _ _)

end Launched

/-! ### Watches (R96, R107) -/

theorem AMap.mem_put_same {β : Type} (m : AMap β) (k : Nat) (v : β) : (k, v) ∈ AMap.put m k v := by
  induction m with
  | nil => exact List.mem_singleton.mpr rfl
  | cons p m ih =>
    unfold AMap.put
    split
    · exact List.mem_cons_self
    · split
      · exact List.mem_cons_self
      · exact List.mem_cons_of_mem _ ih

/-- A counter is read without a change of the hub: at most a number is drawn. -/
theorem State.counter_hub (s : State) (a : W32) : (s.counter a).2.hub = s.hub := by
  unfold State.counter; dsimp only; split <;> rfl

/-- A slip is somewhere on its way to be placed: released, in an entry of the pool, or waiting for one. -/
def Hub.keeps (h : Hub) (rank : Nat) (slip : Slip) : Prop :=
  (∃ x ∈ h.released, x.slip = slip) ∨ (∃ p ∈ h.holds, p.2.slip = slip) ∨ (rank, slip) ∈ h.waitingSlips

/-- A slip that the hub releases for the device is kept, and no watch changes. -/
theorem State.acceptOrWait_keeps (s : State) (slip : Slip) (rank : Nat) :
    (s.acceptOrWait slip rank).hub.watches = s.hub.watches ∧ (s.acceptOrWait slip rank).hub.keeps rank slip := by
  unfold State.acceptOrWait
  split
  next t accepted =>
    unfold State.accept at accepted
    dsimp only at accepted
    split at accepted
    · cases accepted
      exact ⟨rfl, .inl ⟨_, mem_releasedPut _ _, rfl⟩⟩
    · split at accepted
      · cases accepted
        exact ⟨rfl, .inr (.inl ⟨_, AMap.mem_put_same _ _ _, rfl⟩)⟩
      · cases accepted
  next => exact ⟨rfl, .inr (.inr (List.mem_append_right _ (List.mem_singleton.mpr rfl)))⟩

/-- Whether a counter has passed a watch's threshold. -/
abbrev Watch.Passed (w : Watch) (v : Nat) : Prop := if w.fall then v ≤ w.threshold.toNat else w.threshold.toNat ≤ v

section Watched
variable {s : State} {n : Nat} {w : Watch} (watch : AMap.find s.hub.watches n = some w)
include watch

theorem exec_watchSample : exec (.watchSample n) s = .next (if w.Passed (s.counter w.selector).1
    then ((s.counter w.selector).2.updHub (fun h => { h with watches := AMap.del h.watches n })).acceptOrWait w.slip (rankWatch n)
    else (s.counter w.selector).2) := by
  show execWatchSample n s = _
  simp only [execWatchSample, watch, Watch.Passed]
  cases w.fall <;> simp only [Bool.false_eq_true, if_false, if_true, decide_eq_true_eq, apply_ite Host.Outcome.next]

theorem watchSample_passed (passed : w.Passed (s.counter w.selector).1) : Completes (.watchSample n) s (fun t =>
    t.hub.watches = AMap.del s.hub.watches n ∧ t.hub.keeps (rankWatch n) w.slip) := by
  refine ⟨_, (exec_watchSample watch).trans (congrArg _ (if_pos passed)), ?_⟩
  obtain ⟨watches, kept⟩ := ((s.counter w.selector).2.updHub (fun h => { h with watches := AMap.del h.watches n })).acceptOrWait_keeps
    w.slip (rankWatch n)
  refine ⟨watches.trans ?_, kept⟩
  rw [State.updHub_hub, State.counter_hub]

end Watched

/-! ### Barriers (R311, R312) -/

/-- The key of an arrival's handler, and the party that the arrival is to its record (R311). -/
def Arrival.hkey (a : Arrival) : Nat := handlerKey a.index a.hnd
@[inherit_doc Arrival.hkey] def Arrival.party (a : Arrival) : Nat × Nat × Option Flit := (a.loan, a.hkey, a.flit)

/-- An arrival out of the hub's list. -/
def State.arrivalGone (s : State) (id : Nat) : State := s.updHub (fun h => { h with arrivals := AMap.del h.arrivals id })

/-- Whether the stores before an arrival have committed (R311). -/
def Loan.priorDone (l : Loan) (a : Arrival) : Bool := l.committedPrior a.prior (l.ownIters (l.imageOf a.ctx) a.hkey a.tag)

/-- An arrival that has passed its test is counted, or waits for its release condition (R312). -/
def State.testedArrival (s : State) (id : Nat) (a : Arrival) (l : Loan) : State :=
  if a.live && !l.priorDone a then
    (s.updHub (fun h => { h with arrivals := AMap.put h.arrivals id { a with there := true, tested := true } })).later 1 (.barrierArrive id)
  else s.countArrival id a a.hkey

theorem State.testedArrival_counts {s : State} {id : Nat} {a : Arrival} {l : Loan} (may : a.live = false ∨ l.priorDone a = true) :
    s.testedArrival id a l = s.countArrival id a a.hkey := by
  have go : (a.live && !l.priorDone a) = false := by rcases may with h | h <;> simp [h]
  simp only [State.testedArrival, go, Bool.false_eq_true, if_false]

theorem State.testedArrival_waits {s : State} {id : Nat} {a : Arrival} {l : Loan} (live : a.live = true) (pending : l.priorDone a = false) :
    s.testedArrival id a l = (s.updHub (fun h => { h with
      arrivals := AMap.put h.arrivals id { a with there := true, tested := true } })).later 1 (.barrierArrive id) := by
  simp only [State.testedArrival, live, pending, Bool.not_false, Bool.and_self, if_true]

theorem State.barrierOf_setBarrier {s : State} {a : Arrival} (r : Barrier) (loan : (AMap.find s.loans a.loan).isSome = true) :
    (s.setBarrier a (some r)).barrierOf a = some r := by
  obtain ⟨l, there⟩ := Option.isSome_iff_exists.mp loan
  unfold State.barrierOf State.setBarrier
  cases a.wing with
  | true => exact AMap.find_put_same _ _ _
  | false =>
    simp only [Bool.false_eq_true, if_false, State.find_updLoan_same, there, Option.map_some]
    exact AMap.find_put_same _ _ _

theorem State.setBarrier_loan (s : State) (a : Arrival) (r : Option Barrier) :
    (AMap.find (s.setBarrier a r).loans a.loan).isSome = (AMap.find s.loans a.loan).isSome := by
  unfold State.setBarrier
  cases a.wing with
  | true => rfl
  | false => simp only [Bool.false_eq_true, if_false, State.find_updLoan_same, Option.isSome_map]

section Counting
variable {s : State} {id : Nat} {a : Arrival} {r : Barrier} (record : s.barrierOf a = some r) (counts : r.count ≠ 0)
include record counts

theorem State.countArrival_more (loan : (AMap.find s.loans a.loan).isSome = true) (more : r.n + 1 ≠ r.count) :
    (s.countArrival id a a.hkey).barrierOf a = some { r with n := r.n + 1, waiting := r.waiting ++ [a.party] } := by
  simp only [State.countArrival, record, counts, more, if_false]
  exact State.barrierOf_setBarrier _ loan

theorem State.countArrival_last (last : r.n + 1 = r.count) : s.countArrival id a a.hkey =
    (r.waiting ++ [a.party]).foldl (fun u w => u.releaseParty a.wing w)
      ((s.arrivalGone id).setBarrier a (if (s.arrivalGone id).pendingAt id a then some ⟨0, 0, []⟩ else none)) := by
  simp only [State.countArrival, record, counts, last, if_false, if_true]
  rfl

end Counting

section Arriving
variable {s : State} {id : Nat} {a : Arrival} {l : Loan} (arrival : AMap.find s.hub.arrivals id = some a)
  (loan : AMap.find s.loans a.loan = some l)
include arrival loan

theorem exec_barrierArrive_record {r : Barrier} (record : s.barrierOf a = some r) (counts : r.count ≠ 0)
    (fits : a.tested = true ∨ a.count = r.count) : exec (.barrierArrive id) s = .next (s.testedArrival id a l) := by
  show execBarrierArrive id s = _
  cases tested : a.tested with
  | true => simp only [execBarrierArrive, arrival, loan, tested, if_true]; rfl
  | false =>
    have same : ¬(a.count ≠ r.count) := not_not.mpr (fits.resolve_left (by simp [tested]))
    simp only [execBarrierArrive, arrival, loan, tested, record, same, counts, Bool.false_eq_true, if_false]
    rfl

theorem barrierArrive_mismatch {r : Barrier} (record : s.barrierOf a = some r) (counts : r.count ≠ 0) (new : a.tested = false)
    (differs : a.count ≠ r.count) : Completes (.barrierArrive id) s (fun t => Recorded t fILLEGAL a.tag) := by
  show ∃ t, execBarrierArrive id s = .next t ∧ _
  simp only [execBarrierArrive, arrival, loan, new, record, counts, differs, ne_eq, not_false_eq_true, Bool.false_eq_true, if_false, if_true]
  exact ⟨_, rfl, State.raise_recorded _ _ _ _ rfl⟩

variable (free : s.barrierOf a = none) (new : a.tested = false)
include free new

theorem exec_barrierArrive_full (wing : a.wing = true) (full : 1024 ≤ s.hub.wingBarriers.length) : exec (.barrierArrive id) s =
    .next ((s.updHub (fun h => { h with arrivals := AMap.put h.arrivals id { a with there := true } })).later 1 (.barrierArrive id)) := by
  show execBarrierArrive id s = _
  simp only [execBarrierArrive, arrival, loan, new, free, wing, full, decide_true, Bool.and_self, Bool.false_eq_true, if_false, if_true]

theorem exec_barrierArrive_opens (room : a.wing = true → s.hub.wingBarriers.length < 1024) :
    exec (.barrierArrive id) s = .next ((s.setBarrier a (some ⟨a.count, 0, []⟩)).testedArrival id a l) := by
  have opens : (a.wing && decide (1024 ≤ s.hub.wingBarriers.length)) = false :=
    Bool.and_eq_false_imp.mpr fun wing => by simp [room wing]
  show execBarrierArrive id s = _
  simp only [execBarrierArrive, arrival, loan, new, free, opens, Bool.false_eq_true, if_false]
  rfl

/-- An arrival that opens an episode of several is its first party. -/
theorem barrierArrive_first (room : a.wing = true → s.hub.wingBarriers.length < 1024) (may : a.live = false ∨ l.priorDone a = true)
    (several : 1 < a.count) : Completes (.barrierArrive id) s (fun t => t.barrierOf a = some ⟨a.count, 1, [a.party]⟩) := by
  have opened := exec_barrierArrive_opens arrival loan free new room
  rw [State.testedArrival_counts may] at opened
  have there : (AMap.find s.loans a.loan).isSome = true := Option.isSome_iff_exists.mpr ⟨l, loan⟩
  exact ⟨_, opened, State.countArrival_more (r := ⟨a.count, 0, []⟩) (State.barrierOf_setBarrier _ there) (Nat.ne_of_gt (Nat.zero_lt_of_lt several))
    ((s.setBarrier_loan a _).trans there) (Nat.ne_of_lt several)⟩

end Arriving

/-! ### Stocktakes (R315, R316) -/

section Stocktaking
variable {s : State} {k : Stocktake} (taking : s.hub.stocktake = some k)
include taking

theorem exec_stocktakeSnapshot_done (done : k.result.isSome = true) : exec .stocktakeSnapshot s = .next s := by
  show execStocktakeSnapshot s = _
  simp only [execStocktakeSnapshot, taking, done, if_true]

variable (runs : s.stopped .stocktake = false) (goes : k.result = none)
include runs goes

theorem exec_stocktakeSnapshot_first (first : k.second = false) : exec .stocktakeSnapshot s =
    .next ((s.updHub (fun h => { h with stocktake := some { k with
      first := s.stalledRegions s.allRefused, heads := s.voqHeads, second := true, stuck := s.allRefused } })).later 4096 .stocktakeSnapshot) := by
  show execStocktakeSnapshot s = _
  simp only [execStocktakeSnapshot, taking, runs, goes, first, Option.isSome_none, Bool.false_eq_true, if_false]

theorem exec_stocktakeSnapshot_second (second : k.second = true) : exec .stocktakeSnapshot s = .next (s.endStocktake k) := by
  show execStocktakeSnapshot s = _
  simp only [execStocktakeSnapshot, taking, runs, goes, second, Option.isSome_none, Bool.false_eq_true, if_false, if_true]

end Stocktaking

/-- A request for the order ring's token (R328) is put there once under its number. -/
theorem State.ringWait_ring (s : State) (node id : Nat) (domain : Bool) : (s.ringWait node id domain).hub.ringWaiting =
    if s.hub.ringWaiting.any (fun e => e.id == id) then s.hub.ringWaiting else s.hub.ringWaiting ++ [⟨node, id, s.cycle, domain⟩] := by
  rw [State.ringWait, State.updHub_hub, apply_ite Hub.ringWaiting]

theorem State.ringWait_stocktake (s : State) (node id : Nat) (domain : Bool) :
    (s.ringWait node id domain).hub.stocktake = s.hub.stocktake := by
  rw [State.ringWait, State.updHub_hub, apply_ite Hub.stocktake, ite_self]

/-- A stocktake ends under the state's next number. -/
theorem State.endStocktake_result (s : State) (k : Stocktake) :
    (s.endStocktake k).hub.stocktake = some { k with result := some (s.nextId, s.stockResult k) } := State.ringWait_stocktake _ _ _ _

theorem State.endStocktake_ring (s : State) (k : Stocktake) : (s.endStocktake k).hub.ringWaiting =
    if s.hub.ringWaiting.any (fun e => e.id == s.nextId) then s.hub.ringWaiting
    else s.hub.ringWaiting ++ [⟨832, s.nextId, s.cycle, false⟩] := State.ringWait_ring _ _ _ _

/-- What O43 says of the second snapshot of a stocktake at a state. -/
def SecondSnapshot (s : State) : Prop :=
  ∀ k, s.hub.stocktake = some k → s.stopped .stocktake = false → k.result = none → k.second = true → Completes .stocktakeSnapshot s (fun t =>
    ∃ n, t.hub.stocktake = some { k with result := some (n, s.stockResult k) } ∧ (∃ e ∈ t.hub.ringWaiting, e.node = 832 ∧ e.id = n))

/-- It holds wherever no request at the order ring has the state's next number. -/
theorem secondSnapshot_of_free {s : State} (free : ∀ e ∈ s.hub.ringWaiting, e.id ≠ s.nextId) : SecondSnapshot s := by
  intro k taking runs goes second
  have unused : s.hub.ringWaiting.any (fun e => e.id == s.nextId) = false := List.any_eq_false.mpr fun e he => by simpa using free e he
  refine ⟨_, exec_stocktakeSnapshot_second taking runs goes second, s.nextId, s.endStocktake_result k, ⟨832, s.nextId, s.cycle, false⟩, ?_, rfl, rfl⟩
  rw [State.endStocktake_ring, unused]
  exact List.mem_append_right _ (List.mem_singleton.mpr rfl)

/-- A stocktake is joined, or started. -/
theorem State.startStocktake_isSome (s : State) (watchdog : Bool) (joined : List (Nat × Nat × Option Flit)) :
    (s.startStocktake watchdog joined).hub.stocktake.isSome = true := by
  unfold State.startStocktake; split <;> rfl

theorem State.startStocktake_same (s : State) (watchdog : Bool) (joined : List (Nat × Nat × Option Flit)) :
    (s.startStocktake watchdog joined).loans = s.loans ∧ (s.startStocktake watchdog joined).mem = s.mem := by
  unfold State.startStocktake; split <;> exact ⟨rfl, rfl⟩

section Watchdog
variable {s : State} {id : Nat} {l : Loan} (loan : AMap.find s.loans id = some l)
include loan

theorem watchdogExpire_starts (overrun : l.overrun s.cycle = true) (tokens : s.tokensOf id l ≠ 0) : Completes (.watchdogExpire id) s (fun t =>
    t.hub.stocktake.isSome = true ∧ AMap.find t.loans id = some { l with watchdog := true } ∧ t.mem = s.mem) := by
  have starts : exec (.watchdogExpire id) s = .next ((s.updLoan id (fun l => { l with watchdog := true })).startStocktake true []) := by
    show execWatchdogExpire id s = _
    simp only [execWatchdogExpire, loan, overrun, beq_false_of_ne tokens, Bool.not_true, Bool.or_self, Bool.false_eq_true, if_false]
  obtain ⟨loans, mem⟩ := (s.updLoan id (fun l => { l with watchdog := true })).startStocktake_same true []
  refine ⟨_, starts, State.startStocktake_isSome _ _ _, ?_, mem.trans (State.updLoan_mem _ _ _)⟩
  rw [loans, State.find_updLoan_same, loan]
  rfl

theorem exec_watchdogExpire_idle (idle : l.overrun s.cycle = false ∨ s.tokensOf id l = 0) : exec (.watchdogExpire id) s = .next s := by
  have rests : (!l.overrun s.cycle || s.tokensOf id l == 0) = true := by rcases idle with h | h <;> simp [h]
  show execWatchdogExpire id s = _
  simp only [execWatchdogExpire, loan, rests, if_true]

end Watchdog

/-! ### The obligation -/

/-- O43 comes down to its clause on the second snapshot: every other clause holds at every state. -/
theorem circulationEvents_iff : Obligations.CirculationEvents ↔ ∀ s, SecondSnapshot s := by
  constructor
  · intro h s k taking runs
    obtain ⟨-, -, -, -, stocktakes, -, -⟩ := h s
    obtain ⟨-, -, second⟩ := stocktakes k taking runs
    exact second
  · intro snapshot s
    refine ⟨fun id w l f x wait met loan running flit own token => tlwaitMet_answers wait met loan running flit own token,
      fun id x l launch loan => ⟨fun stops => ⟨_, exec_launchAccept_stopped launch stops, rfl⟩, fun bs slip runs read => ?accepts,
        fun bs reason off runs read => ⟨_, exec_launchAccept_refuses launch loan runs read, rfl⟩,
        fun runs read => launchAccept_unmapped launch loan runs read⟩,
      fun n w watch => ⟨fun passed => watchSample_passed watch passed,
        fun stands => ⟨_, (exec_watchSample watch).trans (congrArg _ (if_neg stands)), rfl⟩⟩,
      fun id a l arrival loan => ⟨fun r record counts => ⟨fun new differs => barrierArrive_mismatch arrival loan record counts new differs,
          fun fits may more => ?more, fun fits may last => ?last, fun fits live pending => ?pending⟩,
        fun free new => ⟨fun wing full => ⟨_, exec_barrierArrive_full arrival loan free new wing full, rfl⟩,
          fun room may several => barrierArrive_first arrival loan free new room may several⟩⟩,
      fun k taking runs => ⟨fun done => ⟨s, exec_stocktakeSnapshot_done taking done, rfl⟩,
        fun goes first => ⟨_, exec_stocktakeSnapshot_first taking runs goes first, rfl, State.mem_later _ _ _⟩, snapshot s k taking runs⟩,
      fun id l loan overrun tokens => watchdogExpire_starts loan overrun tokens,
      fun id l loan idle => ⟨s, exec_watchdogExpire_idle loan idle, rfl⟩⟩
    case accepts =>
      obtain ⟨v, accepted⟩ := (s.endLaunch id x).accept_reserved (if x.inhw then { slip with wing := l.slip.wing } else slip) (x.rank s)
      exact ⟨_, exec_launchAccept_accepts launch loan runs read accepted, v, accepted, rfl⟩
    case more =>
      have counted := exec_barrierArrive_record arrival loan record counts fits
      rw [State.testedArrival_counts may] at counted
      exact ⟨_, counted, State.countArrival_more record counts (Option.isSome_iff_exists.mpr ⟨l, loan⟩) more⟩
    case last =>
      have counted := exec_barrierArrive_record arrival loan record counts fits
      rw [State.testedArrival_counts may] at counted
      exact ⟨_, counted, State.countArrival_last record counts last⟩
    case pending =>
      exact ⟨_, exec_barrierArrive_record arrival loan record counts fits, State.testedArrival_waits live pending⟩

/-- A machine whose stocktake is to take its second snapshot, with a request of node 0 at the order ring under the number that is next. -/
def numberTaken : State := State.reset.updHub (fun h => { h with
  stocktake := some ⟨0, false, [], [], true, [], [], none⟩, ringWaiting := [⟨0, State.reset.nextId, 0, false⟩] })

/-- Refutes O43: the report of a stocktake waits for the order ring's token under the state's next number, and is not put there while
a request of another node has that number, which the statement does not exclude. -/
theorem not_circulationEvents : ¬ Obligations.CirculationEvents := by
  intro h
  obtain ⟨t, snapshot, n, result, e, waits, node, -⟩ := circulationEvents_iff.mp h numberTaken _ rfl rfl rfl rfl
  rw [exec_stocktakeSnapshot_second (k := ⟨0, false, [], [], true, [], [], none⟩) rfl rfl rfl rfl] at snapshot
  cases snapshot
  rw [State.endStocktake_ring] at waits
  have only : e = ⟨0, State.reset.nextId, 0, false⟩ := List.mem_singleton.mp waits
  rw [only] at node
  exact absurd node (by decide)

end Sys2Proof.Machine
end

section
/-! PROOFS. O46: iterations retire, exits are taken, loans drain and return. -/
namespace Sys2Proof.Machine

/-! ### Iterations that retire (R383) -/

/-- A change that leaves a loan there, with its iterations in flight and its commit buffer as they were. -/
structure FlightsKept (id : Nat) (s t : State) : Prop where
  kept : ∀ l, AMap.find s.loans id = some l → ∃ l', AMap.find t.loans id = some l' ∧ l'.flights = l.flights ∧ l'.commit = l.commit

theorem FlightsKept.refl {id : Nat} (s : State) : FlightsKept id s s := ⟨fun l loan => ⟨l, loan, rfl, rfl⟩⟩

theorem FlightsKept.trans {id : Nat} {s t u : State} (h : FlightsKept id s t) (k : FlightsKept id t u) : FlightsKept id s u := by
  refine ⟨fun l loan => ?_⟩
  obtain ⟨l', loan', flights, commit⟩ := h.kept l loan
  obtain ⟨l'', loan'', flights', commit'⟩ := k.kept l' loan'
  exact ⟨l'', loan'', flights'.trans flights, commit'.trans commit⟩

theorem FlightsKept.of_loans {id : Nat} {s t : State} (same : t.loans = s.loans) : FlightsKept id s t :=
  ⟨fun l loan => ⟨l, same ▸ loan, rfl, rfl⟩⟩

theorem FlightsKept.updLoan {id : Nat} (s : State) {g : Loan → Loan} (flights : ∀ l, (g l).flights = l.flights)
    (commit : ∀ l, (g l).commit = l.commit) : FlightsKept id s (s.updLoan id g) :=
  ⟨fun l loan => ⟨g l, State.find_updLoan_of_some g loan, flights l, commit l⟩⟩

theorem State.wakeWaves_flightsKept (s : State) (id : Nat) : FlightsKept id s (s.wakeWaves id) := by
  refine foldl_rel .refl (fun h k => h.trans k) _ (fun u p => ?_) _ _
  split
  · exact .of_loans rfl
  · exact .refl u

theorem State.sendStores_flightsKept (s : State) (id : Nat) (l : Loan) (g : List Store) : FlightsKept id s (s.sendStores id l g) := by
  unfold State.sendStores
  split
  · exact .refl s
  next t ts =>
    have marked : FlightsKept id s (s.updLoan id (fun l => { l with releasing := l.releasing.map (fun u =>
      if (t :: ts).contains u then { u with sent := true } else u) })) := .updLoan s (fun _ => rfl) (fun _ => rfl)
    split
    · exact marked.trans (.of_loans rfl)
    · exact marked.trans (.of_loans rfl)

/-- Retired stores on their way home: no iteration and no deferred store is touched. -/
theorem State.releaseStores_flightsKept (fuel n : Nat) (s : State) (id : Nat) : FlightsKept id s (s.releaseStores id fuel n) := by
  induction fuel generalizing n s with
  | zero => exact .refl s
  | succ fuel ih =>
    unfold State.releaseStores
    split
    · exact .refl s
    · dsimp only
      split
      · split
        · exact .refl s
        · refine .trans (.trans ?_ (State.sendStores_flightsKept _ id _ _)) (ih _ _)
          split
          · exact .refl s
          · exact .updLoan s (fun _ => rfl) (fun _ => rfl)
      · exact .refl s

theorem State.releaseStores_none {s : State} {id : Nat} {l : Loan} (fuel n : Nat) (loan : AMap.find s.loans id = some l)
    (empty : l.releasing = []) : s.releaseStores id fuel n = s := by
  cases fuel with
  | zero => rfl
  | succ fuel => simp only [State.releaseStores, loan, empty, List.filter_nil, storeGroups, nextGroup]

section Retiring
variable {s : State} {id : Nat} {l : Loan} (loan : AMap.find s.loans id = some l)
include loan

theorem iterationRetire_retires {g : Flight} (retires : l.retirable = some g) : Completes (.iterationRetire id) s (fun t =>
    ∃ l', AMap.find t.loans id = some l' ∧ l'.flights = (l.retire g).flights ∧ l'.commit = (l.retire g).commit) := by
  refine ⟨(((s.updLoan id (fun l => l.retire g)).wakeWaves id).releaseStores id 9 0), ?_, ?_⟩
  · show execIterationRetire id s = _
    simp only [execIterationRetire, loan, retires]
  · have rest := (State.wakeWaves_flightsKept (s.updLoan id (fun l => l.retire g)) id).trans (State.releaseStores_flightsKept 9 0 _ id)
    exact rest.kept _ (State.find_updLoan_of_some _ loan)

theorem exec_iterationRetire_idle (stays : l.retirable = none) (empty : l.releasing = []) : exec (.iterationRetire id) s = .next s := by
  show execIterationRetire id s = _
  simp only [execIterationRetire, loan, stays, State.releaseStores_none 9 0 loan empty]

end Retiring

/-! ### Exits (R121, R205, R384, R385) -/

/-- In these states an exit may be taken, and the drain may begin (R384). -/
theorem Loan.works_of_state {l : Loan} (works : l.state = .running ∨ l.state = .switching) :
    (l.state == .running || l.state == .switching) = true := by
  rcases works with running | switching
  · simp only [running, beq_self_eq_true, Bool.true_or]
  · simp only [switching, beq_self_eq_true, Bool.or_true]

/-- The state after an exit has been taken: the loan's, and the predictor of its first bay. -/
def State.tookExit (s : State) (id : Nat) (l : Loan) (x : Nat) : State :=
  (s.updLoan id (fun l => { l with exitTaken := some x, lastExit := x % 8 })).updBay (l.bayKey 0)
    (fun y => { y with predictor := predictTaken y.predictor (l.imageOf (x / 8)).addr (x % 8) })

/-- A loan that is ready to return. -/
def State.returning (s : State) (id : Nat) : State := s.updLoan id (fun l => { l with state := .returning })

section Exiting
variable {s : State} {id : Nat} {l : Loan} (loan : AMap.find s.loans id = some l)
include loan

theorem exec_exitTaken_takes {x : Nat} (first : l.exitTaken = none) (works : l.state = .running ∨ l.state = .switching)
    (exits : (firstExit s.cycle l.exits).map (fun e => e.2.2.2) = some x) :
    exec (.exitTaken id) s = .next ((s.tookExit id l x).later 1 (.exitDrainDone id)) := by
  obtain ⟨⟨at0, el, hnd, y⟩, taken, rfl⟩ := Option.map_eq_some_iff.mp exits
  have untaken : (l.exitTaken.isSome || !(l.state == .running || l.state == .switching)) = false := by
    rw [Loan.works_of_state works, first]; rfl
  show execExitTaken id s = _
  simp only [execExitTaken, loan, untaken, taken, Bool.false_eq_true, if_false]
  rfl

theorem exec_exitTaken_again (taken : l.exitTaken.isSome = true) : exec (.exitTaken id) s = .next s := by
  show execExitTaken id s = _
  simp only [execExitTaken, loan, taken, Bool.true_or, if_true]

theorem exec_exitDrainDone_begins (works : l.state = .running ∨ l.state = .switching) :
    exec (.exitDrainDone id) s = .next ((s.beginExit id l).later 1 (.exitDrainDone id)) := by
  show execExitDrainDone id s = _
  simp only [execExitDrainDone, loan, Loan.works_of_state works, if_true]

variable (exiting : l.state = .exiting)
include exiting

theorem exec_exitDrainDone_waits (busy : s.drained id l = false) : exec (.exitDrainDone id) s = .next (s.later 1 (.exitDrainDone id)) := by
  show execExitDrainDone id s = _
  simp [execExitDrainDone, loan, exiting, busy]

variable (done : s.drained id l = true) (own : l.byKernel = false) {n : Nat} {e : ExitEntry} (entry : l.exitEntry = some (n, e))
include done own entry

theorem exec_exitDrainDone_returns (ret : e.ret = true) :
    exec (.exitDrainDone id) s = .next ((s.returning id).later 1 (.loanReturn id)) := by
  show execExitDrainDone id s = _
  simp [execExitDrainDone, State.returning, loan, exiting, done, own, entry, ret]

theorem exec_exitDrainDone_succeeds (ret : e.ret = false) (fetched : s.prefetchesOn l e.addr = false) :
    exec (.exitDrainDone id) s = .next (s.beginSuccessor id l e.addr) := by
  show execExitDrainDone id s = _
  simp [execExitDrainDone, loan, exiting, done, own, entry, ret, fetched]

end Exiting

/-! ### Maps without a key -/

theorem AMap.find_eq_none_of_wfFrom {β : Type} {m : AMap β} {n k : Nat} (below : k < n) (wf : AMap.wfFrom n m = true) :
    AMap.find m k = none := by
  induction m generalizing n with
  | nil => rfl
  | cons p rest ih =>
    obtain ⟨a, b⟩ := p
    simp only [AMap.wfFrom, Bool.and_eq_true, decide_eq_true_eq] at wf
    obtain ⟨le, wf⟩ := wf
    rw [AMap.find, if_neg (by omega), ih (by omega) wf]

theorem AMap.find_del_same {β : Type} {m : AMap β} (k : Nat) (wf : AMap.wf m = true) : AMap.find (AMap.del m k) k = none := by
  unfold AMap.wf at wf
  generalize 0 = n at wf
  induction m generalizing n with
  | nil => rfl
  | cons p rest ih =>
    obtain ⟨a, b⟩ := p
    simp only [AMap.wfFrom, Bool.and_eq_true, decide_eq_true_eq] at wf
    unfold AMap.del
    split
    next here => exact AMap.find_eq_none_of_wfFrom (by omega) wf.2
    next other => rw [AMap.find, if_neg other, ih (a + 1) wf.2]

theorem AMap.find_del_other {β : Type} (m : AMap β) {k j : Nat} (other : j ≠ k) : AMap.find (AMap.del m k) j = AMap.find m j := by
  induction m with
  | nil => rfl
  | cons p rest ih =>
    obtain ⟨a, b⟩ := p
    unfold AMap.del
    split
    next here => rw [AMap.find, if_neg (here ▸ other.symm)]
    next => simp only [AMap.find, ih]

/-! ### Return (R386, R387) -/

/-- Whether the return of a loan makes its completion increment. -/
def Loan.completes (l : Loan) : Bool := l.slip.cmpv && l.exitTaken.isSome && !l.byKernel

/-- Whether the completion increment of a loan saturates. -/
def State.completionSaturates (s : State) (l : Loan) : Bool :=
  l.completes && decide (2 ^ 64 ≤ s.timeline l.slip.cmp.1.toNat + l.slip.cmp.2)

/-- The state after step 2 of R386. -/
def State.completed (s : State) (id : Nat) (l : Loan) : State :=
  if l.completes then s.incTimeline l.slip.cmp.1.toNat l.slip.cmp.2 { Report.of fTLSAT with loan := some id } else s

theorem State.completed_set (s : State) (id : Nat) (l : Loan) : TimelineSet s l.slip.cmp.1.toNat
    (if l.completes then min (s.timeline l.slip.cmp.1.toNat + l.slip.cmp.2) (2 ^ 64 - 1) else s.timeline l.slip.cmp.1.toNat)
    (s.completed id l) := by
  unfold State.completed
  split
  · exact s.incTimeline_set _ _ _
  · exact ⟨rfl, rfl, fun _ _ => rfl⟩

/-- The hub after a loan has returned: its reserve is free, and its record stands last in the return log. -/
def Hub.loanReturned (h : Hub) (l : Loan) (r : ReturnRec) : Hub :=
  { h.handlerDone l.slip with
    annexTaken := h.annexTaken - l.slip.annex
    returns := (h.returns ++ [r]).drop (h.returns.length + 1 - 256) }

theorem Hub.loanReturned_timelines (h : Hub) (l : Loan) (r : ReturnRec) : (h.loanReturned l r).timelines = h.timelines := by
  show (h.handlerDone l.slip).timelines = h.timelines
  unfold Hub.handlerDone
  split <;> rfl

theorem Hub.loanReturned_getLast (h : Hub) (l : Loan) (r : ReturnRec) : (h.loanReturned l r).returns.getLast? = some r := by
  unfold Hub.loanReturned
  rw [List.drop_append_of_le_length (by omega), List.getLast?_concat]

theorem State.makeResident_inNodes (s : State) (id : Nat) (l : Loan) (c : Nat) : InNodes s (s.makeResident id l c) :=
  (InNodes.foldl _ (fun _ _ => ⟨rfl⟩) l.rect.bays s).trans ⟨rfl⟩

/-- Steps 3 and 4 of R386 change the nodes of the region and the translations, take the loan away, and tell the hub. -/
theorem State.releaseLoan_frame (s : State) (id : Nat) (l : Loan) (cmpd sat : Bool) : s.releaseLoan id l cmpd sat =
    { s with
      els := (s.releaseLoan id l cmpd sat).els
      bays := (s.releaseLoan id l cmpd sat).bays
      trans := (s.releaseLoan id l cmpd sat).trans
      loans := AMap.del s.loans id
      hub := s.hub.loanReturned l (l.returnRec s.cycle cmpd sat) } := by
  have resident := InNodes.foldl (fun u c => u.makeResident id l c) (fun u c => u.makeResident_inNodes id l c) l.ctxs s
  unfold State.releaseLoan
  generalize l.ctxs.foldl (fun u c => u.makeResident id l c) s = u at resident ⊢
  rw [resident.frame]
  rfl

theorem exec_loanReturn {s : State} {id : Nat} {l : Loan} (loan : AMap.find s.loans id = some l)
    (runs : l.slip.cmpv = true → s.stopped .timelines = false) :
    exec (.loanReturn id) s = .next ((s.completed id l).releaseLoan id l l.completes (s.completionSaturates l)) := by
  have goes : (l.completes && s.stopped .timelines) = false := by
    cases completion : l.slip.cmpv with
    | true => rw [runs completion, Bool.and_false]
    | false => simp only [Loan.completes, completion, Bool.false_and]
  show execLoanReturn id s = _
  unfold Loan.completes at goes
  simp only [execLoanReturn, loan, goes, Bool.false_eq_true, if_false]
  rfl

/-- The return of a loan, step by step (R386). -/
theorem loanReturn_returns {s : State} {id : Nat} {l : Loan} (loan : AMap.find s.loans id = some l)
    (runs : l.slip.cmpv = true → s.stopped .timelines = false) (wf : AMap.wf s.loans = true) : Completes (.loanReturn id) s (fun t =>
      AMap.find t.loans id = none ∧ (∀ k, k ≠ id → (AMap.find t.loans k).isSome = (AMap.find s.loans k).isSome) ∧
      t.timeline l.slip.cmp.1.toNat = (if l.completes then min (s.timeline l.slip.cmp.1.toNat + l.slip.cmp.2) (2 ^ 64 - 1)
        else s.timeline l.slip.cmp.1.toNat) ∧
      t.hub.returns.getLast? = some (l.returnRec s.cycle l.completes (s.completionSaturates l)) ∧ t.tmem = s.tmem) := by
  have completion := s.completed_set id l
  refine ⟨_, exec_loanReturn loan runs, ?_⟩
  generalize s.completed id l = u at completion ⊢
  have loans : u.loans = s.loans := by rw [completion.frame]
  have cycle : u.cycle = s.cycle := by rw [completion.frame]
  have tmem : u.tmem = s.tmem := by rw [completion.frame]
  rw [State.releaseLoan_frame]
  refine ⟨?gone, fun k other => ?others, ?timeline, ?record, tmem⟩
  case gone => exact loans ▸ AMap.find_del_same id wf
  case others => exact congrArg Option.isSome ((AMap.find_del_other _ other).trans (by rw [loans]))
  case timeline =>
    refine Eq.trans ?_ completion.same
    unfold State.timeline
    rw [Hub.loanReturned_timelines]
  case record => exact cycle ▸ Hub.loanReturned_getLast _ _ _

/-! ### The obligation -/

/-- Settles O46: each clause is the case of its step above. -/
theorem retirementAndReturn : Obligations.RetirementAndReturn := by
  intro s id l loan
  refine ⟨fun g retires => iterationRetire_retires loan retires, fun stays empty => ⟨s, exec_iterationRetire_idle loan stays empty, rfl⟩,
    fun x first works exits => ⟨_, exec_exitTaken_takes loan first works exits, ?taken, ?drains, ?predicted, ?mem⟩,
    fun taken => ⟨s, exec_exitTaken_again loan taken, rfl⟩, fun works => ⟨_, exec_exitDrainDone_begins loan works, rfl⟩,
    fun exiting busy => ⟨_, exec_exitDrainDone_waits loan exiting busy, rfl⟩,
    fun exiting done own n e entry => ⟨fun ret => ⟨_, exec_exitDrainDone_returns loan exiting done own entry ret, ?returning, ?due⟩,
      fun ret fetched => ⟨_, exec_exitDrainDone_succeeds loan exiting done own entry ret fetched, rfl⟩⟩,
    fun runs wf => loanReturn_returns loan runs wf⟩
  case taken => exact State.find_updLoan_of_some _ loan
  case drains =>
    have listed := State.mem_later (s.tookExit id l x) 1 (.exitDrainDone id)
    rwa [State.tookExit, State.updBay_cycle, State.updLoan_cycle] at listed
  case predicted =>
    show ((s.tookExit id l x).bay (l.bayKey 0)).predictor = _
    rw [State.tookExit, State.bay_updBay_same, State.bay, State.updLoan_bays, ← State.bay]
  case mem => exact State.updLoan_mem _ _ _
  case returning => exact State.find_updLoan_of_some _ loan
  case due =>
    have listed := State.mem_later (s.returning id) 1 (.loanReturn id)
    rwa [State.returning, State.updLoan_cycle] at listed

end Sys2Proof.Machine
end

section
/-! PROOFS. O51: the order of a step. -/
namespace Sys2Proof.Machine

/-! ### What the outside does -/

theorem step_input {s : State} {i : Instr} {rest : List Instr} (inputs : s.inputs = i :: rest) :
    step s = exec (nextInput i rest).1 { s with inputs := (nextInput i rest).2 } := by
  simp only [step, stepWith, inputs]

/-- Only a host's operation on a timeline may have to wait for another input (R100). -/
theorem nextInput_first {i : Instr} (rest : List Instr) (other : ∀ n v, i ≠ .hostTimelineIncrement n v) : nextInput i rest = (i, rest) := by
  unfold nextInput
  split
  next n v => exact absurd rfl (other n v)
  next => rfl

/-! ### Colophons (R366, R367, R370) -/

section Decoded
variable {s : State} {b : Nat}

theorem colophonStep_decoded {i : Instr} (word : decodeColophon (AMap.get (s.bay b).colophon.program 0 (s.bay b).colophon.pc) = .ok i) :
    colophonStep exec b s = exec i { s with focus := { s.focus with bay := b } } := by
  simp only [colophonStep, word]

theorem colophonStep_refused {e : ColReject} (word : decodeColophon (AMap.get (s.bay b).colophon.program 0 (s.bay b).colophon.pc) = .error e) :
    colophonStep exec b s = .next (s.updBay b (fun y => { y with colophon := y.colophon.errorHalt e.code })) := by
  simp only [colophonStep, word]

end Decoded

/-! ### The firings of a cycle (R126) -/

theorem State.choosing_again {s : State} {xs : List Choice} (chosen : s.chosen = some xs) : s.choosing exec = (s, xs) := by
  simp only [State.choosing, chosen]

theorem State.choosing_fresh {s : State} (fresh : s.chosen = none) : (s.choosing exec).2 = chooseFirings exec s := by
  simp only [State.choosing, fresh]

theorem fireOrTick_ends {s : State} (none : (s.choosing exec).2 = []) : fireOrTick exec s = .next (tick (s.choosing exec).1) := by
  simp only [fireOrTick, none]

section Firing
variable {s : State} {x : Choice} {rest : List Choice} {i : Instr} (first : (s.choosing exec).2 = x :: rest)
  (word : decodeHandler (AMap.get (((s.choosing exec).1.el x.el).ctx x.ctx).handlers nopWord x.hnd) = .ok i)
include first word

theorem fireOrTick_fires (free : (s.choosing exec).1.breaksAt x.el x.ctx x.hnd = false) :
    fireOrTick exec s = exec i (prepareFiring { (s.choosing exec).1 with chosen := some rest } x) := by
  simp only [fireOrTick, first, handlerInstr, word, Except.toOption, free, Bool.false_eq_true, if_false]

theorem fireOrTick_breaks (breaks : (s.choosing exec).1.breaksAt x.el x.ctx x.hnd = true) :
    fireOrTick exec s = .next ({ (s.choosing exec).1 with chosen := some (x :: rest) }.stopBefore x.el x.ctx x.hnd) := by
  simp only [fireOrTick, first, handlerInstr, word, Except.toOption, breaks, if_true]

end Firing

/-! ### A step without inputs -/

section Inside
variable {s : State} (quiet : s.inputs = [])
include quiet

theorem step_stopped (stopped : s.glaed.stopped = true) : step s = .next s := by
  simp only [step, stepWith, quiet, stopped, if_true]

variable (runs : s.glaed.stopped = false)
include runs

theorem step_colophon {b : Nat} (ready : readyColophon s = some b) : step s = colophonStep exec b s := by
  simp only [step, stepWith, quiet, runs, ready, Bool.false_eq_true, if_false]

variable (idle : readyColophon s = none)
include idle

theorem step_due {at0 : Nat} {i : Instr} {rest : List (Nat × Instr)} (head : s.agenda = (at0, i) :: rest) (due : at0 ≤ s.cycle) :
    step s = exec i { s with agenda := rest } := by
  simp only [step, stepWith, quiet, runs, idle, head, due, Bool.false_eq_true, if_false, if_true]

theorem step_fireOrTick (later : ∀ p ∈ s.agenda.head?, s.cycle < p.1) : step s = fireOrTick exec s := by
  cases head : s.agenda with
  | nil => simp only [step, stepWith, quiet, runs, idle, head, Bool.false_eq_true, if_false]
  | cons p rest =>
    have notDue : ¬ p.1 ≤ s.cycle := Nat.not_le.mpr (later p (by rw [head]; rfl))
    simp only [step, stepWith, quiet, runs, idle, head, notDue, Bool.false_eq_true, if_false]

end Inside

/-- Settles O51: each clause is the branch of the step above. -/
theorem stepRuns : Obligations.StepRuns := by
  intro s
  refine ⟨fun i rest inputs => step_input inputs, fun i rest inputs other => ?_, fun quiet stopped => step_stopped quiet stopped,
    fun quiet runs => ⟨fun b ready => ⟨fun i word => ?_, fun e word => ?_⟩,
      fun idle at0 i rest head due => step_due quiet runs idle head due,
      fun idle later => ⟨State.choosing_fresh, fun xs => State.choosing_again, fun x rest i first word => ⟨fun free => ?_, fun breaks => ?_⟩,
        fun none => ?_⟩⟩⟩
  · rw [step_input inputs, nextInput_first rest other]
  · rw [step_colophon quiet runs ready, colophonStep_decoded word]
  · refine ⟨_, (step_colophon quiet runs ready).trans (colophonStep_refused word), ?_⟩
    rw [State.bay_updBay_same]
    exact ⟨rfl, rfl, rfl, rfl⟩
  · rw [step_fireOrTick quiet runs idle later, fireOrTick_fires first word free]
  · rw [step_fireOrTick quiet runs idle later, fireOrTick_breaks first word breaks]
  · rw [step_fireOrTick quiet runs idle later, fireOrTick_ends none]

end Sys2Proof.Machine
end

section
/-! PROOFS. O59: an instruction of an element that reaches no memory stays within the fabric and the hub. -/
namespace Sys2Proof.Machine

/-- Where an outcome is a next state, that state stays within the fabric and the hub. -/
def StaysWithin (s : State) (o : Host.Outcome State Fault Refusal) : Prop := ∀ t, o = .next t → Within s t

/-! ### The ways to fire -/

theorem fireFrom_staysWithin (sh : Shape) (gath : State → FireCtx → Gather) (perform : FireCtx → Got → Option Eff)
    {after : FireCtx → Got → State → State} (beyond : ∀ f g u, Within u (after f g u)) (s : State) :
    StaysWithin s (fireFrom sh gath perform after s) := fun _ => fireFrom_within beyond

theorem fire_staysWithin (sh : Shape) (perform : FireCtx → Got → Option Eff) {after : FireCtx → Got → State → State}
    (beyond : ∀ f g u, Within u (after f g u)) (s : State) : StaysWithin s (fire sh perform after s) :=
  fireFrom_staysWithin _ _ _ beyond s

/-- A firing that does nothing beyond its element. -/
theorem fire_noAfter_staysWithin (sh : Shape) (perform : FireCtx → Got → Option Eff) (s : State) :
    StaysWithin s (fire sh perform noAfter s) := fire_staysWithin _ _ noAfter_within s

theorem fireValue_staysWithin (sh : Shape) (compute : Got → W32 × Flags) (s : State) : StaysWithin s (fireValue sh compute s) :=
  fire_noAfter_staysWithin _ _ s

theorem firePlain_staysWithin (sh : Shape) (compute : Got → W32) (s : State) : StaysWithin s (firePlain sh compute s) :=
  fireValue_staysWithin _ _ s

theorem fireDraws_staysWithin (sh : Shape) (mode n : Nat) (compute : Got → List Nat → W32 × Flags) (s : State) :
    StaysWithin s (fireDraws sh mode n compute s) := fire_noAfter_staysWithin _ _ s

theorem fireAcc_staysWithin (h : Hdr) (b : FI) (lat : Nat) (op : W32 → W32 → W32 × Flags) (s : State) :
    StaysWithin s (fireAcc h b lat op s) := fire_noAfter_staysWithin _ _ s

/-! ### What a firing does beyond its element (R192, R199, R202, R203, R209) -/

theorem passOwn_within (f : FireCtx) (g : Got) (s : State) : Within s (passOwn f g s) := by
  unfold passOwn
  split
  · exact Within.refl s
  · exact State.updLoan_within s _ _

theorem execLoopout_staysWithin (h : Hdr) (b : FD) (s : State) : StaysWithin s (execLoopout h b s) :=
  fire_staysWithin _ _ (fun _ _ u => State.updLoan_within u _ _) s

theorem execCallf_staysWithin (h : Hdr) (b : FI) (s : State) : StaysWithin s (execCallf h b s) := by
  refine fire_staysWithin _ _ (fun f g u => ?_) s
  split
  · split
    · split
      · exact State.startTriggers_within u _ _ _
      · exact Within.refl u
    · exact Within.refl u
  · exact Within.refl u

theorem execRetf_staysWithin (h : Hdr) (b : FD) (s : State) : StaysWithin s (execRetf h b s) :=
  fire_staysWithin _ _ (fun _ _ u => State.releaseFrame_within u _ _ _) s

theorem execOrdred_staysWithin (h : Hdr) (b : FI) (s : State) : StaysWithin s (execOrdred h b s) :=
  fire_staysWithin _ _ (fun f g u => (State.updLoan_within u _ _).trans' (passOwn_within f g _)) s

/-! ### Every instruction that reaches no memory -/

theorem exec_handler_staysWithin {i : Instr} {v : Handler} (view : handlerView i = some v) (low : v.op.toNat < 0x6A) (s : State) :
    StaysWithin s (exec i s) := by
  cases i <;> simp only [handlerView, reduceCtorEq] at view <;> obtain rfl := Option.some.inj view <;> dsimp only [exec] at low ⊢
  case iadd | isub | imul | imulh | imad | ineg | iabs | imin | imax | iadds | isubs | icmp | and | or | xor | andn | not | shl |
      shr | shra | rotl | clz | popc | brev | bfx | bfi | lea | cellhash | iclamp | mov | movi | movhi | sel | const | gate |
      prime =>
    exact firePlain_staysWithin _ _ s
  case cellkey | fadd | fsub | fmul | ffma | fmin | fmax | fabs | fneg | fcmp | frcp | frsq | fexp2 | flog2 | fsqrt | fscale |
      fclass | fdot2 | qunpk =>
    exact fireValue_staysWithin _ _ s
  case fround | fcvt | ftoi | itof | qpack =>
    exact fireDraws_staysWithin _ _ _ _ s
  case iaddc | nbrkey | seed | sink | getw | setw | live | islive | count | stride | steer | steerx | next | bound | tagrd | tagwr |
      exit | ends | accrd | accz | xacc | xrnd | cfwd | cfwdx =>
    exact fire_noAfter_staysWithin _ _ s
  case accadd | accmax | accscl =>
    exact fireAcc_staysWithin _ _ _ _ s
  case merge =>
    exact fireFrom_staysWithin _ _ _ noAfter_within s
  case loopin =>
    unfold execLoopin
    exact fireFrom_staysWithin _ _ _ noAfter_within s
  case mergeo =>
    exact fireFrom_staysWithin _ _ _ passOwn_within s
  case loopout =>
    exact execLoopout_staysWithin _ _ s
  case callf =>
    exact execCallf_staysWithin _ _ s
  case retf =>
    exact execRetf_staysWithin _ _ s
  case ordred =>
    exact execOrdred_staysWithin _ _ s
  case slog | sread | mxcfg | mxstep | mxfade | mxscl | mxdrn | mxpass | mxldacc | ld | st | lds | sts | ldq | stq | pref | fence |
      aadd | afadd | amin | amax | axchg | acas | abit | aincb | sendc | sendm | creq | cgrp | darm | dfire | dlay | dstat | dcan |
      tlinc | tlwait | tlrd | barr | launch | tlset | stock | evwatch | trap | brk | prio | ccall | cret | resume | park | fltrd |
      perfrd | timerd | scanout | scanin | cflush =>
    exact absurd low (by decide)

/-- Settles O59: the eleven fields are those of `Within`. -/
theorem elementFrame : Obligations.ElementFrame := by
  intro i v s t view low next
  obtain ⟨mem, tmem, eccBad, xch, outgoing, trans, boot, snaps, glaed, cycle, inputs⟩ := exec_handler_staysWithin view low s t next
  exact ⟨mem, tmem, eccBad, xch, outgoing, trans, boot, snaps, glaed, cycle, inputs⟩

end Sys2Proof.Machine
end

section
/-! PROOFS. O36: frames spilled and refilled. -/
namespace Sys2Proof.Machine

/-! ### A spill begins and ends (R137, R298) -/

/-- The state after a spill of a frame has begun in the room that its loan has taken, its end due. -/
def State.spillBegun (s : State) (id : Nat) (v : Nat × Frame) (far : List Nat) (l : Loan) (next : Instr) : State :=
  ({ s with
    loans := AMap.put s.loans id { l with
      frames := AMap.put l.frames v.1 { v.2 with spillPlace := some far, spillEnd := s.cycle + spillCycles v.2 }
      spills := l.spills + 1 }
    els := s.els.map (fun (p : Nat × Element) => (p.1, p.2.countFor id 5)) }).later (spillCycles v.2) next

theorem State.beginSpill_takes {s : State} {id : Nat} {l l' : Loan} {v : Nat × Frame} {far : List Nat} (waits : Option (Report × List Nat))
    (next : Instr) (loan : AMap.find s.loans id = some l) (room : l.annexTake (frameBytes v.2.nslot) = some (far, l')) :
    s.beginSpill id v waits next = s.spillBegun id v far l' next := by
  simp only [State.beginSpill, loan, room]
  rfl

section Spilling
variable {s : State} {id : Nat} {l : Loan} (loan : AMap.find s.loans id = some l)
include loan

theorem exec_frameSpill_begins {v : Nat × Frame} {far : List Nat} {l' : Loan} (idle : l.frames.any (fun p => p.2.spilling) = false)
    (victim : spillVictim s id l 0 = some v) (room : l.annexTake (frameBytes v.2.nslot) = some (far, l')) :
    exec (.frameSpill id) s = .next (s.spillBegun id v far l' (.frameSpill id)) := by
  show execFrameSpill id s = _
  simp only [execFrameSpill, loan, idle, victim, Bool.false_eq_true, if_false, State.beginSpill_takes _ _ loan room]

theorem exec_frameSpill_ends (spilling : l.frames.any (fun p => p.2.spilling) = true) :
    exec (.frameSpill id) s = .next (s.updLoan id (fun l => endSpills l s.cycle)) := by
  show execFrameSpill id s = _
  simp only [execFrameSpill, loan, spilling, if_true]

end Spilling

/-! ### A refill waits, begins and ends (R299) -/

theorem Loan.annexGive_frames (l : Loan) (far : List Nat) (n : Nat) : (l.annexGive far n).frames = l.frames := rfl

/-- The loan after its spills that have run their course, in the state in which a refill finds it. -/
abbrev State.spillsEnded (s : State) (id : Nat) : State := s.updLoan id (fun l => endSpills l s.cycle)

/-- A frame that the refill has placed, and one that it has brought back. -/
def Frame.placedAt (fr : Frame) (o : Nat) : Frame := { fr with spilled := false, refilling := true, offset := o }
@[inherit_doc Frame.placedAt] def Frame.refilled (fr : Frame) (now : Nat) : Frame :=
  { fr with refilling := false, touched := now, spillPlace := none }

section Refilling
variable {s : State} {id f : Nat} {l : Loan} {fr : Frame} (loan : AMap.find s.loans id = some l)
  (there : AMap.find (endSpills l s.cycle).frames f = some fr)
include loan there

theorem exec_frameRefill_ends (refilling : fr.refilling = true) : exec (.frameRefill id f) s = .next { s.spillsEnded id with
    loans := AMap.put (s.spillsEnded id).loans id ({ endSpills l s.cycle with
      frames := AMap.put (endSpills l s.cycle).frames f (fr.refilled s.cycle) }.annexGive (fr.spillPlace.getD []) (frameBytes fr.nslot)) } := by
  have ended := State.find_updLoan_of_some (fun l => endSpills l s.cycle) loan
  show execFrameRefill id f s = _
  simp only [execFrameRefill, ended, there, refilling, if_true, State.updLoan_cycle]
  rfl

variable (rests : fr.refilling = false) (spilled : fr.spilled = true)
include rests spilled

theorem exec_frameRefill_waits (spilling : (endSpills l s.cycle).frames.any (fun p => p.2.spilling) = true) :
    exec (.frameRefill id f) s = .next ((s.spillsEnded id).later 1 (.frameRefill id f)) := by
  have ended := State.find_updLoan_of_some (fun l => endSpills l s.cycle) loan
  show execFrameRefill id f s = _
  simp only [execFrameRefill, ended, there, rests, spilled, spilling, Bool.not_true, Bool.false_eq_true, if_false, if_true]

theorem exec_frameRefill_begins {o : Nat} (idle : (endSpills l s.cycle).frames.any (fun p => p.2.spilling) = false)
    (place : (endSpills l s.cycle).refillPlace fr = some o) : exec (.frameRefill id f) s = .next ({ s.spillsEnded id with
      loans := AMap.put (s.spillsEnded id).loans id { endSpills l s.cycle with
        frames := AMap.put (endSpills l s.cycle).frames f (fr.placedAt o) } }.later (spillCycles fr) (.frameRefill id f)) := by
  have ended := State.find_updLoan_of_some (fun l => endSpills l s.cycle) loan
  show execFrameRefill id f s = _
  simp only [execFrameRefill, ended, there, rests, spilled, idle, place, Bool.not_true, Bool.false_eq_true, if_false]
  rfl

end Refilling

theorem State.mem_later_updLoan (s : State) (id : Nat) (g : Loan → Loan) (m : AMap Loan) (d : Nat) (i : Instr) :
    (s.cycle + d, i) ∈ ({ s.updLoan id g with loans := m }.later d i).agenda := by
  have listed := State.mem_later { s.updLoan id g with loans := m } d i
  rwa [show State.cycle { s.updLoan id g with loans := m } = s.cycle from State.updLoan_cycle _ _ _] at listed

/-- Settles O36: a spill that begins and one that ends; a refill that waits for a spill, one that finds a place, and one that ends. -/
theorem spillsAndRefills : Obligations.SpillsAndRefills := by
  intro s id l loan
  refine ⟨fun v far l' idle victim room => ⟨_, exec_frameSpill_begins loan idle victim room, AMap.find_put_same _ _ _,
      State.mem_later _ _ _, rfl, rfl⟩,
    fun spilling => ⟨_, exec_frameSpill_ends loan spilling, State.find_updLoan_of_some _ loan, ?ends⟩,
    fun f fr there rests spilled spilling => ⟨_, exec_frameRefill_waits loan there rests spilled spilling,
      State.find_updLoan_of_some _ loan, State.mem_later_updLoan s id _ _ _ _⟩,
    fun f fr o there rests spilled idle place => ⟨_, exec_frameRefill_begins loan there rests spilled idle place,
      _, AMap.find_put_same _ _ _, AMap.find_put_same _ _ _, State.mem_later_updLoan s id _ _ _ _⟩,
    fun f fr there refilling => ⟨_, exec_frameRefill_ends loan there refilling, _, AMap.find_put_same _ _ _, ?refilled⟩⟩
  case ends =>
    obtain ⟨ls, -, eq⟩ := updLoan_eq s id (fun l => endSpills l s.cycle)
    rw [eq]
  case refilled =>
    rw [Loan.annexGive_frames]
    exact AMap.find_put_same _ _ _

end Sys2Proof.Machine
end

section
/-! PROOFS. O34: the result of a firing is written. -/
namespace Sys2Proof.Machine

/-! ### Emissions that enter an output buffer (R127) -/

theorem State.latchBlock_frame (s : State) (n : Nat) : s.latchBlock n = { s with accs := (s.latchBlock n).accs } := by
  unfold State.latchBlock
  split
  · rfl
  · split <;> rfl

/-- An element with one more emission in an output buffer. -/
def Element.entered (e : Element) (x : Nat × Flit) : Element := { e with out := AMap.upd e.out [] x.1 (· ++ [x.2]) }

theorem Element.entered_out (e : Element) (x : Nat × Flit) (b : Nat) :
    AMap.get (e.entered x).out [] b = AMap.get e.out [] b ++ ([x].filter (fun y => y.1 == b)).map Prod.snd := by
  by_cases here : x.1 = b
  · subst here
    rw [List.filter_cons_of_pos (by simp)]
    exact AMap.get_upd_same e.out [] x.1 (· ++ [x.2])
  · rw [List.filter_cons_of_neg (by simp [here]), List.filter_nil, List.map_nil, List.append_nil]
    exact AMap.get_upd_other e.out [] (· ++ [x.2]) (Ne.symm here)

/-- An emission that passes an output buffer enters it behind what stands there; its next stage is due. -/
theorem State.emitFlit_buffered (s : State) (key index : Nat) {x : Nat × Flit} (buffered : x.2.emit.buffered = true) :
    ∃ a c, s.emitFlit key index x.1 x.2 = { s.updEl key (fun e => e.entered x) with agenda := a, accs := c } := by
  obtain ⟨buf, loan, emit, iters⟩ := x
  cases emit <;> simp only [Emit.buffered, Bool.false_eq_true] at buffered
  case token t =>
    unfold State.emitFlit
    dsimp only
    split <;> exact ⟨_, _, rfl⟩
  case slotWrite => exact ⟨_, _, rfl⟩
  case request n =>
    unfold State.emitFlit
    dsimp only
    rw [State.latchBlock_frame]
    exact ⟨_, _, rfl⟩

/-- Emissions have entered the output buffers of an element in order: each buffer holds its own behind what stood there, and nothing else
has changed but what is due and the requests that are on their way. -/
structure Buffered (el : Nat) (es : List (Nat × Flit)) (s t : State) : Prop where
  out : ∀ b, AMap.get (t.el el).out [] b = AMap.get (s.el el).out [] b ++ (es.filter (fun x => x.1 == b)).map Prod.snd
  element : t.el el = { s.el el with out := (t.el el).out }
  others : ∀ k, k ≠ el → t.el k = s.el k
  frame : t = { s with els := t.els, agenda := t.agenda, accs := t.accs }

theorem Buffered.nil (el : Nat) (s : State) : Buffered el [] s s :=
  ⟨fun b => by rw [List.filter_nil, List.map_nil, List.append_nil], rfl, fun _ _ => rfl, rfl⟩

theorem Buffered.append {el : Nat} {es fs : List (Nat × Flit)} {s t u : State} (h : Buffered el es s t) (k : Buffered el fs t u) :
    Buffered el (es ++ fs) s u := by
  refine ⟨fun b => ?_, ?_, fun j other => (k.others j other).trans (h.others j other), ?_⟩
  · rw [k.out, h.out, List.filter_append, List.map_append, List.append_assoc]
  · rw [k.element, h.element]
  · rw [k.frame, h.frame]

theorem State.emitFlit_enters (s : State) (el index : Nat) (x : Nat × Flit) (buffered : x.2.emit.buffered = true) :
    Buffered el [x] s (s.emitFlit el index x.1 x.2) := by
  obtain ⟨a, c, eq⟩ := s.emitFlit_buffered el index buffered
  rw [eq]
  have same : (s.updEl el (fun e => e.entered x)).el el = (s.el el).entered x := State.el_updEl_same s el _
  exact ⟨fun b => (congrArg (fun e => AMap.get e.out [] b) same).trans (Element.entered_out _ x b),
    same.trans (congrArg (fun e => { s.el el with out := e.out }) same.symm), fun k other => State.el_updEl_other s (fun e => e.entered x) other, rfl⟩

theorem foldl_emitFlit_buffered (el index : Nat) (es : List (Nat × Flit)) (buffered : ∀ x ∈ es, x.2.emit.buffered = true) (s : State) :
    Buffered el es s (es.foldl (fun u x => u.emitFlit el index x.1 x.2) s) := by
  induction es generalizing s with
  | nil => exact .nil el s
  | cons x es ih =>
    have first := s.emitFlit_enters el index x (buffered x List.mem_cons_self)
    exact first.append (ih (fun y later => buffered y (List.mem_cons_of_mem x later)) _)

/-! ### The element (R207) -/

/-- Of several writes of one place the last counts. -/
theorem AMap.get_foldl_put {β : Type} (m : AMap β) (d : β) (ws : List (Nat × β)) (n : Nat) :
    AMap.get (ws.foldl (fun m w => AMap.put m w.1 w.2) m) d n =
      (ws.reverse.find? (fun w => w.1 == n)).elim (AMap.get m d n) Prod.snd := by
  induction ws using List.reverseRecOn with
  | nil => rfl
  | append_singleton ws w ih =>
    rw [List.foldl_append, List.reverse_concat, List.find?_cons, List.foldl_cons, List.foldl_nil]
    by_cases here : w.1 = n
    · subst here
      rw [AMap.get_put_same, beq_self_eq_true, Option.elim_some]
    · rw [AMap.get_put_other _ _ _ (Ne.symm here), ih, beq_false_of_ne here]

/-- A context whose accumulators a firing's result has written. -/
def ElCtx.wrote (x : ElCtx) (p : Pending) : ElCtx := { x with
  acc := p.accW.foldl (fun m w => AMap.put m w.1 w.2) x.acc
  badAcc := x.badAcc.filter (fun n => !p.accW.any (fun w => w.1 == n))
  emitting := if p.last then AMap.del x.emitting p.hnd else x.emitting }

/-- An element whose pipeline a firing's result has left, which gives up the entries reserved for it. -/
def Element.leftPipeline (e : Element) (id : Nat) (p : Pending) : Element := { e with
  pending := e.pending.filter (fun q => q.id != id)
  reserved := if p.held then (p.emits.map Prod.fst).foldl (fun m b => AMap.upd m 0 b (· - 1)) e.reserved else e.reserved }

/-- An element at which a firing's result is written: its accumulators only while the firing's loan still holds the context. -/
def Element.wrote (e : Element) (id : Nat) (p : Pending) : Element :=
  if (e.ctx p.ctx).loan == some p.loan then (e.leftPipeline id p).updCtx p.ctx (fun x => x.wrote p) else e.leftPipeline id p

@[simp] theorem Element.wrote_out (e : Element) (id : Nat) (p : Pending) : (e.wrote id p).out = e.out := by
  unfold Element.wrote
  split <;> rfl

@[simp] theorem Element.wrote_pending (e : Element) (id : Nat) (p : Pending) :
    (e.wrote id p).pending = e.pending.filter (fun q => q.id != id) := by
  unfold Element.wrote
  split <;> rfl

theorem Element.wrote_acc {e : Element} {p : Pending} (id : Nat) (ours : (e.ctx p.ctx).loan = some p.loan) :
    ((e.wrote id p).ctx p.ctx).acc = p.accW.foldl (fun m w => AMap.put m w.1 w.2) (e.ctx p.ctx).acc := by
  rw [Element.wrote, ours, beq_self_eq_true, if_pos rfl, Element.ctx_updCtx_same]
  rfl

/-! ### The step (R127, R303, R328) -/

/-- The post of a firing's result, if it makes one, on its way from the element at an index. -/
def State.postOf (s : State) (p : Pending) (index : Nat) : State := match p.post with
  | some q => s.sendPost p.loan p.ctx index p.hnd q
  | none => s

theorem State.postOf_asks (s : State) (p : Pending) (index : Nat) : Asks s (s.postOf p index) := by
  unfold State.postOf State.sendPost
  split
  · split <;> exact ⟨rfl⟩
  · exact ⟨rfl⟩

theorem State.mem_postOf {s : State} {p : Pending} {q : Post} {l : Loan} (index : Nat) (post : p.post = some q)
    (loan : AMap.find s.loans p.loan = some l) :
    (s.cycle + (l.hops (index / 128) + 1), Instr.sqPostArrive p.loan ⟨q.sq, p.ctx, q.tag, index, p.hnd, q.prior⟩) ∈ (s.postOf p index).agenda := by
  simp only [State.postOf, post, State.sendPost, loan]
  exact State.mem_later _ _ _

section Writing
variable {s : State} {el id : Nat} {p : Pending} (found : (s.el el).pending.find? (fun q => q.id == id) = some p)
include found

theorem exec_firingResultWrite_full (late : p.held = false) (full : roomFor s.cycle (s.el el) (p.emits.map Prod.fst) = false) :
    exec (.firingResultWrite el id) s = .next (s.later 1 (.firingResultWrite el id)) := by
  show execFiringResultWrite el id s = _
  simp only [execFiringResultWrite, found, late, full, Bool.not_false, Bool.true_or, Bool.and_self, if_true]

theorem exec_firingResultWrite_fence (holds : s.ringHolds id = true) :
    exec (.firingResultWrite el id) s = .next (s.later 1 (.firingResultWrite el id)) := by
  show execFiringResultWrite el id s = _
  simp only [execFiringResultWrite, found, holds, Bool.or_true, if_true]

theorem exec_firingResultWrite_writes (held : p.held = true) (port : s.captureWaits p = false) (ring : s.ringHolds id = false) :
    exec (.firingResultWrite el id) s =
      .next ((p.emits.foldl (fun u x => u.emitFlit el ((s.el el).ctx p.ctx).logical x.1 x.2) (s.updEl el (fun _ => (s.el el).wrote id p))).postOf p
        ((s.el el).ctx p.ctx).logical) := by
  show execFiringResultWrite el id s = _
  have goes : ((!p.held && (!roomFor s.cycle (s.el el) (p.emits.map Prod.fst) || p.waitsFor (s.el el))) || s.captureWaits p ||
      s.ringHolds id) = false := by
    rw [held, port, ring]
    rfl
  simp only [execFiringResultWrite, found, goes, Bool.false_eq_true, if_false]
  rfl

end Writing

/-- Settles O34: what the result's emissions leave (`Buffered`), after the element's own part, and before the post. -/
theorem resultWrites : Obligations.ResultWrites := by
  intro s el id p found
  refine ⟨fun held port ring buffered => ⟨_, exec_firingResultWrite_writes found held port ring, ?_⟩,
    fun late full => ⟨_, exec_firingResultWrite_full found late full, rfl⟩,
    fun holds => ⟨_, exec_firingResultWrite_fence found holds, rfl⟩⟩
  set e := s.el el
  have own : (s.updEl el (fun _ => e.wrote id p)).el el = e.wrote id p := State.el_updEl_same s el _
  have sent := foldl_emitFlit_buffered el (e.ctx p.ctx).logical p.emits buffered (s.updEl el (fun _ => e.wrote id p))
  generalize p.emits.foldl (fun u x => u.emitFlit el (e.ctx p.ctx).logical x.1 x.2) (s.updEl el (fun _ => e.wrote id p)) = u at sent
  obtain ⟨out, element, others, frame⟩ := sent
  have asks := (u.postOf_asks p (e.ctx p.ctx).logical).frame
  have els : ∀ k, (u.postOf p (e.ctx p.ctx).logical).el k = u.el k := fun k => by rw [asks]; rfl
  have cycle : u.cycle = s.cycle := by rw [frame]; rfl
  have loans : u.loans = s.loans := by rw [frame]; rfl
  refine ⟨fun b => ?out, fun ours n => ?acc, ?pending, fun l q post loan => ?post, fun k other => ?others, ?frame⟩
  case out => rw [els, out, own, Element.wrote_out]
  case acc =>
    rw [els, element, own]
    refine (congrArg (fun m => AMap.get m 0 n) (Element.wrote_acc id ours)).trans ((AMap.get_foldl_put _ 0 p.accW n).trans ?_)
    cases p.accW.reverse.find? (fun w => w.1 == n) <;> rfl
  case pending => rw [els, element, own]; exact Element.wrote_pending e id p
  case post =>
    have listed := State.mem_postOf (e.ctx p.ctx).logical post (loans ▸ loan)
    rwa [cycle, ← Nat.add_assoc] at listed
  case others => rw [els, others k other]; exact State.el_updEl_other s _ other
  case frame => rw [asks, frame]; rfl

end Sys2Proof.Machine
end

section
/-! PROOFS. O7: rounding, conversions and packing with their random draws, and `SEED`. -/
namespace Sys2Proof.Machine

/-- A firing that computes a value has that value, with its flags, as its effect. -/
theorem Computes.of_fireValue {i : Instr} {sh : Shape} {compute : Got → W32 × Flags} (he : ∀ s, exec i s = fireValue sh compute s) :
    Computes i sh (fun _ g => compute g) :=
  fun s => FiresAt.intro (fun f g => some (valueEff f g (toAll sh (compute g).1) (compute g).2)) (he s) fun _ _ _ _ => rfl

/-- A firing that may draw moves the random state on exactly where its draws are made (R151). -/
theorem Draws.of_fireDraws {i : Instr} {sh : Shape} {mode n : Nat} {compute : Got → List Nat → W32 × Flags}
    (he : ∀ s, exec i s = fireDraws sh mode n compute s) : Draws i sh mode n (fun _ g rs => compute g rs) :=
  fun s => FiresAt.intro (fun f g =>
    let d := randomDraws n f.e.random
    some { valueEff f g (toAll sh (compute g d.1).1) (compute g d.1).2 with rnd := if g.live && mode == 4 then some d.2 else none })
    (he s) fun _ _ _ _ => rfl

/-- Settles O7: what may draw by `Draws.of_fireDraws`, `QUNPK` by `Computes.of_fireValue`, `SEED` by the random state that it performs. -/
theorem conversions : Obligations.Conversions := by
  refine ⟨fun h b => ?fround, fun h b => ?fcvt, fun h b => ?ftoi, fun h b => ?itof, fun h b => ?qpack, fun h b => ?qunpk, fun h b s => ?seed⟩
  case fround => exact Draws.of_fireDraws fun s => show execFround h b s = _ from rfl
  case fcvt => exact Draws.of_fireDraws fun s => show execFcvt h b s = _ from rfl
  case ftoi => exact Draws.of_fireDraws fun s => show execFtoi h b s = _ from rfl
  case itof => exact Draws.of_fireDraws fun s => show execItof h b s = _ from rfl
  case qpack => exact Draws.of_fireDraws fun s => show execQpack h b s = _ from rfl
  case qunpk => exact Computes.of_fireValue fun s => show execQunpk h b s = _ from rfl
  case seed => exact FiresAt.intro _ (show execSeed h b s = _ from rfl) fun _ _ _ _ => rfl

end Sys2Proof.Machine
end

section
/-! PROOFS. Lanes of a word (R145): packed lanes, lane by lane computation, and the bits of a lane. -/
namespace Sys2Proof.Machine

/-! ### Lanes packed into a word -/

theorem width_mul_lanes (t : Ty) : t.width * t.lanes = 32 := by cases t <;> rfl

theorem width_pos (t : Ty) : 0 < t.width := by cases t <;> decide

theorem lanes_le (t : Ty) : t.lanes ≤ 32 := by cases t <;> decide

theorem packLanes_lt (w : Nat) (xs : List Nat) : packLanes w xs < 2 ^ (w * xs.length) := by
  induction xs with
  | nil => exact Nat.two_pow_pos _
  | cons x xs ih =>
    rw [packLanes, List.length_cons, Nat.mul_succ, Nat.add_comm (w * xs.length), Nat.pow_add]
    exact Nat.add_mul_lt_mul_of_lt_of_lt (Nat.mod_lt x (Nat.two_pow_pos w)) ih

theorem packLanes_lane (w : Nat) (xs : List Nat) (k : Nat) : packLanes w xs / 2 ^ (w * k) % 2 ^ w = xs.getD k 0 % 2 ^ w := by
  induction xs generalizing k with
  | nil => simp [packLanes]
  | cons x xs ih =>
    cases k with
    | zero => simp [packLanes]
    | succ k =>
      have rest : (x % 2 ^ w + 2 ^ w * packLanes w xs) / 2 ^ w = packLanes w xs := by
        rw [Nat.add_mul_div_left _ _ (Nat.two_pow_pos w), Nat.div_eq_of_lt (Nat.mod_lt x (Nat.two_pow_pos w)), Nat.zero_add]
      rw [packLanes, Nat.mul_succ, Nat.add_comm (w * k), Nat.pow_add, ← Nat.div_div_eq_div_mul, rest, ih, List.getD_cons_succ]

/-- A lane of a word packed from as many lanes as its type has. -/
theorem laneOf_packLanes (t : Ty) {xs : List Nat} (all : xs.length = t.lanes) (k : Nat) :
    laneOf (BitVec.ofNat 32 (packLanes t.width xs)) t.width k = xs.getD k 0 % 2 ^ t.width := by
  have fits := packLanes_lt t.width xs
  rw [all, width_mul_lanes] at fits
  rw [laneOf, BitVec.toNat_ofNat, Nat.mod_eq_of_lt fits, packLanes_lane]

theorem laneOf_lt (x : W32) (w k : Nat) : laneOf x w k < 2 ^ w := Nat.mod_lt _ (Nat.two_pow_pos w)

section Lanewise
variable {t : Ty} {k : Nat} (inside : k < t.lanes) (a b c : W32)
include inside

theorem laneOf_lanes3 (f : Nat → Nat → Nat → Nat) : laneOf (lanes3 t f a b c) t.width k =
    f (laneOf a t.width k) (laneOf b t.width k) (laneOf c t.width k) % 2 ^ t.width := by
  rw [lanes3, laneOf_packLanes t (by simp), List.getD_eq_getElem _ _ (by simpa using inside), List.getElem_map, List.getElem_range]

theorem laneOf_lanes2 (f : Nat → Nat → Nat) :
    laneOf (lanes2 t f a b) t.width k = f (laneOf a t.width k) (laneOf b t.width k) % 2 ^ t.width :=
  laneOf_lanes3 inside a b b (fun x y _ => f x y)

theorem laneOf_lanes1 (f : Nat → Nat) : laneOf (lanes1 t f a) t.width k = f (laneOf a t.width k) % 2 ^ t.width :=
  laneOf_lanes2 inside a a (fun x _ => f x)

end Lanewise

/-! ### The integer of a lane -/

theorem toLane_cast (w : Nat) (x : Int) : (toLane w x : Int) = x % 2 ^ w :=
  Int.toNat_of_nonneg (Int.emod_nonneg x (by positivity))

theorem toLane_lt (w : Nat) (x : Int) : toLane w x < 2 ^ w := by
  have below := Int.emod_lt_of_pos x (show (0 : Int) < 2 ^ w by positivity)
  rw [← toLane_cast] at below
  exact_mod_cast below

@[simp] theorem toLane_mod (w : Nat) (x : Int) : toLane w x % 2 ^ w = toLane w x := Nat.mod_eq_of_lt (toLane_lt w x)

theorem signedLane_emod (w x : Nat) : signedLane w x % 2 ^ w = (x : Int) % 2 ^ w := by
  unfold signedLane
  split
  · rfl
  · exact Int.sub_emod_right _ _

/-- A lane read as an integer and written back is the lane. -/
theorem toLane_laneInt (t : Ty) {x : Nat} (fits : x < 2 ^ t.width) : toLane t.width (laneInt t x) = x := by
  have same : laneInt t x % 2 ^ t.width = (x : Int) % 2 ^ t.width := by
    unfold laneInt
    split
    · exact signedLane_emod _ _
    · rfl
  have cast := toLane_cast t.width (laneInt t x)
  rw [same] at cast
  have lane : toLane t.width (laneInt t x) = x % 2 ^ t.width := by exact_mod_cast cast
  rw [lane, Nat.mod_eq_of_lt fits]

/-- A lane's number in two's complement is that of a bit vector of its width. -/
theorem toInt_ofNat_lane {w x : Nat} (pos : 0 < w) (fits : x < 2 ^ w) : (BitVec.ofNat w x).toInt = signedLane w x := by
  have double : 2 ^ w = 2 * 2 ^ (w - 1) := by rw [← Nat.pow_succ', Nat.succ_eq_add_one, Nat.sub_add_cancel pos]
  rw [BitVec.toInt_eq_toNat_cond, BitVec.toNat_ofNat, Nat.mod_eq_of_lt fits, signedLane]
  by_cases low : x < 2 ^ (w - 1)
  · rw [if_pos low, if_pos (by omega)]
  · rw [if_neg low, if_neg (by omega)]
    push_cast
    rfl

/-! ### The bits of a lane -/

theorem testBit_laneOf (x : W32) (w i k : Nat) : (laneOf x w i).testBit k = (decide (k < w) && x.getLsbD (w * i + k)) := by
  rw [laneOf, Nat.testBit_mod_two_pow, Nat.testBit_div_two_pow, Nat.add_comm k]
  rfl

/-- A number written bit by bit, in `n` bits. -/
def sumOfBits (n : Nat) (p : Nat → Bool) : Nat := ((List.range n).map (fun k => if p k then 2 ^ k else 0)).sum

theorem brev_eq (w x : Nat) : brev w x = sumOfBits w (fun k => x.testBit (w - 1 - k)) := rfl

theorem laneBits_eq (n : Nat) (p : Nat → Bool) : laneBits n p = BitVec.ofNat 32 (sumOfBits n p) := rfl

theorem sumOfBits_succ (n : Nat) (p : Nat → Bool) : sumOfBits (n + 1) p = 2 ^ n * (p n).toNat + sumOfBits n p := by
  cases bit : p n <;> simp [sumOfBits, List.range_succ, Nat.add_comm, bit]

theorem sumOfBits_lt (n : Nat) (p : Nat → Bool) : sumOfBits n p < 2 ^ n := by
  induction n with
  | zero => exact Nat.one_pos
  | succ n ih =>
    rw [sumOfBits_succ, Nat.add_comm, Nat.pow_succ]
    exact Nat.add_mul_lt_mul_of_lt_of_lt ih (Bool.toNat_lt _)

theorem testBit_sumOfBits (n : Nat) (p : Nat → Bool) (k : Nat) : (sumOfBits n p).testBit k = (decide (k < n) && p k) := by
  induction n with
  | zero => exact Nat.zero_testBit k
  | succ n ih =>
    rw [sumOfBits_succ, Nat.testBit_two_pow_mul_add _ (sumOfBits_lt n p), ih]
    rcases Nat.lt_trichotomy k n with below | rfl | above
    · simp [below, Nat.lt_succ_of_lt below]
    · cases p k <;> simp
    · have bit : (p n).toNat.testBit (k - n) = false :=
        Nat.testBit_lt_two_pow (Nat.lt_of_lt_of_le (Bool.toNat_lt _) (Nat.le_self_pow (by omega) 2))
      simp [bit, Nat.not_lt_of_lt above, Nat.not_lt_of_le (Nat.succ_le_of_lt above)]

end Sys2Proof.Machine
end

section
/-! PROOFS. O1: the integer instructions of two inputs. -/
namespace Sys2Proof.Machine

theorem laneOf_intLanes2 {t : Ty} {k : Nat} (inside : k < t.lanes) (f : Int → Int → Int) (a b : W32) :
    (laneOf (intLanes2 t f a b) t.width k : Int) = f (laneInt t (laneOf a t.width k)) (laneInt t (laneOf b t.width k)) % 2 ^ t.width := by
  rw [intLanes2, laneOf_lanes2 inside, toLane_mod, toLane_cast]

theorem laneLo_le_laneHi (t : Ty) : laneLo t ≤ laneHi t := by cases t <;> decide

theorem clampLane_eq (t : Ty) (x : Int) : clampLane t x = if x < laneLo t then laneLo t else if laneHi t < x then laneHi t else x := by
  have range := laneLo_le_laneHi t
  unfold clampLane
  split
  · omega
  · split <;> omega

/-- What R161 says of an instruction: its latency, and each lane of its result modulo 2^w. -/
def LaneResults (i : Hdr → FDI → Instr) (lat : Nat) (lane : Ty → Int → Int → Int) : Prop :=
  ∃ v : Ty → W32 → W32 → W32, ComputesDI i lat v ∧ ∀ t ∈ tyInt, ∀ (a b : W32) (k : Nat), k < t.lanes →
    (laneOf (v t a b) t.width k : Int) = lane t (laneInt t (laneOf a t.width k)) (laneInt t (laneOf b t.width k)) % 2 ^ t.width

/-- An instruction that computes a function of the lanes' integers has that function's values as its lane results. -/
theorem LaneResults.of_intLanes2 {i : Hdr → FDI → Instr} {lat : Nat} {lane : Ty → Int → Int → Int}
    (he : ∀ h b s, exec (i h b) s = firePlain (shapeDI h b lat) (fun g => intLanes2 h.ty (lane h.ty) (g.op 0) (operandB h b g)) s) :
    LaneResults i lat lane :=
  ⟨fun t => intLanes2 t (lane t), fun h b => Computes.of_fireValue (he h b), fun _ _ a b _ inside => laneOf_intLanes2 inside _ a b⟩

/-- Settles O1: each instruction computes on the lanes' integers (`LaneResults.of_intLanes2`). -/
theorem twoInputIntegers : Obligations.TwoInputIntegers := by
  intro i lat lane listed
  simp only [List.mem_cons, Prod.mk.injEq, List.not_mem_nil, or_false] at listed
  show LaneResults i lat lane
  rcases listed with ⟨rfl, rfl, rfl⟩ | ⟨rfl, rfl, rfl⟩ | ⟨rfl, rfl, rfl⟩ | ⟨rfl, rfl, rfl⟩ | ⟨rfl, rfl, rfl⟩ | ⟨rfl, rfl, rfl⟩ |
    ⟨rfl, rfl, rfl⟩ | ⟨rfl, rfl, rfl⟩
  · exact .of_intLanes2 fun h b s => show execIadd h b s = _ from rfl
  · exact .of_intLanes2 fun h b s => show execIsub h b s = _ from rfl
  · exact .of_intLanes2 fun h b s => show execImul h b s = _ from rfl
  · exact .of_intLanes2 fun h b s => show execImulh h b s = _ from rfl
  · exact .of_intLanes2 fun h b s => show execImin h b s = _ from rfl
  · exact .of_intLanes2 fun h b s => show execImax h b s = _ from rfl
  · simp only [← clampLane_eq]; exact .of_intLanes2 fun h b s => show execIadds h b s = _ from rfl
  · simp only [← clampLane_eq]; exact .of_intLanes2 fun h b s => show execIsubs h b s = _ from rfl

end Sys2Proof.Machine
end

section
/-! PROOFS. O2: the integer instructions of one input. -/
namespace Sys2Proof.Machine

/-- What R163 says of an instruction: its latency, and each lane of its result. -/
def OneInputResults (i : Hdr → FD → Instr) (lane : Ty → Nat → Nat → Prop) : Prop :=
  ∃ v : Ty → W32 → W32, ComputesD i 1 (fun t o => v t (o 0)) ∧
    ∀ t ∈ tyIntB, ∀ (a : W32) (k : Nat), k < t.lanes → lane t (laneOf a t.width k) (laneOf (v t a) t.width k)

/-- An instruction that computes a function of a lane that is again a lane. -/
theorem OneInputResults.of_lanes1 {i : Hdr → FD → Instr} {lane : Ty → Nat → Nat → Prop} (f : Ty → Nat → Nat)
    (he : ∀ h b s, exec (i h b) s = firePlain (shapeD h b 1) (fun g => lanes1 h.ty (f h.ty) (g.op 0)) s)
    (result : ∀ t x, x < 2 ^ t.width → f t x < 2 ^ t.width ∧ lane t x (f t x)) : OneInputResults i lane := by
  refine ⟨fun t => lanes1 t (f t), fun h b => Computes.of_fireValue (he h b), fun t _ a k inside => ?_⟩
  obtain ⟨fits, holds⟩ := result t _ (laneOf_lt a t.width k)
  rwa [laneOf_lanes1 inside, Nat.mod_eq_of_lt fits]

theorem clz_le (w x : Nat) : clz w x ≤ w := by
  unfold clz
  split
  · exact Nat.le_refl w
  · omega

/-- The leading zeros of a lane end at its highest one. -/
theorem clz_spec {w x : Nat} (fits : x < 2 ^ w) (one : x ≠ 0) : clz w x < w ∧ 2 ^ (w - 1 - clz w x) ≤ x ∧ x < 2 ^ (w - clz w x) := by
  have top : x.log2 < w := (Nat.log2_lt one).mpr fits
  have zeros : clz w x = w - 1 - x.log2 := if_neg one
  rw [zeros, show w - 1 - (w - 1 - x.log2) = x.log2 by omega, show w - (w - 1 - x.log2) = x.log2 + 1 by omega]
  exact ⟨by omega, Nat.log2_self_le one, Nat.lt_log2_self⟩

theorem popc_le (w x : Nat) : popc w x ≤ w := (List.length_filter_le _ _).trans_eq List.length_range

/-- `NOT` inverts every bit of a lane. -/
theorem testBit_laneOf_not {t : Ty} {k n : Nat} (inside : k < t.lanes) (bit : n < t.width) (a : W32) :
    (laneOf (~~~a) t.width k).testBit n = !(laneOf a t.width k).testBit n := by
  have place : t.width * k + n < 32 := by
    have next := Nat.mul_le_mul_left t.width (Nat.succ_le_of_lt inside)
    rw [width_mul_lanes, Nat.mul_succ] at next
    omega
  simp [testBit_laneOf, bit, place]

theorem oneInput_rows : ∀ p ∈ [(0x05, tyInt), (0x06, tyInt), (0x10, tyIntB), (0x15, tyIntB), (0x16, tyIntB), (0x17, tyIntB)],
    (rowOf p.1).map Row.types = some p.2 := by decide

/-- Settles O2: the types by the rows of R70; `NOT` on the whole word, the others lane by lane (`OneInputResults.of_lanes1`). -/
theorem oneInputIntegers : Obligations.OneInputIntegers := by
  refine ⟨fun op ts listed => oneInput_rows (op, ts) listed, fun i lane listed => ?results⟩
  case results =>
    simp only [List.mem_cons, Prod.mk.injEq, List.not_mem_nil, or_false] at listed
    show OneInputResults i lane
    rcases listed with ⟨rfl, rfl⟩ | ⟨rfl, rfl⟩ | ⟨rfl, rfl⟩ | ⟨rfl, rfl⟩ | ⟨rfl, rfl⟩ | ⟨rfl, rfl⟩
    · refine .of_lanes1 (fun t x => toLane t.width (-(laneInt t x))) (fun h b s => show execIneg h b s = _ from rfl)
        fun t x _ => ⟨toLane_lt _ _, ?_⟩
      rw [toLane_cast, Int.zero_sub]
    · refine .of_lanes1 (fun t x => toLane t.width ((laneInt t x).natAbs : Int)) (fun h b s => show execIabs h b s = _ from rfl)
        fun t x _ => ⟨toLane_lt _ _, ?_⟩
      have magnitude : ((laneInt t x).natAbs : Int) = if laneInt t x < 0 then -laneInt t x else laneInt t x := by split <;> omega
      rw [toLane_cast, magnitude]
    · exact ⟨fun _ => aluNot, fun h b => Computes.of_fireValue fun s => show execNot h b s = _ from rfl,
        fun t _ a k inside n bit => testBit_laneOf_not inside bit a⟩
    · refine .of_lanes1 (fun t => clz t.width) (fun h b s => show execClz h b s = _ from rfl) fun t x fits =>
        ⟨(clz_le t.width x).trans_lt Nat.lt_two_pow_self, ?_⟩
      split
      case isTrue zero => exact if_pos zero
      case isFalse one => exact clz_spec fits one
    · exact .of_lanes1 (fun t => popc t.width) (fun h b s => show execPopc h b s = _ from rfl) fun t x _ =>
        ⟨(popc_le t.width x).trans_lt Nat.lt_two_pow_self, rfl⟩
    · refine .of_lanes1 (fun t => brev t.width) (fun h b s => show execBrev h b s = _ from rfl)
        fun t x _ => ⟨sumOfBits_lt _ _, fun k bit => ?_⟩
      rw [brev_eq, testBit_sumOfBits, decide_eq_true bit, Bool.true_and]

end Sys2Proof.Machine
end

section
/-! PROOFS. O3: bitwise operations, shifts and rotation. -/
namespace Sys2Proof.Machine

/-! ### Shifts and rotation of a lane, bit by bit (R165) -/

section Shifts
variable {w x k : Nat} (fits : x < 2 ^ w) (n : Nat) (bit : k < w)
include fits

theorem testBit_shiftedRight : (x / 2 ^ n).testBit k = (decide (k + n < w) && x.testBit (k + n)) := by
  rw [Nat.testBit_div_two_pow]
  by_cases inside : k + n < w
  · rw [decide_eq_true inside, Bool.true_and]
  · rw [decide_eq_false inside, Bool.false_and]
    exact Nat.testBit_lt_two_pow (fits.trans_le (Nat.pow_le_pow_right Nat.two_pos (Nat.le_of_not_lt inside)))

include bit

/-- The signed lane over a power of two is the arithmetic shift of a bit vector of the lane's width. -/
theorem testBit_shiftedArithmetic :
    (toLane w (signedLane w x / 2 ^ n)).testBit k = x.testBit (if k + n < w then k + n else w - 1) := by
  have pos : 0 < w := Nat.zero_lt_of_lt bit
  have shifted : ((BitVec.ofNat w x).sshiftRight n).toNat = toLane w (signedLane w x / 2 ^ n) := by
    rw [← BitVec.ofInt_toInt (x := (BitVec.ofNat w x).sshiftRight n), BitVec.toInt_sshiftRight, BitVec.toNat_ofInt,
      toInt_ofNat_lane pos fits, Int.shiftRight_eq_div_pow]
    push_cast
    rfl
  have bits : ∀ j, j < w → (BitVec.ofNat w x).getLsbD j = x.testBit j := fun j inside => by
    rw [BitVec.getLsbD_ofNat, decide_eq_true inside, Bool.true_and]
  rw [← shifted, BitVec.testBit_toNat, BitVec.getLsbD_sshiftRight, decide_eq_false (Nat.not_le_of_lt bit), Nat.add_comm n]
  split
  case isTrue inside => exact bits _ inside
  case isFalse => exact (BitVec.msb_eq_getLsbD_last _).trans (bits _ (Nat.sub_one_lt_of_lt pos))

/-- What a rotation moves out at the top comes in at the bottom. -/
theorem testBit_rotated {n : Nat} (count : n < w) :
    (x * 2 ^ n % 2 ^ w + x / 2 ^ (w - n)).testBit k = x.testBit ((k + w - n) % w) := by
  have parts : 2 ^ w = 2 ^ (w - n) * 2 ^ n := by rw [← Nat.pow_add, Nat.sub_add_cancel count.le]
  have low : x / 2 ^ (w - n) < 2 ^ n := Nat.div_lt_of_lt_mul (parts ▸ fits)
  rw [parts, Nat.mul_mod_mul_right, Nat.mul_comm, Nat.testBit_two_pow_mul_add _ low]
  split
  case isTrue inside =>
    rw [Nat.testBit_div_two_pow, Nat.mod_eq_of_lt (by omega), Nat.add_sub_assoc count.le]
  case isFalse outside =>
    have place : (k + w - n) % w = k - n := by
      rw [show k + w - n = k - n + w by omega, Nat.add_mod_right, Nat.mod_eq_of_lt (by omega)]
    rw [place, Nat.testBit_mod_two_pow, decide_eq_true (by omega), Bool.true_and]

end Shifts

/-- What R165 says of a shift or the rotation: each bit of each lane, by the count's lane modulo the lane's width. -/
def BitResults (i : Hdr → FDI → Instr) (bit : Nat → Nat → Nat → Nat → Bool) : Prop :=
  ∃ v : Ty → W32 → W32 → W32, ComputesDI i 1 v ∧ ∀ t ∈ tyIntB, ∀ (a b : W32) (j k : Nat), j < t.lanes → k < t.width →
    (laneOf (v t a b) t.width j).testBit k = bit t.width (laneOf a t.width j) (laneOf b t.width j % t.width) k

/-- An instruction that computes a function of the width, a lane and the count. -/
theorem BitResults.of_lanes2 {i : Hdr → FDI → Instr} {bit : Nat → Nat → Nat → Nat → Bool} (f : Nat → Nat → Nat → Nat)
    (he : ∀ h b s, exec (i h b) s =
      firePlain (shapeDI h b 1) (fun g => lanes2 h.ty (fun x n => f h.ty.width x (n % h.ty.width)) (g.op 0) (operandB h b g)) s)
    (result : ∀ w x n k, x < 2 ^ w → n < w → k < w → (f w x n).testBit k = bit w x n k) : BitResults i bit := by
  refine ⟨fun t => lanes2 t (fun x n => f t.width x (n % t.width)), fun h b => Computes.of_fireValue (he h b),
    fun t _ a b j k lane inside => ?_⟩
  rw [laneOf_lanes2 lane, Nat.testBit_mod_two_pow, decide_eq_true inside, Bool.true_and]
  exact result _ _ _ _ (laneOf_lt _ _ _) (Nat.mod_lt _ (width_pos t)) inside

/-- The immediate of a packed type stands in every lane (R58). -/
theorem laneOf_spread {t : Ty} {k : Nat} (inside : k < t.lanes) (v : Nat) : laneOf (spread t v) t.width k = v % 2 ^ t.width := by
  rw [spread, laneOf_packLanes t (by simp), List.getD_replicate v inside]

/-- Settles O3: the bitwise operations on whole words, the immediate in every lane, and each shift by what it does to a lane's bits. -/
theorem bitsAndShifts : Obligations.BitsAndShifts := by
  refine ⟨by decide, ⟨fun h b => ?and, fun h b => ?or, fun h b => ?xor, fun h b => ?andn⟩, fun h x g type noP noW k inside => ?immediate,
    fun i bit listed => ?shifts⟩
  case and => exact Computes.of_fireValue fun s => show execAnd h b s = _ from rfl
  case or => exact Computes.of_fireValue fun s => show execOr h b s = _ from rfl
  case xor => exact Computes.of_fireValue fun s => show execXor h b s = _ from rfl
  case andn => exact Computes.of_fireValue fun s => show execAndn h b s = _ from rfl
  case immediate =>
    have operand : operandB h (.i x) g = spread .i8x4 x.imm.toNat := by
      simp only [operandB, fdiImm, immOperand, type, noP, noW, Bool.or_self, Bool.false_eq_true, if_false]
    rw [operand]
    refine (laneOf_spread (t := .i8x4) inside x.imm.toNat).trans ?_
    rw [BitVec.extractLsb'_toNat, Nat.shiftRight_zero]
    rfl
  case shifts =>
    simp only [List.mem_cons, Prod.mk.injEq, List.not_mem_nil, or_false] at listed
    show BitResults i bit
    rcases listed with ⟨rfl, rfl⟩ | ⟨rfl, rfl⟩ | ⟨rfl, rfl⟩ | ⟨rfl, rfl⟩
    · refine .of_lanes2 (fun w x n => x * 2 ^ n % 2 ^ w) (fun h b s => show execShl h b s = _ from rfl) fun w x n k _ _ inside => ?_
      rw [Nat.testBit_mod_two_pow, decide_eq_true inside, Bool.true_and, Nat.testBit_mul_two_pow]
    · exact .of_lanes2 (fun _ x n => x / 2 ^ n) (fun h b s => show execShr h b s = _ from rfl)
        fun w x n k fits _ _ => testBit_shiftedRight fits n
    · exact .of_lanes2 (fun w x n => toLane w (signedLane w x / 2 ^ n)) (fun h b s => show execShra h b s = _ from rfl)
        fun w x n k fits _ inside => testBit_shiftedArithmetic fits n inside
    · exact .of_lanes2 (fun w x n => x * 2 ^ n % 2 ^ w + x / 2 ^ (w - n)) (fun h b s => show execRotl h b s = _ from rfl)
        fun w x n k fits count inside => testBit_rotated fits inside count

end Sys2Proof.Machine
end

section
/-! PROOFS. O4: products with a sum, clamps, carries, comparisons, bit fields and scaled addresses. -/
namespace Sys2Proof.Machine

theorem getLsbD_laneBits {n k : Nat} (inside : k < n) (word : n ≤ 32) (p : Nat → Bool) : (laneBits n p).getLsbD k = p k := by
  rw [laneBits_eq, BitVec.getLsbD_ofNat, testBit_sumOfBits, decide_eq_true (inside.trans_le word), decide_eq_true inside]
  rfl

theorem getLsbD_aluIcmp {t : Ty} {k : Nat} (inside : k < t.lanes) (cond : Nat) (a b : W32) :
    (aluIcmp t cond a b).getLsbD k = icmpCond t cond (laneOf a t.width k) (laneOf b t.width k) :=
  getLsbD_laneBits inside (lanes_le t) _

/-- The carry of two lanes and a carry bit is a bit. -/
theorem carry_lt {w x y : Nat} (pos : 0 < w) (hx : x < 2 ^ w) (hy : y < 2 ^ w) (z : Nat) : (x + y + z % 2) / 2 ^ w < 2 ^ w := by
  have bit : (x + y + z % 2) / 2 ^ w < 2 := Nat.div_lt_of_lt_mul (by omega)
  exact bit.trans_le (Nat.le_self_pow pos.ne' 2)

/-- Settles O4: the instructions compute their results, and each lane of a result is the one that the rules give. -/
theorem integersAndFields : Obligations.IntegersAndFields := by
  refine ⟨⟨fun h b => ?imad, fun h b => ?iclamp⟩, fun h b s => ?iaddc, ⟨fun h b => ?bfx, fun h b => ?bfi, fun h b => ?lea⟩,
    fun h b => ?icmp, fun t _ a b c k inside => ⟨?product, ?sum, ?carry, fun above => ?clamp, ?less, ?below⟩⟩
  case imad => exact Computes.of_fireValue fun s => show execImad h b s = _ from rfl
  case iclamp => exact Computes.of_fireValue fun s => show execIclamp h b s = _ from rfl
  case iaddc => exact FiresAt.intro _ (show execIaddc h b s = _ from rfl) fun _ _ _ _ => rfl
  case bfx => exact Computes.of_fireValue fun s => show execBfx h b s = _ from rfl
  case bfi => exact Computes.of_fireValue fun s => show execBfi h b s = _ from rfl
  case lea => exact Computes.of_fireValue fun s => show execLea h b s = _ from rfl
  case icmp => exact Computes.of_fireValue fun s => show execIcmp h b s = _ from rfl
  case product => rw [aluImad, laneOf_lanes3 inside, toLane_mod, toLane_cast]
  case sum => rw [aluIaddcSum, laneOf_lanes3 inside, Nat.mod_mod]
  case carry =>
    rw [aluIaddcCarry, laneOf_lanes3 inside, Nat.mod_eq_of_lt (carry_lt (width_pos t) (laneOf_lt _ _ _) (laneOf_lt _ _ _) _)]
  case clamp =>
    rw [aluIclamp, laneOf_lanes3 inside, toLane_mod, min_eq_right (above.le.trans (le_max_right _ _)), toLane_laneInt t (laneOf_lt _ _ _)]
  case less => exact getLsbD_aluIcmp inside 2 a b
  case below => exact getLsbD_aluIcmp inside 6 a b

end Sys2Proof.Machine
end

section
/-! PROOFS. O5, O6, O8: spatial keys, floating point, moves and streams. -/
namespace Sys2Proof.Machine

/-- Settles O5: the keys are values (`Computes.of_fireValue`); a live neighbour key in range has its own effect. -/
theorem spatialKeys : Obligations.SpatialKeys := by
  refine ⟨fun h b => ?cellkey, fun h b => ?cellhash, fun h b s key => ?nbrkey⟩
  case cellkey => exact Computes.of_fireValue fun s => show execCellkey h b s = _ from rfl
  case cellhash => exact Computes.of_fireValue fun s => show execCellhash h b s = _ from rfl
  case nbrkey =>
    refine FiresAt.intro _ (show execNbrkey h b s = fire _ _ _ s from rfl) fun f g _ ⟨live, inRange⟩ => ?_
    simp only [live, inRange, Bool.not_true, Bool.false_eq_true, if_false]

/-- Settles O6: every one is a value with its flags, on the common arithmetic or on the iterative unit. -/
theorem floatArithmetic : Obligations.FloatArithmetic :=
  ⟨fun h b => Computes.of_fireValue fun s => show execFadd h b s = _ from rfl,
    fun h b => Computes.of_fireValue fun s => show execFsub h b s = _ from rfl,
    fun h b => Computes.of_fireValue fun s => show execFmul h b s = _ from rfl,
    fun h b => Computes.of_fireValue fun s => show execFmin h b s = _ from rfl,
    fun h b => Computes.of_fireValue fun s => show execFmax h b s = _ from rfl,
    fun h b => Computes.of_fireValue fun s => show execFscale h b s = _ from rfl,
    fun h b => Computes.of_fireValue fun s => show execFcmp h b s = _ from rfl,
    ⟨fun h b => Computes.of_fireValue fun s => show execFfma h b s = _ from rfl,
     fun h b => Computes.of_fireValue fun s => show execFdot2 h b s = _ from rfl⟩,
    ⟨fun h b => Computes.of_fireValue fun s => show execFabs h b s = _ from rfl,
     fun h b => Computes.of_fireValue fun s => show execFneg h b s = _ from rfl,
     fun h b => Computes.of_fireValue fun s => show execFclass h b s = _ from rfl⟩,
    fun h b => Computes.of_fireValue fun s => show execFrcp h b s = _ from rfl,
    fun h b => Computes.of_fireValue fun s => show execFrsq h b s = _ from rfl,
    fun h b => Computes.of_fireValue fun s => show execFexp2 h b s = _ from rfl,
    fun h b => Computes.of_fireValue fun s => show execFlog2 h b s = _ from rfl,
    fun h b => Computes.of_fireValue fun s => show execFsqrt h b s = _ from rfl⟩

/-- Settles O8: moves and immediates are values (`Computes.of_fireValue`); the others perform the effect that the statement names, `LIVE`
in its live firings. -/
theorem movesAndStreams : Obligations.MovesAndStreams := by
  refine ⟨⟨fun h b => ?mov, fun h b => ?sel⟩, ⟨fun h b => ?movi, fun h b => ?const, fun h b => ?movhi⟩, fun h b s => ?sink,
    fun h b s => ?getw, fun h b s => ?setw, fun h b s => ?live, fun h b s => ?islive, fun h b s => ?count, fun h b s => ?stride⟩
  case mov => exact Computes.of_fireValue fun s => show execMov h b s = _ from rfl
  case sel => exact Computes.of_fireValue fun s => show execSel h b s = _ from rfl
  case movi => exact Computes.of_fireValue fun s => show execMovi h b s = _ from rfl
  case const => exact Computes.of_fireValue fun s => show execConst h b s = _ from rfl
  case movhi => exact Computes.of_fireValue fun s => show execMovhi h b s = _ from rfl
  case sink => exact FiresAt.intro _ (show execSink h b s = _ from rfl) fun _ _ _ _ => rfl
  case getw => exact FiresAt.intro _ (show execGetw h b s = _ from rfl) fun _ _ _ _ => rfl
  case setw => exact FiresAt.intro _ (show execSetw h b s = _ from rfl) fun _ _ _ _ => rfl
  case live => exact FiresAt.intro _ (show execLive h b s = fire _ _ _ s from rfl) fun _ _ _ live => if_pos live
  case islive => exact FiresAt.intro _ (show execIslive h b s = _ from rfl) fun _ _ _ _ => rfl
  case count => exact FiresAt.intro _ (show execCount h b s = _ from rfl) fun _ _ _ _ => rfl
  case stride => exact FiresAt.intro _ (show execStride h b s = _ from rfl) fun _ _ _ _ => rfl

end Sys2Proof.Machine
end

section
/-! PROOFS. O9 to O12: steering and merging, loops, frames and tags, accumulators and tournaments. -/
namespace Sys2Proof.Machine

/-- Settles O9: a merge and a prime have one effect whatever their operands; a steering sends down the arm that its live operand chooses. -/
theorem steeringAndMerging : Obligations.SteeringAndMerging := by
  refine ⟨fun h b s => ?steer, fun h b s => ?steerx, fun h b s => ?merge, fun h b s => ?mergeo, fun h b => ?gate, fun h b => ?prime⟩
  case steer => exact FiresAt.intro _ (show execSteer h b s = fire _ _ _ s from rfl) fun _ _ _ live => if_pos live
  case steerx =>
    refine FiresAt.intro _ (show execSteerx h b s = fire _ _ _ s from rfl) fun f g _ ⟨live, arm⟩ => ?_
    have inside : ¬ immBits b.imm 6 3 + 1 ≤ (g.op 0).toNat := by omega
    simp only [live, inside, Bool.not_true, Bool.false_eq_true, if_false]
  case merge => exact FiresAt.intro _ (show execMerge h b s = _ from rfl) fun _ _ _ _ => rfl
  case mergeo => exact FiresAt.intro _ (show execMergeo h b s = _ from rfl) fun _ _ _ _ => rfl
  case gate => exact Computes.of_fireValue fun s => show execGate h b s = _ from rfl
  case prime => exact Computes.of_fireValue fun s => show execPrime h b s = _ from rfl

/-- Settles O10: `LOOPIN` enters an iteration that its log has room for and has not met, `BOUND` passes one within its bound of the oldest;
`NEXT` and `LOOPOUT` have one effect whatever their operands. -/
theorem loops : Obligations.Loops := by
  refine ⟨fun h b s t => ?loopin, fun h b s => ?next, fun h b s => ?loopout, fun h b s => ?bound⟩
  case loopin =>
    have he : exec (.loopin h b) s = execLoopin h b s := rfl
    simp only [execLoopin] at he
    refine FiresAt.intro _ he fun f g _ ⟨tag, fresh, room, operands⟩ => ?_
    obtain ⟨⟨_, entry⟩, _, ops⟩ := List.exists_cons_of_ne_nil operands
    simp only [tag, fresh, room, ops, Bool.false_eq_true, if_false]
  case next => exact FiresAt.intro _ (show execNext h b s = _ from rfl) fun _ _ _ _ => rfl
  case loopout => exact FiresAt.intro _ (show execLoopout h b s = _ from rfl) fun _ _ _ _ => rfl
  case bound =>
    refine FiresAt.intro _ (show execBound h b s = fire _ _ _ s from rfl) fun f g _ ⟨o, oldest, flying, near⟩ => ?_
    simp only [oldest, flying, near, decide_true, Bool.and_self, if_true]

/-- One output of `TAGWR`: its tag after `TAGOP`, with the field that the word selects replaced; `none` where one of them is refused (R204). -/
def tagwrOut (h : Hdr) (f : FireCtx) (w : W32) (o : Out) : Option Out :=
  match applyTagop h.tagop f.info.depth o.taken o.tag with
  | some t => (tagwrTag w t).map fun t' => { o with tag := t', raw := true }
  | none => none

/-- `TAGWR` sends every output as `tagwrOut` makes it, and poison when one is refused. -/
theorem execTagwr_eq (h : Hdr) (b : FD) (s : State) : execTagwr h b s = fire (shapeD h b 1) (fun f g =>
    let e := valueEff f g (toAll (shapeD h b 1) (g.op 0)) Flag.none
    let outs := e.outs.map (tagwrOut h f (g.op 1))
    if !g.live then some e
    else if outs.any Option.isNone then some { e with bad := some (fILLEGAL, 0) }
    else some { e with outs := outs.filterMap id }) noAfter s := rfl

/-- Where every output can be replaced, none is missing, and all are sent. -/
theorem replaced_outs {outs : List Out} {replace : Out → Option Out} {replaced : Out → Out} (each : ∀ o ∈ outs, replace o = some (replaced o)) :
    (outs.map replace).any Option.isNone = false ∧ (outs.map replace).filterMap id = outs.map replaced := by
  have all : outs.map replace = (outs.map replaced).map some := by
    rw [List.map_map]; exact List.map_congr_left each
  rw [all]
  exact ⟨List.any_eq_false.mpr (by simp), by simp [List.filterMap_map]⟩

/-- Settles O11: each firing performs its effect under its condition; the latency of `CALLF` and of `RETF` is that of the context in
focus. -/
theorem framesAndTags : Obligations.FramesAndTags := by
  refine ⟨fun h b s f runs t fr => ?callf, fun h b s f runs fr => ?retf, fun h b s => ?tagrd, fun h b s t t' => ?tagwr, fun h b s => ?exit,
    fun h b s => ?ends⟩
  case callf =>
    have he : exec (.callf h b) s = execCallf h b s := rfl
    simp only [execCallf, runs] at he
    refine FiresAt.intro _ he fun f g _ ⟨live, tag, frame⟩ => ?_
    cases running : f.l.running f.ctx with
    | none =>
      simp only [running] at frame
      simp only [tag, live, frame, Bool.not_true, Bool.false_eq_true, if_false]
    | some activation =>
      simp only [running] at frame
      simp only [tag, live, frame, Bool.not_true, Bool.false_eq_true, if_false]
  case retf =>
    have he : exec (.retf h b) s = execRetf h b s := rfl
    simp only [execRetf, runs] at he
    refine FiresAt.intro _ he fun f g _ ⟨frame, held, called⟩ => ?_
    simp only [frame, held, called, Bool.false_eq_true, if_false]
  case tagrd => exact FiresAt.intro _ (show execTagrd h b s = _ from rfl) fun _ _ _ _ => rfl
  case tagwr =>
    refine FiresAt.intro _ (execTagwr_eq h b s) fun f g _ ⟨live, tags⟩ => ?_
    have each : ∀ o ∈ stdOuts f g (toAll (shapeD h b 1) (g.op 0)),
        tagwrOut h f (g.op 1) o = some { o with tag := t' f g o, raw := true } := fun o sent => by
      obtain ⟨tag, field⟩ := tags o sent
      simp only [tagwrOut, tag, field, Option.map_some]
    simp only [valueEff, Eff.none, live, replaced_outs each, Bool.not_true, Bool.false_eq_true, if_true, if_false]
  case exit => exact FiresAt.intro _ (show execExit h b s = _ from rfl) fun _ _ _ _ => rfl
  case ends => exact FiresAt.intro _ (show execEnds h b s = _ from rfl) fun _ _ _ _ => rfl

/-- A firing that updates one accumulator sends the new value, and writes it when the firing is live (R207). -/
theorem Fires.of_fireAcc {i : Instr} {h : Hdr} {b : FI} {lat : Nat} {op : W32 → W32 → W32 × Flags}
    (he : ∀ s, exec i s = fireAcc h b lat op s) :
    Fires i { shapeI h b lat with accs := [immBits b.imm 0 6] } (byMode (shapeI h b lat)) (fun f g =>
      let r := op (AMap.get f.x.acc 0 (immBits b.imm 0 6)) (g.op 0)
      { valueEff f g [(b.d0, r.1)] r.2 with accW := if g.live then [(immBits b.imm 0 6, r.1)] else [] }) noAfter :=
  fun s => by
    simp only [fireAcc] at he
    exact FiresAt.intro _ (he s) fun _ _ _ _ => rfl

/-- The accumulators of a firing's context are the context's. -/
theorem FireCtx.acc_eq (f : FireCtx) : f.acc = fun n => AMap.get f.x.acc 0 n := rfl

/-- Settles O12: all but `CFWDX` have one effect whatever their operands; `CFWDX` with its mask written compares what the mask leaves. -/
theorem accumulatorsAndTournaments : Obligations.AccumulatorsAndTournaments := by
  refine ⟨fun h b i lat op listed => ?single, fun h b s => ?accrd, fun h b s => ?accz, fun h b s => ?ordred, fun h b s => ?xacc, fun h b s => ?xrnd,
    fun h b s => ?cfwd, fun h b s => ?cfwdx⟩
  case single =>
    simp only [List.mem_cons, List.not_mem_nil, or_false, Prod.mk.injEq] at listed
    rcases listed with ⟨rfl, rfl, rfl⟩ | ⟨rfl, rfl, rfl⟩ | ⟨rfl, rfl, rfl⟩
    · exact Fires.of_fireAcc (i := .accadd h b) fun s => show execAccadd h b s = fireAcc _ _ _ _ s from rfl
    · exact Fires.of_fireAcc (i := .accmax h b) fun s => show execAccmax h b s = fireAcc _ _ _ _ s from rfl
    · exact Fires.of_fireAcc (i := .accscl h b) fun s => show execAccscl h b s = fireAcc _ _ _ _ s from rfl
  case accrd => exact FiresAt.intro _ (show execAccrd h b s = _ from rfl) fun _ _ _ _ => rfl
  case accz => exact FiresAt.intro _ (show execAccz h b s = _ from rfl) fun _ _ _ _ => rfl
  case ordred => exact FiresAt.intro _ (show execOrdred h b s = _ from rfl) fun _ _ _ _ => rfl
  case xacc => exact FiresAt.intro _ (show execXacc h b s = _ from rfl) fun _ _ _ _ => rfl
  case xrnd =>
    refine FiresAt.intro _ (show execXrnd h b s = fire _ _ _ s from rfl) fun f g _ _ => ?_
    simp only [FireCtx.acc_eq]
  case cfwd => exact FiresAt.intro _ (show execCfwd h b s = _ from rfl) fun _ _ _ _ => rfl
  case cfwdx =>
    refine FiresAt.intro _ (show execCfwdx h b s = fire _ _ _ s from rfl) fun f g _ ⟨written, inside⟩ => ?_
    have low : (g.live && (decide (256 ≤ (g.op 1).toNat) || decide (256 ≤ (g.op 3).toNat))) = false := by
      cases live : g.live with
      | false => rfl
      | true =>
        obtain ⟨one, three⟩ := inside live
        rw [decide_eq_false (by omega), decide_eq_false (by omega)]
        rfl
    simp only [written, low, Bool.false_eq_true, if_false]

end Sys2Proof.Machine
end

section
/-! PROOFS. O13: the requests of the memory handlers. -/
namespace Sys2Proof.Machine

/-- A memory handler with an issuing firing whose operands are neither refused nor at fault performs its request and does nothing beyond
its element (R245, R280). -/
theorem Requests.of_fireMem {i : Instr} {sh : Shape} {h : Hdr} {b : FM} {kind : AccKind} {o : Bool} {ask : FireCtx → Got → Window → MemAsk}
    (he : ∀ s, exec i s = fireMem sh h b kind o ask s) : Requests i sh h b kind o ask := by
  intro s f g w out issues window tag sound goes
  have performs : ∃ perform after, exec i s = fire (memShape s b sh) perform after s ∧
      perform f g = some (requestEff f g h b w kind out (ask f g w) o) ∧ ∀ u, after f g u = u := by
    refine ⟨_, _, he s, ?_, fun u => ?_⟩
    · cases live : g.live with
      | false => simp only [window, tag, live, requestEff, Bool.false_eq_true, if_false]
      | true =>
        obtain ⟨accepted, within⟩ := sound live
        simp only [window, tag, live, accepted, within, requestEff, Option.isSome_none, Bool.false_eq_true, if_true, if_false]
    · cases live : g.live with
      | false => simp only [window, tag, live, Bool.false_eq_true, if_false]
      | true => simp only [window, tag, live, (sound live).2, if_true]
  obtain ⟨perform, after, runs, effect, stays⟩ := performs
  obtain ⟨u, fired, next⟩ := fireFrom_fires (after := after) issues effect goes
  exact ⟨u, runs.trans (next.trans (congrArg _ (stays u))), fired⟩

/-- Settles O13: every one is a firing of the memory handler (`Requests.of_fireMem`) with its own question. -/
theorem memoryRequests : Obligations.MemoryRequests := by
  refine ⟨fun h b => ⟨⟨?ld, ?st, ?lds, ?sts, ?ldq, ?stq⟩, ⟨?pref, ?slog, ?sread⟩, ?atomics⟩, fun h b => ⟨?sendc, ?sendm, ?creq, ?dlay⟩⟩
  case ld => exact Requests.of_fireMem fun s => show execLd h b s = _ from rfl
  case st => exact Requests.of_fireMem fun s => show execSt h b s = _ from rfl
  case lds => exact Requests.of_fireMem fun s => show execLds h b s = _ from rfl
  case sts => exact Requests.of_fireMem fun s => show execSts h b s = _ from rfl
  case ldq => exact Requests.of_fireMem fun s => show execLdq h b s = _ from rfl
  case stq => exact Requests.of_fireMem fun s => show execStq h b s = _ from rfl
  case pref => exact Requests.of_fireMem fun s => show execPref h b s = _ from rfl
  case slog => exact Requests.of_fireMem fun s => show execSlog h b s = _ from rfl
  case sread => exact Requests.of_fireMem fun s => show execSread h b s = _ from rfl
  case atomics =>
    simp only [List.forall_mem_cons]
    exact ⟨Requests.of_fireMem fun s => show execAadd h b s = _ from rfl, Requests.of_fireMem fun s => show execAfadd h b s = _ from rfl,
      Requests.of_fireMem fun s => show execAmin h b s = _ from rfl, Requests.of_fireMem fun s => show execAmax h b s = _ from rfl,
      Requests.of_fireMem fun s => show execAxchg h b s = _ from rfl, Requests.of_fireMem fun s => show execAcas h b s = _ from rfl,
      Requests.of_fireMem fun s => show execAbit h b s = _ from rfl, Requests.of_fireMem fun s => show execAincb h b s = _ from rfl,
      List.forall_mem_nil _⟩
  case sendc => exact Requests.of_fireMem fun s => show execSendc h b s = _ from rfl
  case sendm => exact Requests.of_fireMem fun s => show execSendm h b s = _ from rfl
  case creq => exact Requests.of_fireMem fun s => show execCreq h b s = _ from rfl
  case dlay => exact Requests.of_fireMem fun s => show execDlay h b s = _ from rfl

end Sys2Proof.Machine
end

section
/-! PROOFS. O16: the matrix instructions. -/
namespace Sys2Proof.Machine

/-- An instruction that fires performs its effect, and what it does beyond its element counts only as far as the firing's condition tells. -/
theorem FiresAt.intro_congr {i : Instr} {s : State} {sh : Shape} {gath : State → FireCtx → Gather} {cond : FireCtx → Got → Prop}
    {eff : FireCtx → Got → Eff} {done after : FireCtx → Got → State → State} (perform : FireCtx → Got → Option Eff)
    (he : exec i s = fireFrom sh gath perform done s) (performs : ∀ f g, cond f g → perform f g = some (eff f g))
    (same : ∀ f g u, cond f g → done f g u = after f g u) : FiresAt i s sh gath cond eff after := by
  intro f g issues holds goes
  obtain ⟨t, runs, u, fired, ht⟩ := FiresAt.intro (eff := eff) (cond := cond) perform he (fun f g _ => performs f g) f g issues holds goes
  exact ⟨t, runs, u, fired, ht.trans (same f g u holds)⟩

/-- Settles O16: each instruction performs its effect under its condition; what `MXCFG` holds back is no output yet (`lateEff_live`), and
what is done only in a live firing is done under the condition (`FiresAt.intro_congr`). -/
theorem matrixInstructions : Obligations.MatrixInstructions := by
  refine ⟨fun h b s => ?mxcfg, fun h b s => ?mxstep, fun h b s => ?mxfade, fun h b s => ?mxpass, fun h b s mode => ?mxscl,
    fun h b s mode => ?accord, fun h b s => ?mxdrn, fun h b => ?mxldacc⟩
  case mxcfg =>
    refine FiresAt.intro _ (show execMxcfg h b s = fire _ _ _ s from rfl) fun f g _ ⟨live, free, late, first⟩ => ?_
    simp only [free, live, first, lateEff_live live late, Bool.and_false, Bool.false_eq_true, if_false]
  case mxstep =>
    refine FiresAt.intro_congr _ (show execMxstep h b s = fire _ _ _ s from rfl) (fun f g ⟨live, idle, mode, fade, scaled, tag⟩ => ?_)
      fun f g u ⟨live, _⟩ => if_pos live
    simp only [idle, live, mode, fade, scaled, Option.isNone_eq_false_iff.mpr tag, bne_self_eq_false, Bool.not_true, Bool.or_self,
      Bool.false_eq_true, if_false]
  case mxfade =>
    exact FiresAt.intro_congr _ (show execMxfade h b s = fire _ _ _ s from rfl) (fun f g ⟨_, idle⟩ => if_neg (ne_true_of_eq_false idle))
      fun f g u ⟨live, _⟩ => if_pos live
  case mxpass =>
    exact FiresAt.intro_congr _ (show execMxpass h b s = fire _ _ _ s from rfl) (fun f g ⟨_, idle⟩ => if_neg (ne_true_of_eq_false idle))
      fun f g u ⟨live, _⟩ => if_pos live
  case mxscl =>
    refine FiresAt.intro _ (show execMxscl h b s = fire _ _ _ s from rfl) fun f g _ ⟨live, tile, scaled, fabric, room⟩ => ?_
    have single : (h.mode == Mode.accord) = false := beq_false_of_ne mode
    have fits : (f.e.scales (b.shape.getLsbD 0)).length < 2 := room
    simp only [single, fits, live, tile, scaled, fabric, decide_true, bne_self_eq_false, Bool.not_true, Bool.or_self, Bool.false_eq_true,
      if_false]
  case accord =>
    refine FiresAt.intro _ (show execMxscl h b s = fire _ _ _ s from rfl) fun f g _ ⟨live, tile, scaled, fabric, roomA, roomB⟩ => ?_
    have cells : (h.mode == Mode.accord) = true := beq_iff_eq.mpr mode
    have fitsA : (f.edge false).all (fun p => decide ((s.el p.2).scA.length + g.cells.length ≤ 2)) = true :=
      List.all_eq_true.mpr fun p edge => decide_eq_true (roomA p edge)
    have fitsB : (f.edge true).all (fun p => decide ((s.el p.2).scB.length + g.cells.length ≤ 2)) = true :=
      List.all_eq_true.mpr fun p edge => decide_eq_true (roomB p edge)
    simp only [cells, fitsA, fitsB, live, tile, scaled, fabric, bne_self_eq_false, Bool.and_self, Bool.not_true, Bool.or_self,
      Bool.false_eq_true, if_true, if_false]
  case mxdrn =>
    refine FiresAt.intro _ (show execMxdrn h b s = fire _ _ _ s from rfl) fun f g _ fabric => ?_
    simp only [fabric, FireCtx.acc_eq, Bool.false_and, Bool.false_eq_true, if_false]
  case mxldacc => exact Requests.of_fireMem fun s => show execMxldacc h b s = _ from rfl

end Sys2Proof.Machine
end

section
/-! PROOFS. What the end of an access leaves alone: the feeds of every bay. -/
namespace Sys2Proof.Machine

/-- A change that keeps the feeds of every bay. -/
structure FeedsKept (s t : State) : Prop where
  feeds : ∀ b, (t.bay b).feeds = (s.bay b).feeds

theorem FeedsKept.refl (s : State) : FeedsKept s s := ⟨fun _ => rfl⟩

theorem FeedsKept.trans {s t u : State} (h : FeedsKept s t) (k : FeedsKept t u) : FeedsKept s u := ⟨fun b => (k.feeds b).trans (h.feeds b)⟩

theorem FeedsKept.foldl {β : Type} (f : State → β → State) (h : ∀ s b, FeedsKept s (f s b)) (bs : List β) (s : State) :
    FeedsKept s (bs.foldl f s) := foldl_rel .refl (fun h k => h.trans k) f h bs s

theorem FeedsKept.of_bays {s t : State} (same : t.bays = s.bays) : FeedsKept s t := ⟨fun b => by rw [State.bay, same]; rfl⟩

theorem FeedsKept.feed {s t : State} (h : FeedsKept s t) (b k : Nat) : (t.bay b).feed k = (s.bay b).feed k := by
  rw [Bay.feed, h.feeds, Bay.feed]

theorem State.updBay_feedsKept (s : State) (b : Nat) {g : Bay → Bay} (same : (g (s.bay b)).feeds = (s.bay b).feeds) : FeedsKept s (s.updBay b g) := by
  refine ⟨fun c => ?_⟩
  by_cases here : c = b
  · subst here
    rw [State.bay_updBay_same, same]
  · rw [State.bay_updBay_other s g here]

theorem State.loans_feedsKept (s : State) (m : AMap Loan) : FeedsKept s { s with loans := m } := .of_bays rfl

theorem State.updLoan_feedsKept (s : State) (id : Nat) (g : Loan → Loan) : FeedsKept s (s.updLoan id g) := .of_bays (s.updLoan_bays id g)

theorem State.gone_feedsKept (s : State) (id b : Nat) (t : Tag) (its : List (Nat × List Nat)) : FeedsKept s (s.gone id b t its) :=
  .of_bays (s.gone_bays id b t its)

theorem State.dropFlit_feedsKept (s : State) (b : Nat) (f : Flit) : FeedsKept s (s.dropFlit b f) := by
  unfold State.dropFlit; split
  · exact s.gone_feedsKept _ _ _ _
  · exact .refl s

/-! ### Taking an exception (R339 to R343) -/

theorem State.parkTake_feedsKept (s : State) (loan b : Nat) (tag : Option Tag) : FeedsKept s (s.parkTake loan b tag).2 := by
  unfold State.parkTake; split
  · exact .refl s
  · split
    · exact s.updBay_feedsKept _ rfl
    · split
      · exact s.updLoan_feedsKept _ _
      · split
        · exact s.updLoan_feedsKept _ _
        · exact .of_bays rfl

theorem State.parkGive_feedsKept (s : State) (loan place : Nat) : FeedsKept s (s.parkGive loan place) := by
  unfold State.parkGive; split
  · exact .refl s
  · dsimp only; split
    · exact s.updBay_feedsKept _ rfl
    · exact s.updLoan_feedsKept _ _
    · exact s.updLoan_feedsKept _ _
    · exact .refl s

theorem State.parkFlit_feedsKept (s : State) (b f : Nat) (x : Flit) : FeedsKept s (s.parkFlit b f x) := by
  unfold State.parkFlit; split
  · exact .refl s
  · split
    · exact .refl s
    · split
      · exact .refl s
      · split
        · exact s.dropFlit_feedsKept _ _
        · exact (s.parkTake_feedsKept _ _ _).trans (State.updLoan_feedsKept _ _ _)

theorem State.withdraw_feedsKept (s : State) (id f : Nat) : FeedsKept s (s.withdraw id f) := by
  unfold State.withdraw; split
  · exact .refl s
  · refine .foldl _ (fun s p => ?_) _ _
    refine FeedsKept.trans ?_ (.foldl _ (fun u x => u.parkFlit_feedsKept _ _ _) _ _)
    exact (FeedsKept.of_bays (State.updEl_bays s _ _)).trans (.foldl _ (fun u x => u.updLoan_feedsKept _ _) _ _)

theorem State.withdrawAccs_feedsKept (s : State) (id f : Nat) (faults : List (List Nat × Nat)) : FeedsKept s (s.withdrawAccs id f faults) := by
  unfold State.withdrawAccs; split
  · exact .refl s
  · refine .foldl _ (fun s p => ?_) _ _
    dsimp only
    split
    · split
      · exact .of_bays (State.gone_bays _ _ _ _ _)
      · exact .of_bays rfl
    · exact .refl s

theorem State.withdrawTriggers_feedsKept (s : State) (id f : Nat) (faults : List (List Nat × Nat)) :
    FeedsKept s (s.withdrawTriggers id f faults) := by
  unfold State.withdrawTriggers; split
  · exact .refl s
  · refine .foldl _ (fun s b => ?_) _ _
    dsimp only
    split
    · exact .refl s
    · exact (s.updBay_feedsKept _ rfl).trans (.foldl _ (fun u x => u.gone_feedsKept _ _ _ _) _ _)

theorem State.dropOrdered_feedsKept (s : State) (id f : Nat) (faults : List (List Nat × Nat)) : FeedsKept s (s.dropOrdered id f faults) := by
  unfold State.dropOrdered; split
  · exact .refl s
  · exact .of_bays rfl

theorem State.parkFrame_feedsKept (s : State) (id : Nat) (tag : Tag) (loops : List Nat) (fault : Bool) (kept : List Kept) :
    FeedsKept s (s.parkFrame id tag loops fault kept) := by
  have withdrawn : ∀ (g : Loan → Loan) (lost : List (Nat × Flit)) (m : List (List Nat × Nat)), FeedsKept s
      ((((lost.foldl (fun s x => (s.parkGive id x.1).dropFlit (x.1 / 4) x.2) (s.updLoan id g)).withdraw id tag.frame.toNat).withdrawAccs id
        tag.frame.toNat m).withdrawTriggers id tag.frame.toNat m) := fun g lost m =>
    ((((s.updLoan_feedsKept _ _).trans (.foldl _ (fun u x => (u.parkGive_feedsKept _ _).trans (State.dropFlit_feedsKept _ _ _)) _ _)).trans
      (State.withdraw_feedsKept _ _ _)).trans (State.withdrawAccs_feedsKept _ _ _ _)).trans (State.withdrawTriggers_feedsKept _ _ _ _)
  unfold State.parkFrame; dsimp only; split
  · exact .refl s
  · split
    · exact .refl s
    · split
      · exact withdrawn _ _ _
      · exact (((withdrawn _ _ _).trans (State.loans_feedsKept _ _)).trans (State.dropOrdered_feedsKept _ _ _ _)).trans
          (.foldl _ (fun u x => .of_bays (u.ack_bays _ _ _)) _ _)

theorem State.translateParked_feedsKept (s : State) (id f : Nat) (r : Report) : FeedsKept s (s.translateParked id f r) := by
  have mapped : ∀ (u : State) (b : Bool) (i : Instr), FeedsKept s u → FeedsKept s (if b then u.drawNat.2.later (1 + u.drawNat.1) i else u) := by
    intro u b i kept
    split
    · exact kept.trans (.of_bays rfl)
    · exact kept
  unfold State.translateParked; split
  · exact .refl s
  · exact mapped _ _ _ (s.updLoan_feedsKept _ _)

theorem State.raise_feedsKept (s : State) (r : Report) (loops : List Nat) (kept : List Kept) : FeedsKept s (s.raise r loops kept) := by
  have recorded : ∀ f, FeedsKept s (s.updHub f) := fun _ => .of_bays rfl
  have parked : ∀ (u : State) (b : Bool) (id f : Nat) (tag : Tag) (fault : Bool), FeedsKept s u →
      FeedsKept s (if b then (u.parkFrame id tag loops fault kept).translateParked id f r else u) := by
    intro u b id f tag fault keeps
    split
    · exact (keeps.trans (State.parkFrame_feedsKept _ _ _ _ _ _)).trans (State.translateParked_feedsKept _ _ _ _)
    · exact keeps
  unfold State.raise
  dsimp only
  split
  · exact parked _ _ _ _ _ _ (recorded _)
  · exact recorded _

/-! ### Replies (R215, R245, R285) -/

theorem State.inject_feedsKept (s : State) (d index : Nat) (f : Flit) : FeedsKept s (s.inject d index f) := by
  unfold State.inject; split
  · exact .refl s
  · split
    · exact s.updLoan_feedsKept _ _
    · split
      · exact .of_bays rfl
      · exact .of_bays rfl
      · exact .of_bays rfl
      · exact (s.updLoan_feedsKept _ _).trans (.of_bays rfl)
      · exact (s.updBay_feedsKept _ rfl).trans (State.dropFlit_feedsKept _ _ _)
      · exact .of_bays rfl
      · exact .refl s
      · exact .refl s

theorem State.answer_feedsKept (s : State) (loan index ctx hnd d : Nat) (dest : Dest) (kind : Kind) (pred : Bool) (cont : BitVec 6) (v : W32)
    (tag : Tag) (prior : List Nat) : FeedsKept s (s.answer loan index ctx hnd d dest kind pred cont v tag prior) := by
  unfold State.answer; split
  · exact .refl s
  · dsimp only
    split
    · exact s.raise_feedsKept _ _ _
    · split
      · exact .refl s
      · exact (s.updLoan_feedsKept _ _).trans (State.inject_feedsKept _ _ _ _)

theorem State.answerFill_feedsKept (s : State) (a : Access) (d : Nat) (block : Bool) : FeedsKept s (s.answerFill a d block) := by
  unfold State.answerFill; split
  · dsimp only
    split
    · split
      · exact (s.updLoan_feedsKept _ _).trans (State.inject_feedsKept _ _ _ _)
      · exact .refl s
    · exact .refl s
  · exact .refl s

theorem State.dropAccess_feedsKept (s : State) (id : Nat) : FeedsKept s (s.dropAccess id) := by
  unfold State.dropAccess; split
  · exact .refl s
  · dsimp only
    split
    · exact .of_bays rfl
    · exact .of_bays (State.gone_bays _ _ _ _ _)

/-- THE END OF AN ACCESS, with its reply, keeps the feeds. -/
theorem State.finishAccess_feedsKept (s : State) (id d : Nat) : FeedsKept s (s.finishAccess id d) := by
  unfold State.finishAccess; split
  · exact .refl s
  · rename_i a _
    refine FeedsKept.trans ?_ (State.dropAccess_feedsKept _ _)
    split
    · exact .refl s
    · split
      · exact s.answer_feedsKept _ _ _ _ _ _ _ _ _ _ _ _
      · exact s.answer_feedsKept _ _ _ _ _ _ _ _ _ _ _ _
      · exact .foldl _ (fun u i => u.answer_feedsKept _ _ _ _ _ _ _ _ _ _ _ _) _ _
      · exact s.answerFill_feedsKept _ _ _
      · exact s.answerFill_feedsKept _ _ _
      · exact s.answer_feedsKept _ _ _ _ _ _ _ _ _ _ _ _
      · exact s.answer_feedsKept _ _ _ _ _ _ _ _ _ _ _ _
      · exact s.answer_feedsKept _ _ _ _ _ _ _ _ _ _ _ _
      · exact s.answer_feedsKept _ _ _ _ _ _ _ _ _ _ _ _
      · exact s.answer_feedsKept _ _ _ _ _ _ _ _ _ _ _ _
      · exact .refl s
      · exact .refl s
      · exact .refl s

end Sys2Proof.Machine
end

section
/-! PROOFS. O42: ramps, layout records, the streams of feeders, and the beats that banks read. -/
namespace Sys2Proof.Machine

/-- What an instruction leaves, told in less. -/
theorem Completes.imp {i : Instr} {s : State} {p q : State → Prop} (h : Completes i s p) (k : ∀ t, p t → q t) : Completes i s q := by
  obtain ⟨t, runs, holds⟩ := h
  exact ⟨t, runs, k t holds⟩

/-! ### Ramps (R221, R222) -/

/-- A change at elements: what enters their pipelines, with what is due and the numbers that it has. -/
structure EntersPipelines (s t : State) : Prop where
  frame : t = { s with els := t.els, nextId := t.nextId, agenda := t.agenda }

theorem EntersPipelines.refl (s : State) : EntersPipelines s s := ⟨rfl⟩

theorem EntersPipelines.trans {s t u : State} (h : EntersPipelines s t) (k : EntersPipelines t u) : EntersPipelines s u :=
  ⟨k.frame.trans (by rw [h.frame])⟩

theorem EntersPipelines.same {s t : State} (h : EntersPipelines s t) : t.bays = s.bays ∧ t.loans = s.loans ∧ t.cycle = s.cycle := by
  rw [h.frame]; exact ⟨rfl, rfl, rfl⟩

theorem State.emitHeld_enters (s : State) (key ctx id hnd : Nat) (f : Flit) : EntersPipelines s (s.emitHeld key ctx id hnd f) := by
  unfold State.emitHeld
  split
  · exact .refl s
  · exact ⟨rfl⟩

/-- A tile that changes its mode: the fields are those of the first `MXCFG` counted when it enters matrix mode, and none is counted any more. -/
def Tile.changed (x : Tile) (mode : TileMode) : Tile :=
  ⟨mode, match x.counted with | c :: _ => if mode == .matrix then c.fields else x.fields | [] => x.fields, []⟩

theorem State.applyMx_enters (s : State) (id bay t ctx : Nat) (mode : TileMode) :
    EntersPipelines (s.updTile bay t ctx (fun x => x.changed mode)) (s.applyMx id bay t ctx mode) := by
  refine foldl_rel .refl (fun h k => h.trans k) _ (fun u c => ?_) _ _
  have held : ∀ v : State, EntersPipelines u v →
      EntersPipelines u (match c.flit with | some f => v.emitHeld c.el ctx id c.hnd f | none => v) := fun v edges => by
    cases c.flit with
    | some f => exact edges.trans (v.emitHeld_enters _ _ _ _ f)
    | none => exact edges
  refine held _ ?_
  split
  · exact ⟨rfl⟩
  · exact .refl u

/-- A tile whose ramp ends: it changes when all its `MXCFG`s are counted, and otherwise only goes on in matrix mode. -/
def Tile.ramped (x : Tile) : Tile := if x.counted.length = 32 then x.changed .matrix else { x with mode := .matrix }

theorem Tile.ramped_mode (x : Tile) : x.ramped.mode = .matrix := by
  unfold Tile.ramped; split <;> rfl

theorem Tile.ramped_full {x : Tile} {m : MxCount} {ms : List MxCount} (counted : x.counted = m :: ms) (full : (m :: ms).length = 32) :
    x.ramped.fields = m.fields ∧ x.ramped.counted = [] := by
  simp only [Tile.ramped, counted, full, if_true, Tile.changed, beq_self_eq_true, and_self]

theorem State.tile_updTile_same (s : State) (bay t ctx : Nat) (f : Tile → Tile) :
    AMap.get ((s.updTile bay t ctx f).bay bay).tiles Tile.empty (tileKey t ctx) = f (AMap.get (s.bay bay).tiles Tile.empty (tileKey t ctx)) := by
  simp only [State.updTile, State.bay_updBay_same, AMap.get_upd_same]

theorem exec_rampTurnEnd {s : State} {id at0 bay k c : Nat} {l : Loan} {rest : List (Nat × Nat × Nat × Nat)}
    (loan : AMap.find s.loans id = some l) (ramps : l.ramps = (at0, bay, k, c) :: rest) :
    ∃ u, EntersPipelines ((s.updLoan id (fun l => { l with ramps := rest })).updTile bay k c Tile.ramped) u ∧
      exec (.rampTurnEnd id) s = .next (if rest = [] then u else u.later 16 (.rampTurnEnd id)) := by
  show ∃ u, _ ∧ execRampTurnEnd id s = _
  simp only [execRampTurnEnd, loan, ramps]
  refine ⟨_, ?_, rfl⟩
  have ramped : ∀ (u : State) (x : Tile), (AMap.get (u.bay bay).tiles Tile.empty (tileKey k c)).ramped = x →
      u.updTile bay k c Tile.ramped = u.updTile bay k c (fun _ => x) := fun u x same => by subst same; rfl
  split
  · rename_i full
    rw [ramped _ _ (if_pos full)]
    exact State.applyMx_enters _ id bay k c .matrix
  · rename_i fewer
    rw [ramped _ _ (if_neg fewer)]
    exact .refl _

/-- THE TURN OF A TILE ENDS: it is in matrix mode, and the next takes its turn. -/
theorem rampTurnEnd_ramps {s : State} {id at0 bay k c : Nat} {l : Loan} {rest : List (Nat × Nat × Nat × Nat)}
    (loan : AMap.find s.loans id = some l) (ramps : l.ramps = (at0, bay, k, c) :: rest) : Completes (.rampTurnEnd id) s (fun t =>
      AMap.get (t.bay bay).tiles Tile.empty (tileKey k c) = (AMap.get (s.bay bay).tiles Tile.empty (tileKey k c)).ramped ∧
      AMap.find t.loans id = some { l with ramps := rest } ∧ (rest ≠ [] → (s.cycle + 16, Instr.rampTurnEnd id) ∈ t.agenda)) := by
  obtain ⟨u, enters, runs⟩ := exec_rampTurnEnd loan ramps
  obtain ⟨bays, loans, cycle⟩ := enters.same
  have tile : AMap.get (u.bay bay).tiles Tile.empty (tileKey k c) = (AMap.get (s.bay bay).tiles Tile.empty (tileKey k c)).ramped := by
    rw [State.bay, bays, ← State.bay, State.tile_updTile_same, State.bay, State.updLoan_bays, ← State.bay]
  have gone : AMap.find u.loans id = some { l with ramps := rest } := by
    rw [loans]
    exact State.find_updLoan_of_some _ loan
  have now : u.cycle = s.cycle := cycle.trans (State.updLoan_cycle s id _)
  by_cases none : rest = []
  · exact ⟨_, runs.trans (congrArg _ (if_pos none)), tile, gone, absurd none⟩
  · exact ⟨_, runs.trans (congrArg _ (if_neg none)), tile, gone, fun _ => now ▸ State.mem_later u 16 _⟩

/-! ### Layout records (R254, R255) -/

@[simp] theorem Bay.feed_updFeed_same (b : Bay) (k : Nat) (f : Feed → Feed) : (b.updFeed k f).feed k = f (b.feed k) := by
  simp [Bay.feed, Bay.updFeed]

/-- A record takes effect at a feed that is closed and owes no beat (R255). -/
theorem Feed.serve_record {f : Feed} (r : Layout) (a : Nat) (closed : f.isOpen = false) (delivered : ∀ p ∈ f.lanes, p.2.owed = 0) :
    Feed.serve [.record r a] f = ({ f.apply r with queue := [] }, [a]) := by
  have none : f.lanes.any (fun p => p.2.owed != 0) = false := List.any_eq_false.mpr fun p lane => by simp [delivered p lane]
  simp only [Feed.serve, closed, none, Bool.or_self, Bool.false_eq_true, if_false]

theorem exec_layoutRecordApply {s : State} {bay k c a : Nat} {isB : Bool} {f : Feed} {r : Layout}
    (feed : (s.bay bay).feed (feedKey k c isB) = f) (queue : f.queue = [.record r a]) (closed : f.isOpen = false)
    (delivered : ∀ p ∈ f.lanes, p.2.owed = 0) :
    exec (.layoutRecordApply bay k c isB) s =
      .next ((s.updBay bay (fun b => b.updFeed (feedKey k c isB) (fun _ => { f.apply r with queue := [] }))).finishAccess a 3) := by
  show execLayoutRecordApply bay k c isB s = _
  simp only [execLayoutRecordApply, State.serveFeed, feed, queue, Feed.serve_record r a closed delivered, List.foldl_cons, List.foldl_nil]

theorem Feed.apply_lanes (f : Feed) (r : Layout) : ∀ p ∈ (f.apply r).lanes, p.2.n = 0 ∧ p.2.m = 0 := by
  intro p lane
  obtain ⟨q, -, rfl⟩ := List.mem_map.mp lane
  exact ⟨rfl, rfl⟩

theorem layoutRecordApply_applies {s : State} {bay k c a : Nat} {isB : Bool} {r : Layout}
    (queue : ((s.bay bay).feed (feedKey k c isB)).queue = [.record r a]) (closed : ((s.bay bay).feed (feedKey k c isB)).isOpen = false)
    (delivered : ∀ p ∈ ((s.bay bay).feed (feedKey k c isB)).lanes, p.2.owed = 0) :
    Completes (.layoutRecordApply bay k c isB) s (fun t =>
      (t.bay bay).feed (feedKey k c isB) = { ((s.bay bay).feed (feedKey k c isB)).apply r with queue := [] }) := by
  refine ⟨_, exec_layoutRecordApply rfl queue closed delivered, ?_⟩
  exact ((State.finishAccess_feedsKept _ a 3).feed bay _).trans (by rw [State.bay_updBay_same, Bay.feed_updFeed_same])

/-! ### A feeder's streams (R219, R254) -/

/-- Steps of which only one changes the state leave what that one leaves. -/
theorem foldl_only {f : State → Nat → State} {keep : State → Prop} {s u : State} {n : Nat} {ms : List Nat} (once : ms.Nodup) (there : n ∈ ms)
    (others : ∀ v, keep v → ∀ m, m ≠ n → f v m = v) (before : keep s) (after : keep u) (changes : f s n = u) : ms.foldl f s = u := by
  have still : ∀ (v : State), keep v → ∀ ks : List Nat, n ∉ ks → ks.foldl f v = v := fun v kept ks => by
    induction ks with
    | nil => exact fun _ => rfl
    | cons k ks ih =>
      intro absent
      rw [List.foldl_cons, others v kept k (fun same => absent (same ▸ List.mem_cons_self)), ih (fun later => absent (List.mem_cons_of_mem k later))]
  obtain ⟨as, bs, rfl⟩ := List.append_of_mem there
  obtain ⟨-, tail, apart⟩ := List.nodup_append.mp once
  rw [List.foldl_append, still s before as fun first => apart n first n List.mem_cons_self rfl, List.foldl_cons, changes,
    still u after bs (List.nodup_cons.mp tail).1]

/-- One stream of a feed in one cycle: it asks for its next scale token and its next beat. -/
def State.laneCycle (s : State) (id : Nat) (l : Loan) (bay key ctx : Nat) (isB : Bool) (blk n : Nat) : State :=
  let lane (s : State) : Option Lane := AMap.find ((s.bay bay).feed key).lanes n
  let s := match lane s with
    | some a => s.askScale id l bay key ctx isB n a
    | none => s
  match lane s with
  | some a => s.askBeat id l bay key ctx isB blk n a
  | none => s

theorem State.feedCycle_eq (s : State) (id : Nat) (l : Loan) (bay key ctx : Nat) (isB : Bool) (blk : Nat) :
    s.feedCycle id l bay key ctx isB blk = (List.range 8).foldl (fun s n => s.laneCycle id l bay key ctx isB blk n) s := rfl

theorem State.laneCycle_none {s : State} {bay key n : Nat} (none : AMap.find ((s.bay bay).feed key).lanes n = none)
    (id : Nat) (l : Loan) (ctx : Nat) (isB : Bool) (blk : Nat) : s.laneCycle id l bay key ctx isB blk n = s := by
  simp only [State.laneCycle, none]

/-- A stream that owes no scale token asks for none. -/
theorem State.askScale_none {a : Lane} (none : a.scaleOwed = 0) (s : State) (id : Nat) (l : Loan) (bay key ctx : Nat) (isB : Bool) (n : Nat) :
    s.askScale id l bay key ctx isB n a = s := by
  simp only [State.askScale, none, Nat.zero_le, true_or, if_true]

theorem State.laneCycle_beat {s : State} {bay key n : Nat} {a : Lane} (lane : AMap.find ((s.bay bay).feed key).lanes n = some a)
    (none : a.scaleOwed = 0) (id : Nat) (l : Loan) (ctx : Nat) (isB : Bool) (blk : Nat) :
    s.laneCycle id l bay key ctx isB blk n = s.askBeat id l bay key ctx isB blk n a := by
  simp only [State.laneCycle, lane, State.askScale_none none]

/-- The next beat of a stream that may send it: what it asks of the bank of its line. -/
def Lane.beatEntry (a : Lane) (r : Layout) (w : Window) (id : Nat) (l : Loan) (ctx : Nat) (isB : Bool) (n : Nat) : BankEntry :=
  let p := a.place r w isB
  ⟨.beat id a.req.index ctx isB n, lineId w l.firstLine (p.2.2.1 / squareSize w.ty) p.2.2.2 r.o, r.o, .read, 1, 0, 0⟩

theorem State.askBeat_asks {s : State} {l : Loan} {bay key ctx n : Nat} {isB : Bool} {a : Lane} {w : Window} (owed : a.owed ≠ 0)
    (unasked : a.asked = false) (unbounded : a.lim = none) (running : a.halted = false) (started : a.req.start ≤ s.cycle)
    (plain : a.scaleOwed = 0) (room : (entryRoom s l ctx isB a).2.1 < 1 + (entryRoom s l ctx isB a).1)
    (window : l.windowAt ctx ((s.bay bay).feed key).record.win = some w) (tile : w.virt = false)
    (inside : lineInside w ((s.bay bay).feed key).record.o (a.place ((s.bay bay).feed key).record w isB).2.2.1
      (a.place ((s.bay bay).feed key).record w isB).2.2.2 = true) (id blk : Nat) :
    s.askBeat id l bay key ctx isB blk n a = (s.updLane bay key n (fun a => { a with asked := true })).postBank bay w.tile
      (bankOfSquare w l.firstLine ((a.place ((s.bay bay).feed key).record w isB).2.2.1 / squareSize w.ty)) 0
      (a.beatEntry ((s.bay bay).feed key).record w id l ctx isB n) := by
  have may : ¬ (a.owed = 0 ∨ a.asked = true ∨ a.lim = some 0 ∨ a.halted = true ∨ s.cycle < a.req.start ∨
      1 + (entryRoom s l ctx isB a).1 ≤ (entryRoom s l ctx isB a).2.1) := by
    simp only [owed, unasked, unbounded, running, Bool.false_eq_true, reduceCtorEq, false_or, not_or, Nat.not_lt, Nat.not_le]
    exact ⟨started, room⟩
  simp only [State.askBeat, may, plain, window, tile, inside, ne_eq, not_true_eq_false, Bool.not_true, Bool.false_eq_true, false_and, or_self,
    if_false]
  rfl

theorem State.later_feedsKept (s : State) (d : Nat) (i : Instr) : FeedsKept s (s.later d i) := .of_bays rfl

theorem State.postBank_feedsKept (s : State) (bay tile bank d : Nat) (e : BankEntry) : FeedsKept s (s.postBank bay tile bank d e) :=
  (s.updBay_feedsKept bay rfl).trans (State.later_feedsKept _ _ _)

/-- A change of one stream leaves the others of its feed. -/
theorem State.lane_updLane_other (s : State) (bay key : Nat) {n m : Nat} (f : Lane → Lane) (other : m ≠ n) :
    AMap.find (((s.updLane bay key n f).bay bay).feed key).lanes m = AMap.find ((s.bay bay).feed key).lanes m := by
  simp only [State.updLane, State.bay_updBay_same, Bay.feed_updFeed_same, AMap.upd]
  exact AMap.find_put_other _ _ other

/-- A feed with nothing to serve stays as it is. -/
theorem State.serveFeed_idle {s : State} {bay key : Nat} {f : Feed} (feed : (s.bay bay).feed key = f) (idle : f.queue = []) :
    s.serveFeed bay key = s.updBay bay (fun b => b.updFeed key (fun _ => f)) := by
  obtain ⟨record, isOpen, queue, lanes, n, m, beats, scales, served⟩ := f
  simp only at idle
  subst idle
  simp only [State.serveFeed, feed, Feed.serve, List.foldl_nil]

/-- Something that is due if it is still wanted changes only what is due. -/
theorem State.later_if (s : State) (more : Bool) (d : Nat) (i : Instr) : ∃ g, (if more then s.later d i else s) = { s with agenda := g } := by
  cases more <;> exact ⟨_, rfl⟩

/-- A feeder of one context asks for what it can; its next turn is due if something is still wanted. -/
theorem exec_feedBeat {s : State} {id c : Nat} {l : Loan} (loan : AMap.find s.loans id = some l) (works : l.ended = false) (only : l.ctxs = [c])
    (index : Nat) (isB : Bool) : ∃ blk g, exec (.feedBeat id index isB) s = .next { (s.serveFeed (l.bayKey (index / 128))
      (feedKey (layoutTile index isB) c isB)).feedCycle id l (l.bayKey (index / 128)) (feedKey (layoutTile index isB) c isB) c isB blk with
        agenda := g } := by
  show ∃ blk g, execFeedBeat id index isB s = _
  simp only [execFeedBeat, loan, works, only, Bool.false_eq_true, if_false, List.foldl_cons, List.foldl_nil]
  exact ⟨_, (State.later_if _ _ _ _).imp fun g => congrArg Host.Outcome.next⟩

/-- THE FEEDER ASKS the bank for the line of its stream's next beat. -/
theorem feedBeat_asks {s : State} {id c n : Nat} {l : Loan} {a : Lane} {w : Window} (loan : AMap.find s.loans id = some l)
    (works : l.ended = false) (only : l.ctxs = [c]) (index : Nat) (isB : Bool) {f : Feed}
    (feed : (s.bay (l.bayKey (index / 128))).feed (feedKey (layoutTile index isB) c isB) = f) (lanes : f.lanes = [(n, a)]) (idle : f.queue = [])
    (lane : n < 8) (owed : a.owed ≠ 0) (unasked : a.asked = false) (unbounded : a.lim = none) (running : a.halted = false)
    (started : a.req.start ≤ s.cycle) (plain : a.scaleOwed = 0) (window : l.windowAt c f.record.win = some w) (tile : w.virt = false)
    (inside : lineInside w f.record.o (a.place f.record w isB).2.2.1 (a.place f.record w isB).2.2.2 = true)
    (room : (entryRoom s l c isB a).2.1 < 1 + (entryRoom s l c isB a).1) :
    Completes (.feedBeat id index isB) s (fun t => t.tmem = s.tmem ∧ t.mem = s.mem ∧
      { a.beatEntry f.record w id l c isB n with arrived := s.cycle } ∈ AMap.get (t.bay (l.bayKey (index / 128))).banks []
        (bankKey w.tile (bankOfSquare w l.firstLine ((a.place f.record w isB).2.2.1 / squareSize w.ty)))) := by
  obtain ⟨blk, g, runs⟩ := exec_feedBeat loan works only index isB
  generalize l.bayKey (index / 128) = bay at feed runs ⊢
  generalize feedKey (layoutTile index isB) c isB = key at feed runs
  rw [State.serveFeed_idle feed idle, State.feedCycle_eq] at runs
  set v := s.updBay bay (fun b => b.updFeed key (fun _ => f))
  have served : (v.bay bay).feed key = f := by rw [State.bay_updBay_same, Bay.feed_updFeed_same]
  have found : AMap.find ((v.bay bay).feed key).lanes n = some a := by rw [served, lanes]; simp [AMap.find]
  have others : ∀ m, m ≠ n → AMap.find ((v.bay bay).feed key).lanes m = none := fun m other => by
    rw [served, lanes]; simp [AMap.find, Ne.symm other]
  have asks := (State.laneCycle_beat found plain id l c isB blk).trans (State.askBeat_asks (s := v) (key := key) owed unasked unbounded running started
    plain room (by rwa [served]) tile (by rwa [served]) id blk)
  rw [served] at asks
  have all := foldl_only (keep := fun u => ∀ m, m ≠ n → AMap.find ((u.bay bay).feed key).lanes m = none) List.nodup_range
    (List.mem_range.mpr lane) (fun u none m other => State.laneCycle_none (none m other) id l c isB blk) others
    (fun m other => by rw [(State.postBank_feedsKept _ _ _ _ _ _).feed, State.lane_updLane_other _ _ _ _ other, others m other]) asks
  rw [all] at runs
  exact ⟨_, runs, rfl, rfl, State.postBank_entry _ _ _ _ _ _⟩

/-! ### A beat at its bank (R242, R254) -/

theorem State.feedRead_kept {s t : State} (kept : FeedsKept s t) (l : Loan) (index ctx : Nat) (isB : Bool) (n : Nat) :
    t.feedRead l index ctx isB n = s.feedRead l index ctx isB n := by
  simp only [State.feedRead, kept.feed]

/-- The beat that a stream's read brings: the two words of its line, there in the cycle of its entry. -/
def State.beatOf (s : State) (l : Loan) (ctx : Nat) (isB : Bool) (bay : Nat) (a : Lane) (r : Layout) (w : Window) : Beat :=
  let p := a.place r w isB
  let word (i : Nat) : W32 := readLineWord s.tmem (tileTr bay) w l.firstLine (p.2.2.1 / squareSize w.ty) p.2.2.2 r.o (2 * p.1 + i)
  ⟨s.cycle + (entryRoom s l ctx isB a).1, word 1 ++ word 0⟩

/-- An element with one more operand beat on its way into its A or B buffer. -/
def Element.beatIn (e : Element) (isB : Bool) (x : Beat) : Element := if isB then { e with opB := e.opB ++ [x] } else { e with opA := e.opA ++ [x] }

section BankBeat
variable {s : State} {b tile bank : Nat} {e : BankEntry} {id index c n : Nat} {isB : Bool} {l : Loan} {bay key : Nat} {a : Lane} {r : Layout}
  {w : Window} (loan : AMap.find s.loans id = some l) (read : s.feedRead l index c isB n = some (bay, key, a, r, w)) (asked : a.asked = true)
include loan read asked

theorem State.performBeat_enters (sound : s.eccBad = []) : ∃ f, s.performBeat id index c isB n =
    (s.updEl (l.elKey index) (fun e => e.beatIn isB (s.beatOf l c isB bay a r w))).updLane bay key n f := by
  simp only [State.performBeat, loan, read, asked, sound, State.eccFails, State.correct, List.any_nil, List.filter_nil, Bool.not_true,
    Bool.false_eq_true, if_true, if_false]
  exact ⟨_, rfl⟩

/-- A free bank reads the one beat that is asked of it. -/
theorem exec_bankAccess_beat (alone : AMap.get (s.bay b).banks [] (bankKey tile bank) = [e]) (job : e.job = .beat id index c isB n)
    (arrived : e.arrived ≤ s.cycle) (free : AMap.get (s.bay b).bankBusy 0 (bankKey tile bank) ≤ s.cycle) (last : s.bankComing = false) :
    ∃ m, FeedsKept s { s with bays := m } ∧ exec (.bankAccess b tile bank) s = .next ({ s with bays := m }.performBeat id index c isB n) := by
  have alive : s.jobAlive b e = true := by simp only [State.jobAlive, job, loan, read, asked, Option.any_some]
  have ready : s.jobReady e = true := by simp only [State.jobReady, job]
  have plain : ∀ u : State, u.claimOf e = none := fun u => by simp only [State.claimOf, job]
  show ∃ m, _ ∧ execBankAccess b tile bank s = _
  simp only [execBankAccess, State.bay_updBay_same, AMap.get_upd_same, alone, List.filter_cons_of_pos alive, List.filter_nil, State.updBay_cycle,
    List.filter_cons, arrived, decide_true, if_true, List.cons_ne_nil, if_false, Nat.not_lt.mpr free, State.bankComing_updBay, last,
    State.jobReady_updBay, ready, State.bankNext_alone (plain _), bankSort, bankInsert, List.foldl, bne_self_eq_false, Bool.false_and,
    Bool.false_eq_true, job, le_refl, List.length_cons, State.performJob]
  exact ⟨_, (s.updBay_feedsKept b rfl).trans (State.updBay_feedsKept _ b rfl), rfl⟩

/-- THE BANK READS the beat that is asked of it, which is on its way into its element's buffer. -/
theorem bankAccess_beat (alone : AMap.get (s.bay b).banks [] (bankKey tile bank) = [e]) (job : e.job = .beat id index c isB n)
    (arrived : e.arrived ≤ s.cycle) (free : AMap.get (s.bay b).bankBusy 0 (bankKey tile bank) ≤ s.cycle) (last : s.bankComing = false)
    (sound : s.eccBad = []) : Completes (.bankAccess b tile bank) s (fun t => t.tmem = s.tmem ∧ t.mem = s.mem ∧
      t.el (l.elKey index) = (s.el (l.elKey index)).beatIn isB (s.beatOf l c isB bay a r w)) := by
  obtain ⟨m, kept, runs⟩ := exec_bankAccess_beat loan read asked alone job arrived free last
  obtain ⟨f, enters⟩ := State.performBeat_enters (s := { s with bays := m }) (id := id) loan
    ((State.feedRead_kept kept _ _ _ _ _).trans read) asked sound
  rw [enters] at runs
  exact ⟨_, runs, rfl, rfl, State.el_updEl_same s (l.elKey index) (fun e => e.beatIn isB (s.beatOf l c isB bay a r w))⟩

end BankBeat

end Sys2Proof.Machine
end

section
/-! PROOFS. O42: the ends of runs and the steps of arrays. -/
namespace Sys2Proof.Machine

/-! ### The writes that are due (R225) -/

theorem ElCtx.foldl_mxWrite_frame (ws : List MxWrite) (x : ElCtx) : ∃ a b st,
    ws.foldl ElCtx.mxWrite x = { x with acc := a, badAcc := b, status := st } := by
  induction ws generalizing x with
  | nil => exact ⟨_, _, _, rfl⟩
  | cons w ws ih =>
    obtain ⟨a, b, st, eq⟩ := ih (x.mxWrite w)
    exact ⟨a, b, st, eq⟩

/-- The writes that are due change the accumulators and the flags; the run keeps the others. -/
theorem ElCtx.mxDue_frame (x : ElCtx) (now : Nat) : ∃ a b st, x.mxDue now = { x with
    acc := a, badAcc := b, status := st
    run := x.run.map (fun r => { r with writes := r.writes.filter (fun w => !decide (w.due ≤ now)) }) } := by
  unfold ElCtx.mxDue
  split
  · rename_i idle
    exact ⟨x.acc, x.badAcc, x.status, by rw [idle, Option.map_none, ← idle]⟩
  · rename_i r run
    obtain ⟨a, b, st, eq⟩ := ElCtx.foldl_mxWrite_frame (r.writes.filter (fun w => decide (w.due ≤ now))) x
    rw [eq, run]
    exact ⟨a, b, st, rfl⟩

theorem ElCtx.mxDue_same (x : ElCtx) (now : Nat) : (x.mxDue now).loan = x.loan ∧ (x.mxDue now).logical = x.logical := by
  obtain ⟨a, b, st, eq⟩ := x.mxDue_frame now
  rw [eq]; exact ⟨rfl, rfl⟩

theorem ElCtx.mxDue_run {x : ElCtx} {r : Run} (run : x.run = some r) (now : Nat) :
    (x.mxDue now).run = some { r with writes := r.writes.filter (fun w => !decide (w.due ≤ now)) } := by
  obtain ⟨a, b, st, eq⟩ := x.mxDue_frame now
  rw [eq, run]; rfl

/-! ### The end of a run (R226) -/

/-- A change that leaves every element and device memory alone. -/
structure ElementsKept (s t : State) : Prop where
  els : t.els = s.els
  mem : t.mem = s.mem

theorem ElementsKept.refl (s : State) : ElementsKept s s := ⟨rfl, rfl⟩

theorem ElementsKept.trans {s t u : State} (h : ElementsKept s t) (k : ElementsKept t u) : ElementsKept s u :=
  ⟨k.els.trans h.els, k.mem.trans h.mem⟩

theorem ElementsKept.foldl {β : Type} (f : State → β → State) (h : ∀ s b, ElementsKept s (f s b)) (bs : List β) (s : State) :
    ElementsKept s (bs.foldl f s) := foldl_rel .refl (fun h k => h.trans k) f h bs s

/-- An element with emissions of a context that come later; `m` is the handlers that are no candidates meanwhile. -/
def Element.rowIn (e : Element) (ctx : Nat) (ps : List Pending) (m : AMap Nat) : Element :=
  { e with pending := e.pending ++ ps }.updCtx ctx (fun x => { x with emitting := m })

theorem Element.ctx_rowIn_same (e : Element) (c : Nat) (ps : List Pending) (m : AMap Nat) :
    (e.rowIn c ps m).ctx c = { e.ctx c with emitting := m } := Element.ctx_updCtx_same { e with pending := e.pending ++ ps } c _

theorem Element.ctx_rowIn_other (e : Element) {c d : Nat} (ps : List Pending) (m : AMap Nat) (other : d ≠ c) : (e.rowIn c ps m).ctx d = e.ctx d :=
  Element.ctx_updCtx_other { e with pending := e.pending ++ ps } _ other

theorem State.later_elementsKept (s : State) (d : Nat) (i : Instr) : ElementsKept s (s.later d i) := ⟨rfl, rfl⟩

theorem State.emitRow_enters (s : State) (key ctx id hnd d : Nat) (l : Loan) (fs : List Flit) :
    ∃ ps m, ElementsKept (s.updEl key (fun e => e.rowIn ctx ps m)) (s.emitRow key ctx id hnd d l fs) := by
  unfold State.emitRow
  extract_lets n bufOf ps s' u v
  refine ⟨ps, if n = 0 then ((s.el key).ctx ctx).emitting else AMap.put ((s.el key).ctx ctx).emitting hnd 1, ?_⟩
  have row : ElementsKept (s.updEl key (fun e => e.rowIn ctx ps
      (if n = 0 then ((s.el key).ctx ctx).emitting else AMap.put ((s.el key).ctx ctx).emitting hnd 1))) u := ⟨rfl, rfl⟩
  refine (row.trans (.foldl _ (fun w f => ?_) _ _)).trans (.foldl _ (fun w p => w.later_elementsKept _ _) _ _)
  split
  · exact ⟨State.born_els _ _ _ _, State.born_mem _ _ _ _⟩
  · exact .refl w

/-- A context whose run has ended, after the writes that are due. -/
def ElCtx.ranOut (x : ElCtx) (now : Nat) : ElCtx := { x.mxDue now with run := none }

/-- The element of a run that ends, before what it sends comes. -/
def State.runOver (s : State) (el c : Nat) : State := s.updEl el (fun e => e.updCtx c (fun _ => ((s.el el).ctx c).ranOut s.cycle))

theorem exec_runEnd {s : State} {el c id : Nat} {r : Run} {l : Loan} (run : ((s.el el).ctx c).run = some r)
    (holds : ((s.el el).ctx c).loan = some id) (loan : AMap.find s.loans id = some l) : ∃ t ps m, exec (.runEnd el c) s = .next t ∧
      ElementsKept ((s.runOver el c).updEl el (fun e => e.rowIn c ps m)) t := by
  have due := ElCtx.mxDue_run run s.cycle
  have held := (((s.el el).ctx c).mxDue_same s.cycle).1.trans holds
  have ends : ∀ hnd fs b tag its, ∃ t ps m, Host.Outcome.next (φ := Fault) (ρ := Refusal)
      (((s.runOver el c).emitRow el c id hnd 1 l fs).gone id b tag its) = .next t ∧
        ElementsKept ((s.runOver el c).updEl el (fun e => e.rowIn c ps m)) t := fun hnd fs b tag its => by
    obtain ⟨ps, m, row⟩ := State.emitRow_enters (s.runOver el c) el c id hnd 1 l fs
    exact ⟨_, ps, m, rfl, row.trans ⟨State.gone_els _ _ _ _ _, State.gone_mem _ _ _ _ _⟩⟩
  show ∃ t ps m, execRunEnd el c s = .next t ∧ _
  unfold execRunEnd
  dsimp only
  split
  · rename_i holds'
    obtain rfl : id = _ := Option.some.inj (held.symm.trans holds')
    simp only [loan]
    exact ends _ _ _ _ _
  · rename_i idle
    exact absurd held (idle _ _ due)

/-- THE END OF A RUN frees its element. -/
theorem runEnd_frees {s : State} {el c id : Nat} {r : Run} {l : Loan} (run : ((s.el el).ctx c).run = some r)
    (holds : ((s.el el).ctx c).loan = some id) (loan : AMap.find s.loans id = some l) : Completes (.runEnd el c) s (fun t =>
      ((t.el el).ctx c).run = none ∧ ((t.el el).ctx c).acc = (((s.el el).ctx c).mxDue s.cycle).acc ∧
      (∀ c', c' ≠ c → (t.el el).ctx c' = (s.el el).ctx c') ∧ (∀ k, k ≠ el → t.el k = s.el k) ∧ t.mem = s.mem) := by
  obtain ⟨t, ps, m, runs, els, mem⟩ := exec_runEnd run holds loan
  have elsAt := fun k => congrArg (fun m => AMap.get m Element.empty k) els
  have own : t.el el = ((s.el el).updCtx c (fun _ => ((s.el el).ctx c).ranOut s.cycle)).rowIn c ps m :=
    (elsAt el).trans ((State.el_updEl_same _ el _).trans (congrArg (Element.rowIn · c ps m) (State.el_updEl_same s el _)))
  have mine : (t.el el).ctx c = { ((s.el el).ctx c).ranOut s.cycle with emitting := m } := by
    rw [own, Element.ctx_rowIn_same, Element.ctx_updCtx_same]
  refine ⟨t, runs, by rw [mine]; rfl, by rw [mine]; rfl, fun c' other => ?_, fun k other => ?_, mem⟩
  · rw [own, Element.ctx_rowIn_other _ _ _ other, Element.ctx_updCtx_other _ _ other]
  · exact (elsAt k).trans ((State.el_updEl_other _ _ other).trans (State.el_updEl_other s _ other))

/-! ### Side beats (R219, R224) -/

/-- A change of scale buffers: every element keeps its contexts and its operand buffers. -/
structure ScalesMove (s t : State) : Prop where
  frame : t = { s with els := t.els }
  el : ∀ k, (t.el k).ctxs = (s.el k).ctxs ∧ (t.el k).opA = (s.el k).opA ∧ (t.el k).opB = (s.el k).opB

theorem ScalesMove.refl (s : State) : ScalesMove s s := ⟨rfl, fun _ => ⟨rfl, rfl, rfl⟩⟩

theorem ScalesMove.trans {s t u : State} (h : ScalesMove s t) (k : ScalesMove t u) : ScalesMove s u := by
  refine ⟨k.frame.trans (by rw [h.frame]), fun j => ?_⟩
  obtain ⟨ctxs, opA, opB⟩ := h.el j
  obtain ⟨ctxs', opA', opB'⟩ := k.el j
  exact ⟨ctxs'.trans ctxs, opA'.trans opA, opB'.trans opB⟩

theorem ScalesMove.ctx {s t : State} (h : ScalesMove s t) (k c : Nat) : (t.el k).ctx c = (s.el k).ctx c := by
  rw [Element.ctx, (h.el k).1, Element.ctx]

theorem State.updEl_scalesMove (s : State) (k : Nat) {g : Element → Element}
    (same : ∀ e, (g e).ctxs = e.ctxs ∧ (g e).opA = e.opA ∧ (g e).opB = e.opB) : ScalesMove s (s.updEl k g) := by
  refine ⟨rfl, fun j => ?_⟩
  by_cases here : j = k
  · subst here
    rw [State.el_updEl_same]
    exact same _
  · rw [State.el_updEl_other s g here]
    exact ⟨rfl, rfl, rfl⟩

theorem Element.setScales_same (e : Element) (isB : Bool) (ts : List ScaleTok) :
    (e.setScales isB ts).ctxs = e.ctxs ∧ (e.setScales isB ts).opA = e.opA ∧ (e.setScales isB ts).opB = e.opB := by
  cases isB <;> exact ⟨rfl, rfl, rfl⟩

theorem State.sideBeat_scalesMove (s : State) (l : Loan) (el ctx : Nat) (isB : Bool) : ScalesMove s (s.sideBeat l el ctx isB) := by
  unfold State.sideBeat
  dsimp only
  split
  · refine ScalesMove.trans (s.updEl_scalesMove el fun e => ?_) (State.updEl_scalesMove _ _ fun e => e.setScales_same isB _)
    exact e.setScales_same isB _
  · split
    · exact .refl s
    · exact s.updEl_scalesMove el fun e => e.setScales_same isB _

/-! ### A step (R219, R225) -/

/-- The element that performs a beat: its context goes on, and the words that it takes leave its buffers, as do spent scale tokens. -/
def Element.stepped (e : Element) (ctx : Nat) (y : ElCtx) (p : StepPlan) (now : Nat) : Element :=
  { e.updCtx ctx (fun _ => y) with
    opA := e.opA.drop 1, opB := e.opB.drop 1
    scA := if p.sa.isSome then spentTokens p.east.isSome (takeToken e.scA) else e.scA
    scB := if p.sb.isSome then spentTokens p.south.isSome (takeToken e.scB) else e.scB
    beatLink := linkBeat p.east 1 (now + 2) (linkBeat p.south 2 (now + 2) e.beatLink) }

theorem Element.ctx_stepped (e : Element) (ctx : Nat) (y : ElCtx) (p : StepPlan) (now : Nat) : (e.stepped ctx y p now).ctx ctx = y :=
  Element.ctx_updCtx_same e ctx (fun _ => y)

/-- The A word of a beat on its way to the element in the east, if there is one, and the B word on its way to the south. -/
def State.passEast (s : State) (p : StepPlan) : State := match p.east with
  | some (k, d) => s.updEl k (fun e => { e with opA := e.opA ++ [⟨s.cycle + d, p.a⟩] })
  | none => s
@[inherit_doc State.passEast] def State.passSouth (s : State) (p : StepPlan) : State := match p.south with
  | some (k, d) => s.updEl k (fun e => { e with opB := e.opB ++ [⟨s.cycle + d, p.b⟩] })
  | none => s

theorem State.passEast_other {p : StepPlan} {j : Nat} (away : ∀ k d, p.east = some (k, d) → k ≠ j) (s : State) :
    (s.passEast p).el j = s.el j := by
  unfold State.passEast
  split
  · rename_i k d goal
    exact State.el_updEl_other s _ (away k d goal).symm
  · rfl

theorem State.passSouth_other {p : StepPlan} {j : Nat} (away : ∀ k d, p.south = some (k, d) → k ≠ j) (s : State) :
    (s.passSouth p).el j = s.el j := by
  unfold State.passSouth
  split
  · rename_i k d goal
    exact State.el_updEl_other s _ (away k d goal).symm
  · rfl

theorem State.passSouth_opA (s : State) (p : StepPlan) (j : Nat) : ((s.passSouth p).el j).opA = (s.el j).opA := by
  unfold State.passSouth
  split
  · rename_i k d _
    by_cases here : j = k
    · subst here
      rw [State.el_updEl_same]
    · rw [State.el_updEl_other s _ here]
  · rfl

theorem State.mem_passEast {p : StepPlan} {k d : Nat} (goal : p.east = some (k, d)) (s : State) :
    (s.cycle + d, p.a) ∈ ((s.passEast p).el k).opA.map (fun b => (b.due, b.value)) := by
  simp only [State.passEast, goal, State.el_updEl_same, List.map_append, List.map_cons, List.map_nil]
  exact List.mem_append_right _ (List.mem_singleton_self _)

/-- The matrix state of the compute tile of an element's context. -/
def State.tileOf (s : State) (l : Loan) (x : ElCtx) (c : Nat) : Tile :=
  AMap.get (s.bay (l.bayKey (x.logical / 128))).tiles Tile.empty (tileKey (tileOfIndex x.logical) c)

theorem State.performStep_els (s : State) (l : Loan) (el c : Nat) (r : Run) (p : StepPlan) :
    (s.performStep l el c r p).els = (((s.updEl el (fun e => e.stepped c
      (stepCtx ((s.el el).ctx c) r (s.tileOf l ((s.el el).ctx c) c).fields p s.cycle) p s.cycle)).passEast p).passSouth p).els := by
  unfold State.performStep
  dsimp only
  split
  · split <;> rfl
  · rfl

/-- What a beat of a run leaves at its element and in the east. -/
theorem State.performStep_steps {s : State} (l : Loan) {el : Nat} (c : Nat) (r : Run) {p : StepPlan}
    (east : ∀ k d, p.east = some (k, d) → k ≠ el) (south : ∀ k d, p.south = some (k, d) → k ≠ el) :
    ((s.performStep l el c r p).el el).ctx c = stepCtx ((s.el el).ctx c) r (s.tileOf l ((s.el el).ctx c) c).fields p s.cycle ∧
      ((s.performStep l el c r p).el el).opA = (s.el el).opA.drop 1 ∧ ((s.performStep l el c r p).el el).opB = (s.el el).opB.drop 1 ∧
      ∀ k d, p.east = some (k, d) → (s.cycle + d, p.a) ∈ ((s.performStep l el c r p).el k).opA.map (fun b => (b.due, b.value)) := by
  have elsAt : ∀ k, (s.performStep l el c r p).el k = (((s.updEl el (fun e => e.stepped c
      (stepCtx ((s.el el).ctx c) r (s.tileOf l ((s.el el).ctx c) c).fields p s.cycle) p s.cycle)).passEast p).passSouth p).el k :=
    fun k => congrArg (fun m => AMap.get m Element.empty k) (s.performStep_els l el c r p)
  have own := (elsAt el).trans ((State.passSouth_other south _).trans ((State.passEast_other east _).trans (State.el_updEl_same s el _)))
  refine ⟨by rw [own, Element.ctx_stepped], congrArg Element.opA own, congrArg Element.opB own, fun k d goal => ?_⟩
  rw [elsAt, State.passSouth_opA]
  exact State.mem_passEast goal _

/-! ### Products of integers (R154, R218, R225) -/

/-- The product of two lanes of the words of a step, as 32 bits. -/
def laneProduct (a b : W64) (i j : Nat) : W32 := (a.extractLsb' (8 * i) 8).signExtend 32 * (b.extractLsb' (8 * j) 8).signExtend 32

theorem signedLane_extract (a : W64) (i : Nat) : signedLane 8 (a.toNat / 2 ^ (8 * i) % 256) = (a.extractLsb' (8 * i) 8).toInt := by
  have fits : a.toNat / 2 ^ (8 * i) % 256 < 2 ^ 8 := Nat.mod_lt _ (by decide)
  rw [← toInt_ofNat_lane (by decide) fits]
  refine congrArg BitVec.toInt (BitVec.eq_of_toNat_eq ?_)
  simp [BitVec.extractLsb'_toNat, Nat.shiftRight_eq_div_pow]

theorem mxAcc_i8x4 {f : MxFields} (ints : f.aty = .i8x4) (fade : Option W32) (c : W32) (a b : W64) (ha hb : BitVec 16) (i j : Nat) :
    mxAcc f fade c a b ha hb i j = (c + laneProduct a b i j, Flag.none) := by
  simp only [mxAcc, ints, if_true, signedLane_extract, BitVec.ofInt_add, BitVec.ofInt_mul, BitVec.ofInt_toInt, laneProduct, BitVec.signExtend]

/-- A fold that appends an entry for each step keeps the entries in order. -/
theorem foldl_append_fst {α β γ : Type} (k : α → β) (g : γ → α → γ) (qs : List α) (as : List β) (x : γ) :
    (qs.foldl (fun (m : List β × γ) q => (m.1 ++ [k q], g m.2 q)) (as, x)).1 = as ++ qs.map k := by
  induction qs generalizing as x with
  | nil => exact (List.append_nil as).symm
  | cons q qs ih => rw [List.foldl_cons, ih, List.append_assoc]; rfl

/-- The accumulators that a step on integers writes, each with its product added. -/
def productsInto (acc : AMap W32) (p : StepPlan) (beat : Nat) : List (Nat × W32) :=
  (beatAccs .i8x4 beat).map (fun q => (8 * q.2.2.1 + q.2.2.2, AMap.get acc 0 (8 * q.2.2.1 + q.2.2.2) + laneProduct p.a p.b q.1 q.2.1))

theorem stepCtx_i8x4 (x : ElCtx) {r : Run} {f : MxFields} (p : StepPlan) (now : Nat) (ints : f.aty = .i8x4) (later : r.done ≠ 0)
    (settled : r.writes = []) : ∃ r' w, (stepCtx x r f p now).run = some r' ∧ r'.writes = [w] ∧ w.due = now + 3 ∧
      w.accs = productsInto x.acc p r.beat ∧ w.clear = false := by
  have notFirst : (r.done == 0) = false := beq_false_of_ne later
  refine ⟨_, _, rfl, congrArg (· ++ _) settled, rfl, ?_, ?_⟩
  · simp only [settled, notFirst, ints, Bool.false_and, Bool.false_eq_true, if_false, ElCtx.lattice, List.foldl_nil, mxAcc_i8x4 ints]
    rw [foldl_append_fst (fun q : Nat × Nat × Nat × Nat => (8 * q.2.2.1 + q.2.2.2,
      AMap.get x.acc 0 (8 * q.2.2.1 + q.2.2.2) + laneProduct p.a p.b q.1 q.2.1)) (fun (fl : Flags) _ => fl ||| Flag.none), List.nil_append,
      productsInto]
  · simp only [notFirst, Bool.false_and]

/-- What a write in which every write of a place has one value leaves there. -/
theorem AMap.get_foldl_put_of_mem {β : Type} (m : AMap β) (d : β) {ws : List (Nat × β)} {n : Nat} {v : β} (there : (n, v) ∈ ws)
    (one : ∀ w ∈ ws, w.1 = n → w.2 = v) : AMap.get (ws.foldl (fun m w => AMap.put m w.1 w.2) m) d n = v := by
  rw [AMap.get_foldl_put]
  cases found : ws.reverse.find? (fun w => w.1 == n) with
  | none => exact absurd (beq_self_eq_true n) (List.find?_eq_none.mp found (n, v) (List.mem_reverse.mpr there))
  | some w =>
    have place := List.find?_some (p := fun (w : Nat × β) => w.1 == n) found
    exact one w (List.mem_reverse.mp (List.mem_of_find?_eq_some found)) (beq_iff_eq.mp place)

theorem mem_beatAccs_i8x4 {q : Nat × Nat × Nat × Nat} {beat : Nat} :
    q ∈ beatAccs .i8x4 beat ↔ ∃ i j, i < 8 ∧ j < 8 ∧ q = (i, j, i, j) := by
  simp only [beatAccs, stepBeats, reduceCtorEq, or_self, if_false, OfNat.one_ne_ofNat, List.mem_flatMap, List.mem_map, List.mem_range]
  constructor
  · rintro ⟨i, row, j, col, rfl⟩
    exact ⟨i, j, row, col, rfl⟩
  · rintro ⟨i, j, row, col, rfl⟩
    exact ⟨i, row, j, col, rfl⟩

theorem get_productsInto (acc : AMap W32) (p : StepPlan) (beat : Nat) {i j : Nat} (row : i < 8) (col : j < 8) :
    AMap.get ((productsInto acc p beat).foldl (fun m w => AMap.put m w.1 w.2) acc) 0 (8 * i + j) =
      AMap.get acc 0 (8 * i + j) + laneProduct p.a p.b i j := by
  have listed : (i, j, i, j) ∈ beatAccs .i8x4 beat := mem_beatAccs_i8x4.mpr ⟨i, j, row, col, rfl⟩
  refine AMap.get_foldl_put_of_mem acc 0 (List.mem_map.mpr ⟨_, listed, rfl⟩) fun w there same => ?_
  obtain ⟨q, written, rfl⟩ := List.mem_map.mp there
  obtain ⟨i', j', row', col', rfl⟩ := mem_beatAccs_i8x4.mp written
  have place : i' = i ∧ j' = j := by simp only at same; omega
  rw [place.1, place.2]

/-! ### The turn of an element of an array (R219, R224, R225) -/

/-- An element's context with the writes that are due made. -/
def State.madeDue (s : State) (el c : Nat) : State := s.updEl el (fun e => e.updCtx c (fun x => x.mxDue s.cycle))

/-- The side beats of an element of a tile in matrix mode go on. -/
def State.sentSides (s : State) (l : Loan) (el c : Nat) : State :=
  let v := s.madeDue el c
  if (v.tileOf l ((v.el el).ctx c) c).mode == .matrix && !l.ended then (v.sideBeat l el c false).sideBeat l el c true else v

theorem State.ctx_madeDue (s : State) (el c : Nat) : ((s.madeDue el c).el el).ctx c = ((s.el el).ctx c).mxDue s.cycle := by
  rw [State.madeDue, State.el_updEl_same, Element.ctx_updCtx_same]

theorem State.tileOf_madeDue (s : State) (l : Loan) (el c : Nat) :
    (s.madeDue el c).tileOf l (((s.madeDue el c).el el).ctx c) c = s.tileOf l ((s.el el).ctx c) c := by
  rw [State.tileOf, State.ctx_madeDue, (ElCtx.mxDue_same _ _).2]
  rfl

theorem State.sentSides_eq (s : State) (l : Loan) (el c : Nat) : s.sentSides l el c =
    if (s.tileOf l ((s.el el).ctx c) c).mode == .matrix && !l.ended then ((s.madeDue el c).sideBeat l el c false).sideBeat l el c true
    else s.madeDue el c := by
  rw [State.sentSides, State.tileOf_madeDue]

theorem State.sentSides_scalesMove (s : State) (l : Loan) (el c : Nat) : ScalesMove (s.madeDue el c) (s.sentSides l el c) := by
  rw [State.sentSides_eq]
  split
  · exact (State.sideBeat_scalesMove _ _ _ _ _).trans (State.sideBeat_scalesMove _ _ _ _ _)
  · exact .refl _

/-- A beat of a run, if one is left and everything for it is there. -/
def State.stepRun (s : State) (l : Loan) (el c : Nat) : Option Run → State
  | none => s
  | some r =>
    if r.total ≤ r.done ∨ l.ended then s
    else match planStep s l el c r with
    | none => s
    | some p => s.performStep l el c r p

theorem State.stepRun_stays {s : State} {l : Loan} {el c : Nat} {r : Run}
    (stays : r.total ≤ r.done ∨ l.ended = true ∨ planStep s l el c r = none) : s.stepRun l el c (some r) = s := by
  rw [← or_assoc] at stays
  by_cases past : r.total ≤ r.done ∨ l.ended = true
  · exact if_pos past
  · simp only [State.stepRun, past, stays.resolve_left past, if_false]

theorem State.stepRun_steps {s : State} {l : Loan} {el c : Nat} {r : Run} {p : StepPlan} (more : r.done < r.total) (works : l.ended = false)
    (plan : planStep s l el c r = some p) : s.stepRun l el c (some r) = s.performStep l el c r p := by
  simp only [State.stepRun, Nat.not_le.mpr more, works, plan, Bool.false_eq_true, or_self, if_false]

theorem exec_matrixStep {s : State} {el c id : Nat} {l : Loan} (holds : ((s.el el).ctx c).loan = some id) (loan : AMap.find s.loans id = some l) :
    exec (.matrixStep el c) s = .next ((s.sentSides l el c).stepRun l el c (((s.madeDue el c).el el).ctx c).run) := by
  have beat : ∀ (u : State) (run : Option Run), (match run with
      | none => Host.Outcome.next u
      | some r =>
        if r.total ≤ r.done ∨ l.ended then .next u
        else match planStep u l el c r with
        | none => .next u
        | some p => .next (u.performStep l el c r p)) = Host.Outcome.next (φ := Fault) (ρ := Refusal) (u.stepRun l el c run) := fun u run => by
    cases run with
    | none => rfl
    | some r =>
      simp only [State.stepRun]
      split
      · rfl
      · cases planStep u l el c r <;> rfl
  show execMatrixStep el c s = _
  simp only [execMatrixStep, holds, loan]
  exact beat _ _

/-- A STEP OF AN ARRAY on integers, after the first of its run, adds the products of the words' lanes to the accumulators, three cycles later. -/
theorem stepCtx_products (x : ElCtx) {r : Run} {f : MxFields} (p : StepPlan) (now : Nat) (ints : f.aty = .i8x4) (later : r.done ≠ 0)
    (settled : r.writes = []) : ∃ r' w, (stepCtx x r f p now).run = some r' ∧ r'.writes = [w] ∧ w.due = now + 3 ∧
      ∀ i j, i < 8 → j < 8 → AMap.get (w.into x.acc) 0 (8 * i + j) = AMap.get x.acc 0 (8 * i + j) + laneProduct p.a p.b i j := by
  obtain ⟨r', w, run, writes, due, accs, clear⟩ := stepCtx_i8x4 x p now ints later settled
  refine ⟨r', w, run, writes, due, fun i j row col => ?_⟩
  rw [MxWrite.into, accs, clear, if_neg Bool.false_ne_true, get_productsInto x.acc p r.beat row col]

/-- What a beat of a run leaves, from the state before the element's turn. -/
theorem matrixStep_steps {s : State} {el c id : Nat} {l : Loan} {r : Run} {p : StepPlan} (holds : ((s.el el).ctx c).loan = some id)
    (loan : AMap.find s.loans id = some l) (run : (((s.madeDue el c).el el).ctx c).run = some r) (more : r.done < r.total) (works : l.ended = false)
    (plan : planStep (s.sentSides l el c) l el c r = some p) (east : ∀ k d, p.east = some (k, d) → k ≠ el)
    (south : ∀ k d, p.south = some (k, d) → k ≠ el) : Completes (.matrixStep el c) s (fun t =>
      (t.el el).ctx c = stepCtx (((s.madeDue el c).el el).ctx c) r (s.tileOf l ((s.el el).ctx c) c).fields p s.cycle ∧
      (t.el el).opA = (s.el el).opA.drop 1 ∧ (t.el el).opB = (s.el el).opB.drop 1 ∧
      ∀ k d, p.east = some (k, d) → (s.cycle + d, p.a) ∈ (t.el k).opA.map (fun b => (b.due, b.value))) := by
  have runs := exec_matrixStep holds loan
  rw [run, State.stepRun_steps more works plan] at runs
  have moved := s.sentSides_scalesMove l el c
  have tile : (s.sentSides l el c).tileOf l (((s.madeDue el c).el el).ctx c) c = s.tileOf l ((s.el el).ctx c) c := by
    rw [← s.tileOf_madeDue l el c, State.tileOf, moved.frame]
    rfl
  have cycle : (s.sentSides l el c).cycle = s.cycle := by rw [moved.frame]; rfl
  have buffers : ((s.madeDue el c).el el).opA = (s.el el).opA ∧ ((s.madeDue el c).el el).opB = (s.el el).opB := by
    rw [State.madeDue, State.el_updEl_same]
    exact ⟨rfl, rfl⟩
  obtain ⟨ctx, opA, opB, passed⟩ := State.performStep_steps (s := s.sentSides l el c) l c r east south
  rw [moved.ctx, tile, cycle] at ctx
  rw [cycle] at passed
  obtain ⟨-, movedA, movedB⟩ := moved.el el
  exact ⟨_, runs, ctx, by rw [opA, movedA, buffers.1], by rw [opB, movedB, buffers.2], passed⟩

/-- Settles O42: the ramp that ends, the feeder that asks, the bank that reads a beat, the turn of an array's element, the run that ends,
and the record that takes effect. -/
theorem arraysAtWork : Obligations.ArraysAtWork := by
  intro s id l loan
  refine ⟨fun at0 bay k c rest ramps => ?ramp, ?feed, ?bank, fun el c holds => ?step, fun el c r run holds => runEnd_frees run holds loan,
    fun bay k c isB r a queue closed delivered => ?record⟩
  case ramp =>
    refine (rampTurnEnd_ramps loan ramps).imp fun t ⟨tile, gone, next⟩ => ?_
    rw [tile]
    exact ⟨Tile.ramped_mode _, ⟨_, gone, rfl⟩, next, fun m ms counted full => Tile.ramped_full counted full⟩
  case feed =>
    intro index isB c n a w works only bay feed r place lanes idle lane running owed unasked unbounded started plain window tile inside room
    exact (feedBeat_asks loan works only index isB rfl lanes idle lane owed unasked unbounded running started plain window tile inside room).imp
      fun t ⟨tmem, mem, entry⟩ => ⟨tmem, mem, _, entry, rfl, rfl⟩
  case bank =>
    intro b tile bank e index c isB n bay key a r w alone job arrived free last sound read asked place word beat
    refine (bankAccess_beat loan read asked alone job arrived free last sound).imp fun t ⟨tmem, mem, enters⟩ =>
      ⟨tmem, mem, fun rows => ?_, fun columns => ?_⟩
    · subst rows
      exact congrArg Element.opA enters
    · subst columns
      exact congrArg Element.opB enters
  case step =>
    intro tile v u
    have turn : u = s.sentSides l el c := (s.sentSides_eq l el c).symm
    rw [turn]
    refine ⟨fun idle => ?_, fun r run => ⟨fun stays => ?_, fun p more works plan east south => ?_⟩⟩
    · exact ⟨_, exec_matrixStep holds loan, congrArg _ idle⟩
    · exact ⟨_, exec_matrixStep holds loan, (congrArg _ run).trans (State.stepRun_stays stays)⟩
    · refine (matrixStep_steps holds loan run more works plan east south).imp fun t ⟨ctx, opA, opB, passed⟩ =>
        ⟨ctx, opA, opB, passed, fun ints later settled => ?_⟩
      rw [ctx]
      exact stepCtx_products _ p s.cycle ints later settled
  case record =>
    refine (layoutRecordApply_applies queue closed delivered).imp fun t feed => ?_
    rw [feed]
    exact ⟨rfl, rfl, Feed.apply_lanes _ r, rfl⟩

end Sys2Proof.Machine
end

section
/-! PROOFS. O17, O15, O14: commands on decant templates, fences and drop counters, and the faults of memory handlers at their element. -/
namespace Sys2Proof.Machine

/-- The latency of a command of the handler in focus (R294, R295). -/
theorem commandLatency_eq {s : State} {f : FireCtx} (runs : fireCtx? s = some f) (h : Hdr) (b : FY) :
    commandLatency h b s = liveLatency s f (shapeY h b 1) (f.commandRoute b + 1) := by
  simp only [commandLatency, runs]

/-- A live command whose output waits for its bay (R294, R295): it sends nothing yet, and the command goes to its template's bay. -/
theorem FiresAt.of_fireCommand {i : Instr} {h : Hdr} {b : FY} {op : DOp} {s : State} {f : FireCtx} (runs : fireCtx? s = some f)
    (he : exec i s = fireCommand h b op s) :
    FiresAt i s (shapeY h b (liveLatency s f (shapeY h b 1) (f.commandRoute b + 1))) (byMode (shapeY h b 1))
      (fun f g => g.live = true ∧ LateOk f g h b.d0) (fun _ _ => Eff.none)
      (fun f g s => s.sendCommand f b op (f.lateFlit h (Out.std f g b.d0 (g.op 0)))) := by
  rw [fireCommand, commandLatency_eq runs] at he
  exact FiresAt.of_fire _ he (fun f g ⟨live, ok⟩ => congrArg some (lateEff_live live ok)) fun f g u ⟨live, _⟩ => if_pos live

/-- Settles O17: `DARM` emits after the way, `DCAN` and `DSTAT` are commands whose output waits (`FiresAt.of_fireCommand`), and `DFIRE` places
its trigger where its template and the fire queue take it. -/
theorem decantCommands : Obligations.DecantCommands := by
  refine ⟨fun h b s f runs => ?darm, fun h b s f runs => ?dcan, fun h b s f runs => ?dstat, fun h b s t m => ?dfire⟩
  case darm =>
    have he : exec (.darm h b) s = execDarm h b s := rfl
    rw [execDarm, commandLatency_eq runs] at he
    exact FiresAt.of_fire _ he (fun _ _ _ => rfl) fun _ _ _ _ => rfl
  case dcan => exact FiresAt.of_fireCommand runs (show execDcan h b s = _ from rfl)
  case dstat => exact FiresAt.of_fireCommand runs (show execDstat h b s = _ from rfl)
  case dfire =>
    refine FiresAt.intro_congr _ (show execDfire h b s = fire _ _ _ s from rfl) (fun f g ⟨_, template, free, room⟩ => ?_)
      fun f g u ⟨live, template, _⟩ => ?_
    · have goes : ¬((h.mode = .queue ∧ ((s.bay (f.templateBay m)).template (templKey f.ctx t)).arm = true) ∨
          16 ≤ (s.bay (f.templateBay m)).fireQueue.length) := not_or.mpr ⟨free, Nat.not_le.mpr room⟩
      simp only [template, goes, if_false]
    · simp only [template, live, if_true] <;> rfl

/-- Settles O15: a fence waits only for its release, and takes its place among the SC operations; `CGRP` names a group and a member of it. -/
theorem fencesAndDropCounters : Obligations.FencesAndDropCounters := by
  refine ⟨fun h b s f runs => ?fence, fun h b s f runs grp m => ?cgrp⟩
  case fence =>
    have he : exec (.fence h b) s = execFence h b s := rfl
    simp only [execFence, runs] at he
    refine FiresAt.of_fire _ he (fun f g release => if_neg ?_) fun f g u _ => ?_
    · simp only [Bool.and_eq_true, decide_eq_true_eq, Bool.not_eq_true', not_and, Bool.not_eq_false]
      exact fun ⟨live, strong⟩ => release live strong
    · cases live : g.live <;> cases four : b.scode.toNat / 8 % 8 == 4 <;> simp [bne, four]
  case cgrp =>
    have he : exec (.cgrp h b) s = execCgrp h b s := rfl
    simp only [execCgrp, runs] at he
    refine FiresAt.of_fire _ he (fun f g ⟨live, short, hgrp, hm, x, group, member⟩ => ?_) fun _ _ _ _ => rfl
    rw [hgrp] at group ⊢
    rw [hm] at member ⊢
    simp only [live, short, group, member, ne_eq, not_true, Bool.not_true, Bool.false_eq_true, if_true, if_false]

/-- A memory handler whose live firing is misaligned or outside its window places no request, and what it does beyond its element is the
fault (R280). -/
theorem FaultsAtElement.of_fireMem {i : Instr} {sh : Shape} {h : Hdr} {b : FM} {kind : AccKind} {o : Bool} {ask : FireCtx → Got → Window → MemAsk}
    (he : ∀ s, exec i s = fireMem sh h b kind o ask s) : FaultsAtElement i sh h b kind o ask := by
  intro s f g w out code off issues window tag live accepted fault goes
  have performs : ∃ perform after, exec i s = fire (memShape s b sh) perform after s ∧
      perform f g = some { Eff.none with ownPost := true } ∧
      ∀ u, after f g u = memFault f g (memRequest f g h b w kind out (ask f g w).op (ask f g w).off o) w code off u := by
    refine ⟨_, _, he s, ?_, fun u => ?_⟩
    · simp only [window, tag, live, accepted, fault, Option.isSome_some, Bool.false_eq_true, if_true, if_false]
    · simp only [window, tag, live, accepted, fault, Bool.false_eq_true, if_true, if_false]
  obtain ⟨perform, after, runs, effect, faults⟩ := performs
  obtain ⟨u, fired, next⟩ := fireFrom_fires (after := after) issues effect goes
  exact ⟨_, runs.trans next, u, fired, faults u⟩

/-- Settles O14: every one is a firing of the memory handler (`FaultsAtElement.of_fireMem`) with its own question. -/
theorem memoryFaultsAtElement : Obligations.MemoryFaultsAtElement := by
  refine fun h b => ⟨?ld, ?st, ?lds, ?ldq, ?sendc⟩
  case ld => exact FaultsAtElement.of_fireMem fun s => show execLd h b s = _ from rfl
  case st => exact FaultsAtElement.of_fireMem fun s => show execSt h b s = _ from rfl
  case lds => exact FaultsAtElement.of_fireMem fun s => show execLds h b s = _ from rfl
  case ldq => exact FaultsAtElement.of_fireMem fun s => show execLdq h b s = _ from rfl
  case sendc => exact FaultsAtElement.of_fireMem fun s => show execSendc h b s = _ from rfl

end Sys2Proof.Machine
end

section
/-! PROOFS. O19 to O21: traps, the system instructions, and configuration calls. -/
namespace Sys2Proof.Machine

/-- A live firing that parks its own frame, which is there, keeps its late output until `RESUME` (R342, R358). -/
theorem State.parkOwn_live {f : FireCtx} {g : Got} {fr : Frame} (live : g.live = true) (frame : AMap.find f.l.frames g.tag.frame.toNat = some fr)
    (held : fr.released = false) (h : Hdr) (b : FY) (stop : List Kept → State → State) (s : State) :
    s.parkOwn f g h b stop = stop ((f.lateFlit h (Out.std f g b.d0 (g.op 0))).toList.map (fun x => .emit f.index [x]))
      (s.bornFlit f.id (f.lateFlit h (Out.std f g b.d0 (g.op 0)))) := by
  have here : (AMap.find f.l.frames g.tag.frame.toNat).any (fun x => !x.released) = true := by simp [frame, held]
  simp only [State.parkOwn, live, here, Bool.not_true, Bool.false_eq_true, if_true, if_false]
  cases f.lateFlit h (Out.std f g b.d0 (g.op 0)) <;> rfl

/-- A trap's live firing takes its exception with its output kept (R340, R358). -/
theorem FiresAt.of_fireTrap {i : Instr} {h : Hdr} {b : FY} {code : Nat} {s : State} (he : exec i s = fireTrap h b code s) :
    FiresAt i s (shapeY h b 1) (byMode (shapeY h b 1))
      (fun f g => g.live = true ∧ LateOk f g h b.d0 ∧ ∃ fr, AMap.find f.l.frames g.tag.frame.toNat = some fr ∧ fr.released = false)
      (fun _ _ => Eff.none)
      (fun f g s =>
        let flit := f.lateFlit h (Out.std f g b.d0 (g.op 0))
        (s.bornFlit f.id flit).raise (f.report g code (BitVec.ofNat 64 ((g.op 0).toNat + b.sarg.toNat * 2 ^ 32))) f.info.counted
          (flit.toList.map (fun x => .emit f.index [x]))) :=
  FiresAt.of_fire _ he (fun _ _ ⟨live, ok, _⟩ => congrArg some (lateEff_live live ok))
    fun _ _ _ ⟨live, _, _, frame, held⟩ => State.parkOwn_live live frame held _ _ _ _

/-- Settles O19: `TRAP` and `BRK` are traps with their own code (`FiresAt.of_fireTrap`); `PARK` parks the same way without a record. -/
theorem traps : Obligations.Traps := by
  refine ⟨fun h b s => ?trap, fun h b s => ?park⟩
  case trap =>
    simp only [List.forall_mem_cons]
    exact ⟨FiresAt.of_fireTrap (show execTrap h b s = _ from rfl), FiresAt.of_fireTrap (show execBrk h b s = _ from rfl), List.forall_mem_nil _⟩
  case park =>
    refine FiresAt.of_fire _ (show execPark h b s = _ from rfl) (fun f g ⟨live, room, ok, _⟩ => ?_) fun f g u ⟨live, _, _, fr, frame, held⟩ => ?_
    · simp only [lateEff_live live ok, decide_eq_false (Nat.not_le.mpr room), Bool.and_false, Bool.false_eq_true, if_false]
    · rw [State.parkOwn_live live frame held]
      exact if_pos (by simp [frame, held])

/-- Settles O20: each instruction performs its effect under its condition, and what it does in a live firing alone is done under it. -/
theorem systemInstructions : Obligations.SystemInstructions := by
  refine ⟨fun h b s => ?prio, fun h b s => ?fltrd, fun h b s => ?perfrd, fun h b s => ?timerd, fun h b s => ?cflush, fun h b s => ?resume,
    fun h b s => ?scanout, fun h b s => ?scanin⟩
  case prio =>
    refine FiresAt.of_fire _ (show execPrio h b s = _ from rfl) (fun _ _ _ => rfl) fun f g u ⟨live, lock⟩ => if_neg ?_
    simp [live, lock]
  case fltrd => exact FiresAt.of_fire _ (show execFltrd h b s = _ from rfl) (fun _ _ _ => rfl) fun _ _ _ _ => rfl
  case perfrd => exact FiresAt.of_fire _ (show execPerfrd h b s = _ from rfl) (fun _ _ _ => rfl) fun _ _ _ _ => rfl
  case timerd => exact FiresAt.of_fire _ (show execTimerd h b s = _ from rfl) (fun _ _ _ => rfl) fun _ _ _ _ => rfl
  case cflush => exact FiresAt.intro _ (show execCflush h b s = _ from rfl) fun _ _ _ _ => rfl
  case resume =>
    refine FiresAt.of_fire _ (show execResume h b s = _ from rfl) (fun f g ⟨live, good⟩ => ?_) fun f g u ⟨live, good⟩ => ?_
    · simp only [live, good, Bool.not_true, Bool.false_eq_true, if_false]
    · simp only [live, good, Bool.not_false, Bool.and_self, if_true] <;> rfl
  case scanout =>
    refine FiresAt.of_fire _ (show execScanout h b s = _ from rfl) (fun f g ⟨live, good, ok⟩ => ?_) fun _ _ _ _ => rfl
    simp only [good, lateEff_live live ok, Bool.and_false, Bool.false_eq_true, if_false]
  case scanin =>
    refine FiresAt.of_fire _ (show execScanin h b s = _ from rfl) (fun f g ⟨live, good, ok⟩ => ?_) fun _ _ _ _ => rfl
    simp only [good, lateEff_live live ok, Bool.and_false, Bool.false_eq_true, if_false]

/-- Settles O21: a live `CCALL` calls where it may, a dead one sends dead results and begins no call, and `CRET` returns from a called
activation. -/
theorem configurationCalls : Obligations.ConfigurationCalls := by
  refine ⟨fun h b s => ?live, fun h b s => ?dead, fun h b s => ?cret⟩
  case live =>
    refine FiresAt.of_fire _ (show execCcall h b s = _ from rfl) (fun f g ⟨live, tag, may⟩ => ?_) fun f g u ⟨live, _⟩ => if_pos live
    simp only [live, may, Option.isNone_eq_false_iff.mpr tag, Bool.not_true, Bool.false_eq_true, if_true, if_false]
  case dead =>
    refine FiresAt.of_fire _ (show execCcall h b s = _ from rfl) (fun f g dead => ?_) fun f g u dead => if_neg (ne_true_of_eq_false dead)
    simp only [dead, Bool.not_false, if_true, ccallDead, ccallResults]
  case cret =>
    refine FiresAt.of_fire _ (show execCret h b s = _ from rfl) (fun f g ⟨⟨act, a, running, called⟩, idle, thawed⟩ => ?_) fun _ _ _ _ => rfl
    simp only [running, Option.isNone_eq_false_iff.mpr called, idle, thawed, Bool.or_self, Bool.false_eq_true, if_false]

end Sys2Proof.Machine
end

section
/-! PROOFS. O58: taking an exception makes its record, parks the frame with what it keeps, and touches no other loan. -/
namespace Sys2Proof.Machine

/-! ### A frame that stays parked (R342, R343) -/

/-- A loan has a frame parked with some kept work. -/
def Loan.keeps (l : Loan) (f : Nat) (ks : List Kept) : Prop :=
  ∃ fr, AMap.find l.frames f = some fr ∧ fr.released = false ∧ fr.parked.map Parked.kept = some ks

/-- A change after which a loan's parked frame is still parked, with the kept work that it had. -/
def ParkedStill (id f : Nat) (s t : State) : Prop :=
  ∀ l ks, AMap.find s.loans id = some l → l.keeps f ks → ∃ l', AMap.find t.loans id = some l' ∧ l'.keeps f ks

section
variable {id f : Nat}

theorem ParkedStill.refl (s : State) : ParkedStill id f s s := fun l _ here keeps => ⟨l, here, keeps⟩

theorem ParkedStill.trans {s t u : State} (h : ParkedStill id f s t) (k : ParkedStill id f t u) : ParkedStill id f s u :=
  fun l ks here keeps => by
    obtain ⟨l', here', keeps'⟩ := h l ks here keeps
    exact k l' ks here' keeps'

theorem ParkedStill.foldl {β : Type} (g : State → β → State) (h : ∀ s b, ParkedStill id f s (g s b)) (bs : List β) (s : State) :
    ParkedStill id f s (bs.foldl g s) := foldl_rel .refl (fun h k => h.trans k) g h bs s

theorem ParkedStill.of_loans {s t : State} (h : t.loans = s.loans) : ParkedStill id f s t := fun l _ here keeps => ⟨l, h ▸ here, keeps⟩

theorem ParkedStill.updLoan (s : State) (j : Nat) {g : Loan → Loan} (h : ∀ l ks, l.keeps f ks → (g l).keeps f ks) :
    ParkedStill id f s (s.updLoan j g) := fun l ks here keeps => by
  by_cases same : id = j
  · subst same
    exact ⟨g l, by rw [State.find_updLoan_same, here]; rfl, h l ks keeps⟩
  · exact ⟨l, by rw [State.find_updLoan_other s g same]; exact here, keeps⟩

/-- A change of a loan that leaves its frames alone. -/
theorem ParkedStill.updLoan_frames (s : State) (j : Nat) {g : Loan → Loan} (h : ∀ l, (g l).frames = l.frames) :
    ParkedStill id f s (s.updLoan j g) := .updLoan s j fun l _ keeps => by unfold Loan.keeps; rw [h]; exact keeps

/-- A frame put back that is released as before and keeps what it kept. -/
theorem Loan.keeps_putFrame {l l' : Loan} {j : Nat} {ks : List Kept} (keeps : l.keeps f ks) {fr fr' : Frame}
    (frame : AMap.find l.frames j = some fr) (frames : l'.frames = AMap.put l.frames j fr') (held : fr'.released = fr.released)
    (kept : fr'.parked.map Parked.kept = fr.parked.map Parked.kept) : l'.keeps f ks := by
  obtain ⟨fr0, frame0, held0, kept0⟩ := keeps
  unfold Loan.keeps
  rw [frames]
  by_cases here : f = j
  · subst here
    obtain rfl := Option.some.inj (frame.symm.trans frame0)
    exact ⟨fr', AMap.find_put_same _ _ _, held.trans held0, kept.trans kept0⟩
  · exact ⟨fr0, (AMap.find_put_other _ _ here).trans frame0, held0, kept0⟩

/-- `LIVE` of a frame that is not released may change: the frame stays (R52). -/
theorem Loan.keeps_addLive {l : Loan} {ks : List Kept} (keeps : l.keeps f ks) (j : Nat) (n : Int) : (l.addLive j n).keeps f ks := by
  unfold Loan.addLive
  cases found : AMap.find l.frames j with
  | none => exact keeps
  | some x =>
    dsimp only
    split
    · rename_i gone
      obtain ⟨fr, frame, held, kept⟩ := keeps
      have other : f ≠ j := by
        rintro rfl
        obtain rfl := Option.some.inj (frame.symm.trans found)
        exact Bool.false_ne_true (held.symm.trans gone.1)
      exact ⟨fr, (AMap.find_del_other _ other).trans frame, held, kept⟩
    · exact Loan.keeps_putFrame keeps found rfl rfl rfl

/-- Operands written back into slots leave what a frame keeps. -/
theorem Frame.refill_parked (fr : Frame) (b n : Nat) (ops : List (Nat × QEntry)) :
    (fr.refill b n ops).parked = fr.parked ∧ (fr.refill b n ops).released = fr.released := by
  induction ops generalizing fr n with
  | nil => exact ⟨rfl, rfl⟩
  | cons o ops ih => exact ih _ _

/-! ### What taking an exception does to a frame that it parks -/

theorem State.ack_parkedStill (s : State) (loan b : Nat) (its : List (Nat × List Nat)) : ParkedStill id f s (s.ack loan b its) := by
  obtain ⟨a, acked⟩ := ack_eq s loan b its
  exact .of_loans (by rw [acked])

theorem State.gone_parkedStill (s : State) (loan b : Nat) (t : Tag) (its : List (Nat × List Nat)) :
    ParkedStill id f s (s.gone loan b t its) :=
  (ParkedStill.updLoan s loan (fun _ _ keeps => Loan.keeps_addLive keeps _ _)).trans (State.ack_parkedStill _ _ _ _)

theorem State.dropFlit_parkedStill (s : State) (b : Nat) (x : Flit) : ParkedStill id f s (s.dropFlit b x) := by
  unfold State.dropFlit; split
  · exact State.gone_parkedStill _ _ _ _ _
  · exact .refl s

/-- A place in the park stores changes no frame of a loan. -/
theorem State.parkTake_frames (s : State) (loan b j : Nat) (tag : Option Tag) {l : Loan} (here : AMap.find s.loans j = some l) :
    ∃ l', AMap.find (s.parkTake loan b tag).2.loans j = some l' ∧ l'.frames = l.frames := by
  have upd : ∀ g : Loan → Loan, (∀ l, (g l).frames = l.frames) →
      ∃ l', AMap.find (s.updLoan loan g).loans j = some l' ∧ l'.frames = l.frames := fun g same => by
    by_cases own : j = loan
    · subst own; exact ⟨g l, by rw [State.find_updLoan_same, here]; rfl, same l⟩
    · exact ⟨l, by rw [State.find_updLoan_other s g own, here], rfl⟩
  unfold State.parkTake; split
  · exact ⟨l, here, rfl⟩
  · split
    · exact ⟨l, here, rfl⟩
    · split
      · exact upd _ fun _ => rfl
      · split
        · exact upd _ fun _ => rfl
        · exact ⟨l, here, rfl⟩

theorem State.parkGive_parkedStill (s : State) (loan place : Nat) : ParkedStill id f s (s.parkGive loan place) := by
  unfold State.parkGive; split
  · exact .refl s
  · dsimp only; split
    · exact .of_loans rfl
    · exact .updLoan_frames s _ fun _ => rfl
    · exact .updLoan_frames s _ fun _ => rfl
    · exact .refl s

/-- A token parked with its frame leaves what the frame keeps. -/
theorem State.parkFlit_parkedStill (s : State) (b j : Nat) (x : Flit) : ParkedStill id f s (s.parkFlit b j x) := by
  unfold State.parkFlit; split
  · exact .refl s
  · rename_i l loan
    split
    · exact .refl s
    · rename_i fr frame
      split
      · exact .refl s
      · rename_i p parked
        split
        · exact State.dropFlit_parkedStill _ _ _
        · intro l0 ks here keeps
          obtain ⟨l1, here1, frames1⟩ := State.parkTake_frames s x.loan b id (x.emit.entry.map QEntry.tag) here
          by_cases own : id = x.loan
          · subst own
            obtain rfl := Option.some.inj (loan.symm.trans here)
            refine ⟨_, by rw [State.find_updLoan_same, here1]; rfl, Loan.keeps_putFrame (fr' := ?new) keeps frame ?put ?held ?kept⟩
            case put => exact congrArg (fun m => AMap.put m j _) frames1
            case held => rfl
            case kept => rw [parked]; rfl
          · refine ⟨l1, by rw [State.find_updLoan_other _ _ own]; exact here1, ?_⟩
            unfold Loan.keeps; rw [frames1]; exact keeps

theorem State.withdraw_parkedStill (s : State) (j g : Nat) : ParkedStill id f s (s.withdraw j g) := by
  unfold State.withdraw; split
  · exact .refl s
  · refine .foldl _ (fun s p => ?_) _ _
    refine ParkedStill.trans ?_ (.foldl _ (fun u x => u.parkFlit_parkedStill _ _ _) _ _)
    refine (ParkedStill.of_loans (State.updEl_loans s _ _)).trans (.foldl _ (fun u x => ?_) _ _)
    obtain ⟨index, r⟩ := x
    refine .updLoan u j fun l ks keeps => ?_
    dsimp only
    split
    · exact keeps
    · rename_i fr frame
      obtain ⟨parked, held⟩ := fr.refill_parked (index / 128) (slotBase (hinfoOf (l.imageOf r.ctx) (handlerKey index r.hnd)) r.tag) r.ops.dropLast
      exact Loan.keeps_putFrame keeps frame rfl held (congrArg _ parked)

theorem State.withdrawAccs_parkedStill (s : State) (j g : Nat) (faults : List (List Nat × Nat)) : ParkedStill id f s (s.withdrawAccs j g faults) := by
  unfold State.withdrawAccs; split
  · exact .refl s
  · refine .foldl _ (fun s p => ?_) _ _
    dsimp only
    split
    · split
      · exact (ParkedStill.of_loans rfl).trans (State.gone_parkedStill ((({ s with accs := AMap.del s.accs p.1 } : State).updEl p.2.el _)) _ _ _ _)
      · exact .of_loans rfl
    · exact .refl s

theorem State.withdrawTriggers_parkedStill (s : State) (j g : Nat) (faults : List (List Nat × Nat)) :
    ParkedStill id f s (s.withdrawTriggers j g faults) := by
  unfold State.withdrawTriggers; split
  · exact .refl s
  · refine .foldl _ (fun s b => ?_) _ _
    dsimp only
    split
    · exact .refl s
    · exact (ParkedStill.of_loans (State.updBay_loans s _ _)).trans (.foldl _ (fun u x => u.gone_parkedStill _ _ _ _) _ _)

theorem State.dropOrdered_parkedStill (s : State) (j g : Nat) (faults : List (List Nat × Nat)) : ParkedStill id f s (s.dropOrdered j g faults) := by
  unfold State.dropOrdered; split
  · exact .refl s
  · exact .of_loans rfl

theorem Loan.keeps_clearFaultSlots {l : Loan} {ks : List Kept} (keeps : l.keeps f ks) (j : Nat) (faults : List (List Nat × Nat)) :
    (l.clearFaultSlots j faults).1.keeps f ks := by
  unfold Loan.clearFaultSlots
  cases frame : AMap.find l.frames j with
  | none => exact keeps
  | some fr => exact Loan.keeps_addLive (Loan.keeps_putFrame keeps frame (by rfl) (by rfl) (by rfl)) _ _

/-- A frame that is there is parked with what it kept before and what it keeps now (R342 step 4, R343). -/
theorem State.parkFrame_keeps {s : State} {l : Loan} {tag : Tag} {fr : Frame} (here : AMap.find s.loans id = some l)
    (frame : AMap.find l.frames tag.frame.toNat = some fr) (held : fr.released = false) (loops : List Nat) (fault : Bool) (kept : List Kept) :
    ∃ l' pre, AMap.find (s.parkFrame id tag loops fault kept).loans id = some l' ∧ l'.keeps tag.frame.toNat (pre ++ kept) := by
  have parked : ∀ (g : Loan → Loan) (lost : List (Nat × Flit)) (m : List (List Nat × Nat)) (x : Option Loan) (ks : List Kept),
      AMap.find ((((lost.foldl (fun s x => (s.parkGive id x.1).dropFlit (x.1 / 4) x.2) (s.updLoan id g)).withdraw id
        tag.frame.toNat).withdrawAccs id tag.frame.toNat m).withdrawTriggers id tag.frame.toNat m).loans id = x →
      (g l).keeps tag.frame.toNat ks → ∃ l', x = some l' ∧ l'.keeps tag.frame.toNat ks := fun g lost m x ks there keeps => there ▸
    ((((ParkedStill.foldl _ (fun u x => (u.parkGive_parkedStill _ _).trans (State.dropFlit_parkedStill _ _ _)) lost _).trans
      (State.withdraw_parkedStill _ _ _)).trans (State.withdrawAccs_parkedStill _ _ _ _)).trans (State.withdrawTriggers_parkedStill _ _ _ _))
      (g l) ks (by rw [State.find_updLoan_same, here]; rfl) keeps
  have cleared : ∀ (u : State) (x : Loan) (ks : List Kept) (m : List (List Nat × Nat)), AMap.find u.loans id = some x →
      x.keeps tag.frame.toNat ks →
      ∃ l', AMap.find ((x.clearFaultSlots tag.frame.toNat m).2.foldl (fun (s : State) y => s.ack id y.1 y.2)
        ({ u with loans := AMap.put u.loans id (x.clearFaultSlots tag.frame.toNat m).1 }.dropOrdered id tag.frame.toNat m)).loans id = some l' ∧
        l'.keeps tag.frame.toNat ks := fun u x ks m _ keeps =>
    ((State.dropOrdered_parkedStill _ _ _ _).trans (ParkedStill.foldl _ (fun u y => u.ack_parkedStill _ _ _) _ _)) _ ks
      (AMap.find_put_same _ _ _) (Loan.keeps_clearFaultSlots keeps _ _)
  unfold State.parkFrame
  simp only [here, frame]
  split
  · rename_i there
    obtain ⟨l', missing, _⟩ := parked _ _ _ _ _ there ⟨_, AMap.find_put_same _ _ _, held, rfl⟩
    cases missing
  · rename_i x there
    obtain ⟨l', same, keeps⟩ := parked _ _ _ _ _ there ⟨_, AMap.find_put_same _ _ _, held, rfl⟩
    obtain rfl := Option.some.inj same
    obtain ⟨l'', there', keeps'⟩ := cleared _ x _ _ there keeps
    exact ⟨l'', _, there', keeps'⟩

end

section
variable {id : Nat}

/-! ### The loans that taking an exception leaves alone -/

/-- A change that leaves every loan but one as it was. -/
def OthersKept (id : Nat) (s t : State) : Prop := ∀ k, k ≠ id → AMap.find t.loans k = AMap.find s.loans k

theorem OthersKept.refl (s : State) : OthersKept id s s := fun _ _ => rfl

theorem OthersKept.trans {s t u : State} (h : OthersKept id s t) (k : OthersKept id t u) : OthersKept id s u :=
  fun j other => (k j other).trans (h j other)

theorem OthersKept.foldl {β : Type} {g : State → β → State} {bs : List β} (h : ∀ s, ∀ b ∈ bs, OthersKept id s (g s b)) (s : State) :
    OthersKept id s (bs.foldl g s) := by
  induction bs generalizing s with
  | nil => exact .refl s
  | cons b bs ih => exact (h s b (List.mem_cons_self ..)).trans (ih (fun s c hc => h s c (List.mem_cons_of_mem _ hc)) _)

theorem OthersKept.of_loans {s t : State} (h : t.loans = s.loans) : OthersKept id s t := fun _ _ => by rw [h]

theorem State.updLoan_othersKept (s : State) (g : Loan → Loan) : OthersKept id s (s.updLoan id g) :=
  fun _ other => s.find_updLoan_other g other

theorem State.ack_othersKept (s : State) (loan b : Nat) (its : List (Nat × List Nat)) : OthersKept id s (s.ack loan b its) := by
  obtain ⟨a, acked⟩ := ack_eq s loan b its
  exact .of_loans (by rw [acked])

theorem State.gone_othersKept (s : State) (b : Nat) (t : Tag) (its : List (Nat × List Nat)) : OthersKept id s (s.gone id b t its) :=
  (s.updLoan_othersKept _).trans (State.ack_othersKept _ _ _ _)

theorem State.parkTake_othersKept (s : State) (b : Nat) (tag : Option Tag) : OthersKept id s (s.parkTake id b tag).2 := by
  unfold State.parkTake; split
  · exact .refl s
  · split
    · exact .of_loans rfl
    · split
      · exact s.updLoan_othersKept _
      · split
        · exact s.updLoan_othersKept _
        · exact .of_loans rfl

theorem State.parkFlit_othersKept (s : State) (b f : Nat) {x : Flit} (own : x.loan = id) : OthersKept id s (s.parkFlit b f x) := by
  subst own
  unfold State.parkFlit; split
  · exact .refl s
  · split
    · exact .refl s
    · split
      · exact .refl s
      · split
        · unfold State.dropFlit; split
          · exact s.gone_othersKept _ _ _
          · exact .refl s
        · exact (s.parkTake_othersKept _ _).trans (State.updLoan_othersKept _ _)

/-- The tokens that an element gives up are of the loan whose frame is withdrawn (R342). -/
theorem withdrawEl_loan (f : Nat) (img : Nat → Image) (e : Element) {x : Flit} (given : x ∈ (withdrawEl id f img e).2.1) : x.loan = id := by
  have flit : ∀ (im : Image) (index port : Nat) (t : QTok), (t.flit im id index port).loan = id := fun im index port t => by
    unfold QTok.flit; dsimp only; split
    · split <;> rfl
    · rfl
  simp only [withdrawEl, List.mem_append] at given
  rcases given with (planes | out) | ready
  · obtain ⟨⟨i, pl⟩, _, tokens⟩ := List.mem_flatMap.mp planes
    dsimp only at tokens
    split at tokens
    · split at tokens
      · obtain ⟨⟨p, ts⟩, _, waiting⟩ := List.mem_flatMap.mp tokens
        obtain ⟨t, _, rfl⟩ := List.mem_map.mp waiting
        exact flit _ _ _ _
      · cases tokens
    · cases tokens
  · obtain ⟨d, _, entry⟩ := List.mem_flatMap.mp out
    have ours := (List.mem_filter.mp entry).2
    simp only [Bool.and_eq_true, beq_iff_eq] at ours
    exact ours.1
  · obtain ⟨r, _, token⟩ := List.mem_filterMap.mp ready
    split at token
    · exact (Option.some.inj token) ▸ rfl
    · cases token

theorem State.withdraw_othersKept (s : State) (f : Nat) : OthersKept id s (s.withdraw id f) := by
  unfold State.withdraw; split
  · exact .refl s
  · rename_i l _
    refine .foldl (fun s p _ => ?_) _
    obtain ⟨k, b⟩ := p
    refine OthersKept.trans ?_ (.foldl (fun u x given => u.parkFlit_othersKept _ _ (withdrawEl_loan f l.imageOf (s.el k) given)) _)
    exact (OthersKept.of_loans (State.updEl_loans s _ _)).trans (.foldl (fun u x _ => u.updLoan_othersKept _) _)

theorem State.withdrawAccs_othersKept (s : State) (f : Nat) (faults : List (List Nat × Nat)) : OthersKept id s (s.withdrawAccs id f faults) := by
  unfold State.withdrawAccs; split
  · exact .refl s
  · refine .foldl (fun s p _ => ?_) _
    dsimp only
    split
    · split
      · exact (OthersKept.of_loans rfl).trans (State.gone_othersKept (({ s with accs := AMap.del s.accs p.1 } : State).updEl p.2.el _) _ _ _)
      · exact .of_loans rfl
    · exact .refl s

theorem State.withdrawTriggers_othersKept (s : State) (f : Nat) (faults : List (List Nat × Nat)) :
    OthersKept id s (s.withdrawTriggers id f faults) := by
  unfold State.withdrawTriggers; split
  · exact .refl s
  · refine .foldl (fun s b _ => ?_) _
    dsimp only
    split
    · exact .refl s
    · exact (OthersKept.of_loans (State.updBay_loans s _ _)).trans (.foldl (fun u x _ => u.gone_othersKept _ _ _) _)

theorem State.dropOrdered_othersKept (s : State) (f : Nat) (faults : List (List Nat × Nat)) : OthersKept id s (s.dropOrdered id f faults) := by
  unfold State.dropOrdered; split
  · exact .refl s
  · exact .of_loans rfl

/-- A frame that was not parked has no parked tokens to lose: its parking touches no other loan. -/
theorem State.parkFrame_othersKept {s : State} {l : Loan} {tag : Tag} {fr : Frame} (here : AMap.find s.loans id = some l)
    (frame : AMap.find l.frames tag.frame.toNat = some fr) (free : fr.parked = none) (loops : List Nat) (fault : Bool) (kept : List Kept) :
    OthersKept id s (s.parkFrame id tag loops fault kept) := by
  have withdrawn : ∀ (g : Loan → Loan) (m : List (List Nat × Nat)), OthersKept id s ((((s.updLoan id g).withdraw id tag.frame.toNat).withdrawAccs id
      tag.frame.toNat m).withdrawTriggers id tag.frame.toNat m) := fun g m =>
    (((s.updLoan_othersKept g).trans (State.withdraw_othersKept _ _)).trans (State.withdrawAccs_othersKept _ _ _)).trans
      (State.withdrawTriggers_othersKept _ _ _)
  have cleared : ∀ (u : State) (x : Loan) (m : List (List Nat × Nat)) (lost : List (Nat × List (Nat × List Nat))),
      OthersKept id u (lost.foldl (fun (s : State) y => s.ack id y.1 y.2)
        ({ u with loans := AMap.put u.loans id x }.dropOrdered id tag.frame.toNat m)) := fun u x m lost =>
    (OthersKept.trans (fun _ other => AMap.find_put_other _ _ other) (State.dropOrdered_othersKept _ _ _)).trans
      (.foldl (fun v y _ => v.ack_othersKept _ _ _) _)
  unfold State.parkFrame
  simp only [here, frame, free, Option.getD_none, List.filter_nil, List.foldl_nil]
  split
  · exact withdrawn _ _
  · exact (withdrawn _ _).trans (cleared _ _ _ _)

end

/-! ### The page of a TRANSLATE (R379) -/

theorem AMap.find_mapWithKey {β γ : Type} (m : AMap β) (g : Nat → β → γ) (k : Nat) :
    AMap.find (m.map (fun p => (p.1, g p.1 p.2))) k = (AMap.find m k).map (g k) := by
  induction m with
  | nil => rfl
  | cons p m ih =>
    simp only [List.map_cons, AMap.find]
    split
    next same => rw [same]; rfl
    next => exact ih

/-- A page noted with a parked frame changes its loan alone, and nothing that the frame keeps. -/
theorem State.translateParked_loans (s : State) (id f : Nat) (r : Report) :
    OthersKept id s (s.translateParked id f r) ∧ ∀ j, ParkedStill id j s (s.translateParked id f r) := by
  have mapped : ∀ (u : State) (b : Bool) (i : Instr), (if b then u.drawNat.2.later (1 + u.drawNat.1) i else u).loans = u.loans := fun u b i => by
    split <;> rfl
  unfold State.translateParked; split
  · exact ⟨.refl s, fun _ => .refl s⟩
  · refine ⟨(s.updLoan_othersKept _).trans (.of_loans (mapped _ _ _)), fun j => ParkedStill.trans ?_ (.of_loans (mapped _ _ _))⟩
    refine .updLoan s id fun l ks ⟨fr, frame, held, kept⟩ => ?_
    refine ⟨_, (AMap.find_mapWithKey l.frames (fun k (x : Frame) => if k = f then
      { x with parked := x.parked.map (fun p => { p with pages := p.pages ++ [r.addr / 65536] }) } else x) j).trans (by rw [frame]; rfl), ?_, ?_⟩
    · dsimp only; split <;> exact held
    · dsimp only; split
      · rw [Option.map_map]; exact kept
      · exact kept

/-! ### Taking an exception (R339, R340) -/

section
variable {s : State} {r : Report} {id : Nat} {l : Loan} {tag : Tag} {fr : Frame} (loan : r.loan = some id) (tagged : r.tag = some tag)
  (here : AMap.find s.loans id = some l) (frame : AMap.find l.frames tag.frame.toNat = some fr) (held : fr.released = false)
include loan tagged here frame held

/-- An exception of a frame that is there: its record is made, and a code that stops parks the frame (R340, R342). -/
theorem State.raise_there (loops : List Nat) (kept : List Kept) : s.raise r loops kept =
    if stopsFrame r.code then ((s.updHub (fun h => h.record (mkRecord s r true))).parkFrame id tag loops (r.code != fTRAP && r.code != fBRK)
      kept).translateParked id tag.frame.toNat r
    else s.updHub (fun h => h.record (mkRecord s r false)) := by
  have there : (AMap.find l.frames tag.frame.toNat).any (fun f => !f.released) = true := by simp [frame, held]
  simp only [State.raise, loan, tagged, here, there, Bool.and_true]
  cases stopsFrame r.code <;> rfl

/-- The record of an exception of a frame that is there (R339). -/
theorem State.raise_record (loops : List Nat) (kept : List Kept) :
    ∃ q, { mkRecord s r (stopsFrame r.code) with seq := q } ∈ (s.raise r loops kept).hub.records := by
  obtain ⟨q, recorded⟩ := Hub.record_mem s.hub (mkRecord s r (stopsFrame r.code))
  refine ⟨q, ?_⟩
  rw [State.raise_there loan tagged here frame held]
  cases stops : stopsFrame r.code with
  | false => rw [stops] at recorded; exact recorded
  | true =>
    rw [stops] at recorded
    exact ((State.parkFrame_recordsKept _ _ _ _ _ _).trans (State.translateParked_recordsKept _ _ _ _)).kept _ recorded

end

/-- Settles O58: the record is that of `State.raise_record`; a code that stops parks the frame (`State.parkFrame_keeps`) and leaves the other
loans alone where the frame was not parked yet (`State.parkFrame_othersKept`). -/
theorem faultTaking : Obligations.FaultTaking := by
  intro s r loops kept id l tag fr loan tagged here frame held t
  have raised := State.raise_there loan tagged here frame held loops kept
  obtain ⟨mem, tmem, _, xch, _, _, boot, _, _, cycle, _⟩ := State.raise_within s r loops kept
  refine ⟨?record, fun stops => ?parks, fun stops free => ?others, fun goes => ?stays, mem, tmem, cycle, xch, boot⟩
  case record =>
    obtain ⟨q, recorded⟩ := State.raise_record loan tagged here frame held loops kept
    exact ⟨_, recorded, rfl, rfl, rfl, by simp only [mkRecord, tagged], rfl, rfl, rfl, by simp only [mkRecord, loan, here]⟩
  case parks =>
    obtain ⟨l1, pre, here1, keeps1⟩ := State.parkFrame_keeps (s := s.updHub (fun h => h.record (mkRecord s r true))) here frame held loops
      (r.code != fTRAP && r.code != fBRK) kept
    obtain ⟨l2, here2, fr2, frame2, _, kept2⟩ := (State.translateParked_loans _ id tag.frame.toNat r).2 _ l1 _ here1 keeps1
    obtain ⟨p, parked, work⟩ := Option.map_eq_some_iff.mp kept2
    exact ⟨l2, fr2, p, by rw [show t = _ from raised, stops]; exact here2, frame2, parked, pre, work⟩
  case others =>
    rw [show t = _ from raised, if_pos stops]
    exact (State.parkFrame_othersKept (s := s.updHub (fun h => h.record (mkRecord s r true))) here frame free loops _ kept).trans
      (State.translateParked_loans _ id tag.frame.toNat r).1
  case stays =>
    rw [show t = _ from raised, goes]; rfl

end Sys2Proof.Machine
end

section
/-! PROOFS. O22 to O24, O49: the instructions of the Colophon, and the kernel's writes to it. -/
namespace Sys2Proof.Machine

/-! ### The Colophon in focus -/

@[simp] theorem State.col_withCol (s : State) (c : Colophon) : (s.withCol c).col = c := by
  show ((s.updBay s.focus.bay _).bay s.focus.bay).colophon = c
  rw [State.bay_updBay_same]

theorem OnlyBay.refl (s : State) (bay : Nat) : OnlyBay s s bay := ⟨fun _ _ => rfl, ⟨rfl, rfl, rfl⟩, ⟨rfl, rfl⟩, ⟨rfl, rfl, rfl, rfl, rfl, rfl⟩⟩

/-- A bay changed, and what is due. -/
theorem OnlyBay.updBay {s t : State} {bay : Nat} (h : OnlyBay s t bay) (g : Bay → Bay) : OnlyBay s (t.updBay bay g) bay :=
  ⟨fun b other => (t.bay_updBay_other g other).trans (h.others b other), h.elements, h.memory, h.rest⟩

theorem OnlyBay.later {s t : State} {bay : Nat} (h : OnlyBay s t bay) (d : Nat) (i : Instr) : OnlyBay s (t.later d i) bay :=
  ⟨h.others, h.elements, h.memory, h.rest⟩

theorem State.withCol_onlyBay (s : State) (c : Colophon) : OnlyBay s (s.withCol c) s.focus.bay := (OnlyBay.refl s _).updBay _

/-- A bay's Colophon asks for its next store: that bay's banks, and what is due, change. -/
theorem OnlyBay.postEstore {s t : State} {bay : Nat} (h : OnlyBay s t bay) : OnlyBay s (t.postEstore bay) bay := by
  unfold State.postEstore
  split
  · exact h
  · exact (h.updBay _).later _ _

/-! ### Registers (R366) -/

theorem Colophon.reg_setReg (c : Colophon) (rd r : BitVec 4) (v : W32) :
    (c.setReg rd v).reg r = if r = rd ∧ rd ≠ 0 then v else c.reg r := by
  unfold Colophon.setReg Colophon.reg
  by_cases zero : rd = 0#4
  · simp [zero]
  · by_cases same : r = rd
    · subst same; simp [zero]
    · have other : r.toNat ≠ rd.toNat := fun e => same (BitVec.eq_of_toNat_eq e)
      simp [zero, same, AMap.get_put_other _ _ _ other]

/-- A register written, and the next word (R366). -/
theorem Colophon.setReg_advance {c : Colophon} (within : c.pc + 1 < 1024) (rd : BitVec 4) (v : W32) (now cost : Nat) :
    (c.setReg rd v).advance now cost = { c with regs := (c.setReg rd v).regs, pc := c.pc + 1, ready := now + cost } := by
  unfold Colophon.setReg
  split <;> exact if_pos within

/-- The program goes on to its next word (R366). -/
theorem Colophon.advance_within {c : Colophon} (within : c.pc + 1 < 1024) (now cost : Nat) :
    c.advance now cost = { c with pc := c.pc + 1, ready := now + cost } := if_pos within

/-- The program goes on to the word that its branch names (R370). -/
theorem Colophon.branch_within {c : Colophon} {off : BitVec 14} (low : 0 ≤ (c.pc : Int) + off.toInt) (high : (c.pc : Int) + off.toInt < 1024)
    (now : Nat) : c.branch now off = some { c with pc := ((c.pc : Int) + off.toInt).toNat, ready := now + 1 } := if_pos ⟨low, high⟩

theorem Colophon.branch_outside {c : Colophon} {off : BitVec 14} (outside : (c.pc : Int) + off.toInt < 0 ∨ 1024 ≤ (c.pc : Int) + off.toInt)
    (now : Nat) : c.branch now off = none := if_neg (by omega)

/-! ### What an instruction does (R366, R368, R370) -/

/-- An instruction that leaves the Colophon in focus so. -/
theorem Completes.of_withCol {i : Instr} {s : State} {c : Colophon} {post : State → Prop} (he : exec i s = .next (s.withCol c))
    (h : post (s.withCol c)) : Completes i s post := ⟨_, he, h⟩

theorem ColWrites.of_colWrite {i : Instr} {s : State} {rd : BitVec 4} {cost : Nat} {v : W32} {fl : Flags}
    (he : exec i s = colWrite rd cost v fl s) : ColWrites i s rd cost v fl := by
  intro within
  refine .of_withCol he ⟨fun r => ?regs, ?pc, ?flags, ?same, s.withCol_onlyBay _⟩
  all_goals
    rw [State.col_withCol, Colophon.setReg_advance (c := { s.col with flg := s.col.flg ||| colophonFlags fl }) within]
  case regs => exact Colophon.reg_setReg _ rd r v
  case pc => exact ⟨rfl, rfl⟩
  case same => exact ⟨rfl, rfl, rfl, rfl, rfl⟩

/-- An instruction that halts the program with an error. -/
theorem colHalts {i : Instr} {s : State} {code : BitVec 4} (he : exec i s = .next (s.withCol (s.col.fail code))) :
    Completes i s (fun t => ColHalted s t code) := by
  refine .of_withCol he ⟨?status, ?pc, fun r => ?regs, s.withCol_onlyBay _⟩
  all_goals rw [State.col_withCol]
  case status => exact ⟨rfl, rfl, rfl, rfl⟩
  case pc => exact ⟨rfl, rfl⟩
  case regs => rfl

/-! ### Integers of one lane (R161, R371) -/

section OneLane
variable {t : Ty} (word : t.width = 32) (one : t.lanes = 1)
include word one

theorem intLanes2_one (f : Int → Int → Int) (a b : W32) :
    intLanes2 t f a b = BitVec.ofNat 32 (toLane t.width (f (laneInt t a.toNat) (laneInt t b.toNat))) := by
  have lane : ∀ x : W32, laneOf x t.width 0 = x.toNat := fun x => by
    rw [laneOf, Nat.mul_zero, Nat.pow_zero, Nat.div_one, word, Nat.mod_eq_of_lt x.isLt]
  simp only [intLanes2, lanes2, one, List.range_one, List.map_cons, List.map_nil, lane, packLanes, toLane_mod, Nat.mul_zero, Nat.add_zero]

/-- A choice between two words makes the word that it chooses. -/
theorem intLanes2_chooses {f : Int → Int → Int} {a b x : W32} (chosen : f (laneInt t a.toNat) (laneInt t b.toNat) = laneInt t x.toNat) :
    intLanes2 t f a b = x := by
  rw [intLanes2_one word one, chosen, toLane_laneInt t (by rw [word]; exact x.isLt), BitVec.ofNat_toNat, BitVec.setWidth_eq]

end OneLane

theorem laneInt_i32 (x : W32) : laneInt .i32 x.toNat = x.toInt := by
  rw [show laneInt .i32 x.toNat = signedLane 32 x.toNat from rfl, ← toInt_ofNat_lane (by decide) x.isLt, BitVec.ofNat_toNat, BitVec.setWidth_eq]

theorem laneInt_n32 (x : W32) : laneInt .n32 x.toNat = (x.toNat : Int) := rfl

theorem aluImax_i32 (a b : W32) : aluImax .i32 a b = if a.slt b then b else a := by
  split <;> refine intLanes2_chooses rfl rfl ?_ <;> simp only [laneInt_i32, BitVec.slt, decide_eq_true_eq] at * <;> omega

theorem aluImin_i32 (a b : W32) : aluImin .i32 a b = if a.slt b then a else b := by
  split <;> refine intLanes2_chooses rfl rfl ?_ <;> simp only [laneInt_i32, BitVec.slt, decide_eq_true_eq] at * <;> omega

theorem aluImax_n32 (a b : W32) : aluImax .n32 a b = if a.ult b then b else a := by
  split <;> refine intLanes2_chooses rfl rfl ?_ <;> simp only [laneInt_n32, BitVec.ult, decide_eq_true_eq] at * <;> omega

theorem aluImin_n32 (a b : W32) : aluImin .n32 a b = if a.ult b then a else b := by
  split <;> refine intLanes2_chooses rfl rfl ?_ <;> simp only [laneInt_n32, BitVec.ult, decide_eq_true_eq] at * <;> omega

/-! ### Arithmetic, moves and conversions (R371) -/

theorem execEcvt_converts {s : State} {rd ra ty : BitVec 4} {rnd : BitVec 3} {sat : Bool} {t : Ty} (code : Ty.ofCode ty = some t)
    (low : ty.toNat ≤ 6) (mode : rnd.toNat ≤ 3) : exec (.ecvt rd ra ty rnd sat) s =
      colWrite rd 2 (BitVec.ofNat 32 (convLane .f32 t rnd.toNat 0 sat (s.col.reg ra).toNat).1)
        (convLane .f32 t rnd.toNat 0 sat (s.col.reg ra).toNat).2 s := by
  show execEcvt rd ra ty rnd sat s = _
  simp only [execEcvt, code, low, mode, and_self, if_true]

theorem execEcvt_halts {s : State} {rd ra ty : BitVec 4} {rnd : BitVec 3} {sat : Bool} (bad : 6 < ty.toNat ∨ 3 < rnd.toNat) :
    exec (.ecvt rd ra ty rnd sat) s = .next (s.withCol (s.col.fail 6)) := by
  show execEcvt rd ra ty rnd sat s = _
  unfold execEcvt
  split
  · exact if_neg (by omega)
  · rfl

/-- `ELDI` shifts its constant in (R371). -/
theorem eldi_value (a : W32) (v : BitVec 14) : (a <<< 14) ||| v.setWidth 32 = BitVec.ofNat 32 (a.toNat * 2 ^ 14 + v.toNat) := by
  rw [← Nat.shiftLeft_eq, Nat.shiftLeft_add_eq_or_of_lt v.isLt, BitVec.ofNat_or, BitVec.ofNat_toNat]
  rfl

/-- Settles O22: each instruction is a write of a register (`ColWrites.of_colWrite`), or halts (`colHalts`). -/
theorem colophonArithmetic : Obligations.ColophonArithmetic := by
  refine ⟨fun s rd ra rb => ⟨⟨?_, ?_, ?_⟩, ⟨?_, ?_, ?_⟩, ⟨?_, ?_, ?_⟩, ⟨?_, ?imax, ?nmax⟩, ⟨?_, ?imin, ?nmin⟩, ?bad, ?efma, ?eclmp⟩,
    fun s rd ra rb => ⟨?_, ?_, fun v => ?eldi, fun n => ⟨?_, ?_, ?_, ?_⟩, fun ty rnd sat t code low mode => ?ecvt,
      fun ty rnd sat bad => ?ecvtBad⟩⟩
  case imax => exact ColWrites.of_colWrite ((congrArg (fun v => colWrite rd 1 v Flag.none s) (aluImax_i32 _ _)))
  case nmax => exact ColWrites.of_colWrite ((congrArg (fun v => colWrite rd 1 v Flag.none s) (aluImax_n32 _ _)))
  case imin => exact ColWrites.of_colWrite ((congrArg (fun v => colWrite rd 1 v Flag.none s) (aluImin_i32 _ _)))
  case nmin => exact ColWrites.of_colWrite ((congrArg (fun v => colWrite rd 1 v Flag.none s) (aluImin_n32 _ _)))
  case bad =>
    simp only [List.forall_mem_cons]
    exact ⟨colHalts rfl, colHalts rfl, colHalts rfl, colHalts rfl, colHalts rfl, List.forall_mem_nil _⟩
  case efma => exact ColWrites.of_colWrite rfl
  case eclmp => exact ColWrites.of_colWrite rfl
  case eldi => exact ColWrites.of_colWrite (congrArg (fun v => colWrite rd 1 v Flag.none s) (eldi_value _ v))
  case ecvt => exact ColWrites.of_colWrite (execEcvt_converts code low mode)
  case ecvtBad => exact colHalts (execEcvt_halts bad)
  all_goals exact ColWrites.of_colWrite rfl

/-! ### The port, stores and tokens (R369, R372, R373) -/

theorem toNat_append_fields (top : BitVec 24) (index : BitVec 6) (tile : BitVec 2) :
    (top ++ index ++ tile).toNat = top.toNat * 256 + index.toNat * 4 + tile.toNat := by
  rw [BitVec.toNat_append, ← Nat.shiftLeft_add_eq_or_of_lt tile.isLt, BitVec.toNat_append, ← Nat.shiftLeft_add_eq_or_of_lt index.isLt,
    Nat.shiftLeft_eq, Nat.shiftLeft_eq]
  omega

theorem portMeta_some (w : PortWord) :
    portMeta (some w) = BitVec.ofNat 32 (w.tile.toNat + 4 * w.index.toNat + if w.pred then 256 else 0) := by
  have low := w.tile.isLt
  have mid := w.index.isLt
  have top : ∀ b : Bool, ((0 : BitVec 23) ++ (if b then (1 : BitVec 1) else 0)).toNat = if b then 1 else 0 := by decide
  refine BitVec.eq_of_toNat_eq ((toNat_append_fields _ w.index w.tile).trans ?_)
  rw [BitVec.toNat_ofNat, top]
  split <;> omega

section
variable {s : State} {rd ra rb : BitVec 4}

theorem execEldr_meta : exec (.eldr rd true) s = colWrite rd 1 (portMeta s.col.popped) Flag.none s := rfl

theorem execEldr_empty (empty : s.col.port = []) : exec (.eldr rd false) s = .next (s.withCol (s.col.wait s.cycle)) := by
  show execEldr rd false s = _
  simp only [execEldr, empty, Bool.false_eq_true, if_false]

theorem execEldr_pops {w : PortWord} {rest : List PortWord} (port : s.col.port = w :: rest) : exec (.eldr rd false) s =
    .next (s.withCol (({ s.col with port := rest, popped := some w }.setReg rd (if w.pred then w.value else 0)).advance s.cycle 1)) := by
  show execEldr rd false s = _
  simp only [execEldr, port, Bool.false_eq_true, if_false]

/-- The state after a store has joined its bay's queue, before the bank is asked (R373). -/
def State.storeQueued (s : State) (a : Nat) (v : W32) : State :=
  (s.updBay s.focus.bay (fun b => { b with estores := b.estores ++ [(a, v)] })).withCol (s.col.advance s.cycle 1)

theorem State.storeQueued_onlyBay (s : State) (a : Nat) (v : W32) : OnlyBay s (s.storeQueued a v) s.focus.bay :=
  ((OnlyBay.refl s _).updBay _).updBay _

theorem State.storeQueued_bay (s : State) (a : Nat) (v : W32) : (s.storeQueued a v).bay s.focus.bay =
    { s.bay s.focus.bay with estores := (s.bay s.focus.bay).estores ++ [(a, v)], colophon := s.col.advance s.cycle 1 } := by
  show ((s.updBay s.focus.bay _).updBay s.focus.bay _).bay s.focus.bay = _
  rw [State.bay_updBay_same, State.bay_updBay_same]

theorem execEstr_stores {k : BitVec 14} (aligned : ((s.col.reg ra).toNat + 4 * k.toNat) % 4 = 0)
    (there : (s.col.reg ra).toNat + 4 * k.toNat < 2 ^ 22) : exec (.estr ra rb k) s =
      .next (let t := s.storeQueued ((s.col.reg ra).toNat + 4 * k.toNat) (s.col.reg rb)
        if (s.bay s.focus.bay).estores == [] then t.postEstore s.focus.bay else t) := by
  show execEstr ra rb k s = _
  have good : ¬(((s.col.reg ra).toNat + 4 * k.toNat) % 4 ≠ 0 ∨ 2 ^ 22 ≤ (s.col.reg ra).toNat + 4 * k.toNat) := by omega
  exact if_neg good

theorem State.bay_later (s : State) (d : Nat) (i : Instr) (bay : Nat) : (s.later d i).bay bay = s.bay bay := rfl

theorem State.postBank_bay (s : State) (bay tile bank d : Nat) (e : BankEntry) : (s.postBank bay tile bank d e).bay bay =
    { s.bay bay with banks := AMap.upd (s.bay bay).banks [] (bankKey tile bank) (· ++ [{ e with arrived := s.cycle + d }]) } :=
  by
  rw [State.postBank, State.bay_later, State.bay_updBay_same]

/-- Asking a bank leaves a bay's Colophon and its stores alone. -/
theorem State.postEstore_bay (s : State) (bay : Nat) : ((s.postEstore bay).bay bay).colophon = (s.bay bay).colophon ∧
    ((s.postEstore bay).bay bay).estores = (s.bay bay).estores := by
  unfold State.postEstore
  split
  · exact ⟨rfl, rfl⟩
  · rw [State.postBank_bay]
    exact ⟨rfl, rfl⟩

theorem estr_stores {k : BitVec 14} (aligned : ((s.col.reg ra).toNat + 4 * k.toNat) % 4 = 0)
    (there : (s.col.reg ra).toNat + 4 * k.toNat < 2 ^ 22) (within : s.col.pc + 1 < 1024) :
    Completes (.estr ra rb k) s (fun t => t.col.pc = s.col.pc + 1 ∧ OnlyBay s t s.focus.bay ∧
      (t.bay s.focus.bay).estores = (s.bay s.focus.bay).estores ++ [((s.col.reg ra).toNat + 4 * k.toNat, s.col.reg rb)]) := by
  refine ⟨_, execEstr_stores aligned there, ?_⟩
  have queued := s.storeQueued_bay ((s.col.reg ra).toNat + 4 * k.toNat) (s.col.reg rb)
  have only := s.storeQueued_onlyBay ((s.col.reg ra).toNat + 4 * k.toNat) (s.col.reg rb)
  generalize s.storeQueued ((s.col.reg ra).toNat + 4 * k.toNat) (s.col.reg rb) = t at queued only
  have goesOn : ∀ u : State, u.focus = s.focus → (u.bay s.focus.bay).colophon = (t.bay s.focus.bay).colophon → u.col.pc = s.col.pc + 1 :=
    fun u focus same => by rw [State.col, focus, same, queued, Colophon.advance_within within]
  dsimp only
  split
  · obtain ⟨colophon, stores⟩ := t.postEstore_bay s.focus.bay
    have post := OnlyBay.postEstore only
    exact ⟨goesOn _ post.rest.2.1 colophon, post, by rw [stores, queued]⟩
  · exact ⟨goesOn _ only.rest.2.1 rfl, only, by rw [queued]⟩

end

/-! ### Tokens of a Colophon (R372, R373) -/

section
variable {s : State} {ra : BitVec 4} {el : BitVec 7} {port : BitVec 2} {hnd : BitVec 3}

theorem execEsig_none (none' : loanOn s s.focus.bay s.col.cctx.toNat = none) :
    exec (.esig ra el port hnd) s = .next (s.withCol (s.col.fail 7)) := by
  show execEsig ra el port hnd s = _
  simp only [execEsig, none']

variable {id b : Nat} {l : Loan} (on : loanOn s s.focus.bay s.col.cctx.toNat = some (id, l, b))
include on

theorem execEsig_waits (waits : (s.bay s.focus.bay).estores ≠ []) : exec (.esig ra el port hnd) s = .next (s.withCol (s.col.wait s.cycle)) := by
  show execEsig ra el port hnd s = _
  simp only [execEsig, on]
  exact if_pos waits

theorem execEsig_sends {w : PortWord} (stored : (s.bay s.focus.bay).estores = []) (popped : s.col.popped = some w) :
    ∃ f x, mkFlit l (l.imageOf s.col.cctx.toNat) id b s.col.cctx.toNat 0 (.element (b * 128 + el.toNat) port.toNat hnd.toNat) .data true
        w.cont (s.col.reg ra) w.tag = some f ∧ f.loan = id ∧ f.emit = .token x ∧ x.el = BitVec.ofNat 13 (b * 128 + el.toNat) ∧
      exec (.esig ra el port hnd) s =
        .next (((s.withCol (s.col.advance s.cycle 1)).born id w.tag f.iters).inject 1 (b * 128 + el.toNat) f) := by
  refine ⟨_, _, rfl, rfl, rfl, rfl, ?_⟩
  show execEsig ra el port hnd s = _
  simp only [execEsig, on, stored, popped, ne_eq, not_true, if_false]
  rfl

end

/-- A token that comes from outside changes no bay. -/
theorem State.inject_token_bays {s : State} {f : Flit} {l : Loan} {x : Token} (d index : Nat) (loan : AMap.find s.loans f.loan = some l)
    (running : l.state = .running) (token : f.emit = .token x) :
    (s.inject d index f).bays = s.bays ∧ (s.inject d index f).focus = s.focus := by
  have here : (l.state == .saving || l.state == .switchedOut) = false := by rw [running]; rfl
  simp only [State.inject, loan, here, token, Bool.false_eq_true, if_false]
  exact ⟨rfl, rfl⟩

/-- Something that has come into being leaves its loan's state and its elements' places. -/
theorem State.find_born {s : State} {id : Nat} {l : Loan} (here : AMap.find s.loans id = some l) (t : Tag) (its : List (Nat × List Nat)) :
    ∃ l', AMap.find (s.born id t its).loans id = some l' ∧ l'.state = l.state ∧ ∀ i, l'.elKey i = l.elKey i := by
  refine ⟨(l.addLive t.frame.toNat 1).addPend its 1, by rw [State.born, State.find_updLoan_same, here]; rfl, ?_⟩
  unfold Loan.addPend Loan.addLive
  cases AMap.find l.frames t.frame.toNat with
  | none => exact ⟨rfl, fun _ => rfl⟩
  | some fr =>
    dsimp only
    split <;> exact ⟨rfl, fun _ => rfl⟩

/-- Settles O23: a word is popped or its metadata read, a store is queued (`estr_stores`), and a token is sent to its element
(`State.inject_token`); what waits stays at its word. -/
theorem colophonPortAndStores : Obligations.ColophonPortAndStores := by
  refine ⟨fun s rd ra rb k => ⟨fun w rest port within => ?pops, fun w popped => ?last, fun empty => ?empty, fun aligned there within => ?stores,
    fun bad => ?halts⟩, fun s ra el port hnd => ⟨fun none' => ?no, fun id l b on waits => ?waits,
    fun id l b w on low stored popped within here running => ?sends⟩⟩
  case pops =>
    refine .of_withCol (execEldr_pops port) ?_
    rw [State.col_withCol, Colophon.setReg_advance (c := { s.col with port := rest, popped := some w }) within]
    exact ⟨fun r => Colophon.reg_setReg _ rd r _, rfl, rfl, rfl, s.withCol_onlyBay _⟩
  case last => exact ColWrites.of_colWrite (execEldr_meta.trans (by rw [popped, portMeta_some]))
  case empty => exact .of_withCol (execEldr_empty empty) (by rw [State.col_withCol]; exact ⟨rfl, rfl, s.withCol_onlyBay _⟩)
  case stores => exact estr_stores aligned there within
  case halts =>
    refine colHalts (if_pos ?_)
    exact bad
  case no => exact colHalts (execEsig_none none')
  case waits => exact .of_withCol (execEsig_waits on waits) (by rw [State.col_withCol]; exact ⟨rfl, s.withCol_onlyBay _⟩)
  case sends =>
    obtain ⟨f, x, made, own, token, place, sent⟩ := execEsig_sends (ra := ra) (el := el) (port := port) (hnd := hnd) on stored popped
    obtain ⟨l', here', state', keys⟩ := State.find_born (s := s.withCol (s.col.advance s.cycle 1)) here w.tag f.iters
    have loan : AMap.find ((s.withCol (s.col.advance s.cycle 1)).born id w.tag f.iters).loans f.loan = some l' := by rw [own]; exact here'
    have arrives := State.inject_token 1 (b * 128 + el.toNat) loan (state'.trans running) token
    obtain ⟨bays, focus⟩ := State.inject_token_bays 1 (b * 128 + el.toNat) loan (state'.trans running) token
    have index : x.el.toNat = b * 128 + el.toNat := by
      rw [place, BitVec.toNat_ofNat]
      exact Nat.mod_eq_of_lt (by have := el.isLt; omega)
    refine ⟨_, sent, ?_, f, made, ?_⟩
    · rw [State.col, State.bay, bays, focus, State.born_bays, State.born_focus]
      show (s.withCol _).col.pc = _
      rw [State.col_withCol, Colophon.advance_within within]
    · have there := arrives.there
      rw [keys, index, State.born_cycle] at there
      exact there

/-! ### Branches, loops, waits and halts (R367, R368, R370, R372) -/

section
variable {s : State} {rd ra : BitVec 4} {off : BitVec 14}

theorem execEbnz_zero (zero : s.col.reg ra = 0) : exec (.ebnz ra off) s = .next (s.withCol (s.col.advance s.cycle 1)) := if_pos zero

theorem execEbnz_taken (taken : s.col.reg ra ≠ 0) :
    exec (.ebnz ra off) s = .next (s.withCol ((s.col.branch s.cycle off).getD (s.col.fail 5))) := if_neg taken

/-- `ELOOP` counts its register down. -/
def Colophon.counted (c : Colophon) (rd : BitVec 4) : Colophon := c.setReg rd (c.reg rd - 1)

theorem Colophon.counted_reg (c : Colophon) (rd r : BitVec 4) : (c.counted rd).reg r = if r = rd ∧ rd ≠ 0 then c.reg rd - 1 else c.reg r :=
  c.reg_setReg rd r _

theorem Colophon.counted_pc (c : Colophon) (rd : BitVec 4) : (c.counted rd).pc = c.pc := by
  unfold Colophon.counted Colophon.setReg
  split <;> rfl

theorem execEloop_ends (last : (s.col.counted rd).reg rd = 0) :
    exec (.eloop rd off) s = .next (s.withCol ((s.col.counted rd).advance s.cycle 1)) := if_pos last

theorem execEloop_again (more : (s.col.counted rd).reg rd ≠ 0) :
    exec (.eloop rd off) s = .next (s.withCol (((s.col.counted rd).branch s.cycle off).getD (s.col.fail 5))) := if_neg more

variable {n : BitVec 7}

theorem execEwait_bad (bad : n.toNat = 0 ∨ 64 < n.toNat) : exec (.ewait n) s = .next (s.withCol (s.col.fail 4)) := if_pos bad

theorem execEwait_there (pos : 0 < n.toNat) (most : n.toNat ≤ 64) (there : n.toNat ≤ s.col.port.length) :
    exec (.ewait n) s = .next (s.withCol (s.col.advance s.cycle 1)) :=
  (if_neg (by omega : ¬(n.toNat = 0 ∨ 64 < n.toNat))).trans (if_pos there)

theorem execEwait_waits (pos : 0 < n.toNat) (most : n.toNat ≤ 64) (few : s.col.port.length < n.toNat) :
    exec (.ewait n) s = .next (s.withCol (s.col.wait s.cycle)) :=
  (if_neg (by omega : ¬(n.toNat = 0 ∨ 64 < n.toNat))).trans (if_neg (Nat.not_le.mpr few))

end

/-- Settles O24: a branch, a count and a wait leave the Colophon at the word that they name; what is out of range halts (`colHalts`). -/
theorem colophonControl : Obligations.ColophonControl := by
  intro s rd ra off goal
  refine ⟨fun low high => ?jmp, fun outside => ?jmpOut, fun taken low high => ?bnz, fun zero within => ?bnzNot, fun named more low high => ?loop,
    fun last within => ?loopEnds, fun n pos most there within => ?wait, fun n pos most few => ?waits, fun n bad => ?waitBad, fun code => ?halt⟩
  case jmp =>
    refine .of_withCol rfl ?_
    rw [State.col_withCol, Colophon.branch_within low high]
    exact ⟨Int.toNat_of_nonneg low, fun _ => rfl, s.withCol_onlyBay _⟩
  case jmpOut =>
    have halts : exec (.ejmp off) s = .next (s.withCol ((s.col.branch s.cycle off).getD (s.col.fail 5))) := rfl
    rw [Colophon.branch_outside outside] at halts
    exact colHalts halts
  case bnz =>
    refine .of_withCol (execEbnz_taken taken) ?_
    rw [State.col_withCol, Colophon.branch_within low high]
    exact ⟨Int.toNat_of_nonneg low, s.withCol_onlyBay _⟩
  case bnzNot =>
    refine .of_withCol (execEbnz_zero zero) ?_
    rw [State.col_withCol, Colophon.advance_within within]
    exact ⟨rfl, s.withCol_onlyBay _⟩
  case loop =>
    have counted := s.col.counted_reg rd rd
    rw [if_pos ⟨rfl, named⟩] at counted
    have again : (s.col.counted rd).reg rd ≠ 0 := by
      rw [counted]
      exact fun e => more (sub_eq_zero.mp e)
    have low' : 0 ≤ ((s.col.counted rd).pc : Int) + off.toInt := by rw [Colophon.counted_pc]; exact low
    have high' : ((s.col.counted rd).pc : Int) + off.toInt < 1024 := by rw [Colophon.counted_pc]; exact high
    refine .of_withCol (execEloop_again again) ?_
    rw [State.col_withCol, Colophon.branch_within low' high', Colophon.counted_pc]
    refine ⟨Int.toNat_of_nonneg low, fun r => (Colophon.counted_reg _ rd r).trans ?_, s.withCol_onlyBay _⟩
    simp only [named, ne_eq, not_false_eq_true, and_true]
  case loopEnds =>
    have ended : (s.col.counted rd).reg rd = 0 := by
      rw [Colophon.counted_reg]
      by_cases zero : rd = 0
      · rw [if_neg (fun h => h.2 zero)]
        exact if_pos zero
      · rw [if_pos ⟨rfl, zero⟩, last.resolve_left zero]
        rfl
    refine .of_withCol (execEloop_ends ended) ?_
    rw [State.col_withCol, Colophon.advance_within (by rw [Colophon.counted_pc]; exact within), Colophon.counted_pc]
    exact ⟨rfl, ended⟩
  case wait =>
    refine .of_withCol (execEwait_there pos most there) ?_
    rw [State.col_withCol, Colophon.advance_within within]
    exact ⟨rfl, rfl, s.withCol_onlyBay _⟩
  case waits => exact .of_withCol (execEwait_waits pos most few) (by rw [State.col_withCol]; rfl)
  case waitBad => exact colHalts (execEwait_bad bad)
  case halt => exact .of_withCol rfl (by rw [State.col_withCol]; exact ⟨rfl, rfl, rfl, rfl, rfl, s.withCol_onlyBay _⟩)

/-! ### The kernel's writes (R367 to R369) -/

/-- `CLCTL` written while a program runs changes only its capture (R367, R369). -/
theorem Colophon.control_running {c : Colophon} (runs : c.run = true) (v : W64) :
    c.control v = { c with cap := v.getLsbD 1, port := if v.getLsbD 1 then c.port else [] } := if_pos runs

theorem Colophon.control_halted {c : Colophon} (halted : c.run = false) (v : W64) :
    c.control v = { c with cap := v.getLsbD 1, port := if v.getLsbD 1 then c.port else [], cctx := v.extractLsb' 2 2
                           start := v.extractLsb' 4 10 } := if_neg (ne_true_of_eq_false halted)

/-- A bay changed is all that changes. -/
theorem Completes.of_updBay {i : Instr} {s : State} {bay : Nat} {g : Bay → Bay} {post : State → Prop} (he : exec i s = .next (s.updBay bay g))
    (h : post (s.updBay bay g)) : Completes i s post := ⟨_, he, h⟩

/-- Settles O49: a write of `CLCTL` is `Colophon.control`, after which a program that is started begins at `START`. -/
theorem colophonKernelWrites : Obligations.ColophonKernelWrites := by
  intro s bay v c
  refine ⟨fun halted => ?starts, fun runs => ?runs, fun runs => ?halts, fun halted => ?halted, ?capture⟩
  case starts =>
    refine .of_updBay rfl ?_
    rw [State.bay_updBay_same, Colophon.control_halted (c := (s.bay bay).colophon) halted]
    dsimp only
    rw [if_neg (ne_true_of_eq_false halted)]
    exact ⟨rfl, rfl, rfl, rfl, rfl, rfl, rfl, rfl, rfl, rfl, rfl, fun b other => s.bay_updBay_other _ other, rfl⟩
  case runs =>
    refine .of_updBay rfl ?_
    rw [State.bay_updBay_same, Colophon.control_running (c := (s.bay bay).colophon) runs]
    exact ⟨if_pos runs, rfl⟩
  case halts =>
    refine .of_updBay rfl ?_
    rw [State.bay_updBay_same]
    exact ⟨if_pos runs, rfl⟩
  case halted =>
    refine .of_updBay rfl ?_
    rw [State.bay_updBay_same]
    exact if_neg (ne_true_of_eq_false halted)
  case capture =>
    refine .of_updBay rfl ?_
    rw [State.bay_updBay_same]
    cases runs : (s.bay bay).colophon.run with
    | true => rw [Colophon.control_running runs]; exact ⟨rfl, fun off => if_neg (ne_true_of_eq_false off), fun on => if_pos on, runs, rfl, rfl⟩
    | false => rw [Colophon.control_halted runs]; exact ⟨rfl, fun off => if_neg (ne_true_of_eq_false off), fun on => if_pos on, runs, rfl, rfl⟩

end Sys2Proof.Machine
end

section
/-! PROOFS. O31 and O37: what the kernel writes, and the sync queues. -/
namespace Sys2Proof.Machine

/-! ### What an exception never changes of a loan (R342) -/

/-- A loan without what taking an exception may change of it: its frames, its work in flight, and its park store. -/
def Loan.core (l : Loan) : Loan :=
  { l with frames := [], flights := [], waves := [], kept := [], commit := [], bayUsed := [], annexUsed := 0 }

/-- Every loan stays, with its core. -/
def CoreKept (s t : State) : Prop := ∀ j l, AMap.find s.loans j = some l → ∃ l', AMap.find t.loans j = some l' ∧ l'.core = l.core

theorem CoreKept.refl (s : State) : CoreKept s s := fun _ l here => ⟨l, here, rfl⟩

theorem CoreKept.trans {s t u : State} (h : CoreKept s t) (k : CoreKept t u) : CoreKept s u := fun j l here => by
  obtain ⟨l', here', core'⟩ := h j l here
  obtain ⟨l'', here'', core''⟩ := k j l' here'
  exact ⟨l'', here'', core''.trans core'⟩

theorem CoreKept.foldl {β : Type} (g : State → β → State) (h : ∀ s b, CoreKept s (g s b)) (bs : List β) (s : State) : CoreKept s (bs.foldl g s) :=
  foldl_rel .refl (fun h k => h.trans k) g h bs s

theorem CoreKept.of_loans {s t : State} (h : t.loans = s.loans) : CoreKept s t := fun _ l here => ⟨l, h ▸ here, rfl⟩

theorem CoreKept.updLoan (s : State) (id : Nat) {g : Loan → Loan} (h : ∀ l, (g l).core = l.core) : CoreKept s (s.updLoan id g) := fun j l here => by
  by_cases same : j = id
  · subst same
    exact ⟨g l, by rw [State.find_updLoan_same, here]; rfl, h l⟩
  · exact ⟨l, by rw [State.find_updLoan_other s g same]; exact here, rfl⟩

theorem Loan.addLive_core (l : Loan) (f : Nat) (n : Int) : (l.addLive f n).core = l.core := by
  unfold Loan.addLive; split
  · rfl
  · dsimp only; split <;> rfl

theorem State.ack_coreKept (s : State) (id b : Nat) (its : List (Nat × List Nat)) : CoreKept s (s.ack id b its) := by
  obtain ⟨a, acked⟩ := ack_eq s id b its
  exact .of_loans (by rw [acked])

theorem State.gone_coreKept (s : State) (id b : Nat) (t : Tag) (its : List (Nat × List Nat)) : CoreKept s (s.gone id b t its) :=
  (CoreKept.updLoan s id (fun l => l.addLive_core _ _)).trans (State.ack_coreKept _ _ _ _)

theorem State.dropFlit_coreKept (s : State) (b : Nat) (x : Flit) : CoreKept s (s.dropFlit b x) := by
  unfold State.dropFlit; split
  · exact State.gone_coreKept _ _ _ _ _
  · exact .refl s

theorem State.parkTake_coreKept (s : State) (id b : Nat) (tag : Option Tag) : CoreKept s (s.parkTake id b tag).2 := by
  unfold State.parkTake; split
  · exact .refl s
  · split
    · exact .of_loans rfl
    · split
      · exact .updLoan s id fun _ => rfl
      · split
        · exact .updLoan s id fun _ => rfl
        · exact .of_loans rfl

theorem State.parkGive_coreKept (s : State) (id place : Nat) : CoreKept s (s.parkGive id place) := by
  unfold State.parkGive; split
  · exact .refl s
  · dsimp only; split
    · exact .of_loans rfl
    · exact .updLoan s id fun _ => rfl
    · exact .updLoan s id fun _ => rfl
    · exact .refl s

theorem State.parkFlit_coreKept (s : State) (b f : Nat) (x : Flit) : CoreKept s (s.parkFlit b f x) := by
  unfold State.parkFlit; split
  · exact .refl s
  · split
    · exact .refl s
    · split
      · exact .refl s
      · split
        · exact State.dropFlit_coreKept _ _ _
        · exact (State.parkTake_coreKept _ _ _ _).trans (.updLoan _ _ fun _ => rfl)

theorem State.withdraw_coreKept (s : State) (id f : Nat) : CoreKept s (s.withdraw id f) := by
  unfold State.withdraw; split
  · exact .refl s
  · refine .foldl _ (fun s p => ?_) _ _
    refine CoreKept.trans ?_ (.foldl _ (fun u x => u.parkFlit_coreKept _ _ _) _ _)
    refine (CoreKept.of_loans (State.updEl_loans s _ _)).trans (.foldl _ (fun u x => .updLoan u id fun l => ?_) _ _)
    dsimp only; split <;> rfl

theorem State.withdrawAccs_coreKept (s : State) (id f : Nat) (faults : List (List Nat × Nat)) : CoreKept s (s.withdrawAccs id f faults) := by
  unfold State.withdrawAccs; split
  · exact .refl s
  · refine .foldl _ (fun s p => ?_) _ _
    dsimp only
    split
    · split
      · exact (CoreKept.of_loans rfl).trans (State.gone_coreKept (({ s with accs := AMap.del s.accs p.1 } : State).updEl p.2.el _) _ _ _ _)
      · exact .of_loans rfl
    · exact .refl s

theorem State.withdrawTriggers_coreKept (s : State) (id f : Nat) (faults : List (List Nat × Nat)) :
    CoreKept s (s.withdrawTriggers id f faults) := by
  unfold State.withdrawTriggers; split
  · exact .refl s
  · refine .foldl _ (fun s b => ?_) _ _
    dsimp only
    split
    · exact .refl s
    · exact (CoreKept.of_loans (State.updBay_loans s _ _)).trans (.foldl _ (fun u x => u.gone_coreKept _ _ _ _) _ _)

theorem State.dropOrdered_coreKept (s : State) (id f : Nat) (faults : List (List Nat × Nat)) : CoreKept s (s.dropOrdered id f faults) := by
  unfold State.dropOrdered; split
  · exact .refl s
  · exact .of_loans rfl

theorem Loan.clearFaultSlots_core (l : Loan) (f : Nat) (faults : List (List Nat × Nat)) : (l.clearFaultSlots f faults).1.core = l.core := by
  unfold Loan.clearFaultSlots
  cases AMap.find l.frames f with
  | none => rfl
  | some fr => exact Loan.addLive_core _ _ _

theorem State.parkFrame_coreKept (s : State) (id : Nat) (tag : Tag) (loops : List Nat) (fault : Bool) (kept : List Kept) :
    CoreKept s (s.parkFrame id tag loops fault kept) := by
  have withdrawn : ∀ (g : Loan → Loan) (lost : List (Nat × Flit)) (m : List (List Nat × Nat)), (∀ l, (g l).core = l.core) →
      CoreKept s ((((lost.foldl (fun s x => (s.parkGive id x.1).dropFlit (x.1 / 4) x.2) (s.updLoan id g)).withdraw id
        tag.frame.toNat).withdrawAccs id tag.frame.toNat m).withdrawTriggers id tag.frame.toNat m) := fun g lost m same =>
    ((((CoreKept.updLoan s id same).trans (.foldl _ (fun u x => (u.parkGive_coreKept _ _).trans (State.dropFlit_coreKept _ _ _)) lost _)).trans
      (State.withdraw_coreKept _ _ _)).trans (State.withdrawAccs_coreKept _ _ _ _)).trans (State.withdrawTriggers_coreKept _ _ _ _)
  have cleared : ∀ (u : State) (x : Loan) (m : List (List Nat × Nat)), AMap.find u.loans id = some x →
      CoreKept u ((x.clearFaultSlots tag.frame.toNat m).2.foldl (fun (s : State) y => s.ack id y.1 y.2)
        ({ u with loans := AMap.put u.loans id (x.clearFaultSlots tag.frame.toNat m).1 }.dropOrdered id tag.frame.toNat m)) :=
      fun u x m there => by
    refine CoreKept.trans (fun j l here => ?_) ((State.dropOrdered_coreKept _ _ _ _).trans (.foldl _ (fun u y => u.ack_coreKept _ _ _) _ _))
    by_cases own : j = id
    · subst own
      obtain rfl := Option.some.inj (there.symm.trans here)
      exact ⟨_, AMap.find_put_same _ _ _, Loan.clearFaultSlots_core _ _ _⟩
    · exact ⟨l, (AMap.find_put_other _ _ own).trans here, rfl⟩
  unfold State.parkFrame
  dsimp only
  split
  · exact .refl s
  · split
    · exact .refl s
    · split
      · refine withdrawn _ _ _ ?_
        exact fun _ => rfl
      · rename_i there
        refine CoreKept.trans (withdrawn _ _ _ ?_) (cleared _ _ _ there)
        exact fun _ => rfl

theorem State.translateParked_coreKept (s : State) (id f : Nat) (r : Report) : CoreKept s (s.translateParked id f r) := by
  have mapped : ∀ (u : State) (b : Bool) (i : Instr), (if b then u.drawNat.2.later (1 + u.drawNat.1) i else u).loans = u.loans := fun u b i => by
    split <;> rfl
  unfold State.translateParked; split
  · exact .refl s
  · refine CoreKept.trans (CoreKept.updLoan s id ?same) (.of_loans (mapped _ _ _))
    exact fun _ => rfl

/-- Taking an exception leaves of every loan what parking does not change. -/
theorem State.raise_coreKept (s : State) (r : Report) (loops : List Nat) (kept : List Kept) : CoreKept s (s.raise r loops kept) := by
  have recorded : ∀ f, CoreKept s (s.updHub f) := fun _ => .of_loans rfl
  have parked : ∀ (u : State) (b : Bool) (id f : Nat) (tag : Tag) (fault : Bool), CoreKept s u →
      CoreKept s (if b then (u.parkFrame id tag loops fault kept).translateParked id f r else u) := by
    intro u b id f tag fault keeps
    split
    · exact (keeps.trans (State.parkFrame_coreKept _ _ _ _ _ _)).trans (State.translateParked_coreKept _ _ _ _)
    · exact keeps
  unfold State.raise
  dsimp only
  split
  · exact parked _ _ _ _ _ _ (recorded _)
  · exact recorded _

/-! ### Sync queues (R301 to R304) -/

/-- A fold whose steps do nothing but at one place is the step there. -/
theorem foldl_at {β : Type} {g : State → β → State} {b : β} {bs : List β} (there : b ∈ bs) (once : bs.Nodup)
    (idle : ∀ s, ∀ c ∈ bs, c ≠ b → g s c = s) (s : State) : bs.foldl g s = g s b := by
  induction bs generalizing s with
  | nil => cases there
  | cons c bs ih =>
    obtain ⟨absent, once'⟩ := List.nodup_cons.mp once
    rw [List.foldl_cons]
    by_cases same : c = b
    · subst same
      have rest : ∀ (cs : List β) (u : State), (∀ x ∈ cs, ∀ v, g v x = v) → cs.foldl g u = u := fun cs => by
        induction cs with
        | nil => exact fun _ _ => rfl
        | cons x cs ih =>
          intro u still
          rw [List.foldl_cons, still x (List.mem_cons_self ..)]
          exact ih u fun y hy => still y (List.mem_cons_of_mem _ hy)
      exact rest bs _ fun x hx v => idle v x (List.mem_cons_of_mem _ hx) fun e => absent (e ▸ hx)
    · rw [idle s c (List.mem_cons_self ..) same]
      exact ih ((List.mem_cons.mp there).resolve_left fun e => same e.symm) once' (fun s d hd => idle s d (List.mem_cons_of_mem _ hd)) s

/-- A loan put in its place. -/
def State.withLoan (s : State) (id : Nat) (l : Loan) : State := { s with loans := AMap.put s.loans id l }

theorem State.find_withLoan (s : State) (id : Nat) (l : Loan) : AMap.find (s.withLoan id l).loans id = some l := AMap.find_put_same _ _ _

/-- A claim arrival that no other of its cycle follows gives what it can (R302). -/
theorem execSqClaimArrive_grants {s : State} {id index hnd c q : Nat} {l : Loan} {i : Instr} (here : AMap.find s.loans id = some l)
    (claims : claimCtx (s.el (l.elKey index)) id hnd = some c)
    (word : (decodeHandler (AMap.get ((s.el (l.elKey index)).ctx c).handlers nopWord hnd)).toOption = some i)
    (last : s.dueNow (fun j => match j with | .sqClaimArrive x _ _ => x == id | _ => false) = false)
    (none' : ∀ q, AMap.get l.claims [] q = []) (queue : q = c * 16 + sqNumber (l.imageOf c) (handlerKey index hnd) i) (low : q < 64) :
    exec (.sqClaimArrive id index hnd) s =
      .next ((s.withLoan id { l with claims := AMap.put l.claims q [(s.cycle, index, hnd)] }).grant id q) := by
  show execSqClaimArrive id index hnd s = _
  simp only [execSqClaimArrive, here, claims, word, ← queue, none', claimPut]
  refine (if_neg fun due => Bool.false_ne_true (last.symm.trans due)).trans ?_
  rw [foldl_at (List.mem_range.mpr low) List.nodup_range ?idle]
  case idle =>
    intro s c _ other
    rw [AMap.get_put_other _ _ _ other, none']
    rfl
  rw [AMap.get_put_same]
  rfl

/-- A grant of the oldest claim (R302): its credit goes, and it is told over the way that it came. -/
theorem State.grant_gives {s : State} {id q a index hnd n : Nat} {l : Loan} {rest : List (Nat × Nat × Nat)}
    (here : AMap.find s.loans id = some l) (oldest : AMap.get l.claims [] q = (a, index, hnd) :: rest) (credit : AMap.get l.sq 0 q = n + 1) :
    ∃ l', AMap.find (s.grant id q).loans id = some l' ∧ AMap.get l'.claims [] q = rest ∧ AMap.get l'.sq 0 q = n ∧
      (s.cycle + (l.hops (index / 128) + 1), Instr.sqGrantArrive id index hnd) ∈ (s.grant id q).agenda := by
  simp only [State.grant, here, oldest, credit, Nat.add_one_ne_zero, if_false, Nat.add_sub_cancel]
  exact ⟨_, AMap.find_put_same _ _ _, AMap.get_put_same _ _ _ _, AMap.get_put_same _ _ _ _, State.mem_later _ _ _⟩

theorem State.grant_waits {s : State} {id q : Nat} {l : Loan} (here : AMap.find s.loans id = some l)
    (idle : AMap.get l.sq 0 q = 0 ∨ AMap.get l.claims [] q = []) : s.grant id q = s := by
  simp only [State.grant, here]
  split
  next oldest =>
    rw [oldest] at idle
    exact if_pos (idle.resolve_right (List.cons_ne_nil _ _))
  next => rfl

theorem execSqGrantArrive_latches {s : State} {id index hnd c : Nat} {l : Loan} (here : AMap.find s.loans id = some l)
    (claims : claimCtx (s.el (l.elKey index)) id hnd = some c) : exec (.sqGrantArrive id index hnd) s =
      .next ((s.updEl (l.elKey index) (fun e => e.updCtx c (fun x => { x with claims := x.claims.erase hnd, latch := hnd :: x.latch }))).arrived id) := by
  show execSqGrantArrive id index hnd s = _
  simp only [execSqGrantArrive, here, claims]

section
variable {s : State} {id : Nat} {l : Loan} {p : SqPost} (here : AMap.find s.loans id = some l)
  (last : s.dueNow (fun j => match j with | .sqClaimArrive x _ _ => x == id | _ => false) = false)
include here last

theorem execSqPostArrive_adds (room : AMap.get l.sq 0 (p.ctx * 16 + p.sq) < 65535) : exec (.sqPostArrive id p) s =
    .next ((s.withLoan id { l with
      sq := AMap.put l.sq (p.ctx * 16 + p.sq) (AMap.get l.sq 0 (p.ctx * 16 + p.sq) + 1)
      sqPrior := AMap.upd l.sqPrior [] (p.ctx * 16 + p.sq) (· ++ [p.prior]) }).grant id (p.ctx * 16 + p.sq)) := by
  show execSqPostArrive id p s = _
  simp only [execSqPostArrive, here]
  exact (if_neg fun due => Bool.false_ne_true (last.symm.trans due)).trans (if_neg (Nat.ne_of_lt room))

theorem execSqPostArrive_full (full : AMap.get l.sq 0 (p.ctx * 16 + p.sq) = 65535) : exec (.sqPostArrive id p) s =
    .next (s.raise { Report.of fILLEGAL with loan := some id, el := some (l.elKey p.index), ctx := p.ctx, hnd := p.hnd,
                                             tag := some p.tag, detail := BitVec.ofNat 64 p.sq }
      (hinfoOf (l.imageOf p.ctx) (handlerKey p.index p.hnd)).counted []) := by
  show execSqPostArrive id p s = _
  simp only [execSqPostArrive, here]
  exact (if_neg fun due => Bool.false_ne_true (last.symm.trans due)).trans (if_pos full)

end

/-- Settles O37: a claim and a post end in a grant (`State.grant_gives`) or wait (`State.grant_waits`); a full queue's fault leaves its credits
(`State.raise_coreKept`). -/
theorem syncQueues : Obligations.SyncQueues := by
  intro s id l here
  refine ⟨fun index hnd c i claims word last none' low => ?claim, fun index hnd c claims => ?grant, fun p last room waits => ?post,
    fun p last full => ?full, fun d => ?ack⟩
  case claim =>
    refine ⟨_, execSqClaimArrive_grants here claims word last none' rfl low, ?_⟩
    generalize c * 16 + sqNumber (l.imageOf c) (handlerKey index hnd) i = q
    have found := s.find_withLoan id { l with claims := AMap.put l.claims q [(s.cycle, index, hnd)] }
    have one : AMap.get (AMap.put l.claims q [(s.cycle, index, hnd)]) [] q = [(s.cycle, index, hnd)] := AMap.get_put_same _ _ _ _
    cases credit : AMap.get l.sq 0 q with
    | zero =>
      rw [State.grant_waits found (.inl credit)]
      refine ⟨_, found, ?_⟩
      rw [if_pos rfl]
      exact ⟨one, credit⟩
    | succ n =>
      obtain ⟨l', found', claims', sq', told⟩ := State.grant_gives found one credit
      refine ⟨l', found', ?_⟩
      rw [if_neg (Nat.add_one_ne_zero n)]
      exact ⟨claims', sq', told⟩
  case grant =>
    refine ⟨_, execSqGrantArrive_latches here claims, ?_⟩
    refine ⟨?_, ?_, by rw [State.arrived_frame]; rfl⟩ <;> rw [State.arrived_el, State.el_updEl_same, Element.ctx_updCtx_same]
    simp only [List.contains_cons, BEq.rfl, Bool.true_or]
  case post =>
    have found := s.find_withLoan id { l with
      sq := AMap.put l.sq (p.ctx * 16 + p.sq) (AMap.get l.sq 0 (p.ctx * 16 + p.sq) + 1)
      sqPrior := AMap.upd l.sqPrior [] (p.ctx * 16 + p.sq) (· ++ [p.prior]) }
    refine ⟨_, execSqPostArrive_adds here last room, ?_⟩
    rw [State.grant_waits found (.inr waits)]
    exact ⟨_, found, AMap.get_put_same _ _ _ _, fun q other => AMap.get_put_other _ _ _ other, rfl⟩
  case full =>
    refine ⟨_, execSqPostArrive_full here last full, State.raise_recorded _ _ _ _ rfl, ?_⟩
    obtain ⟨l', here', core⟩ := State.raise_coreKept s _ _ _ id l here
    have same := congrArg Loan.sq core
    exact ⟨l', here', same⟩
  case ack =>
    refine ⟨_, rfl, by rw [State.find_updLoan_same, here]; rfl, ?_⟩
    obtain ⟨ls, _, same⟩ := updLoan_eq s id (fun l => [d].foldl (fun l d => l.addPend [(d.frame, d.its)] d.delta) l)
    rw [same]

/-! ### The kernel (R243, R345, R379) -/

/-- A context's priority, written where a loan holds it (R345). -/
def ElCtx.writePrio (id : Nat) (prio : BitVec 2) (x : ElCtx) : ElCtx := if x.loan = some id then { x with prio := prio } else x

theorem ElCtx.writePrio_loan (id : Nat) (prio : BitVec 2) (x : ElCtx) : (x.writePrio id prio).loan = x.loan := by
  unfold ElCtx.writePrio; split <;> rfl

def Element.writePrio (id : Nat) (prio : BitVec 2) (e : Element) : Element :=
  { e with ctxs := e.ctxs.map (fun q => (q.1, q.2.writePrio id prio)) }

theorem Element.find_writePrio (id : Nat) (prio : BitVec 2) (e : Element) (c : Nat) :
    AMap.find (e.writePrio id prio).ctxs c = (AMap.find e.ctxs c).map (ElCtx.writePrio id prio) := AMap.find_map e.ctxs (ElCtx.writePrio id prio) c

theorem State.writePrio_els (s : State) (id : Nat) (prio : BitVec 2) (lock : Bool) :
    (s.writePrio id prio lock).els = s.els.map (fun p => (p.1, p.2.writePrio id prio)) := by
  show (s.updLoan id _).els.map _ = _
  rw [State.updLoan_els]
  rfl

/-- A context after a priority write is the context before it, with the priority that it has now. -/
theorem State.writePrio_ctx (s : State) (id : Nat) (prio : BitVec 2) (lock : Bool) (k c : Nat) :
    ((s.writePrio id prio lock).el k).ctx c =
      if (AMap.find s.els k).isSome ∧ (AMap.find (s.el k).ctxs c).isSome then ((s.el k).ctx c).writePrio id prio else (s.el k).ctx c := by
  simp only [State.el, Element.ctx, AMap.get, State.writePrio_els]
  rw [AMap.find_map s.els (Element.writePrio id prio) k]
  obtain none' | ⟨e, found⟩ := Option.eq_none_or_eq_some (AMap.find s.els k)
  · simp [none']
  · obtain none' | ⟨x, found'⟩ := Option.eq_none_or_eq_some (AMap.find e.ctxs c)
    · simp [found, Element.find_writePrio, none']
    · simp [found, Element.find_writePrio, found']

/-- A byte of an entry as it lies in memory. -/
theorem leBytes_getD (v : W64) {i : Nat} (low : i < 8) : (leBytes 8 v.toNat).getD i 0 = v.extractLsb' (8 * i) 8 := by
  rw [leBytes, List.getD_eq_getElem?_getD, List.getElem?_map, List.getElem?_range low]
  refine BitVec.eq_of_toNat_eq ?_
  show (BitVec.ofNat 8 (v.toNat / 256 ^ i)).toNat = _
  rw [BitVec.toNat_ofNat, BitVec.extractLsb'_toNat, Nat.shiftRight_eq_div_pow, Nat.pow_mul]

theorem leBytes_length (n v : Nat) : (leBytes n v).length = n := by rw [leBytes, List.length_map, List.length_range]

/-- What an invalidation leaves of a TLB does not translate the pages that it names (R243). -/
theorem mem_dropTlb {space first n : Nat} {m : AMap (List TlbEntry)} {p : Nat × List TlbEntry} (there : p ∈ dropTlb space first n m)
    {x : TlbEntry} (entry : x ∈ p.2) (same : x.space = space) : x.page + x.pages ≤ first ∨ first + n ≤ x.page := by
  obtain ⟨q, _, rfl⟩ := List.mem_map.mp there
  have outside := (List.mem_filter.mp entry).2
  simp only [same, BEq.rfl, Bool.true_and, Bool.not_eq_true', Bool.and_eq_false_iff, decide_eq_false_iff_not, Nat.not_lt] at outside
  omega

/-- A state that differs only in memory and in the draws made. -/
structure Mapped (s t : State) : Prop where
  loans : t.loans = s.loans
  els : t.els = s.els
  hub : t.hub = s.hub
  reserved : t.trans.reserved = s.trans.reserved

theorem Mapped.trans {s t u : State} (h : Mapped s t) (k : Mapped t u) : Mapped s u :=
  ⟨k.loans.trans h.loans, k.els.trans h.els, k.hub.trans h.hub, k.reserved.trans h.reserved⟩

theorem Mapped.mem (s : State) (m : List Host.Cell) : Mapped s { s with mem := m } := ⟨rfl, rfl, rfl, rfl⟩

theorem State.drawNat_mapped (s : State) : Mapped s s.drawNat.2 := ⟨rfl, rfl, rfl, rfl⟩

theorem State.makeTables_mapped (s : State) (va : Nat) (levels : List Nat) (table : Nat) : Mapped s (s.makeTables va levels table).2 := by
  induction levels generalizing s table with
  | nil => exact ⟨rfl, rfl, rfl, rfl⟩
  | cons level rest ih =>
    unfold State.makeTables
    dsimp only
    split
    · exact ⟨rfl, rfl, rfl, rfl⟩
    · split
      · exact ih _ _
      · exact (s.drawNat_mapped.trans (.mem _ _)).trans (ih _ _)

theorem State.mapPage_mapped (s : State) (space page : Nat) : Mapped s (s.mapPage space page) := by
  have invalidated : ∀ (u : State) (first n a : Nat) (e : W64), Mapped u (u.invalidate space first n a e) := fun _ _ _ _ _ => ⟨rfl, rfl, rfl, rfl⟩
  unfold State.mapPage
  dsimp only
  refine Mapped.trans ?_ (invalidated _ _ _ _ _)
  refine Mapped.trans ?_ (State.makeTables_mapped _ _ _ _)
  exact s.drawNat_mapped.trans (.mem _ _)

/-- A reserved page that no parked frame waits for is mapped, and is no longer reserved (R379). -/
theorem execDemandPageMap_unparked {s : State} {space page : Nat} (reserved : s.trans.reserved.contains (space, page) = true)
    (free : ∀ p ∈ s.loans, ∀ f ∈ p.2.frames, ∀ k, f.2.parked = some k → page ∉ k.pages) : exec (.demandPageMap space page) s =
      .next { s.mapPage space page with trans := { (s.mapPage space page).trans with
        reserved := (s.mapPage space page).trans.reserved.erase (space, page) } } := by
  have idle : ∀ p ∈ s.loans, p.2.frames.filter (fun (f : Nat × Frame) => f.2.parked.any (fun k => k.pages.contains page)) = [] := fun p there =>
    List.filter_eq_nil_iff.mpr fun f frame waits => by
      obtain ⟨k, parked, waits⟩ := (Option.any_eq_true _ _).mp waits
      exact free p there f frame k parked (List.contains_iff_mem.mp waits)
  show execDemandPageMap space page s = _
  rw [execDemandPageMap, reserved]
  refine (if_neg Bool.false_ne_true).trans ?_
  have none' : ((s.mapPage space page).loans.filter (fun (p : Nat × Loan) => p.2.slip.space == space)).flatMap (fun p =>
      (p.2.frames.filter (fun (f : Nat × Frame) => f.2.parked.any (fun k => k.pages.contains page))).map (fun f => (p.1, f.1))) = [] := by
    rw [(s.mapPage_mapped space page).loans]
    exact List.flatMap_eq_nil_iff.mpr fun p there => by rw [idle p (List.mem_filter.mp there).1, List.map_nil]
  dsimp only
  rw [none']
  rfl

/-- Settles O31: an entry is written by `State.invalidate`, a page mapped by `State.mapPage`, a priority by `State.writePrio`. -/
theorem kernelCommands : Obligations.KernelCommands := by
  intro s
  refine ⟨fun id l prio lock here => ?prio, fun space va entry e low => ?page, fun id f ab l p here parked => ?resume,
    fun space page reserved free => ?map, fun space page absent => ?noMap, fun bay tile v => ?ecc⟩
  case prio =>
    have wrote : exec (.kernelPrioWrite id prio lock) s = .next (s.writePrio id prio lock) := by
      show execKernelPrioWrite id prio lock s = _
      rw [execKernelPrioWrite, here]
      rfl
    refine ⟨_, wrote, ?_, fun k c => ?_, fun k c => ?_⟩
    · show AMap.find (s.updLoan id _).loans id = _
      rw [State.find_updLoan_same, here]
      rfl
    · rw [State.writePrio_ctx]
      split
      · exact ElCtx.writePrio_loan _ _ _
      · rfl
    · intro el ctx holds
      rw [State.writePrio_ctx, if_pos ⟨el, ctx⟩, ElCtx.writePrio, if_pos holds]
  case page =>
    have inside : ¬2 ^ 52 < entry + 8 := by omega
    dsimp only
    refine ⟨fun uses => ?_, fun free => ?_⟩
    · exact ⟨_, (if_neg inside).trans (if_pos uses), rfl⟩
    · refine ⟨_, (if_neg inside).trans (if_neg (ne_true_of_eq_false free)), rfl, fun wf i small => ?_, fun x outside => ?_, fun p there x entry same => ?_⟩
      · show readByte (writeBytes s.mem entry (leBytes 8 e.toNat)) (entry + i) = _
        rw [readByte_writeBytes_same _ _ _ wf (by rw [leBytes_length]; exact small), leBytes_getD e small]
      · show readByte (writeBytes s.mem entry (leBytes 8 e.toNat)) x = _
        rw [readByte_writeBytes_other _ _ _ _ (by rw [leBytes_length]; exact outside)]
      · rcases List.mem_append.mp there with die | micro
        · exact mem_dropTlb die entry same
        · exact mem_dropTlb micro entry same
  case resume =>
    have there : s.resumeFrame id f ab = some (if ab then s.abandonFrame id f l p.1 p.2 else s.runFrame id f l p.1 p.2) := by
      rw [State.resumeFrame, here]
      dsimp only
      rw [parked]
      rfl
    refine ⟨_, ?_, there⟩
    show execKernelResume id f ab s = _
    rw [execKernelResume, there]
    rfl
  case map =>
    have mapped := s.mapPage_mapped space page
    have ran := execDemandPageMap_unparked reserved free
    generalize s.mapPage space page = u at mapped ran
    exact ⟨_, ran, congrArg (fun pages => List.erase pages (space, page)) mapped.reserved, mapped.loans, mapped.els, mapped.hub⟩
  case noMap =>
    refine ⟨s, ?_, rfl⟩
    show execDemandPageMap space page s = _
    rw [execDemandPageMap, absent]
    rfl
  case ecc =>
    refine ⟨_, rfl, ?_, ?_, fun b other => s.bay_updBay_other _ other, rfl⟩
    · rw [State.bay_updBay_same]
      exact AMap.get_put_same _ _ _ _
    · rw [State.bay_updBay_same]
      exact AMap.get_put_same _ _ _ _

end Sys2Proof.Machine
end

section
/-! PROOFS. O38: the wave buffer, banks, walks and rounds of claims. -/
namespace Sys2Proof.Machine

/-! ### What taking an exception and replying never change of a bay -/

/-- A bay without its park store, its park trace, and the triggers that its decanters have taken. -/
def Bay.core (y : Bay) : Bay := { y with parkCount := 0, parkTrace := [], fireQueue := [], decanters := [] }

/-- Every bay stays, but for its park store, its park trace and its triggers. -/
structure BaysKept (s t : State) : Prop where
  core : ∀ b, (t.bay b).core = (s.bay b).core

theorem BaysKept.refl (s : State) : BaysKept s s := ⟨fun _ => rfl⟩

theorem BaysKept.trans {s t u : State} (h : BaysKept s t) (k : BaysKept t u) : BaysKept s u := ⟨fun b => (k.core b).trans (h.core b)⟩

theorem BaysKept.foldl {β : Type} (f : State → β → State) (h : ∀ s b, BaysKept s (f s b)) (bs : List β) (s : State) :
    BaysKept s (bs.foldl f s) := foldl_rel .refl (fun h k => h.trans k) f h bs s

theorem BaysKept.of_bays {s t : State} (same : t.bays = s.bays) : BaysKept s t := ⟨fun b => by rw [State.bay, same]; rfl⟩

theorem BaysKept.banks {s t : State} (h : BaysKept s t) (b : Nat) : (t.bay b).banks = (s.bay b).banks := by
  have same := congrArg Bay.banks (h.core b)
  exact same

theorem BaysKept.bankBusy {s t : State} (h : BaysKept s t) (b : Nat) : (t.bay b).bankBusy = (s.bay b).bankBusy := by
  have same := congrArg Bay.bankBusy (h.core b)
  exact same

theorem State.updBay_baysKept (s : State) (b : Nat) {g : Bay → Bay} (same : (g (s.bay b)).core = (s.bay b).core) : BaysKept s (s.updBay b g) := by
  refine ⟨fun c => ?_⟩
  by_cases here : c = b
  · subst here
    rw [State.bay_updBay_same, same]
  · rw [State.bay_updBay_other s g here]

theorem State.updLoan_baysKept (s : State) (id : Nat) (g : Loan → Loan) : BaysKept s (s.updLoan id g) := .of_bays (s.updLoan_bays id g)

theorem State.accs_baysKept (s : State) (m : AMap Access) : BaysKept s { s with accs := m } := .of_bays rfl

theorem State.gone_baysKept (s : State) (id b : Nat) (t : Tag) (its : List (Nat × List Nat)) : BaysKept s (s.gone id b t its) :=
  .of_bays (s.gone_bays id b t its)

theorem State.dropFlit_baysKept (s : State) (b : Nat) (f : Flit) : BaysKept s (s.dropFlit b f) := by
  unfold State.dropFlit; split
  · exact s.gone_baysKept _ _ _ _
  · exact .refl s

theorem State.parkTake_baysKept (s : State) (loan b : Nat) (tag : Option Tag) : BaysKept s (s.parkTake loan b tag).2 := by
  unfold State.parkTake; split
  · exact .refl s
  · split
    · exact s.updBay_baysKept _ rfl
    · split
      · exact s.updLoan_baysKept _ _
      · split
        · exact s.updLoan_baysKept _ _
        · exact .of_bays rfl

theorem State.parkGive_baysKept (s : State) (loan place : Nat) : BaysKept s (s.parkGive loan place) := by
  unfold State.parkGive; split
  · exact .refl s
  · dsimp only; split
    · exact s.updBay_baysKept _ rfl
    · exact s.updLoan_baysKept _ _
    · exact s.updLoan_baysKept _ _
    · exact .refl s

theorem State.parkFlit_baysKept (s : State) (b f : Nat) (x : Flit) : BaysKept s (s.parkFlit b f x) := by
  unfold State.parkFlit; split
  · exact .refl s
  · split
    · exact .refl s
    · split
      · exact .refl s
      · split
        · exact s.dropFlit_baysKept _ _
        · exact (s.parkTake_baysKept _ _ _).trans (State.updLoan_baysKept _ _ _)

theorem State.withdraw_baysKept (s : State) (id f : Nat) : BaysKept s (s.withdraw id f) := by
  unfold State.withdraw; split
  · exact .refl s
  · refine .foldl _ (fun s p => ?_) _ _
    refine BaysKept.trans ?_ (.foldl _ (fun u x => u.parkFlit_baysKept _ _ _) _ _)
    exact (BaysKept.of_bays (State.updEl_bays s _ _)).trans (.foldl _ (fun u x => u.updLoan_baysKept _ _) _ _)

theorem State.withdrawAccs_baysKept (s : State) (id f : Nat) (faults : List (List Nat × Nat)) : BaysKept s (s.withdrawAccs id f faults) := by
  unfold State.withdrawAccs; split
  · exact .refl s
  · refine .foldl _ (fun s p => ?_) _ _
    dsimp only
    split
    · split
      · exact .of_bays (State.gone_bays _ _ _ _ _)
      · exact .of_bays rfl
    · exact .refl s

theorem State.withdrawTriggers_baysKept (s : State) (id f : Nat) (faults : List (List Nat × Nat)) :
    BaysKept s (s.withdrawTriggers id f faults) := by
  unfold State.withdrawTriggers; split
  · exact .refl s
  · refine .foldl _ (fun s b => ?_) _ _
    dsimp only
    split
    · exact .refl s
    · exact (s.updBay_baysKept _ rfl).trans (.foldl _ (fun u x => u.gone_baysKept _ _ _ _) _ _)

theorem State.dropOrdered_baysKept (s : State) (id f : Nat) (faults : List (List Nat × Nat)) : BaysKept s (s.dropOrdered id f faults) := by
  unfold State.dropOrdered; split
  · exact .refl s
  · exact .of_bays rfl

theorem State.parkFrame_baysKept (s : State) (id : Nat) (tag : Tag) (loops : List Nat) (fault : Bool) (kept : List Kept) :
    BaysKept s (s.parkFrame id tag loops fault kept) := by
  have withdrawn : ∀ (g : Loan → Loan) (lost : List (Nat × Flit)) (m : List (List Nat × Nat)), BaysKept s
      ((((lost.foldl (fun s x => (s.parkGive id x.1).dropFlit (x.1 / 4) x.2) (s.updLoan id g)).withdraw id tag.frame.toNat).withdrawAccs id
        tag.frame.toNat m).withdrawTriggers id tag.frame.toNat m) := fun g lost m =>
    ((((s.updLoan_baysKept _ _).trans (.foldl _ (fun u x => (u.parkGive_baysKept _ _).trans (State.dropFlit_baysKept _ _ _)) _ _)).trans
      (State.withdraw_baysKept _ _ _)).trans (State.withdrawAccs_baysKept _ _ _ _)).trans (State.withdrawTriggers_baysKept _ _ _ _)
  have put : ∀ (u : State) (m : AMap Loan), BaysKept u { u with loans := m } := fun _ _ => .of_bays rfl
  unfold State.parkFrame; dsimp only; split
  · exact .refl s
  · split
    · exact .refl s
    · split
      · exact withdrawn _ _ _
      · exact (((withdrawn _ _ _).trans (put _ _)).trans (State.dropOrdered_baysKept _ _ _ _)).trans
          (.foldl _ (fun u x => .of_bays (u.ack_bays _ _ _)) _ _)

theorem State.translateParked_baysKept (s : State) (id f : Nat) (r : Report) : BaysKept s (s.translateParked id f r) := by
  have mapped : ∀ (u : State) (b : Bool) (i : Instr), BaysKept s u → BaysKept s (if b then u.drawNat.2.later (1 + u.drawNat.1) i else u) := by
    intro u b i kept
    split
    · exact kept.trans (.of_bays rfl)
    · exact kept
  unfold State.translateParked; split
  · exact .refl s
  · exact mapped _ _ _ (s.updLoan_baysKept _ _)

theorem State.raise_baysKept (s : State) (r : Report) (loops : List Nat) (kept : List Kept) : BaysKept s (s.raise r loops kept) := by
  have recorded : ∀ f, BaysKept s (s.updHub f) := fun _ => .of_bays rfl
  have parked : ∀ (u : State) (b : Bool) (id f : Nat) (tag : Tag) (fault : Bool), BaysKept s u →
      BaysKept s (if b then (u.parkFrame id tag loops fault kept).translateParked id f r else u) := by
    intro u b id f tag fault keeps
    split
    · exact (keeps.trans (State.parkFrame_baysKept _ _ _ _ _ _)).trans (State.translateParked_baysKept _ _ _ _)
    · exact keeps
  unfold State.raise
  dsimp only
  split
  · exact parked _ _ _ _ _ _ (recorded _)
  · exact recorded _

theorem State.inject_baysKept (s : State) (d index : Nat) (f : Flit) : BaysKept s (s.inject d index f) := by
  unfold State.inject; split
  · exact .refl s
  · split
    · exact s.updLoan_baysKept _ _
    · split
      · exact .of_bays rfl
      · exact .of_bays rfl
      · exact .of_bays rfl
      · exact (s.updLoan_baysKept _ _).trans (.of_bays rfl)
      · exact (s.updBay_baysKept _ rfl).trans (State.dropFlit_baysKept _ _ _)
      · exact .of_bays rfl
      · exact .refl s
      · exact .refl s

theorem State.answer_baysKept (s : State) (loan index ctx hnd d : Nat) (dest : Dest) (kind : Kind) (pred : Bool) (cont : BitVec 6) (v : W32)
    (tag : Tag) (prior : List Nat) : BaysKept s (s.answer loan index ctx hnd d dest kind pred cont v tag prior) := by
  unfold State.answer; split
  · exact .refl s
  · dsimp only
    split
    · exact s.raise_baysKept _ _ _
    · split
      · exact .refl s
      · exact (s.updLoan_baysKept _ _).trans (State.inject_baysKept _ _ _ _)

theorem State.answerFill_baysKept (s : State) (a : Access) (d : Nat) (block : Bool) : BaysKept s (s.answerFill a d block) := by
  unfold State.answerFill; split
  · dsimp only
    split
    · split
      · exact (s.updLoan_baysKept _ _).trans (State.inject_baysKept _ _ _ _)
      · exact .refl s
    · exact .refl s
  · exact .refl s

theorem State.dropAccess_baysKept (s : State) (id : Nat) : BaysKept s (s.dropAccess id) := by
  unfold State.dropAccess; split
  · exact .refl s
  · dsimp only
    split
    · exact .of_bays rfl
    · exact .of_bays (State.gone_bays _ _ _ _ _)

theorem State.finishAccess_baysKept (s : State) (id d : Nat) : BaysKept s (s.finishAccess id d) := by
  unfold State.finishAccess; split
  · exact .refl s
  · rename_i a _
    refine BaysKept.trans ?_ (State.dropAccess_baysKept _ _)
    split
    · exact .refl s
    · split
      · exact s.answer_baysKept _ _ _ _ _ _ _ _ _ _ _ _
      · exact s.answer_baysKept _ _ _ _ _ _ _ _ _ _ _ _
      · exact .foldl _ (fun u i => u.answer_baysKept _ _ _ _ _ _ _ _ _ _ _ _) _ _
      · exact s.answerFill_baysKept _ _ _
      · exact s.answerFill_baysKept _ _ _
      · exact s.answer_baysKept _ _ _ _ _ _ _ _ _ _ _ _
      · exact s.answer_baysKept _ _ _ _ _ _ _ _ _ _ _ _
      · exact s.answer_baysKept _ _ _ _ _ _ _ _ _ _ _ _
      · exact s.answer_baysKept _ _ _ _ _ _ _ _ _ _ _ _
      · exact s.answer_baysKept _ _ _ _ _ _ _ _ _ _ _ _
      · exact .refl s
      · exact .refl s
      · exact .refl s

/-- THE END OF AN ACCESS that has been performed, with its post and its reply. -/
theorem State.performed_baysKept (s : State) (id d : Nat) : BaysKept s (s.performed id d) := by
  unfold State.performed; split
  · exact .refl s
  · exact (BaysKept.of_bays (by rw [(s.postAccess_tells _).frame])).trans (State.finishAccess_baysKept _ _ _)

/-! ### What the end of an access never changes of the memories -/

/-- The memories stay. -/
structure MemoriesKept (s t : State) : Prop where
  mem : t.mem = s.mem
  tmem : t.tmem = s.tmem
  staging : t.boot.staging = s.boot.staging

theorem MemoriesKept.refl (s : State) : MemoriesKept s s := ⟨rfl, rfl, rfl⟩

theorem MemoriesKept.trans {s t u : State} (h : MemoriesKept s t) (k : MemoriesKept t u) : MemoriesKept s u :=
  ⟨k.mem.trans h.mem, k.tmem.trans h.tmem, k.staging.trans h.staging⟩

theorem Within.memories {s t : State} (h : Within s t) : MemoriesKept s t := ⟨h.mem, h.tmem, congrArg _ h.boot⟩

theorem Tells.memories {s t : State} (h : Tells s t) : MemoriesKept s t := by rw [h.frame]; exact ⟨rfl, rfl, rfl⟩

theorem State.wakeWaves_within (s : State) (id : Nat) : Within s (s.wakeWaves id) := by
  refine Within.foldl _ (fun u p => ?_) _ _
  split
  · exact u.later_within _ _
  · exact .refl u

theorem State.settle_within (s : State) (a : Access) : Within s (s.settle a) := by
  unfold State.settle
  split
  · exact .refl s
  · exact (s.updLoan_within _ _).trans' (State.wakeWaves_within _ _)

theorem State.answerFill_within (s : State) (a : Access) (d : Nat) (block : Bool) : Within s (s.answerFill a d block) := by
  unfold State.answerFill; split
  · dsimp only
    split
    · split
      · exact (s.born_within _ _ _).trans' (State.inject_within _ _ _ _)
      · exact .refl s
    · exact .refl s
  · exact .refl s

theorem State.dropAccess_within (s : State) (id : Nat) : Within s (s.dropAccess id) := by
  unfold State.dropAccess; split
  · exact .refl s
  · dsimp only
    split
    · exact s.accs_within _
    · exact (s.accs_within _).trans' (State.gone_within _ _ _ _ _)

theorem State.finishAccess_within (s : State) (id d : Nat) : Within s (s.finishAccess id d) := by
  unfold State.finishAccess; split
  · exact .refl s
  · rename_i a _
    refine Within.trans' ?_ (State.dropAccess_within _ _)
    split
    · exact .refl s
    · split
      · exact s.answer_within _ _ _ _ _ _ _ _ _ _ _ _
      · exact s.answer_within _ _ _ _ _ _ _ _ _ _ _ _
      · exact .foldl _ (fun u i => u.answer_within _ _ _ _ _ _ _ _ _ _ _ _) _ _
      · exact s.answerFill_within _ _ _
      · exact s.answerFill_within _ _ _
      · exact s.answer_within _ _ _ _ _ _ _ _ _ _ _ _
      · exact s.answer_within _ _ _ _ _ _ _ _ _ _ _ _
      · exact s.answer_within _ _ _ _ _ _ _ _ _ _ _ _
      · exact s.answer_within _ _ _ _ _ _ _ _ _ _ _ _
      · exact s.answer_within _ _ _ _ _ _ _ _ _ _ _ _
      · exact .refl s
      · exact .refl s
      · exact .refl s

theorem State.performed_memories (s : State) (id d : Nat) : MemoriesKept s (s.performed id d) := by
  unfold State.performed; split
  · exact .refl s
  · exact (s.postAccess_tells _).memories.trans (State.finishAccess_within _ _ _).memories

/-! ### The wave buffer (R247 to R250) -/

section
variable {s : State} {id : Nat} {a : Access} {l : Loan} (acc : AMap.find s.accs id = some a) (loan : AMap.find s.loans a.loan = some l)
include acc loan

/-- A request that the wave buffer takes. -/
theorem execWaveAccessArrive_taken (buffered : a.stage = .buffered)
    (takes : (s.commitTakes a l && s.replyPlace a l && (!a.passes l || s.waveRoom a l)) = true) : exec (.waveAccessArrive id) s =
      .next (({ s.leaveBuffer id a.el with accs := AMap.put (s.leaveBuffer id a.el).accs id { a with stage := .waiting } } : State).later 0
        (.accessPerform id)) := by
  obtain ⟨⟨commit, reply⟩, room⟩ := (Bool.and_eq_true _ _).mp takes |>.imp_left (Bool.and_eq_true _ _).mp
  have goes : (!(s.commitTakes a l) || !s.replyPlace a l || (a.passes l && !s.waveRoom a l)) = false := by
    rw [commit, reply]
    cases passes : a.passes l <;> simp_all
  show execWaveAccessArrive id s = _
  simp only [execWaveAccessArrive, acc, loan, buffered, goes, bne_self_eq_false, Bool.false_eq_true, if_false]

theorem execWaveAccessArrive_waits (buffered : a.stage = .buffered)
    (takes : (s.commitTakes a l && s.replyPlace a l && (!a.passes l || s.waveRoom a l)) = false) :
    exec (.waveAccessArrive id) s = .next (s.later 1 (.waveAccessArrive id)) := by
  have stays : (!(s.commitTakes a l) || !s.replyPlace a l || (a.passes l && !s.waveRoom a l)) = true := by
    rw [← Bool.not_eq_true', Bool.not_and, Bool.not_and, Bool.not_or, Bool.not_not] at takes
    exact takes
  show execWaveAccessArrive id s = _
  simp only [execWaveAccessArrive, acc, loan, buffered, stays, bne_self_eq_false, Bool.false_eq_true, if_false, if_true]

end

/-- An element whose memory buffer a request has left (R127). -/
theorem State.leaveBuffer_out (s : State) (id el : Nat) : ∀ f ∈ AMap.get ((s.leaveBuffer id el).el el).out [] 5, f.emit ≠ .request id := by
  rw [State.leaveBuffer, State.el_updEl_same]
  dsimp only
  split
  · rw [AMap.get_put_same]
    intro f kept left
    have stays := (List.mem_filter.mp kept).2
    rw [left] at stays
    simp at stays
  · rename_i absent
    intro f there left
    exact absent (List.any_eq_true.mpr ⟨f, there, by rw [left]; exact beq_self_eq_true _⟩)

section
variable {s : State} {id : Nat} {a : Access} {l : Loan} {w : Window} (acc : AMap.find s.accs id = some a)
  (loan : AMap.find s.loans a.loan = some l) (window : l.windowAt a.ctx a.win = some w) (waiting : a.stage = .waiting)
include acc loan window waiting

theorem execAccessPerform_order (behind : l.inTurn a s.cycle = false ∨ l.ordersIn a = false) : exec (.accessPerform id) s = .next s := by
  show execAccessPerform id s = _
  rcases behind with turn | order
  · simp [execAccessPerform, acc, loan, window, waiting, turn]
  · cases turn : l.inTurn a s.cycle <;> simp [execAccessPerform, acc, loan, window, waiting, turn, order]

section
variable (turn : l.inTurn a s.cycle = true) (order : l.ordersIn a = true) (performs : a.skip = false)
include turn order performs

theorem execAccessPerform_release (release : 2 ≤ a.strength) (now : a.deferred l = false) (before : s.priorDone id a l = false) :
    exec (.accessPerform id) s = .next (s.later 1 (.accessPerform id)) := by
  show execAccessPerform id s = _
  simp [execAccessPerform, acc, loan, window, waiting, turn, order, performs, release, now, before]

theorem execAccessPerform_bank (release : 2 ≤ a.strength → s.priorDone id a l = true) (plain : a.isAtomic = false) (free : a.onRing = false)
    (tile : w.virt = false) (real : a.op ≠ .pref) (now : a.deferred l = false) (keeps : a.sends = false) :
    exec (.accessPerform id) s = .next (s.toBank id a l w) := by
  have twin : s.deadTwin id a = false := by rw [State.deadTwin, plain, Bool.false_and, Bool.false_and]
  show execAccessPerform id s = _
  simp [execAccessPerform, acc, loan, window, waiting, turn, order, performs, twin, plain, free, tile, real, now, keeps]
  intro strong before
  rw [release strong] at before
  cases before

end
end

/-- An access that goes to its bank (R242). -/
theorem State.toBank_there (s : State) (id : Nat) (a : Access) (l : Loan) (w : Window) :
    ∃ e ∈ AMap.get ((s.toBank id a l w).bay (a.bayOf l)).banks [] (bankKey w.tile (a.bankOf l w)),
      e.job = .access id ∧ e.cycles = a.bankCycles ∧ e.arrived > s.cycle := by
  refine ⟨_, State.postBank_entry _ _ _ _ _ _, rfl, rfl, ?_⟩
  show s.cycle + a.reach l w > s.cycle
  have := a.reach
  unfold Access.reach
  omega

/-! ### Banks (R242, R289) -/

/-- A bank without what is there no longer. -/
def State.bankAsked (s : State) (bay tile bank : Nat) : State :=
  s.updBay bay (fun b => { b with banks := AMap.upd b.banks [] (bankKey tile bank) (fun es => es.filter (s.jobAlive bay)) })

section
variable {s : State} {bay tile bank : Nat} {e : BankEntry} (alone : AMap.get (s.bay bay).banks [] (bankKey tile bank) = [e])
  (alive : s.jobAlive bay e = true) (arrived : e.arrived ≤ s.cycle)
include alone alive arrived

omit arrived in
theorem State.bankAsked_banks : AMap.get ((s.bankAsked bay tile bank).bay bay).banks [] (bankKey tile bank) = [e] := by
  rw [State.bankAsked, State.bay_updBay_same, AMap.get_upd_same, alone, List.filter_cons_of_pos alive, List.filter_nil]

/-- A bank that is still busy looks again when it is free. -/
theorem execBankAccess_busy (busy : s.cycle < AMap.get (s.bay bay).bankBusy 0 (bankKey tile bank)) : exec (.bankAccess bay tile bank) s =
    .next ((s.bankAsked bay tile bank).later (AMap.get (s.bay bay).bankBusy 0 (bankKey tile bank) - s.cycle) (.bankAccess bay tile bank)) := by
  show execBankAccess bay tile bank s = _
  simp only [execBankAccess, State.bay_updBay_same, AMap.get_upd_same, alone, List.filter_cons_of_pos alive, List.filter_nil, State.updBay_cycle,
    List.filter_cons, arrived, decide_true, if_true, List.cons_ne_nil, if_false, busy]
  rfl

/-- A bank that has taken an access, which is all that it holds. -/
def State.bankTakes (s : State) (bay tile bank : Nat) (e : BankEntry) : State :=
  (s.bankAsked bay tile bank).updBay bay (fun b => { b with
    banks := AMap.upd b.banks [] (bankKey tile bank) (fun es => es.filter (fun x => !([e].contains x)))
    bankBusy := AMap.put b.bankBusy (bankKey tile bank) (s.cycle + e.cycles)
    heldClaims := b.heldClaims ++ [] })

/-- A free bank performs the one access that stands there. -/
theorem execBankAccess_alone (free : AMap.get (s.bay bay).bankBusy 0 (bankKey tile bank) ≤ s.cycle) (last : s.bankComing = false)
    (ready : s.jobReady e = true) (plain : s.claimOf e = none) :
    exec (.bankAccess bay tile bank) s = .next ((s.bankTakes bay tile bank e).performJob bay e) := by
  have next : (s.updBay bay (fun b => { b with banks := AMap.upd b.banks [] (bankKey tile bank) (fun es => es.filter (s.jobAlive bay)) })).bankNext [e] =
    some e := State.bankNext_alone plain
  have same : ∀ g : Bay → Bay, (s.updBay bay g).claimOf e = none := fun _ => plain
  show execBankAccess bay tile bank s = _
  cases job : e.job <;>
    simp only [execBankAccess, State.bay_updBay_same, AMap.get_upd_same, alone, List.filter_cons_of_pos alive, List.filter_nil, State.updBay_cycle,
      List.filter_cons, arrived, decide_true, if_true, List.cons_ne_nil, if_false, Nat.not_lt.mpr free, State.bankComing_updBay, last,
      State.jobReady_updBay, ready, next, bankSort, bankInsert, List.foldl, bne_self_eq_false, Bool.false_and,
      Bool.false_eq_true, le_refl, List.length_cons, same, Option.isSome_none, job] <;>
    rfl

omit arrived in
theorem State.bankTakes_bay : AMap.get ((s.bankTakes bay tile bank e).bay bay).banks [] (bankKey tile bank) = [] ∧
    AMap.get ((s.bankTakes bay tile bank e).bay bay).bankBusy 0 (bankKey tile bank) = s.cycle + e.cycles := by
  rw [State.bankTakes, State.bay_updBay_same]
  refine ⟨?_, AMap.get_put_same _ _ _ _⟩
  rw [AMap.get_upd_same, State.bankAsked_banks alone alive]
  simp

end

/-! ### A tile access at its bank (R242, R324) -/

theorem State.eccFails_nil (s : State) : s.eccFails [] = false := by simp [State.eccFails]

theorem State.correct_nil (s : State) (bay tile : Nat) : s.correct bay tile [] = s := by simp [State.correct]

theorem Tells.bays {s t : State} (h : Tells s t) : BaysKept s t := .of_bays (by rw [h.frame])

theorem State.wakeWaves_baysKept (s : State) (id : Nat) : BaysKept s (s.wakeWaves id) := by
  refine BaysKept.foldl _ (fun u p => ?_) _ _
  split <;> exact .of_bays rfl

theorem State.settle_baysKept (s : State) (a : Access) : BaysKept s (s.settle a) := by
  unfold State.settle
  split
  · exact .refl s
  · exact (s.updLoan_baysKept _ _).trans (State.wakeWaves_baysKept _ _)

section
variable {s : State} {id d : Nat} {a : Access} {l : Loan} {w : Window} (acc : AMap.find s.accs id = some a)
  (loan : AMap.find s.loans a.loan = some l) (window : l.windowAt a.ctx a.win = some w) (sound : s.eccBad = [])
include acc loan window sound

/-- A load that is performed changes no memory and, of the bays, nothing but what parking and replying change. -/
theorem State.performTile_load (load : a.op = .load ∨ a.op = .loadLine ∨ a.op = .loadBlock) :
    MemoriesKept s (s.performTile id) ∧ BaysKept s (s.performTile id) := by
  have performed : ∀ (u : State) (m : AMap Access) (x : Access) (n : Nat),
      MemoriesKept u ((({ u with accs := m } : State).settle x).performed id n) ∧
      BaysKept u ((({ u with accs := m } : State).settle x).performed id n) := fun u m x n =>
    ⟨((u.accs_within m).trans' (State.settle_within _ _)).memories.trans (State.performed_memories _ _ _),
      ((u.accs_baysKept m).trans (State.settle_baysKept _ x)).trans (State.performed_baysKept _ _ _)⟩
  have units : ∀ us : List Nat, (if s.eccBad = [] then [] else us) = [] := fun _ => if_pos sound
  rcases load with op | op | op
  all_goals
    simp only [State.performTile, acc, loan, window, op, units, State.eccFails_nil, State.correct_nil, Bool.false_eq_true, if_false]
    exact performed { s with accs := _ } _ _ _

/-- A store that is performed writes its words. -/
theorem State.performTile_store {ws : List W32} {m : BitVec 8} (store : a.op = .store ws m) :
    (s.performTile id).tmem = a.writeAt l w s.tmem ∧ (s.performTile id).mem = s.mem ∧ BaysKept s (s.performTile id) := by
  obtain ⟨op, kind, aloan, ctx, el, index, hnd, win, off, o, own, predd, succd, strength, scope, post, dest, tag, outTag, cont, pred, skip, stage,
    seq, phys, words, seen, ringDone, dead, prior⟩ := a
  obtain rfl : op = _ := store
  have units : ∀ us : List Nat, (if s.eccBad = [] then [] else us) = [] := fun _ => if_pos sound
  have written : ∀ (u : State) (x : Access) (n : Nat), MemoriesKept u (((u.noteStores "performed" x w).settle x).performed id n) ∧
      BaysKept u (((u.noteStores "performed" x w).settle x).performed id n) := fun u x n =>
    ⟨((u.noteStores_tells _ x w).memories.trans (State.settle_within _ _).memories).trans (State.performed_memories _ _ _),
      ((u.noteStores_tells _ x w).bays.trans (State.settle_baysKept _ _)).trans (State.performed_baysKept _ _ _)⟩
  simp only [State.performTile, acc, loan, window, units, State.eccFails_nil, Bool.false_eq_true, false_and, if_false]
  obtain ⟨memories, bays⟩ := written { s with accs := _, tmem := _, eccBad := _ } _ _
  exact ⟨memories.tmem, memories.mem, ⟨bays.core⟩⟩

end

/-! ### Rounds of claims (R289, R336) -/

/-- Claims in ascending key. -/
theorem byClaimKey_ordered (s : State) (ids : List Nat) : (byClaimKey s ids).Perm ids ∧
    (byClaimKey s ids).Pairwise (fun x y => (match AMap.find s.accs x with | some a => a.claimKey.getD 0 | none => 0) ≤
      (match AMap.find s.accs y with | some a => a.claimKey.getD 0 | none => 0)) := by
  refine ⟨sortBy_perm _ _, (sortBy_pairwise (fun a b => ?_) (fun a b c => ?_) ids).imp ?_⟩
  · simp only [decide_eq_true_eq]
    exact Nat.le_total _ _
  · simp only [decide_eq_true_eq]
    exact Nat.le_trans
  · intro x y le
    exact of_decide_eq_true le

theorem portPlace_reads {die port : Nat} (d : die < 4) (p : port < 256) :
    portPlace die port % 2 ^ 20 / 256 = die ∧ portPlace die port % 256 = port ∧ ¬portPlace die port < 2 ^ 20 := by
  unfold portPlace
  omega

/-- A round at a memory port (R289, R336). -/
theorem execAincbRoundEnd_port {s : State} {die port : Nat} (d : die < 4) (p : port < 256) : ∃ words : List Nat,
    exec (.aincbRoundEnd (portPlace die port)) s = .next (words.foldl (fun u p => u.poolsAfter p)
      ((byClaimKey s (AMap.get (s.xchOf die).portClaims [] port)).foldl (fun u n => u.performVirtAtomic n die port)
        (s.updXch die (fun x => { x with portClaims := AMap.del x.portClaims port })))) := by
  obtain ⟨die', port', high⟩ := portPlace_reads d p
  show ∃ words, execAincbRoundEnd (portPlace die port) s = _
  rw [execAincbRoundEnd, if_neg high, die', port']
  exact ⟨_, rfl⟩

/-- Settles O38: the wave buffer and the order of a wave, the bank of an access that goes there, the bank's access alone
(`execBankAccess_alone`, `State.performTile_load`, `State.performTile_store`), and the claims in order (`byClaimKey_ordered`). -/
theorem accessesPerformed : Obligations.AccessesPerformed := by
  refine ⟨fun s id a l acc loan => ⟨fun buffered takes => ?taken, fun buffered takes => ?stays, fun w window waiting => ⟨fun behind => ?order,
      fun turn order performs strong now before => ?release, fun turn order performs release plain free tile real now keeps => ?bank⟩,
      fun w e bank window tile sound job arrived alone free plain => ⟨fun busy => ?busy, fun idle last => ?idle⟩⟩,
    fun s => ⟨fun bay tile bank e alone alive arrived free last ready plain => ?job, fun id k walk => ?walk, fun place low => ?round,
      fun die port d p => ?portRound⟩⟩
  case taken =>
    refine ⟨_, execWaveAccessArrive_taken acc loan buffered takes, AMap.find_put_same _ _ _, State.mem_later _ _ _, s.leaveBuffer_out id a.el,
      fun k other => ?_, rfl⟩
    show (s.leaveBuffer id a.el).el k = s.el k
    rw [State.leaveBuffer, State.el_updEl_other _ _ other]
  case stays => exact ⟨_, execWaveAccessArrive_waits acc loan buffered takes, rfl⟩
  case order => exact ⟨_, execAccessPerform_order acc loan window waiting behind, rfl⟩
  case release => exact ⟨_, execAccessPerform_release acc loan window waiting turn order performs strong now before, rfl⟩
  case bank =>
    exact ⟨_, execAccessPerform_bank acc loan window waiting turn order performs release plain free tile real now keeps,
      AMap.find_put_same _ _ _, s.toBank_there id a l w, rfl, rfl⟩
  case busy =>
    have alive : s.jobAlive (a.bayOf l) e = true := by simp only [State.jobAlive, job, acc, Option.isSome_some]
    have looks := (s.bankAsked (a.bayOf l) w.tile bank).mem_later (AMap.get (s.bay (a.bayOf l)).bankBusy 0 (bankKey w.tile bank) - s.cycle)
      (.bankAccess (a.bayOf l) w.tile bank)
    have due : (s.bankAsked (a.bayOf l) w.tile bank).cycle + (AMap.get (s.bay (a.bayOf l)).bankBusy 0 (bankKey w.tile bank) - s.cycle) =
      AMap.get (s.bay (a.bayOf l)).bankBusy 0 (bankKey w.tile bank) := Nat.add_sub_cancel' busy.le
    rw [due] at looks
    exact ⟨_, execBankAccess_busy alone alive arrived busy, rfl, rfl, State.bankAsked_banks alone alive, looks⟩
  case idle =>
    have alive : s.jobAlive (a.bayOf l) e = true := by simp only [State.jobAlive, job, acc, Option.isSome_some]
    have ready : s.jobReady e = true := by simp only [State.jobReady, job, acc, Option.any_some, free, Bool.false_and, Bool.not_false]
    have claims : s.claimOf e = none := by
      simp only [State.claimOf, job, acc, Option.bind_some, Access.claimKey]
      rcases plain with op | op | op | ⟨ws, m, op⟩ <;> rw [op]
    have performs : (s.bankTakes (a.bayOf l) w.tile bank e).performJob (a.bayOf l) e = (s.bankTakes (a.bayOf l) w.tile bank e).performTile id := by
      rw [State.performJob, job]
    have acc' : AMap.find (s.bankTakes (a.bayOf l) w.tile bank e).accs id = some a := acc
    refine ⟨_, execBankAccess_alone alone alive arrived idle last ready claims, ?_⟩
    rw [performs, ← (State.bankTakes_bay alone alive).2]
    have loads : a.op = .load ∨ a.op = .loadLine ∨ a.op = .loadBlock → _ := fun op => State.performTile_load acc' loan window sound op
    rcases plain with op | op | op | ⟨ws, m, op⟩
    · obtain ⟨memories, bays⟩ := loads (.inl op)
      exact ⟨by rw [op]; exact memories.tmem, memories.mem, by rw [bays.bankBusy]⟩
    · obtain ⟨memories, bays⟩ := loads (.inr (.inl op))
      exact ⟨by rw [op]; exact memories.tmem, memories.mem, by rw [bays.bankBusy]⟩
    · obtain ⟨memories, bays⟩ := loads (.inr (.inr op))
      exact ⟨by rw [op]; exact memories.tmem, memories.mem, by rw [bays.bankBusy]⟩
    · obtain ⟨tmem, mem, bays⟩ := State.performTile_store acc' loan window sound op
      exact ⟨by rw [op]; exact tmem, mem, by rw [bays.bankBusy]⟩
  case job =>
    obtain ⟨banks, busy⟩ := State.bankTakes_bay alone alive
    exact ⟨_, execBankAccess_alone alone alive arrived free last ready plain, _, rfl, banks, busy, rfl⟩
  case walk =>
    refine ⟨_, ?_, rfl⟩
    show execTlbWalkDone id s = _
    simp only [execTlbWalkDone, walk]
  case round =>
    obtain ⟨perm, order⟩ := byClaimKey_ordered s (s.bay (place / 64)).heldClaims
    refine ⟨_, ?_, _, perm, order, rfl⟩
    show execAincbRoundEnd place s = _
    rw [execAincbRoundEnd, if_pos low]
    rfl
  case portRound =>
    obtain ⟨perm, order⟩ := byClaimKey_ordered s (AMap.get (s.xchOf die).portClaims [] port)
    obtain ⟨words, runs⟩ := execAincbRoundEnd_port (s := s) d p
    exact ⟨_, runs, _, words, perm, order, rfl⟩

end Sys2Proof.Machine
end

section
/-! PROOFS. O39: triggers, blocks and commands of the decanters. -/
namespace Sys2Proof.Machine

@[simp] theorem Bay.template_updTemplate_same (b : Bay) (k : Nat) (f : TemplState → TemplState) : (b.updTemplate k f).template k = f (b.template k) :=
  AMap.get_upd_same _ _ _ _

theorem BaysKept.template {s t : State} (h : BaysKept s t) (b k : Nat) : (t.bay b).template k = (s.bay b).template k := by
  have same := congrArg (fun y : Bay => y.template k) (h.core b)
  exact same

/-! ### Triggers (R257, R258) -/

/-- Decanters that are all taken begin nothing. -/
theorem State.feedDecanters_taken {s : State} {bay : Nat} (taken : ∀ d, d < 4 → (AMap.find (s.bay bay).decanters d).isSome = true) :
    s.feedDecanters bay = s := by
  have still : ∀ (ds : List Nat), (∀ d ∈ ds, d < 4) → ds.foldl (fun s dec =>
      let b := s.bay bay
      match AMap.find b.decanters dec, b.fireQueue with
      | none, x :: rest =>
        let running : Bool := match AMap.find s.loans x.loan with | some l => l.state == .running | none => true
        if running then
          (s.updBay bay (fun y => { y with fireQueue := rest, decanters := AMap.put y.decanters dec x })).startBlock bay dec
        else s
      | _, _ => s) s = s := fun ds => by
    induction ds with
    | nil => exact fun _ => rfl
    | cons d ds ih =>
      intro low
      obtain ⟨x, there⟩ := Option.isSome_iff_exists.mp (taken d (low d (List.mem_cons_self ..)))
      rw [List.foldl_cons]
      simp only [there]
      exact ih fun e he => low e (List.mem_cons_of_mem _ he)
  exact still [0, 1, 2, 3] (by decide)

section
variable {s : State} {el c id k : Nat} {m : Template} {q : QTok} (armed : armedTrigger s el = some (c, id, k, m, q))
include armed

/-- The firing that a trigger begins (R257). -/
def State.triggered (s : State) (id k c : Nat) (q : QTok) : Firing :=
  ⟨id, k, q.e.operand, q.e.tag, q.e.cont, c, 0, false, s.stillPrior id q.e.prior, s.nextId⟩

/-- The trigger's token taken. -/
def State.takeTrigger (s : State) (el c : Nat) : State :=
  { s with nextId := s.nextId + 1 }.updEl el (fun e => e.updActive c (fun pl => pl.updQueue 0 (·.drop 1)))

theorem execDecantTrigger_live (live : q.e.pred = true) (room : (s.bay (el / 256)).fireQueue.length < 16) :
    exec (.decantTrigger el) s = .next ((s.takeTrigger el c).placeTrigger (el / 256) (s.triggered id k c q)) := by
  show execDecantTrigger el s = _
  simp only [execDecantTrigger, armed, live, Bool.not_true, Bool.false_eq_true, if_false, Nat.not_le.mpr room]
  rfl

theorem execDecantTrigger_full (live : q.e.pred = true) (full : 16 ≤ (s.bay (el / 256)).fireQueue.length) :
    exec (.decantTrigger el) s = .next s := by
  show execDecantTrigger el s = _
  simp only [execDecantTrigger, armed, live, Bool.not_true, Bool.false_eq_true, if_false, full, if_true]

theorem execDecantTrigger_dead (dead : q.e.pred = false) : exec (.decantTrigger el) s =
    .next (((s.takeTrigger el c).sendCompletion (s.triggered id k c q) false).firingGone (((s.el el).ctx c).logical / 128)
      (s.triggered id k c q)) := by
  show execDecantTrigger el s = _
  simp only [execDecantTrigger, armed, dead, Bool.not_false, if_true]
  rfl

end

/-- A trigger that no decanter is free for stands last in its bay's fire queue. -/
theorem State.placeTrigger_waits {s : State} {bay : Nat} (x : Firing) (taken : ∀ d, d < 4 → (AMap.find (s.bay bay).decanters d).isSome = true) :
    ((s.placeTrigger bay x).bay bay).fireQueue = (s.bay bay).fireQueue ++ [x] ∧ (s.placeTrigger bay x).mem = s.mem := by
  rw [State.placeTrigger, State.feedDecanters_taken fun d low => by rw [State.bay_updBay_same]; exact taken d low, State.bay_updBay_same]
  exact ⟨rfl, rfl⟩

/-! ### Blocks (R257, R258) -/

/-- A state without the access of a decanter's block. -/
def State.blockWritten (s : State) (bay d : Nat) : State :=
  match s.blockOf bay d with | some (n, _) => { s with accs := AMap.del s.accs n } | none => s

theorem State.blockWritten_same (s : State) (bay d : Nat) : (s.blockWritten bay d).loans = s.loans ∧ (s.blockWritten bay d).bays = s.bays := by
  unfold State.blockWritten
  split <;> exact ⟨rfl, rfl⟩

section
variable {s : State} {bay d : Nat} {x : Firing} {l : Loan} {m : Template} (here : AMap.find (s.bay bay).decanters d = some x)
  (loan : AMap.find s.loans x.loan = some l) (templ : l.templateAt x.ctx x.template = some m)
include here loan templ

/-- What a written block does, by what is left of its firing. -/
theorem execDecantBlockDone_eq : exec (.decantBlockDone bay d) s =
    (let x := { x with block := min m.nblk (x.block + 1) }
    if x.block = m.nblk ∧ !x.halted ∧ !l.committedPrior x.prior [] then
      .next (((s.blockWritten bay d).updBay bay (fun y => { y with decanters := AMap.put y.decanters d x })).later 1 (.decantBlockDone bay d))
    else if x.block < m.nblk then
      let u := (s.blockWritten bay d).updBay bay (fun y => { y with decanters := AMap.put y.decanters d x })
      .next (if l.state == .switching then u else u.startBlock bay d)
    else
      let u := (s.blockWritten bay d).updBay bay (fun y => { y with decanters := AMap.del y.decanters d }.updTemplate (templKey x.ctx x.template)
        (fun t => { t with completed := (t.completed + 1) % 65536 }))
      let v := if x.halted then u else u.sendCompletion x true
      .next (((v.firingGone (m.trigEl / 128) x).answerCommands bay).feedDecanters bay)) := by
  show execDecantBlockDone bay d s = _
  unfold execDecantBlockDone State.blockWritten at *
  rw [here]
  cases s.blockOf bay d <;> simp only [loan, templ]

theorem execDecantBlockDone_next (more : x.block + 1 < m.nblk) : exec (.decantBlockDone bay d) s =
    .next (let u := (s.blockWritten bay d).updBay bay (fun y => { y with decanters := AMap.put y.decanters d { x with block := x.block + 1 } })
      if l.state == .switching then u else u.startBlock bay d) := by
  rw [execDecantBlockDone_eq here loan templ]
  simp only [Nat.min_eq_right more.le, more, more.ne, false_and, if_false, if_true]

section
variable (done : m.nblk ≤ x.block + 1)
include done

theorem execDecantBlockDone_waits (goes : x.halted = false) (waits : l.committedPrior x.prior [] = false) : exec (.decantBlockDone bay d) s =
    .next (((s.blockWritten bay d).updBay bay (fun y => { y with decanters := AMap.put y.decanters d { x with block := m.nblk } })).later 1
      (.decantBlockDone bay d)) := by
  rw [execDecantBlockDone_eq here loan templ]
  simp only [Nat.min_eq_left done, goes, waits, Bool.not_false, and_self, if_true]

theorem execDecantBlockDone_last (ends : x.halted = true ∨ l.committedPrior x.prior [] = true) : exec (.decantBlockDone bay d) s =
    .next (let u := (s.blockWritten bay d).updBay bay (fun y => { y with decanters := AMap.del y.decanters d }.updTemplate
        (templKey x.ctx x.template) (fun t => { t with completed := (t.completed + 1) % 65536 }))
      ((((if x.halted then u else u.sendCompletion { x with block := m.nblk } true).firingGone (m.trigEl / 128) { x with block := m.nblk }).answerCommands
        bay).feedDecanters bay)) := by
  have ended : ¬(m.nblk = m.nblk ∧ (!x.halted) = true ∧ (!l.committedPrior x.prior []) = true) := by
    rcases ends with halted | committed
    · simp [halted]
    · simp [committed]
  rw [execDecantBlockDone_eq here loan templ]
  rw [Nat.min_eq_left done]
  exact (if_neg ended).trans (if_neg (Nat.lt_irrefl _))

end
end

/-! ### Commands (R295) -/

/-- The answers that are ready change no template. -/
theorem State.answerCommands_template (s : State) (bay k : Nat) : ((s.answerCommands bay).bay bay).template k = (s.bay bay).template k := by
  unfold State.answerCommands
  dsimp only
  have told : ∀ (done : List (Nat × DCommand)) (u : State), BaysKept u (done.foldl (fun s (p : Nat × DCommand) => match p.2.flit with
      | some f => s.inject 1 p.2.index f
      | none => s) u) := fun done u => .foldl _ (fun v p => by
    split
    · exact v.inject_baysKept _ _ _
    · exact .refl v) done u
  refine ((told _ _).template bay k).trans ?_
  rw [State.bay_updBay_same]
  rfl

section
variable {s : State} {id bay : Nat} {c : DCommand} (there : s.commandBay id = some (bay, c))
include there

theorem execDecantArmApply_arm (op : c.op = .arm) : exec (.decantArmApply id) s =
    .next ((s.updBay bay (fun y => { y with commands := AMap.del y.commands id })).updBay bay (fun y => y.updTemplate (templKey c.ctx c.template)
      (fun t => { t with arm := true }))) := by
  show execDecantArmApply id s = _
  simp only [execDecantArmApply, there, op]

theorem execDecantArmApply_status {f : Flit} (op : c.op = .status) (flit : c.flit = some f) : exec (.decantArmApply id) s =
    .next ((s.updBay bay (fun y => { y with commands := AMap.del y.commands id })).inject 1 c.index
      (f.withOperand ((s.bay bay).statusWord c))) := by
  show execDecantArmApply id s = _
  simp only [execDecantArmApply, there, op, flit]

/-- Whether a firing is one that an abort removes (R295). -/
def DCommand.aborts (c : DCommand) (abort : Bool) (x : Firing) : Bool := abort && x.loan == c.loan && x.ctx == c.ctx && x.template == c.template

/-- The bay of a command after `ARM` is cleared, with the firings that the command waits for (R295). -/
def Bay.disarmed (y : Bay) (id : Nat) (c : DCommand) (abort : Bool) : Bay :=
  { y with
    fireQueue := y.fireQueue.filter (fun x => !c.aborts abort x)
    commands := AMap.put y.commands id { c with waits := some (((y.decanters.map Prod.snd).filter (fun (x : Firing) =>
      x.loan == c.loan && x.ctx == c.ctx && x.template == c.template)).map Firing.num) } }.updTemplate (templKey c.ctx c.template)
    (fun t => { t with arm := false })

theorem execDecantArmApply_disarm {abort : Bool} (op : c.op = .disarm abort) : exec (.decantArmApply id) s =
    .next ((((s.bay bay).fireQueue.filter (c.aborts abort)).foldl (fun s x => (s.sendCompletion x false).firingGone (c.index / 128) x)
      (s.updBay bay (fun y => y.disarmed id c abort))).answerCommands bay) := by
  obtain ⟨op', loan, ctx, template, index, flit, waits⟩ := c
  obtain rfl : op' = _ := op
  show execDecantArmApply id s = _
  simp only [execDecantArmApply, there]
  rfl

end

/-- Settles O39: a trigger is placed (`execDecantTrigger_live`), a block done by what is left of its firing (`execDecantBlockDone_eq`), and a
command applied to its template. -/
theorem decanting : Obligations.Decanting := by
  intro s
  refine ⟨fun el c id k m q armed => ?trigger, fun bay d x l m here loan templ => ?block, fun id bay c there => ?command⟩
  case trigger =>
    refine ⟨fun live room => ⟨_, execDecantTrigger_live armed live room, rfl⟩, fun live room taken => ?_,
      fun live full => ⟨_, execDecantTrigger_full armed live full, rfl⟩, fun dead => ⟨_, execDecantTrigger_dead armed dead, rfl⟩⟩
    exact ⟨_, execDecantTrigger_live armed live room, State.placeTrigger_waits (s := s.takeTrigger el c) _ taken⟩
  case block =>
    refine ⟨fun more => ⟨_, execDecantBlockDone_next here loan templ more, rfl⟩,
      fun done goes waits => ⟨_, execDecantBlockDone_waits here loan templ done goes waits, rfl⟩,
      fun done ends => ⟨_, execDecantBlockDone_last here loan templ done ends, _, ?_, rfl⟩⟩
    have same : (s.blockWritten bay d).bay bay = s.bay bay := by rw [State.bay, (s.blockWritten_same bay d).2]; rfl
    rw [State.bay_updBay_same, Bay.template_updTemplate_same, same]
    rfl
  case command =>
    refine ⟨fun op => ⟨_, execDecantArmApply_arm there op, ?_⟩, fun op => ⟨_, execDecantArmApply_disarm there op, ?_⟩,
      fun abort op => ⟨_, execDecantArmApply_disarm there op, _, _, rfl, ?_, fun x => ?_, fun x => ?_⟩,
      fun f op flit => ⟨_, execDecantArmApply_status there op flit, rfl⟩⟩
    · beta_reduce
      rw [State.bay_updBay_same, Bay.template_updTemplate_same]
    · have none' : (s.bay bay).fireQueue.filter (c.aborts false) = [] := List.filter_eq_nil_iff.mpr fun x _ => Bool.false_ne_true
      beta_reduce
      rw [none', List.foldl_nil, State.answerCommands_template, State.bay_updBay_same, Bay.disarmed, Bay.template_updTemplate_same]
    · rw [State.bay_updBay_same, Bay.disarmed, Bay.template_updTemplate_same]
    · rw [List.mem_filter]
      simp only [DCommand.aborts, Bool.and_eq_true, beq_iff_eq, and_assoc]
    · rw [State.bay_updBay_same, List.mem_filter]
      show x ∈ (s.bay bay).fireQueue.filter (fun x => !c.aborts abort x) ↔ _
      rw [List.mem_filter]
      cases c.aborts abort x <;> simp

end Sys2Proof.Machine
end

section
/-! PROOFS. O48: the steps of a switch and a restore. -/
namespace Sys2Proof.Machine

/-! ### Virtual writes (R243, R348) -/

/-- A virtual write changes device memory alone. -/
theorem State.writeVirt_same {s u : State} {space va : Nat} {bs : List Byte} (written : s.writeVirt space va bs = some u) :
    u = { s with mem := u.mem } := by
  unfold State.writeVirt at written
  obtain ⟨p, made, rfl⟩ := Option.map_eq_some_iff.mp written
  refine List.foldlRecOn (motive := fun acc => ∀ p, acc = some p → p.1 = { s with mem := p.1.mem }) _ _ (fun p start => ?_)
    (fun acc same q _ p next => ?_) p made
  · cases start
    rfl
  · split at next
    · cases next
    · split at next
      · split at next
        · cases next
          have kept := same _ rfl
          dsimp only at kept ⊢
          rw [kept]
        · cases next
      · cases next

/-! ### What a loan keeps when tokens come in (R312, R358) -/

/-- A loan without what tokens that come in, and what ends, may change: its frames, its exits and the tokens that wait for it. -/
def Loan.rest (l : Loan) : Loan := { l with frames := [], away := [], exits := [] }

/-- A change that touches no loan but in what tokens that come in may change, and neither the hub nor the memories. -/
structure ComesIn (s t : State) : Prop where
  within : Within s t
  hub : t.hub = s.hub
  loans : ∀ j l, AMap.find s.loans j = some l → ∃ l', AMap.find t.loans j = some l' ∧ l'.rest = l.rest

theorem ComesIn.refl (s : State) : ComesIn s s := ⟨.refl s, rfl, fun _ l here => ⟨l, here, rfl⟩⟩

theorem ComesIn.trans {s t u : State} (h : ComesIn s t) (k : ComesIn t u) : ComesIn s u :=
  ⟨h.within.trans' k.within, k.hub.trans h.hub, fun j l here => by
    obtain ⟨l', here', rest⟩ := h.loans j l here
    obtain ⟨l'', here'', rest'⟩ := k.loans j l' here'
    exact ⟨l'', here'', rest'.trans rest⟩⟩

theorem ComesIn.of_same {s t : State} (within : Within s t) (hub : t.hub = s.hub) (loans : t.loans = s.loans) : ComesIn s t :=
  ⟨within, hub, fun _ l here => ⟨l, loans ▸ here, rfl⟩⟩

theorem State.updLoan_comesIn (s : State) (id : Nat) {g : Loan → Loan} (h : ∀ l, (g l).rest = l.rest) : ComesIn s (s.updLoan id g) :=
  ⟨s.updLoan_within _ _, s.updLoan_hub _ _, fun j l here => by
    by_cases same : j = id
    · subst same
      exact ⟨g l, by rw [State.find_updLoan_same, here]; rfl, h l⟩
    · exact ⟨l, by rw [State.find_updLoan_other s g same]; exact here, rfl⟩⟩

theorem Loan.addLive_rest (l : Loan) (f : Nat) (n : Int) : (l.addLive f n).rest = l.rest := by
  unfold Loan.addLive; split
  · rfl
  · dsimp only; split <;> rfl

theorem State.gone_comesIn (s : State) (id b : Nat) (t : Tag) (its : List (Nat × List Nat)) : ComesIn s (s.gone id b t its) := by
  obtain ⟨a, acked⟩ := ack_eq (s.updLoan id (fun l => l.addLive t.frame.toNat (-1))) id b its
  refine (s.updLoan_comesIn id fun l => l.addLive_rest t.frame.toNat (-1)).trans (.of_same (State.ack_within _ _ _ _) (State.ack_hub _ _ _ _) ?_)
  have same := congrArg State.loans acked
  exact same

theorem State.dropFlit_comesIn (s : State) (b : Nat) (f : Flit) : ComesIn s (s.dropFlit b f) := by
  unfold State.dropFlit; split
  · exact s.gone_comesIn _ _ _ _
  · exact .refl s

/-- A token that comes in from outside. -/
theorem State.inject_comesIn (s : State) (d index : Nat) (f : Flit) : ComesIn s (s.inject d index f) := by
  have due : ∀ (u : State) (n : Nat) (i : Instr), ComesIn u (u.later n i) := fun u n i => .of_same (u.later_within n i) rfl rfl
  have el : ∀ (k : Nat) (g : Element → Element), ComesIn s (s.updEl k g) := fun k g => .of_same (s.updEl_within k g) rfl rfl
  unfold State.inject; split
  · exact .refl s
  · split
    · exact s.updLoan_comesIn _ fun _ => rfl
    · split
      · exact (el _ _).trans (due _ _ _)
      · exact (el _ _).trans (due _ _ _)
      · exact (el _ _).trans (due _ _ _)
      · refine (s.updLoan_comesIn _ ?_).trans (due _ _ _)
        exact fun _ => rfl
      · refine ComesIn.trans (.of_same (s.updBay_within _ _) rfl rfl) (State.dropFlit_comesIn _ _ _)
      · exact (el _ _).trans (due _ _ _)
      · exact .refl s
      · exact .refl s

/-- The answers of `SCANOUT`s and `SCANIN`s. -/
theorem State.answerScans_comesIn (s : State) (ws : List (Nat × Nat × Option Flit)) (v : W32) : ComesIn s (s.answerScans ws v) := by
  refine foldl_rel .refl (fun h k => h.trans k) _ (fun u w => ?_) _ _
  split
  · exact u.inject_comesIn _ _ _
  · exact .refl u

/-! ### A request (R346, R355) -/

/-- A change after which every loan is still there, and the memories are as they were. -/
structure LoansStay (s t : State) : Prop where
  within : Within s t
  stay : ∀ j, (AMap.find s.loans j).isSome = true → (AMap.find t.loans j).isSome = true

theorem LoansStay.refl (s : State) : LoansStay s s := ⟨.refl s, fun _ h => h⟩

theorem LoansStay.trans {s t u : State} (h : LoansStay s t) (k : LoansStay t u) : LoansStay s u :=
  ⟨h.within.trans' k.within, fun j here => k.stay j (h.stay j here)⟩

theorem LoansStay.foldl {β : Type} (f : State → β → State) (h : ∀ s b, LoansStay s (f s b)) (bs : List β) (s : State) :
    LoansStay s (bs.foldl f s) := foldl_rel .refl (fun h k => h.trans k) f h bs s

theorem LoansStay.of_loans {s t : State} (within : Within s t) (loans : t.loans = s.loans) : LoansStay s t := ⟨within, fun _ here => by rw [loans]; exact here⟩

theorem State.updLoan_loansStay (s : State) (id : Nat) (g : Loan → Loan) : LoansStay s (s.updLoan id g) := ⟨s.updLoan_within _ _, fun j here => by
  by_cases same : j = id
  · subst same
    rw [State.find_updLoan_same, Option.isSome_map]
    exact here
  · rw [State.find_updLoan_other s g same]
    exact here⟩

theorem State.agenda_loansStay (s : State) (m : List (Nat × Instr)) : LoansStay s { s with agenda := m } :=
  .of_loans ⟨rfl, rfl, rfl, rfl, rfl, rfl, rfl, rfl, rfl, rfl, rfl⟩ rfl

theorem State.updEl_loansStay (s : State) (k : Nat) (g : Element → Element) : LoansStay s (s.updEl k g) := .of_loans (s.updEl_within k g) rfl

theorem State.parkTake_loansStay (s : State) (id b : Nat) (tag : Option Tag) : LoansStay s (s.parkTake id b tag).2 :=
  ⟨s.parkTake_within _ _ _, fun j here => by
    obtain ⟨l, here⟩ := Option.isSome_iff_exists.mp here
    obtain ⟨l', here', _⟩ := State.parkTake_coreKept s id b tag j l here
    exact Option.isSome_iff_exists.mpr ⟨l', here'⟩⟩

theorem State.writeBackEl_loansStay (s : State) (id ctx act key b : Nat) (l : Loan) : LoansStay s (s.writeBackEl id ctx act key b l) := by
  unfold State.writeBackEl
  refine LoansStay.trans (.of_loans (s.updEl_within _ _) (s.updEl_loans _ _)) (.foldl _ (fun u r => ?_) _ _)
  dsimp only
  split
  · exact ((u.updLoan_loansStay _ _).trans (State.parkTake_loansStay _ _ _ _)).trans (State.updLoan_loansStay _ _ _)
  · exact u.updLoan_loansStay _ _

theorem State.writeBackReady_loansStay (s : State) (id ctx act : Nat) (l : Loan) (bays : List Nat) :
    LoansStay s (s.writeBackReady id ctx act l bays) := .foldl _ (fun u _ => u.writeBackEl_loansStay _ _ _ _ _ _) _ _

theorem State.returnLatches_loansStay (s : State) (id ctx : Nat) (l : Loan) (bays : List Nat) : LoansStay s (s.returnLatches id ctx l bays) := by
  refine .foldl _ (fun u p => ?_) _ _
  dsimp only
  exact ((u.agenda_loansStay _).trans (State.updEl_loansStay _ _ _)).trans (State.updLoan_loansStay _ _ _)

/-- A change of bays alone. -/
structure OnlyBays (s t : State) : Prop where
  frame : t = { s with bays := t.bays }

theorem OnlyBays.refl (s : State) : OnlyBays s s := ⟨rfl⟩

theorem OnlyBays.trans {s t u : State} (h : OnlyBays s t) (k : OnlyBays t u) : OnlyBays s u := ⟨k.frame.trans (by rw [h.frame])⟩

theorem OnlyBays.foldl {β : Type} (f : State → β → State) (h : ∀ s b, OnlyBays s (f s b)) (bs : List β) (s : State) :
    OnlyBays s (bs.foldl f s) := foldl_rel .refl (fun h k => h.trans k) f h bs s

theorem State.updBay_onlyBays (s : State) (b : Nat) (g : Bay → Bay) : OnlyBays s (s.updBay b g) := ⟨rfl⟩

/-- Streams that stop change bays alone. -/
theorem State.stopArrays_onlyBays (s : State) (id : Nat) (inBay : Nat → Bool) : OnlyBays s (s.stopArrays id inBay) := by
  unfold State.stopArrays
  split
  · exact .refl s
  · refine .foldl _ (fun u c => .foldl _ (fun v k => .foldl _ (fun x p => ?_) _ _) _ _) _ _
    split
    · exact .refl x
    · exact x.updBay_onlyBays _ _

/-! ### The request of a switch (R346, R355) -/

section
variable {s : State} {id : Nat} {l : Loan} (here : AMap.find s.loans id = some l)
include here

theorem execSwitchRequest_other (other : l.state ≠ .running) :
    exec (.switchRequest id) s = .next ((s.answerScans l.switchers 3).updLoan id (fun l => { l with switchers := [] })) := by
  show execSwitchRequest id s = _
  simp only [execSwitchRequest, here, bne_iff_ne, other, ne_eq, not_false_eq_true, if_true]

theorem execSwitchRequest_unsaved (running : l.state = .running) (none' : l.slip.save = 0) : exec (.switchRequest id) s = .next s := by
  show execSwitchRequest id s = _
  simp only [execSwitchRequest, here, running, none', bne_self_eq_false, Bool.false_eq_true, if_false, if_true]

omit here in
/-- What stands ready at the elements of activations that are not frozen goes back, with their credits (R346). -/
def State.returnsReady (s : State) (id : Nat) (l : Loan) : State :=
  l.acts.foldl (fun s (p : Nat × Activation) => if p.2.frozen then s
    else (s.writeBackReady id p.2.ctx p.1 l (List.range (l.w * l.h))).returnLatches id p.2.ctx l (List.range (l.w * l.h))) s

omit here in
theorem State.returnsReady_loansStay (s : State) (id : Nat) (l : Loan) : LoansStay s (s.returnsReady id l) := by
  refine .foldl _ (fun u p => ?_) _ _
  split
  · exact .refl u
  · exact (u.writeBackReady_loansStay _ _ _ _ _).trans (State.returnLatches_loansStay _ _ _ _ _)

/-- A request stops a running loan, which begins to drain (R346). -/
theorem execSwitchRequest_drains (running : l.state = .running) (save : l.slip.save ≠ 0) (calling : l.calling = none) (thaw : l.thaw = none)
    (acts : ∀ p ∈ l.acts, p.2.call = none ∨ p.2.start ≠ s.cycle) : exec (.switchRequest id) s =
      .next ((((s.returnsReady id l).updLoan id (fun l => { l with state := .switching })).stopFeeds id).later 1 (.switchDrainDone id)) := by
  have free : l.acts.any (fun (p : Nat × Activation) => p.2.call.isSome && p.2.start == s.cycle) = false := by
    refine List.any_eq_false.mpr fun p there => ?_
    rcases acts p there with none' | earlier
    · simp [none']
    · simp [earlier]
  show execSwitchRequest id s = _
  simp only [execSwitchRequest, here, running, save, calling, thaw, free, bne_self_eq_false, Bool.false_eq_true, if_false, Option.isSome_none,
    Bool.false_and, Bool.or_self]
  rfl

end

/-! ### Scan-out (R349) -/

/-- A write into the save area that fails: SAVE_FAULT, and the requests are answered (R349). -/
theorem State.saveFault_told {s : State} {id : Nat} {l : Loan} (here : AMap.find s.loans id = some l) :
    (∃ r ∈ (s.saveFault id l).hub.store ++ (s.saveFault id l).hub.blocked, r.code = BitVec.ofNat 8 fSAVE) ∧
      ∃ l', AMap.find (s.saveFault id l).loans id = some l' ∧ l'.saveFault = true ∧ l'.switchers = [] := by
  have told := State.answerScans_comesIn ((s.updHub (fun h => h.record (mkRecord s { Report.of fSAVE with loan := some id } false))).updLoan id
    (fun l => { l with saveFault := true, switchers := [] })) l.switchers 2
  refine ⟨?_, ?_⟩
  · obtain ⟨q, recorded⟩ := Hub.record_mem s.hub (mkRecord s { Report.of fSAVE with loan := some id } false)
    refine ⟨{ mkRecord s { Report.of fSAVE with loan := some id } false with seq := q }, ?_, rfl⟩
    rw [State.saveFault, told.hub, State.updLoan_hub]
    exact recorded
  · obtain ⟨l', here', rest⟩ := told.loans id { l with saveFault := true, switchers := [] } (by
      rw [State.find_updLoan_same]
      exact congrArg (Option.map _) here)
    have fault := congrArg Loan.saveFault rest
    have switchers := congrArg Loan.switchers rest
    exact ⟨l', here', fault, switchers⟩

/-- A change of units: elements, bays and the hub. -/
structure UnitsFreed (s t : State) : Prop where
  frame : t = { s with els := t.els, bays := t.bays, hub := t.hub }

theorem UnitsFreed.refl (s : State) : UnitsFreed s s := ⟨rfl⟩

theorem UnitsFreed.trans {s t u : State} (h : UnitsFreed s t) (k : UnitsFreed t u) : UnitsFreed s u := ⟨k.frame.trans (by rw [h.frame])⟩

theorem UnitsFreed.foldl {β : Type} (f : State → β → State) (h : ∀ s b, UnitsFreed s (f s b)) (bs : List β) (s : State) :
    UnitsFreed s (bs.foldl f s) := foldl_rel .refl (fun h k => h.trans k) f h bs s

theorem State.makeResident_unitsFreed (s : State) (id : Nat) (l : Loan) (c : Nat) : UnitsFreed s (s.makeResident id l c) := by
  unfold State.makeResident
  have els : ∀ (u : State) (m : AMap Element), UnitsFreed u { u with els := m } := fun _ _ => ⟨rfl⟩
  exact (UnitsFreed.foldl _ (fun u b => ⟨rfl⟩) _ _).trans (els _ _)

/-- What is left of a switched-out loan is its record, its tokens and its snapshot; its units are free (R349). -/
theorem State.switchOut_eq (s : State) (id : Nat) (l : Loan) : ∃ held : List (Nat × Flit), UnitsFreed
    (({ s with snaps := AMap.put s.snaps id (s.snapshot id l) } : State).updLoan id (fun l => { l with away := held ++ l.away, state := .switchedOut }))
    (s.switchOut id l) := by
  have els : ∀ (u : State) (m : AMap Element), UnitsFreed u { u with els := m } := fun _ _ => ⟨rfl⟩
  have hub : ∀ (u : State) (g : Hub → Hub), UnitsFreed u (u.updHub g) := fun _ _ => ⟨rfl⟩
  refine ⟨s.els.flatMap (fun (p : Nat × Element) => (p.2.outside.filter (fun x => x.2.loan == id)).map (fun x => (0, x.2))), ?_⟩
  unfold State.switchOut
  exact (((els _ _).trans (.foldl _ (fun u b => ⟨rfl⟩) _ _)).trans (.foldl _ (fun u c => u.makeResident_unitsFreed _ _ _) _ _)).trans (hub _ _)

/-- A loan whose blocks are written is switched out (R349). -/
theorem State.switchOut_loan {s : State} {id : Nat} {l l0 : Loan} (here : AMap.find s.loans id = some l0) :
    (∃ l', AMap.find (s.switchOut id l).loans id = some l' ∧ l'.state = .switchedOut) ∧ (AMap.find (s.switchOut id l).snaps id).isSome = true ∧
      (s.switchOut id l).mem = s.mem := by
  obtain ⟨held, freed⟩ := s.switchOut_eq id l
  rw [freed.frame]
  refine ⟨?_, ?_, ?_⟩
  · refine ⟨{ l0 with away := held ++ l0.away, state := .switchedOut }, ?_, rfl⟩
    show AMap.find (State.updLoan _ id _).loans id = _
    rw [State.find_updLoan_same]
    exact congrArg (Option.map _) here
  · show (AMap.find (State.updLoan _ id _).snaps id).isSome = true
    rw [State.updLoan_snaps, AMap.find_put_same]
    rfl
  · exact State.updLoan_mem _ _ _

section
variable {s : State} {id : Nat} {l : Loan} (here : AMap.find s.loans id = some l) (saving : l.state = .saving) (sound : l.saveFault = false)
  (first : AMap.find s.snaps id = none)
include here saving sound first

theorem execScanOutDone_fault (failed : s.writeVirt l.slip.space (l.slip.save + 4096) (s.saveBody id l) = none) :
    exec (.scanOutDone id) s = .next (s.saveFault id l) := by
  show execScanOutDone id s = _
  simp only [execScanOutDone, here, saving, sound, first, failed, bne_self_eq_false, Bool.or_self, Option.isSome_none, Bool.false_eq_true, if_false,
    Option.bind_none]

/-- The state in which the requests of a switch are answered: the loan is out. -/
def State.scannedOut (v : State) (id : Nat) (l : Loan) : State :=
  (({ v with freeCount := v.freeCount + 131072 } : State).switchOut id l).updLoan id (fun l => { l with switchers := [] })

theorem execScanOutDone_done {u v : State} (body : s.writeVirt l.slip.space (l.slip.save + 4096) (s.saveBody id l) = some u)
    (header : u.writeVirt l.slip.space l.slip.save (saveHeader s l 2 (crc32 (s.saveBody id l))) = some v) :
    exec (.scanOutDone id) s = .next ((v.scannedOut id l).answerScans l.switchers 0) := by
  show execScanOutDone id s = _
  simp only [execScanOutDone, here, saving, sound, first, body, header, bne_self_eq_false, Bool.or_self, Option.isSome_none, Bool.false_eq_true, if_false,
    Option.bind_some]
  rfl

end

/-- A loan that is out keeps its snapshot, and device memory is as it was written. -/
theorem State.scannedOut_loan {v : State} {id : Nat} {l l0 : Loan} (here : AMap.find v.loans id = some l0) :
    (∃ l', AMap.find (v.scannedOut id l).loans id = some l' ∧ l'.state = .switchedOut) ∧ (AMap.find (v.scannedOut id l).snaps id).isSome = true ∧
      (v.scannedOut id l).mem = v.mem := by
  obtain ⟨⟨l', out, state⟩, snap, mem⟩ := State.switchOut_loan (s := { v with freeCount := v.freeCount + 131072 }) (l := l) here
  refine ⟨⟨{ l' with switchers := [] }, by rw [State.scannedOut, State.find_updLoan_same, out]; rfl, state⟩, ?_, ?_⟩
  · rw [State.scannedOut, State.updLoan_snaps]
    exact snap
  · rw [State.scannedOut, State.updLoan_mem]
    exact mem

/-! ### The restore (R350) -/

section
variable {s : State} {id : Nat} {l : Loan} (here : AMap.find s.loans id = some l)
include here

theorem execSwitchDrainDone_waits (switching : l.state = .switching) (stays : l.exitTaken = none) (moves : s.settled id l = false) :
    exec (.switchDrainDone id) s = .next (s.later 1 (.switchDrainDone id)) := by
  show execSwitchDrainDone id s = _
  simp only [execSwitchDrainDone, here, switching, stays, moves, bne_self_eq_false, Option.isSome_none, Bool.or_self, Bool.false_eq_true, if_false,
    Bool.not_false, if_true]

theorem execSwitchDrainDone_saves (switching : l.state = .switching) (stays : l.exitTaken = none) (settled : s.settled id l = true) :
    exec (.switchDrainDone id) s = .next (s.beginSave id l) := by
  show execSwitchDrainDone id s = _
  simp only [execSwitchDrainDone, here, switching, stays, settled, bne_self_eq_false, Option.isSome_none, Bool.or_self, Bool.false_eq_true, if_false,
    Bool.not_true]

theorem execRestore_running (running : l.state = .running) : exec (.restore id) s = .next (s.redeliver id l) := by
  show execRestore id s = _
  simp only [execRestore, here, running, BEq.rfl, if_true]

variable {x : Snapshot} (snap : AMap.find s.snaps id = some x)
include snap

theorem execRestore_out (out : l.state = .switchedOut) :
    exec (.restore id) s = .next (if l.restoreMark then (s.beginRestore id l x).getD s else s) := by
  show execRestore id s = _
  simp only [execRestore, here, snap, out, BEq.rfl, if_true]
  rfl

theorem execRestore_back (saving : l.state = .saving) (awake : s.allAwake l.rect = true) :
    exec (.restore id) s = .next ((s.endRestore id l).later 1 (.restore id)) := by
  show execRestore id s = _
  simp only [execRestore, here, snap, saving, awake]
  rfl

end

/-- Settles O48: the request drains the loan (`execSwitchRequest_drains`), a failed write is told (`State.saveFault_told`), and a saved loan is
out (`State.scannedOut_loan`), which the answers leave so (`State.answerScans_comesIn`). -/
theorem switchEvents : Obligations.SwitchEvents := by
  intro s id l here
  refine ⟨fun other => ⟨_, execSwitchRequest_other here other, rfl⟩, fun running none' => ⟨_, execSwitchRequest_unsaved here running none', rfl⟩,
    fun running save calling thaw acts => ⟨_, execSwitchRequest_drains here running save calling thaw acts, ?drains⟩,
    fun switching stays moves => ⟨_, execSwitchDrainDone_waits here switching stays moves, rfl⟩,
    fun switching stays settled => ⟨_, execSwitchDrainDone_saves here switching stays settled, rfl⟩,
    fun saving sound first => ⟨fun failed => ⟨_, execScanOutDone_fault here saving sound first failed, State.saveFault_told here⟩,
      fun u v body header => ⟨_, execScanOutDone_done here saving sound first body header, ?saved⟩⟩,
    fun running => ⟨_, execRestore_running here running, rfl⟩, fun x out snap free => ⟨_, execRestore_out here snap out, by rw [free]; rfl⟩,
    fun x out snap marked => ⟨_, execRestore_out here snap out, by rw [marked]; rfl⟩,
    fun x saving snap awake => ⟨_, execRestore_back here snap saving awake, rfl⟩⟩
  case drains =>
    obtain ⟨within, stay⟩ := s.returnsReady_loansStay id l
    obtain ⟨l', here'⟩ := Option.isSome_iff_exists.mp (stay id (by rw [here]; rfl))
    have draining := (((s.returnsReady id l).updLoan id (fun l => { l with state := .switching })).stopArrays_onlyBays id (fun _ => true)).frame
    have drained := (within.trans' (State.updLoan_within _ id (fun l => { l with state := .switching })))
    rw [State.stopFeeds, draining]
    refine ⟨⟨{ l' with state := .switching }, ?_, rfl⟩, ?_, drained.mem, drained.tmem⟩
    · show AMap.find (State.updLoan _ id _).loans id = _
      rw [State.find_updLoan_same, here']
      rfl
    · rw [← drained.cycle]
      exact State.mem_later _ _ _
  case saved =>
    have there : AMap.find v.loans id = some l := by rw [State.writeVirt_same header, State.writeVirt_same body]; exact here
    obtain ⟨⟨l', out, state⟩, snap, mem⟩ := State.scannedOut_loan (l := l) there
    have told := (v.scannedOut id l).answerScans_comesIn l.switchers 0
    obtain ⟨l'', out', rest⟩ := told.loans id l' out
    have same := congrArg Loan.state rest
    exact ⟨⟨l'', out', same.trans state⟩, by rw [told.within.snaps]; exact snap, told.within.mem.trans mem⟩

end Sys2Proof.Machine
end

section
/-! PROOFS. O50: what glaed's commands do. -/
namespace Sys2Proof.Machine

/-! ### Rows (R396) -/

/-- A change that is nothing but what is shown. -/
structure Shows (s t : State) : Prop where
  frame : t = { s with glaed := { s.glaed with rows := t.glaed.rows } }

theorem Shows.refl (s : State) : Shows s s := ⟨rfl⟩

theorem Shows.trans {s t u : State} (h : Shows s t) (k : Shows t u) : Shows s u := ⟨k.frame.trans (by rw [h.frame])⟩

theorem Shows.foldl {β : Type} (f : State → β → State) (h : ∀ s b, Shows s (f s b)) (bs : List β) (s : State) : Shows s (bs.foldl f s) :=
  foldl_rel .refl (fun h k => h.trans k) f h bs s

theorem State.print_shows (s : State) (what : String) (ns : List Nat) : Shows s (s.print what ns) := ⟨rfl⟩

theorem State.noSuch_shows (s : State) : Shows s s.noSuch := s.print_shows _ _

section
variable {s : State} {id : Nat}

theorem State.onLoan_shows {f : Loan → State} (h : ∀ l, Shows s (f l)) : Shows s (s.onLoan id f) := by
  unfold State.onLoan
  split
  · exact h _
  · exact s.noSuch_shows

theorem State.onHandler_shows {index hnd : Nat} {f : Loan → Nat → State} (h : ∀ l c, Shows s (f l c)) : Shows s (s.onHandler id index hnd f) := by
  refine State.onLoan_shows fun l => ?_
  split
  · exact h _ _
  · exact s.noSuch_shows

/-- A command about a loan that is there does what it does to the loan. -/
theorem State.onLoan_there {l : Loan} (here : AMap.find s.loans id = some l) (f : Loan → State) : s.onLoan id f = f l := by
  rw [State.onLoan, here]

/-- A command about a loan that is not there is an error. -/
theorem State.onLoan_absent (absent : AMap.find s.loans id = none) (f : Loan → State) : s.onLoan id f = s.noSuch := by
  rw [State.onLoan, absent]

end

/-! ### The commands that show -/

section
variable (s : State) (a b c : Nat)

/-- The instructions that only show, each of which ends so. -/
theorem exec_shows : ∀ i ∈ ([.glaedShowQueues a b c, .glaedShowFrame a b, .glaedShowAcc a b c, .glaedShowPlanes a b, .glaedShowVoq a b, .glaedShowWave a,
    .glaedShowSillage a b, .glaedShowRetire, .glaedFaults] : List Instr), ∃ t, exec i s = .next t ∧ Shows s t := by
  simp only [List.forall_mem_cons]
  refine ⟨⟨_, rfl, ?queues⟩, ⟨_, rfl, ?frame⟩, ⟨_, rfl, ?acc⟩, ⟨_, rfl, ?planes⟩, ⟨_, rfl, ?voq⟩, ⟨_, rfl, ?wave⟩, ⟨_, rfl, ?sillage⟩,
    ⟨_, rfl, ?retire⟩, ⟨_, rfl, ?faults⟩, List.forall_mem_nil _⟩
  case queues => exact State.onHandler_shows fun l k => .foldl _ (fun u p => .foldl _ (fun v t => v.print_shows _ _) _ _) _ _
  case frame =>
    refine State.onLoan_shows fun l => ?_
    split
    · exact s.noSuch_shows
    · exact (s.print_shows _ _).trans (.foldl _ (fun u p => u.print_shows _ _) _ _)
  case acc => exact State.onHandler_shows fun l k => s.print_shows _ _
  case planes =>
    refine State.onLoan_shows fun l => ?_
    split
    · exact s.noSuch_shows
    · exact .foldl _ (fun u p => u.print_shows _ _) _ _
  case voq =>
    split
    · exact s.noSuch_shows
    · exact (s.print_shows _ _).trans (.foldl _ (fun u p => u.print_shows _ _) _ _)
  case wave => exact State.onLoan_shows fun l => .foldl _ (fun u p => u.print_shows _ _) _ _
  case sillage =>
    refine State.onLoan_shows fun l => ?_
    split
    · exact s.noSuch_shows
    · split
      · exact s.noSuch_shows
      · split
        · exact s.noSuch_shows
        · exact s.print_shows _ _
  case retire => exact .foldl _ (fun u p => .foldl _ (fun v g => v.print_shows _ _) _ _) _ _
  case faults => exact .foldl _ (fun u p => u.print_shows _ _) _ _

variable {s a}

/-- A command about a loan that is not there is an error. -/
theorem exec_noSuch (absent : AMap.find s.loans a = none) : ∀ i ∈ ([.glaedShowQueues a b c, .glaedShowFrame a b, .glaedShowAcc a b c,
    .glaedShowPlanes a b, .glaedShowWave a, .glaedShowSillage a b, .glaedSwitch a] : List Instr), exec i s = .next s.noSuch := by
  have missing : ∀ f : Loan → State, Host.Outcome.next (s.onLoan a f) = (.next s.noSuch : Host.Outcome State Fault Refusal) := fun f => by
    rw [State.onLoan_absent absent]
  simp only [List.forall_mem_cons]
  exact ⟨missing _, missing _, missing _, missing _, missing _, missing _, missing _, List.forall_mem_nil _⟩

end

/-! ### Runs, stocktakes and loans -/

/-- A source that can be started runs to the first stop; one that cannot is an error (R394). -/
theorem execGlaedRun_eq (s : State) (src : GlaedSource) :
    exec (.glaedRun src) s = .next (((s.startSource src).map (fun u => u.startSession src)).getD s.noSuch) := by
  show execGlaedRun src s = _
  unfold execGlaedRun
  cases s.startSource src <;> rfl

theorem State.startStocktake_glaed (s : State) (alarm : Bool) (ws : List (Nat × Nat × Option Flit)) : (s.startStocktake alarm ws).glaed = s.glaed := by
  unfold State.startStocktake
  split <;> rfl

/-- Settles O50: what only shows (`exec_shows`), what is an error (`exec_noSuch`), and the commands that change the session, the stocktake or a
loan. -/
theorem glaed : Obligations.Glaed := by
  intro s
  refine ⟨fun src => ⟨fun none' => ⟨_, execGlaedRun_eq s src, by rw [none']; rfl⟩, fun u starts => ⟨_, execGlaedRun_eq s src, by rw [starts]; rfl⟩⟩,
    fun b => ⟨_, rfl, rfl⟩, fun c w o => ⟨_, rfl, rfl⟩, fun n pos => ⟨_, rfl, ?step⟩, ⟨_, rfl, rfl⟩,
    fun a b c => ⟨fun i shows' => ?shows, fun absent i names => ⟨_, exec_noSuch b c absent i names, rfl⟩⟩, ⟨_, rfl, ?stocktake, ?report⟩,
    fun id p l here => ⟨⟨_, rfl, State.onLoan_there here _⟩, fun running => ⟨_, rfl, ?switch⟩, fun out => ⟨_, rfl, ?marks⟩⟩⟩
  case step =>
    have some' : (n == 0) = false := beq_false_of_ne pos.ne'
    rw [some', if_neg pos.ne']
  case shows =>
    obtain ⟨t, runs, shown⟩ := exec_shows s a b c i shows'
    exact ⟨t, runs, shown.frame⟩
  case stocktake => exact s.startStocktake_isSome false []
  case report =>
    show { (s.startStocktake false []).glaed with report := some (s.startStocktake false []).glaed.stopped, stopped := false } = _
    rw [State.startStocktake_glaed]
  case switch =>
    rw [State.onLoan_there here, running]
    rfl
  case marks =>
    beta_reduce
    rw [State.onLoan_there here, if_neg (by rw [out]; decide), if_pos (by rw [out]; rfl), State.find_updLoan_same, here]
    rfl

end Sys2Proof.Machine
end

section
/-! PROOFS. O60: each event completes with its own effect. -/
namespace Sys2Proof.Machine

/-! ### Cells that enter the Exchange, and members that are left out (R269, R270, R278) -/

/-- A unicast cell that enters its queue. -/
def State.cellEntered (s : State) (id src : Nat) (q : QCell) : State :=
  (({ s with outgoing := AMap.del s.outgoing id } : State).updXch (src / 256) (fun x => { x with
    lastEntry := AMap.put x.lastEntry (src % 256) (slotOf s.cycle + 1) })).updXch (src / 256) (fun x => { x with
    voqs := enterQueue (slotOf s.cycle) (src % 256) (q.cell.dportDie.toNat * 256 + q.cell.dport.toNat) q x.voqs })

theorem State.cellEntered_voqs (s : State) (id src : Nat) (q : QCell) : ((s.cellEntered id src q).xchOf (src / 256)).voqs =
    enterQueue (slotOf s.cycle) (src % 256) (q.cell.dportDie.toNat * 256 + q.cell.dport.toNat) q (s.xchOf (src / 256)).voqs := by
  rw [State.cellEntered, State.xchOf_updXch_same, State.xchOf_updXch_same]
  rfl

/-- A unicast cell enters its queue when its input port may take one. -/
theorem execCellEnqueue_enters {s : State} {id src : Nat} {q : QCell} (there : AMap.find s.outgoing id = some (src, q)) (single : q.cell.mc = false)
    (free : AMap.get (s.xchOf (src / 256)).lastEntry 0 (src % 256) ≠ slotOf s.cycle + 1)
    (admits : (s.xchOf (src / 256)).admits (src % 256) q.cell.note.toNat = true) (first : s.behind src q = false) :
    Completes (.cellEnqueue id) s (fun t => Within (s.cellEntered id src q) t) := by
  have goes : ¬(AMap.get (s.xchOf (src / 256)).lastEntry 0 (src % 256) = slotOf s.cycle + 1 ∨
      (!(s.xchOf (src / 256)).admits (src % 256) q.cell.note.toNat) = true) := by simp [free, admits]
  show ∃ t, execCellEnqueue id s = .next t ∧ _
  simp only [execCellEnqueue, there, goes, single, first, Bool.false_eq_true, Bool.false_and, false_and, or_self, if_false]
  refine ⟨_, rfl, ?_⟩
  split
  · split
    · split
      · exact .refl _
      · exact State.settle_within _ _
    · exact .refl _
  · exact .refl _

/-- A cell that is no decanter's and not the last of its access is taken off the access's count. -/
theorem State.cellServed_hub {s : State} {id : Nat} (more : ∀ a, AMap.find s.accs id = some a → a.isDecant = false ∧ 1 < a.phys) :
    (s.cellServed id).hub = s.hub := by
  unfold State.cellServed
  split
  next => rfl
  next a there =>
    obtain ⟨plain, many⟩ := more a there
    split
    next op _ => simp [Access.isDecant, op] at plain
    next => rw [if_neg (Nat.not_le.mpr many)]

/-- A member that is left out is told as MCAST_LAG (R278). -/
theorem State.dropMember_recorded {s : State} {c : QCell} (port : Nat) (g : McastGroup) (m : Nat)
    (more : ∀ a, AMap.find s.accs c.access = some a → a.isDecant = false ∧ 1 < a.phys) : Recorded (s.dropMember port c g m) fMCASTLAG c.cell.tag := by
  unfold State.dropMember
  dsimp only
  unfold Recorded
  rw [State.cellServed_hub (by rw [State.updHub_accs, State.updLoan_accs]; exact more), State.updHub_hub]
  obtain ⟨q, told⟩ := Hub.record_mem _ _
  exact ⟨_, told, rfl, rfl⟩

/-- A multicast cell that waited too long for one member leaves that member out (R278). -/
theorem execLagDrop_records {s : State} {die port id i : Nat} {v : Voq} {c : QCell} {g : McastGroup} {m : Nat}
    (head : (s.xchOf die).voqs.zipIdx.find? (fun p => p.1.inp == port && p.1.mc && p.1.cells.any (fun c => c.id == id)) = some (v, i))
    (cell : v.cells.find? (fun c => c.id == id) = some c) (group : s.groupOf c = some g)
    (one : c.residue.flatMap (fun o => membersBehind die port o g.members) = [m])
    (more : ∀ a, AMap.find s.accs c.access = some a → a.isDecant = false ∧ 1 < a.phys) :
    Completes (.lagDrop die port id) s (fun t => Recorded t fMCASTLAG c.cell.tag) := by
  show ∃ t, execLagDrop die port id s = .next t ∧ _
  simp only [execLagDrop, head, cell, Option.bind_some, group, one, List.foldl_cons, List.foldl_nil]
  exact ⟨_, rfl, State.dropMember_recorded _ g m more⟩

theorem execExchangeSlot_matches (s : State) (die : Nat) : Completes (.exchangeSlot die) s (fun t => ∃ (x : Exchange) (ms : List Match),
    t = ms.foldl (fun u m => u.sendMatch die (slotOf s.cycle) m) (((s.keepRefused die).checkCells die (slotOf s.cycle)).updXch die (fun _ => x))) := by
  show ∃ t, execExchangeSlot die s = .next t ∧ _
  unfold execExchangeSlot
  dsimp only
  generalize (List.range 3).foldl _ _ = p
  obtain ⟨x, ms⟩ := p
  exact ⟨_, rfl, x, ms, rfl⟩

/-! ### Slips (R95, R104) -/

/-- A slip that is accepted is no launch any more, and no launch changes. -/
theorem State.accept_launches {s t : State} {slip : Slip} {rank : Nat} {reserved : Bool} (accepted : s.accept slip rank reserved = some t) :
    t.hub.launches = s.hub.launches := by
  unfold State.accept at accepted
  dsimp only at accepted
  split at accepted
  · cases accepted; rfl
  · split at accepted
    · cases accepted; rfl
    · cases accepted

theorem State.answerLaunch_hub (s : State) (x : Launching) (v : W32) : (s.answerLaunch x v).hub = s.hub := by
  unfold State.answerLaunch
  split
  · exact (s.inject_comesIn _ _ _).hub
  · rfl

/-- A slip for which an entry is free is accepted, and its queue stands at the next (R95). -/
theorem execSlipRead_takes {s : State} {n : Nat} {slip : Slip} (none' : s.hub.waitingSlips = []) (runs : s.stopped .loader = false)
    (next : s.hub.nextQueue = some n) (busy : (s.hub.queue n).busy = true) (stays : s.chunkMoves (s.hub.queue n).slipAddr 128 = false)
    (sound : s.checkNext (s.hub.queue n) = .ok slip) (free : 0 < s.hub.freeHolds) :
    Completes .slipRead s (fun t => (t.hub.queue n).head = (s.hub.queue n).head + 1) := by
  have reads := exec_slipRead_accepts none' runs next busy stays sound
  by_cases met : (s.holdsMet slip).all id = true
  · rw [State.accept_met (rankQueue n) met] at reads
    exact ⟨_, reads, (Hub.served_queue (h := s.hub.release s.cycle (rankQueue n) slip) (q := s.hub.queue n) n rfl).head⟩
  · rw [State.accept_entry (Bool.not_eq_true _ ▸ met) free] at reads
    exact ⟨_, reads, (Hub.served_queue (h := { s.hub with holds := _ }) (q := s.hub.queue n) n rfl).head⟩

/-! ### Calls (R352, R353) -/

/-- How far the marker of a loan has come in its region. -/
def Loan.markers (l : Loan) : List Nat × Nat × Nat := (l.marked, l.w, l.h)

/-- Every loan stays, with the bays that its marker has reached. -/
def MarkedKept (s t : State) : Prop := ∀ j l, AMap.find s.loans j = some l → ∃ l', AMap.find t.loans j = some l' ∧ l'.markers = l.markers

theorem MarkedKept.refl (s : State) : MarkedKept s s := fun _ l here => ⟨l, here, rfl⟩

theorem MarkedKept.trans {s t u : State} (h : MarkedKept s t) (k : MarkedKept t u) : MarkedKept s u := fun j l here => by
  obtain ⟨l', here', same⟩ := h j l here
  obtain ⟨l'', here'', same'⟩ := k j l' here'
  exact ⟨l'', here'', same'.trans same⟩

theorem MarkedKept.foldl {β : Type} (f : State → β → State) (h : ∀ s b, MarkedKept s (f s b)) (bs : List β) (s : State) :
    MarkedKept s (bs.foldl f s) := foldl_rel .refl (fun h k => h.trans k) f h bs s

theorem MarkedKept.of_loans {s t : State} (h : t.loans = s.loans) : MarkedKept s t := fun _ l here => ⟨l, h ▸ here, rfl⟩

theorem MarkedKept.updLoan (s : State) (id : Nat) {g : Loan → Loan} (h : ∀ l, (g l).markers = l.markers) : MarkedKept s (s.updLoan id g) :=
  fun j l here => by
    by_cases same : j = id
    · subst same
      exact ⟨g l, State.find_updLoan_of_some g here, h l⟩
    · exact ⟨l, by rw [State.find_updLoan_other s g same]; exact here, rfl⟩

theorem CoreKept.marked {s t : State} (h : CoreKept s t) : MarkedKept s t := fun j l here => by
  obtain ⟨l', here', core⟩ := h j l here
  have same := congrArg Loan.markers core
  exact ⟨l', here', same⟩

theorem Loan.updAct_markers (l : Loan) (a : Nat) (g : Activation → Activation) : (l.updAct a g).markers = l.markers := by
  unfold Loan.updAct; split <;> rfl

theorem State.writeBackReady_markedKept (s : State) (id ctx act : Nat) (l : Loan) (bays : List Nat) :
    MarkedKept s (s.writeBackReady id ctx act l bays) := by
  refine .foldl _ (fun u p => ?_) _ _
  unfold State.writeBackEl
  refine MarkedKept.trans (.of_loans (u.updEl_loans _ _)) (.foldl _ (fun v r => ?_) _ _)
  have refilled : ∀ n, MarkedKept v (v.updLoan id (fun l => match AMap.find l.frames r.tag.frame.toNat with
      | none => l
      | some fr => { l with frames := AMap.put l.frames r.tag.frame.toNat (fr.refill p.2 n r.ops.dropLast) })) := fun n =>
    .updLoan v id fun l => by split <;> rfl
  dsimp only
  split
  · exact ((refilled _).trans (State.parkTake_coreKept _ _ _ _).marked).trans (.updLoan _ _ fun l => l.updAct_markers _ _)
  · exact refilled _

theorem State.returnLatches_markedKept (s : State) (id ctx : Nat) (l : Loan) (bays : List Nat) : MarkedKept s (s.returnLatches id ctx l bays) := by
  refine .foldl _ (fun u p => ?_) _ _
  dsimp only
  exact ((MarkedKept.of_loans (by rfl)).trans (.of_loans (State.updEl_loans _ _ _))).trans (.updLoan _ _ fun _ => rfl)

section
variable {s : State} {id : Nat} {l : Loan} {c : Calling} (here : AMap.find s.loans id = some l) (calls : l.calling = some c)
include here calls

/-- A bay that the marker reaches is marked, and the frame is frozen once every bay is (R352). -/
theorem execFreezeMarkerArrive_marks (running : l.state = .running) (freezing : c.stage = .freezing) (more : l.marked.length + 1 < l.w * l.h) (bay : Nat) :
    Completes (.freezeMarkerArrive id bay) s (fun t => ∃ l', AMap.find t.loans id = some l' ∧ l'.marked = l.marked ++ [bay]) := by
  have goes : (c.stage != .freezing || l.state != .running) = false := by rw [freezing, running]; rfl
  show ∃ t, execFreezeMarkerArrive id bay s = .next t ∧ _
  simp only [execFreezeMarkerArrive, here, calls, goes, Bool.false_eq_true, if_false]
  have marks := State.find_updLoan_of_some (fun l => ({ l with marked := l.marked ++ [bay] } : Loan).updAct c.act (fun a => { a with freezing := true })) here
  generalize s.updLoan id _ = u at marks ⊢
  have stops := ((u.writeBackReady id c.ctx c.act l [bay]).returnLatches id c.ctx l [bay]).stopArrays_onlyBays id (fun k => k == l.bayKey bay)
  obtain ⟨l', there, same⟩ := ((u.writeBackReady_markedKept id c.ctx c.act l [bay]).trans ((State.returnLatches_markedKept _ id c.ctx l [bay]).trans
    (.of_loans (by have same := congrArg State.loans stops.frame; exact same)))) id _ marks
  obtain ⟨marked, size⟩ := Prod.mk.inj (same.trans (Loan.updAct_markers _ _ _))
  obtain ⟨width, height⟩ := Prod.mk.inj size
  have partly : l'.marked.length ≠ l'.w * l'.h := by
    rw [marked, width, height, List.length_append]
    exact more.ne
  rw [there]
  refine ⟨_, rfl, ?_⟩
  rw [if_neg partly]
  exact ⟨l', there, marked⟩

theorem execFreezePoint_freezes (running : l.state = .running) (freezing : c.stage = .freezing) (quiet : 3 ≤ c.quiet) :
    exec (.freezePoint id) s = .next (s.freeze id l c) := by
  show execFreezePoint id s = _
  simp only [execFreezePoint, here, calls, running, freezing, bne_self_eq_false, Bool.false_eq_true, if_false, if_true, State.pollFreeze, quiet]

theorem execPlaneSpillDone_secures (planes : c.stage = .planes) : exec (.planeSpillDone id) s = .next (s.secureCall id l c) := by
  show execPlaneSpillDone id s = _
  simp only [execPlaneSpillDone, here, calls, planes, beq_self_eq_true, if_true]

end

theorem execThawPop_resends {s : State} {id : Nat} {l : Loan} {h : Thaw} {r : CallRec} {a : Activation} (here : AMap.find s.loans id = some l)
    (running : l.state = .running) (thaw : l.thaw = some h) (call : (AMap.find l.acts h.callee).bind Activation.call = some r)
    (caller : AMap.find l.acts r.callerAct = some a) (popped : l.marked = []) : exec (.thawPop id) s = .next (s.resend id l h r a) := by
  show execThawPop id s = _
  simp only [execThawPop, here, thaw, call, caller, running, popped, bne_self_eq_false, Bool.false_eq_true, if_false, if_true]

/-! ### The obligation -/

/-- Settles O60: each event by what it does under its conditions, as the theorems above and those of its own obligation say. -/
theorem eventsComplete : Obligations.EventsComplete := by
  intro s
  have shown : ∀ a b c i, i ∈ ([.glaedShowQueues a b c, .glaedShowFrame a b, .glaedShowAcc a b c, .glaedShowPlanes a b, .glaedShowVoq a b,
      .glaedShowWave a, .glaedShowSillage a b, .glaedShowRetire, .glaedFaults] : List Instr) →
      ∃ t, exec i s = .next t ∧ t = { s with glaed := { s.glaed with rows := t.glaed.rows } } := fun a b c i one => by
    obtain ⟨t, runs, shows'⟩ := exec_shows s a b c i one
    exact ⟨t, runs, shows'.frame⟩
  refine ⟨fun space va entry e low free => ?page, fun space page reserved free => ?map,
    fun el c id k m q armed live room => execDecantTrigger_live armed live room, fun bay d x l m there loan templ alone more stays => ?block,
    fun id bay c there op => ⟨_, execDecantArmApply_arm there op, ?arm⟩, fun id src q there single free admits first => ?enqueue,
    fun die => execExchangeSlot_matches s die,
    fun bay q rest l b w waits entered running slot body idle acc loan here held window tile within accord => ?ingress,
    fun die port q rest id a l w ws m waits entered running clear body acc loan window op free first => ?port,
    fun die port id v i c g m head cell group one more => execLagDrop_records head cell group one more,
    fun id l at0 bay k c rest loan ramps => ?ramp,
    fun id l index isB c n a w loan works only lanes idle lane running owed unasked unbounded started plain window tile inside room => ?feed,
    fun el c id l r p loan holds => ?step,
    fun el c id l r loan run holds => (runEnd_frees run holds loan).imp fun _ ⟨free, _⟩ => free,
    fun bay k c isB r a queue closed delivered => (layoutRecordApply_applies queue closed delivered).imp fun t feed => ?record,
    fun id w wait met => ?tlwait, fun id x l bs slip launch loan runs read => ?launch,
    fun n w watch passed => (watchSample_passed watch passed).imp fun _ ⟨gone, _⟩ => gone,
    fun none' runs n next => ⟨fun idle free => ?begins, fun slip busy ⟨stays, sound⟩ free => execSlipRead_takes none' runs next busy stays sound free⟩,
    fun x post v runs standing placed => ?placed, fun x r c overdue none' soonest => ⟨_, exec_placementReservation_one overdue none' soonest, rfl⟩,
    fun id l index hnd c loan claims => ⟨_, execSqGrantArrive_latches loan claims, ?latch⟩,
    fun id l d loan => ⟨_, rfl, State.find_updLoan_of_some _ loan⟩,
    fun id a l r arrival loan record counts same dead more => ?barrier,
    fun k taking runs goes first => ⟨_, exec_stocktakeSnapshot_first taking runs goes first, rfl⟩,
    fun id l loan overrun tokens => (watchdogExpire_starts loan overrun tokens).imp fun _ ⟨taking, _⟩ => taking,
    fun id l img l' loan runs fetching first miss read args fits =>
      ⟨_, exec_imageFetchDone_taken loan runs fetching first miss read args fits, AMap.find_put_same _ _ _⟩,
    fun id l w loan runs writing awake exits begins => ?writes,
    fun n p img there runs unread read => ⟨_, exec_prefetchDone_read there runs unread read, rfl⟩,
    fun id l g loan retires => (iterationRetire_retires loan retires).imp fun _ ⟨l', there, flights, _⟩ => ⟨l', there, flights⟩,
    fun id l x loan first running exits => ⟨_, exec_exitTaken_takes loan first (.inl running) exits, State.find_updLoan_of_some _ loan⟩,
    fun id l loan running => exec_exitDrainDone_begins loan (.inl running),
    fun id l loan wf plain => ?returns, fun id f ab l p loan parked => ?resume,
    fun id l c bay loan running calls freezing more => execFreezeMarkerArrive_marks loan calls running freezing more bay,
    fun id l c loan running calls freezing quiet => execFreezePoint_freezes loan calls running freezing quiet,
    fun id l c loan calls planes => execPlaneSpillDone_secures loan calls planes,
    fun id l h r a loan running thaw call caller popped => execThawPop_resends loan running thaw call caller popped,
    fun id l loan running save calling thaw acts => ?switch,
    fun id l loan switching stays settled => execSwitchDrainDone_saves loan switching stays settled,
    fun id l u v loan saving sound first body header => ?scanned,
    fun id l x loan saving snap awake => execRestore_back loan snap saving awake,
    fun bay v halted => ?starts, fun bay runs => ?halts, fun bay v => ?capture, fun src u starts => ?run,
    fun b => ⟨_, rfl, rfl⟩, fun c w o => ⟨_, rfl, rfl⟩, fun n pos => ?glaedStep, ⟨_, rfl, rfl, rfl⟩,
    fun a b c => shown a b c _ (by simp), fun a b => shown a b 0 _ (by simp), fun a b c => shown a b c _ (by simp), fun a b => shown a b 0 _ (by simp),
    fun a b => shown a b 0 _ (by simp), fun a => shown a 0 0 _ (by simp), fun a b => shown a b 0 _ (by simp), shown 0 0 0 _ (by simp),
    shown 0 0 0 _ (by simp), ⟨_, rfl, s.startStocktake_isSome false []⟩, fun id p l loan => ?preempt, fun id l loan running => ?glaedSwitch⟩
  case page => exact ⟨_, (if_neg (by omega)).trans (if_neg (ne_true_of_eq_false free)), rfl⟩
  case map =>
    have free' : ∀ p ∈ s.loans, ∀ f ∈ p.2.frames, ∀ k, f.2.parked = some k → page ∉ k.pages := fun p there f frame k parked =>
      absurd (parked.symm.trans (free p there f frame)) (Option.some_ne_none k)
    have mapped := s.mapPage_mapped space page
    have ran := execDemandPageMap_unparked reserved free'
    generalize s.mapPage space page = u at mapped ran
    exact ⟨_, ran, congrArg (fun pages => List.erase pages (space, page)) mapped.reserved⟩
  case block =>
    have same : s.blockWritten bay d = s := by rw [State.blockWritten, alone]
    have drains : (l.state == .switching) = false := beq_false_of_ne stays
    rw [execDecantBlockDone_next there loan templ more, same, drains]
    rfl
  case arm =>
    rw [State.bay_updBay_same, Bay.template_updTemplate_same]
  case enqueue =>
    refine (execCellEnqueue_enters there single free admits first).imp fun t within => ⟨within.outgoing, ?_⟩
    rw [State.xchOf, within.xch]
    exact s.cellEntered_voqs id src q
  case ingress =>
    have takes := exec_ingressCell_payload waits entered running slot idle body
    rw [State.payloadArrives_bank (s := s.ingressTook bay) acc loan here window held tile within accord] at takes
    exact ⟨_, takes, State.ingressTook_postBank_ingress waits _ _ _ _⟩
  case port =>
    obtain ⟨u, tells, mem, -⟩ := State.portRequest_store (s := s.portTook die port) die port acc loan window op
    obtain ⟨told, -⟩ := tells.same
    exact ⟨_, exec_memoryPortCell_request waits entered running clear body acc free first, told.trans mem⟩
  case ramp =>
    refine (rampTurnEnd_ramps loan ramps).imp fun t ⟨tile, _⟩ => ?_
    rw [tile]
    exact Tile.ramped_mode _
  case feed =>
    exact (feedBeat_asks loan works only index isB rfl lanes idle lane owed unasked unbounded running started plain window tile inside room).imp
      fun t ⟨_, _, entry⟩ => ⟨_, _, entry, rfl⟩
  case step =>
    intro tile v u run works more plan
    have turn : u = s.sentSides l el c := by
      rw [State.sentSides_eq, works, Bool.not_false, Bool.and_true]
      rfl
    rw [turn] at plan ⊢
    exact (exec_matrixStep holds loan).trans (congrArg _ ((congrArg _ run).trans (State.stepRun_steps more works plan)))
  case record =>
    rw [feed]
    rfl
  case tlwait =>
    show ∃ t, execTlwaitMet id s = .next t ∧ _
    simp only [execTlwaitMet, wait, met, Bool.not_true, Bool.false_eq_true, if_false]
    refine ⟨_, rfl, ?_⟩
    split
    · rw [(State.inject_comesIn _ _ _ _).hub, State.updLoan_hub, State.updHub_hub]
    · rw [State.updLoan_hub, State.updHub_hub]
  case launch =>
    obtain ⟨v, accepted⟩ := (s.endLaunch id x).accept_reserved (if x.inhw then { slip with wing := l.slip.wing } else slip) (x.rank s)
    refine ⟨_, exec_launchAccept_accepts launch loan runs read accepted, ?_⟩
    rw [State.answerLaunch_hub, State.accept_launches accepted, State.endLaunch, State.updLoan_hub, State.updHub_hub]
  case begins =>
    refine ⟨_, exec_slipRead_begins none' runs next idle, ?_⟩
    rw [if_neg free, State.updHub_hub, Hub.queue_updQueue_same]
    exact ⟨rfl, rfl⟩
  case placed =>
    rw [exec_placementDecision runs rfl, State.updHub_hub, standing, List.findSome?_cons, placed]
    rfl
  case latch =>
    rw [State.arrived, State.el, State.updLoan_els, ← State.el, State.el_updEl_same, Element.ctx_updCtx_same]
    simp
  case barrier =>
    have counted := exec_barrierArrive_record arrival loan record counts (.inr same)
    rw [State.testedArrival_counts (.inl dead)] at counted
    exact ⟨_, counted, State.countArrival_more record counts (by rw [loan]; rfl) more⟩
  case writes =>
    have left : l.exitTaken.isNone = false := by rw [← Option.not_isSome, exits]; rfl
    rw [exec_configWriteDone_writing loan runs writing]
    simp only [State.loanWritten, awake, left, begins, Bool.not_true, Bool.false_eq_true, if_false]
  case returns =>
    refine (loanReturn_returns loan (fun completes => absurd completes (by simp [plain])) wf).imp fun t ⟨gone, _, _, last, _⟩ => ⟨gone, ?_⟩
    have own : l.completes = false := by rw [Loan.completes, plain]; rfl
    rw [last, State.completionSaturates, own]
    rfl
  case resume =>
    have there : s.resumeFrame id f ab = some (if ab then s.abandonFrame id f l p.1 p.2 else s.runFrame id f l p.1 p.2) := by
      rw [State.resumeFrame, loan]
      exact congrArg (Option.map _) parked
    exact ⟨_, congrArg (fun o => Host.Outcome.next (Option.getD o s)) there, there⟩
  case switch =>
    obtain ⟨within, stay⟩ := s.returnsReady_loansStay id l
    obtain ⟨l', here'⟩ := Option.isSome_iff_exists.mp (stay id (by rw [loan]; rfl))
    have draining := (((s.returnsReady id l).updLoan id (fun l => { l with state := .switching })).stopArrays_onlyBays id (fun _ => true)).frame
    have same := congrArg State.loans draining
    refine ⟨_, execSwitchRequest_drains loan running save calling thaw acts, { l' with state := .switching }, ?_, rfl⟩
    rw [State.later_loans, State.stopFeeds, same]
    exact State.find_updLoan_of_some _ here'
  case scanned =>
    obtain ⟨-, -, -, -, -, saves, -⟩ := switchEvents s id l loan
    obtain ⟨-, saved⟩ := saves saving sound first
    exact (saved u v body header).imp fun _ ⟨out, _⟩ => out
  case starts =>
    obtain ⟨begins, -⟩ := colophonKernelWrites s bay v
    exact (begins halted).imp fun _ ⟨run, _, _, _, _, _, _, _, pc, _⟩ => ⟨run, pc⟩
  case halts =>
    refine ⟨_, rfl, ?_⟩
    rw [State.bay_updBay_same]
    exact ⟨congrArg Colophon.run (if_pos runs), congrArg Colophon.halt (if_pos runs)⟩
  case capture =>
    obtain ⟨-, -, -, -, captures⟩ := colophonKernelWrites s bay v
    exact captures.imp fun _ ⟨cap, _⟩ => cap
  case run => rw [execGlaedRun_eq, starts]; rfl
  case glaedStep =>
    exact ⟨_, rfl, if_neg pos.ne', beq_false_of_ne pos.ne'⟩
  case preempt => exact congrArg Host.Outcome.next (State.onLoan_there loan _)
  case glaedSwitch =>
    refine congrArg Host.Outcome.next ((State.onLoan_there loan _).trans ?_)
    rw [running]
    rfl

end Sys2Proof.Machine
end

section
/-! PROOFS. O55: what leaves the memories as they were. -/
namespace Sys2Proof.Machine

/-! ### The memories -/

/-- Device memory, tile memory, and what recovery has staged. -/
def State.memories (s : State) : List Host.Cell × List Host.Cell × List Host.Cell := (s.mem, s.tmem, s.boot.staging)

@[simp] theorem State.memories_mk (cycle agenda inputs chosen focus fires nextId freeCount boot hub mem tmem eccBad els bays loans accs xch outgoing
    trans snaps glaed) : (State.mk cycle agenda inputs chosen focus fires nextId freeCount boot hub mem tmem eccBad els bays loans accs xch outgoing
      trans snaps glaed).memories = (mem, tmem, boot.staging) := (rfl)

@[simp] theorem State.memories_eta (s : State) : (s.mem, s.tmem, s.boot.staging) = s.memories := (rfl)

@[simp] theorem State.memories_ite (c : Prop) [Decidable c] (s t : State) :
    (if c then s else t).memories = if c then s.memories else t.memories := apply_ite _ _ _ _

theorem MemoriesKept.same {s t : State} (h : MemoriesKept s t) : t.memories = s.memories := by
  obtain ⟨mem, tmem, staging⟩ := h
  rw [State.memories, mem, tmem, staging, State.memories_eta]

theorem Within.same {s t : State} (h : Within s t) : t.memories = s.memories := h.memories.same

@[simp] theorem foldl_memories {β : Type} {f : State → β → State} (h : ∀ s b, (f s b).memories = s.memories) (bs : List β) (s : State) :
    (bs.foldl f s).memories = s.memories := by
  induction bs generalizing s with
  | nil => rfl
  | cons b bs ih => rw [List.foldl_cons, ih, h]

/-- What each change keeps, changes one after another keep, where none of them fails. -/
theorem foldl_bind_keeps {σ β : Type} {P : σ → Prop} {f : σ → β → Option σ} (keeps : ∀ s b t, P s → f s b = some t → P t)
    {bs : List β} {s t : σ} (start : P s) (all : bs.foldl (fun r b => r.bind (fun s => f s b)) (some s) = some t) : P t :=
  List.foldlRecOn (motive := fun r => ∀ t, r = some t → P t) bs _ (fun _ here => Option.some.inj here ▸ start)
    (fun _ before b _ _ here => by
      obtain ⟨u, was, now⟩ := Option.bind_eq_some_iff.mp here
      exact keeps u b _ (before u was) now) t all

theorem foldl_bind_memories {β : Type} {f : State → β → Option State} (h : ∀ s b t, f s b = some t → t.memories = s.memories) {bs : List β}
    {s t : State} (all : bs.foldl (fun r b => r.bind (fun s => f s b)) (some s) = some t) : t.memories = s.memories :=
  foldl_bind_keeps (P := fun u => u.memories = s.memories) (fun u b v same step => (h u b v step).trans same) rfl all

theorem OnlyBays.same {s t : State} (h : OnlyBays s t) : t.memories = s.memories := by rw [h.frame]; rfl

theorem InNodes.sameMemories {s t : State} (h : InNodes s t) : t.memories = s.memories := by rw [h.frame]; rfl

theorem UnitsFreed.same {s t : State} (h : UnitsFreed s t) : t.memories = s.memories := by rw [h.frame]; rfl

theorem Shows.same {s t : State} (h : Shows s t) : t.memories = s.memories := by rw [h.frame]; rfl

/-! ### Operations whose frame is known already -/

@[simp] theorem State.later_memories (s : State) (d : Nat) (i : Instr) : (s.later d i).memories = s.memories :=
  (State.later_within _ _ _).same

@[simp] theorem State.fresh_memories (s : State) : (s.fresh).2.memories = s.memories :=
  (State.fresh_within _).same

@[simp] theorem State.drawNat_memories (s : State) : (s.drawNat).2.memories = s.memories :=
  (State.drawNat_within _).same

@[simp] theorem State.updEl_memories (s : State) (k : Nat) (f : Element → Element) : (s.updEl k f).memories = s.memories :=
  (State.updEl_within _ _ _).same

@[simp] theorem State.updBay_memories (s : State) (b : Nat) (f : Bay → Bay) : (s.updBay b f).memories = s.memories :=
  (State.updBay_within _ _ _).same

@[simp] theorem State.updLoan_memories (s : State) (id : Nat) (f : Loan → Loan) : (s.updLoan id f).memories = s.memories :=
  (State.updLoan_within _ _ _).same

@[simp] theorem State.updHub_memories (s : State) (f : Hub → Hub) : (s.updHub f).memories = s.memories :=
  (State.updHub_within _ _).same

@[simp] theorem State.ack_memories (s : State) (loan b : Nat) (its : List (Nat × List Nat)) : (s.ack loan b its).memories = s.memories :=
  (State.ack_within _ _ _ _).same

@[simp] theorem State.born_memories (s : State) (loan : Nat) (tag : Tag) (its : List (Nat × List Nat)) :
    (s.born loan tag its).memories = s.memories :=
  (State.born_within _ _ _ _).same

@[simp] theorem State.gone_memories (s : State) (loan b : Nat) (tag : Tag) (its : List (Nat × List Nat)) :
    (s.gone loan b tag its).memories = s.memories :=
  (State.gone_within _ _ _ _ _).same

@[simp] theorem State.dropFlit_memories (s : State) (b : Nat) (f : Flit) : (s.dropFlit b f).memories = s.memories :=
  (State.dropFlit_within _ _ _).same

@[simp] theorem State.parkTake_memories (s : State) (loan b : Nat) (tag : Option Tag) : (s.parkTake loan b tag).2.memories = s.memories :=
  (State.parkTake_within _ _ _ _).same

@[simp] theorem State.parkGive_memories (s : State) (loan place : Nat) : (s.parkGive loan place).memories = s.memories :=
  (State.parkGive_within _ _ _).same

@[simp] theorem State.parkFlit_memories (s : State) (b : Nat) (f : Nat) (x : Flit) : (s.parkFlit b f x).memories = s.memories :=
  (State.parkFlit_within _ _ _ _).same

@[simp] theorem State.withdraw_memories (s : State) (id f : Nat) : (s.withdraw id f).memories = s.memories :=
  (State.withdraw_within _ _ _).same

@[simp] theorem State.withdrawAccs_memories (s : State) (id f : Nat) (faults : List (List Nat × Nat)) :
    (s.withdrawAccs id f faults).memories = s.memories :=
  (State.withdrawAccs_within _ _ _ _).same

@[simp] theorem State.dropOrdered_memories (s : State) (id f : Nat) (faults : List (List Nat × Nat)) :
    (s.dropOrdered id f faults).memories = s.memories :=
  (State.dropOrdered_within _ _ _ _).same

@[simp] theorem State.withdrawTriggers_memories (s : State) (id f : Nat) (faults : List (List Nat × Nat)) :
    (s.withdrawTriggers id f faults).memories = s.memories :=
  (State.withdrawTriggers_within _ _ _ _).same

@[simp] theorem State.parkFrame_memories (s : State) (id : Nat) (tag : Tag) (loops : List Nat) (fault : Bool) (kept : List Kept) :
    (s.parkFrame id tag loops fault kept).memories = s.memories :=
  (State.parkFrame_within _ _ _ _ _ _).same

@[simp] theorem State.translateParked_memories (s : State) (id f : Nat) (r : Report) : (s.translateParked id f r).memories = s.memories :=
  (State.translateParked_within _ _ _ _).same

@[simp] theorem State.raise_memories (s : State) (r : Report) (loops : List Nat) (kept : List Kept) : (s.raise r loops kept).memories = s.memories :=
  (State.raise_within _ _ _ _).same

@[simp] theorem State.sendExit_memories (s : State) (loan index hnd n d : Nat) : (s.sendExit loan index hnd n d).memories = s.memories :=
  (State.sendExit_within _ _ _ _ _ _).same

@[simp] theorem State.inject_memories (s : State) (d index : Nat) (f : Flit) : (s.inject d index f).memories = s.memories :=
  (State.inject_within _ _ _ _).same

@[simp] theorem State.answer_memories (s : State) (loan index ctx hnd d : Nat) (dest : Dest) (kind : Kind)
    (pred : Bool) (cont : BitVec 6) (v : W32) (tag : Tag) (prior : List Nat) :
    (s.answer loan index ctx hnd d dest kind pred cont v tag prior).memories = s.memories :=
  (State.answer_within _ _ _ _ _ _ _ _ _ _ _ _ _).same

@[simp] theorem State.startTriggers_memories (s : State) (id c : Nat) (t : Tag) : (s.startTriggers id c t).memories = s.memories :=
  (State.startTriggers_within _ _ _ _).same

@[simp] theorem State.endFrame_memories (s : State) (id f b : Nat) (note : Bool) : (s.endFrame id f b note).memories = s.memories :=
  (State.endFrame_within _ _ _ _ _).same

@[simp] theorem State.releaseFrame_memories (s : State) (id f b : Nat) : (s.releaseFrame id f b).memories = s.memories :=
  (State.releaseFrame_within _ _ _ _).same

@[simp] theorem State.wakeWaves_memories (s : State) (loan : Nat) : (s.wakeWaves loan).memories = s.memories :=
  (State.wakeWaves_within _ _).same

@[simp] theorem State.settle_memories (s : State) (a : Access) : (s.settle a).memories = s.memories :=
  (State.settle_within _ _).same

@[simp] theorem State.dropAccess_memories (s : State) (id : Nat) : (s.dropAccess id).memories = s.memories :=
  (State.dropAccess_within _ _).same

@[simp] theorem State.answerFill_memories (s : State) (a : Access) (d : Nat) (block : Bool) : (s.answerFill a d block).memories = s.memories :=
  (State.answerFill_within _ _ _ _).same

@[simp] theorem State.finishAccess_memories (s : State) (id d : Nat) : (s.finishAccess id d).memories = s.memories :=
  (State.finishAccess_within _ _ _).same

@[simp] theorem State.postAccess_memories (s : State) (a : Access) : (s.postAccess a).memories = s.memories :=
  (State.postAccess_tells _ _).memories.same

@[simp] theorem State.noteWord_memories (s : State) (what : String) (loan win off : Nat) (v : W32) (extra : List Nat) :
    (s.noteWord what loan win off v extra).memories = s.memories :=
  (State.noteWord_tells _ _ _ _ _ _ _).memories.same

@[simp] theorem State.noteStores_memories (s : State) (what : String) (a : Access) (w : Window) : (s.noteStores what a w).memories = s.memories :=
  (State.noteStores_tells _ _ _ _).memories.same

@[simp] theorem State.performed_sameMemories (s : State) (id d : Nat) : (s.performed id d).memories = s.memories :=
  (State.performed_memories _ _ _).same

@[simp] theorem State.replyCell_memories (s : State) (die port id : Nat) (a : Access) (l : Loan) :
    (s.replyCell die port id a l).memories = s.memories :=
  (State.replyCell_tells _ _ _ _ _ _).memories.same

@[simp] theorem State.complete_memories (s : State) (l : Loan) (b : Nat) (q : QCell) : (s.complete l b q).memories = s.memories :=
  (State.complete_within _ _ _ _).same

@[simp] theorem State.stopArrays_memories (s : State) (id : Nat) (inBay : Nat → Bool) : (s.stopArrays id inBay).memories = s.memories :=
  (State.stopArrays_onlyBays _ _ _).same

@[simp] theorem State.makeResident_memories (s : State) (id : Nat) (l : Loan) (c : Nat) : (s.makeResident id l c).memories = s.memories :=
  (State.makeResident_inNodes _ _ _ _).sameMemories

@[simp] theorem State.print_memories (s : State) (what : String) (ns : List Nat) : (s.print what ns).memories = s.memories :=
  (State.print_shows _ _ _).same

@[simp] theorem State.noSuch_memories (s : State) : (s.noSuch).memories = s.memories :=
  (State.noSuch_shows _).same

end Sys2Proof.Machine
end

section
/-! PROOFS. O55: what writes neither device memory nor tile memory, in the order of the model. -/
namespace Sys2Proof.Machine

/-! ### Units, translation, slips and timelines -/

@[simp] theorem State.laterFirst_memories (s : State) (d : Nat) (i : Instr) : (s.laterFirst d i).memories = s.memories := (rfl)

@[simp] theorem State.arrived_memories (s : State) (id : Nat) : (s.arrived id).memories = s.memories := by simp [State.arrived]

@[simp] theorem State.focusOn_memories (s : State) (key ctx hnd : Nat) : (s.focusOn key ctx hnd).memories = s.memories := (rfl)

@[simp] theorem State.refillTlb_memories (s : State) (die loan win space page : Nat) (e : TlbEntry) :
    (s.refillTlb die loan win space page e).memories = s.memories := (rfl)

@[simp] theorem State.countChunk_memories (s : State) (phys : Nat) : (s.countChunk phys).memories = s.memories := by simp [State.countChunk]

@[simp] theorem State.refuseSlip_memories (s : State) (bs : List Byte) (reason off : Nat) :
    (s.refuseSlip bs reason off).memories = s.memories := (rfl)

theorem State.accept_memories {s t : State} {slip : Slip} {rank : Nat} {reserved : Bool} (accepted : s.accept slip rank reserved = some t) :
    t.memories = s.memories := by
  unfold State.accept at accepted
  dsimp only at accepted
  split at accepted
  · cases accepted; rfl
  · split at accepted
    · cases accepted; rfl
    · cases accepted

@[simp] theorem State.acceptOrWait_memories (s : State) (slip : Slip) (rank : Nat) : (s.acceptOrWait slip rank).memories = s.memories := by
  unfold State.acceptOrWait
  split
  next accepted => exact State.accept_memories accepted
  next => simp

@[simp] theorem State.acceptCopy_memories (s : State) (p : Pool) (rank : Nat) (bs : List Byte) : (s.acceptCopy p rank bs).memories = s.memories := by
  unfold State.acceptCopy
  split <;> simp

@[simp] theorem State.tlTake_memories (s : State) (t : Nat) : (s.tlTake t).memories = s.memories := (rfl)

@[simp] theorem State.reevaluate_memories (s : State) (t : Nat) : (s.reevaluate t).memories = s.memories := by simp [State.reevaluate]

/-! ### Firings and the fabric -/

@[simp] theorem State.closeStream_memories (s : State) (f : FireCtx) (isB : Bool) : (s.closeStream f isB).memories = s.memories := (rfl)

@[simp] theorem State.addAccess_memories (s : State) (a : Access) : (s.addAccess a).2.memories = s.memories := (rfl)

@[simp] theorem State.clearSlot_memories (s : State) (id f b n : Nat) : (s.clearSlot id f b n).memories = s.memories := by simp [State.clearSlot]

@[simp] theorem State.sendPost_memories (s : State) (id ctx index hnd : Nat) (p : Post) : (s.sendPost id ctx index hnd p).memories = s.memories := by
  unfold State.sendPost
  split <;> simp

@[simp] theorem State.latchBlock_memories (s : State) (n : Nat) : (s.latchBlock n).memories = s.memories := by
  unfold State.latchBlock
  (repeat' split) <;> simp

@[simp] theorem State.emitFlit_memories (s : State) (key index : Nat) (buf : Nat) (f : Flit) :
    (s.emitFlit key index buf f).memories = s.memories := by
  unfold State.emitFlit
  (repeat' split) <;> simp

@[simp] theorem State.lostToken_memories (s : State) (el : Nat) (suspect : Option Nat) (b : Nat) (f : Flit) (t : Token) :
    (s.lostToken el suspect b f t).memories = s.memories := by
  unfold State.lostToken
  split <;> simp

@[simp] theorem State.staleToken_memories (s : State) (el b : Nat) (f : Flit) (t : Token) :
    (s.staleToken el b f t).memories = s.memories := by simp [State.staleToken]

@[simp] theorem State.poisonToken_memories (s : State) (el b : Nat) (code : Nat) (loops : List Nat) (f : Flit) (t : Token) :
    (s.poisonToken el b code loops f t).memories = s.memories := by simp [State.poisonToken]

@[simp] theorem State.land_memories (s : State) {gone : State} (el : Nat) (side : Side) (b : Nat) (l : Loan) (f : Flit) (t : Token) (x : Landing)
    (same : gone.memories = s.memories) : (s.land gone el side b l f t x).memories = s.memories := by
  cases x <;> simp [State.land, same]

@[simp] theorem State.fillStep_memories (s : State) {gone : State} (el : Nat) (side : Side) (b : Nat) (l : Loan) (f : Flit) (t : Token) (block : Bool)
    (words : List W32) (w : Landing) (same : gone.memories = s.memories) : (s.fillStep gone el side b l f t block words w).memories = s.memories := by
  simp [State.fillStep, same]

@[simp] theorem matchInto_memories (s : State) (el : Nat) (id : Nat) (l : Loan) (c p : Nat) (t : QTok) (fr : Frame) :
    (matchInto s el id l c p t fr).memories = s.memories := by
  unfold matchInto
  dsimp only
  (repeat' split) <;> simp

@[simp] theorem State.askRefill_memories (s : State) (id f : Nat) : (s.askRefill id f).memories = s.memories := by simp [State.askRefill]

/-! ### Frames and sync queues -/

@[simp] theorem State.beginSpill_memories (s : State) (id : Nat) (v : Nat × Frame) (waits : Option (Report × List Nat)) (next : Instr) :
    (s.beginSpill id v waits next).memories = s.memories := by
  unfold State.beginSpill
  (repeat' split) <;> simp

@[simp] theorem State.grant_memories (s : State) (id q : Nat) : (s.grant id q).memories = s.memories := by
  unfold State.grant
  (repeat' split) <;> simp

/-! ### Accesses and cells -/

@[simp] theorem State.correct_memories (s : State) (bay tile : Nat) (units : List Nat) :
    (s.correct bay tile units).memories = s.memories := by simp [State.correct]

@[simp] theorem State.endDecant_memories (s : State) (id : Nat) (a : Access) (l : Loan) (dec : Nat) (keep : Bool) :
    (s.endDecant id a l dec keep).memories = s.memories := by simp [State.endDecant]

@[simp] theorem State.decantFault_memories (s : State) (id : Nat) (a : Access) (l : Loan) (t : Nat) (u : W32) (dec code addr : Nat) (detail : W64) :
    (s.decantFault id a l t u dec code addr detail).memories = s.memories := by simp [State.decantFault]

@[simp] theorem State.unplaceSc_memories (s : State) (id : Nat) (a : Access) : (s.unplaceSc id a).memories = s.memories := by simp [State.unplaceSc]

@[simp] theorem State.accFault_memories (s : State) (id : Nat) (code addr : Nat) (detail : W64) (keep : Bool) :
    (s.accFault id code addr detail keep).memories = s.memories := by
  unfold State.accFault
  (repeat' split) <;> simp

@[simp] theorem State.replyTo_memories (s : State) (a : Access) (d : Nat) (pred : Bool) (v : W32) :
    (s.replyTo a d pred v).memories = s.memories := by simp [State.replyTo]

@[simp] theorem State.answerEntry_memories (s : State) (a : Access) (d : Nat) (dead : Bool) :
    (s.answerEntry a d dead).memories = s.memories := by simp [State.answerEntry]

@[simp] theorem State.skipAccess_memories (s : State) (id d : Nat) : (s.skipAccess id d).memories = s.memories := by
  unfold State.skipAccess
  (repeat' split) <;> simp

@[simp] theorem State.sendCell_memories (s : State) (die port d loan access : Nat) (body : CellBody) (c : Cell) :
    (s.sendCell die port d loan access body c).memories = s.memories := (rfl)

@[simp] theorem State.sendRequest_memories (s : State) (id : Nat) (a : Access) (l : Loan) : (s.sendRequest id a l).memories = s.memories := (rfl)

@[simp] theorem State.sendLayout_memories (s : State) (id : Nat) (a : Access) (l : Loan) (isB : Bool) :
    (s.sendLayout id a l isB).memories = s.memories := by simp [State.sendLayout]

@[simp] theorem State.serveFeed_memories (s : State) (bay key : Nat) : (s.serveFeed bay key).memories = s.memories := by simp [State.serveFeed]

@[simp] theorem State.placeSc_memories (s : State) (id : Nat) (a : Access) (l : Loan) :
    (s.placeSc id a l).memories = s.memories := by simp [State.placeSc]

@[simp] theorem State.loadAcc_memories (s : State) (a : Access) : (s.loadAcc a).memories = s.memories := (rfl)

@[simp] theorem State.sendBlock_memories (s : State) (id : Nat) (a : Access) (l : Loan) (dst : Nat) (word : W32) :
    (s.sendBlock id a l dst word).memories = s.memories := by
  unfold State.sendBlock
  dsimp only
  (repeat' split) <;> simp

@[simp] theorem State.joinWalk_memories (s : State) (die loan win space page id : Nat) :
    (s.joinWalk die loan win space page id).memories = s.memories := by
  unfold State.joinWalk
  dsimp only
  (repeat' split) <;> simp

@[simp] theorem State.holdForMove_memories (s : State) (c id : Nat) (held : List Nat) : (s.holdForMove c id held).memories = s.memories := (rfl)

@[simp] theorem State.decantSend_memories (s : State) (id : Nat) (a : Access) (l : Loan) (m : Template) (dw : Window) (u b d : Nat) (p : Page) :
    (s.decantSend id a l m dw u b d p).memories = s.memories := by
  unfold State.decantSend
  dsimp only
  (repeat' split) <;> simp

@[simp] theorem State.decantOut_memories (s : State) (id : Nat) (a : Access) (l : Loan) (m : Template) (dw : Window) (u b d : Nat) :
    (s.decantOut id a l m dw u b d).memories = s.memories := by
  unfold State.decantOut
  dsimp only
  (repeat' split) <;> simp

@[simp] theorem State.decantAgain_memories (s : State) (id : Nat) (a : Access) (l : Loan) : (s.decantAgain id a l).memories = s.memories := by
  unfold State.decantAgain
  split <;> simp

/-! ### Banks, waves and ports -/

@[simp] theorem State.postBank_memories (s : State) (bay tile bank d : Nat) (e : BankEntry) :
    (s.postBank bay tile bank d e).memories = s.memories := (rfl)

@[simp] theorem State.postBlock_memories (s : State) (bay : Nat) (l : Loan) (w : Window) (off dec : Nat) :
    (s.postBlock bay l w off dec).memories = s.memories := (rfl)

@[simp] theorem State.decantRead_memories (s : State) (id : Nat) (a : Access) (l : Loan) (t u b dec : Nat) :
    (s.decantRead id a l t u b dec).memories = s.memories := by
  unfold State.decantRead
  (repeat' split) <;> simp

@[simp] theorem State.toBank_memories (s : State) (id : Nat) (a : Access) (l : Loan) (w : Window) : (s.toBank id a l w).memories = s.memories := (rfl)

@[simp] theorem State.postEstore_memories (s : State) (bay : Nat) : (s.postEstore bay).memories = s.memories := by
  unfold State.postEstore
  split <;> simp

@[simp] theorem State.performDeferred_memories (s : State) (id : Nat) (a : Access) (l : Loan) (w : Window) :
    (s.performDeferred id a l w).memories = s.memories := by simp [State.performDeferred]

@[simp] theorem State.ringWait_memories (s : State) (node id : Nat) (domain : Bool) : (s.ringWait node id domain).memories = s.memories := (rfl)

@[simp] theorem State.accessPage_memories (s : State) (id : Nat) (a : Access) (l : Loan) (w : Window) (p : Page) :
    (s.accessPage id a l w p).memories = s.memories := by
  unfold State.accessPage
  dsimp only
  (repeat' split) <;> simp

@[simp] theorem State.translateAccess_memories (s : State) (id : Nat) (a : Access) (l : Loan) (w : Window) :
    (s.translateAccess id a l w).memories = s.memories := by
  unfold State.translateAccess
  dsimp only
  (repeat' split) <;> simp

@[simp] theorem State.decantWalked_memories (s : State) (id : Nat) (a : Access) (l : Loan) (r : Except Nat Page) :
    (s.decantWalked id a l r).memories = s.memories := by
  unfold State.decantWalked
  (repeat' split) <;> simp

@[simp] theorem State.afterWalk_memories (s : State) (id : Nat) (r : Except Nat Page) : (s.afterWalk id r).memories = s.memories := by
  unfold State.afterWalk
  (repeat' split) <;> simp

@[simp] theorem State.leaveBuffer_memories (s : State) (id el : Nat) : (s.leaveBuffer id el).memories = s.memories := (rfl)

@[simp] theorem memFault_memories (f : FireCtx) (g : Got) (a : Access) (w : Window) (code off : Nat) (s : State) :
    (memFault f g a w code off s).memories = s.memories := by
  unfold memFault
  dsimp only
  (repeat' split) <;> simp

@[simp] theorem State.updXch_memories (s : State) (die : Nat) (f : Exchange → Exchange) : (s.updXch die f).memories = s.memories := (rfl)

@[simp] theorem State.crossed_memories (s : State) (die out : Nat) (q : QCell) : (s.crossed die out q).memories = s.memories := by
  unfold State.crossed
  dsimp only
  (repeat' split) <;> simp

@[simp] theorem State.sendMatch_memories (s : State) (die slot : Nat) (m : Match) : (s.sendMatch die slot m).memories = s.memories := by
  unfold State.sendMatch
  dsimp only
  (repeat' split) <;> simp

@[simp] theorem State.cellServed_memories (s : State) (id : Nat) : (s.cellServed id).memories = s.memories := by
  unfold State.cellServed
  (repeat' split) <;> simp

@[simp] theorem State.discardCell_memories (s : State) (port : Nat) (q : QCell) : (s.discardCell port q).memories = s.memories := by
  unfold State.discardCell
  split <;> simp

@[simp] theorem State.checkCells_memories (s : State) (die slot : Nat) : (s.checkCells die slot).memories = s.memories := by simp [State.checkCells]

@[simp] theorem State.keepRefused_memories (s : State) (die : Nat) : (s.keepRefused die).memories = s.memories := by
  unfold State.keepRefused
  split <;> simp

@[simp] theorem State.dropMember_memories (s : State) (port : Nat) (q : QCell) (g : McastGroup) (m : Nat) :
    (s.dropMember port q g m).memories = s.memories := by simp [State.dropMember]

@[simp] theorem State.payloadCell_memories (s : State) (die port id : Nat) (a : Access) (bay win off : Nat)
    (note : BitVec 2) (node : Nat × Nat × Nat) (tag : Tag) :
    (s.payloadCell die port id a bay win off note node tag).memories = s.memories := (rfl)

@[simp] theorem State.refuseCell_memories (s : State) (bay : Nat) (q : QCell) (code : Nat) :
    (s.refuseCell bay q code).memories = s.memories := by simp [State.refuseCell]

@[simp] theorem State.accordComplete_memories (s : State) (bay : Nat) (l : Loan) (a : Accord) (g : AccordGroup) :
    (s.accordComplete bay l a g).memories = s.memories := by simp [State.accordComplete]

@[simp] theorem State.accordCell_memories (s : State) (bay : Nat) (l : Loan) (b : Nat) (q : QCell) :
    (s.accordCell bay l b q).memories = s.memories := by
  unfold State.accordCell
  dsimp only
  (repeat' split) <;> simp

@[simp] theorem State.replyArrives_memories (s : State) (id : Nat) : (s.replyArrives id).memories = s.memories := by
  unfold State.replyArrives
  (repeat' split) <;> simp

theorem State.decantPasses_memories {s t : State} {q : QCell} (passes : s.decantPasses q = some t) : t.memories = s.memories := by
  unfold State.decantPasses at passes
  split at passes
  · cases passes
  · split at passes
    · split at passes
      · split at passes
        · split at passes
          · cases passes; simp
          · cases passes
        · cases passes
      · cases passes
    · cases passes

@[simp] theorem State.payloadArrives_memories (s : State) (bay : Nat) (q : QCell) : (s.payloadArrives bay q).memories = s.memories := by
  unfold State.payloadArrives
  dsimp only
  split
  next passes => exact State.decantPasses_memories passes
  next =>
    split
    · rfl
    · split
      · split <;> simp
      · simp

/-! ### Decanters -/

@[simp] theorem State.sendCompletion_memories (s : State) (x : Firing) (live : Bool) : (s.sendCompletion x live).memories = s.memories := by
  unfold State.sendCompletion
  (repeat' split) <;> simp

@[simp] theorem State.firingGone_memories (s : State) (b : Nat) (x : Firing) : (s.firingGone b x).memories = s.memories := by
  unfold State.firingGone
  split <;> simp

@[simp] theorem State.startBlock_memories (s : State) (bay dec : Nat) : (s.startBlock bay dec).memories = s.memories := by
  unfold State.startBlock
  (repeat' split) <;> simp

@[simp] theorem State.feedDecanters_memories (s : State) (bay : Nat) : (s.feedDecanters bay).memories = s.memories := by
  refine foldl_memories (fun u d => ?_) _ _
  dsimp only
  split
  · simp
  · rfl

@[simp] theorem State.answerCommands_memories (s : State) (bay : Nat) : (s.answerCommands bay).memories = s.memories := by
  unfold State.answerCommands
  refine foldl_memories (fun u x => ?_) _ _
  (repeat' split) <;> simp

@[simp] theorem State.placeTrigger_memories (s : State) (bay : Nat) (x : Firing) :
    (s.placeTrigger bay x).memories = s.memories := by simp [State.placeTrigger]

@[simp] theorem State.sendCommand_memories (s : State) (f : FireCtx) (b : FY) (op : DOp) (flit : Option Flit) :
    (s.sendCommand f b op flit).memories = s.memories := by
  unfold State.sendCommand
  dsimp only
  (repeat' split) <;> simp

/-! ### Arrays -/

@[simp] theorem State.updTile_memories (s : State) (bay t ctx : Nat) (f : Tile → Tile) : (s.updTile bay t ctx f).memories = s.memories := (rfl)

@[simp] theorem State.emitRow_memories (s : State) (key ctx id hnd d : Nat) (l : Loan) (fs : List Flit) :
    (s.emitRow key ctx id hnd d l fs).memories = s.memories := by
  unfold State.emitRow
  dsimp only
  refine (foldl_memories (fun u p => by simp) _ _).trans ((foldl_memories (fun u f => ?_) _ _).trans (by simp))
  split <;> simp

@[simp] theorem State.emitHeld_memories (s : State) (key ctx id hnd : Nat) (f : Flit) : (s.emitHeld key ctx id hnd f).memories = s.memories := by
  unfold State.emitHeld
  split <;> simp

@[simp] theorem State.applyMx_memories (s : State) (id bay t ctx : Nat) (mode : TileMode) : (s.applyMx id bay t ctx mode).memories = s.memories := by
  unfold State.applyMx
  refine foldl_memories (fun u x => ?_) _ _
  (repeat' split) <;> simp

@[simp] theorem State.changeTile_memories (s : State) (f : FireCtx) (g : Got) (bay t : Nat) : (s.changeTile f g bay t).memories = s.memories := by
  unfold State.changeTile
  dsimp only
  split
  · rfl
  · split
    · refine (State.raise_memories _ _ _ _).trans ((foldl_memories (fun u d => ?_) _ _).trans (by simp))
      split <;> simp
    · simp

@[simp] theorem countMxcfg_memories (h : Hdr) (b : FI) (f : FireCtx) (g : Got) (s : State) : (countMxcfg h b f g s).memories = s.memories := by
  unfold countMxcfg
  dsimp only
  (repeat' split) <;> simp

@[simp] theorem State.askFeed_memories (s : State) (f : FireCtx) (isB : Bool) (r : FeedReq) :
    (s.askFeed f isB r).memories = s.memories := by simp [State.askFeed]

@[simp] theorem State.armRun_memories (s : State) (h : Hdr) (b : FX) (f : FireCtx) (g : Got) :
    (s.armRun h b f g).memories = s.memories := by simp [State.armRun]

@[simp] theorem State.updLane_memories (s : State) (bay key n : Nat) (f : Lane → Lane) : (s.updLane bay key n f).memories = s.memories := (rfl)

@[simp] theorem State.feedFault_memories (s : State) (id : Nat) (l : Loan) (bay key ctx : Nat) (n : Nat) (a : Lane)
    (code win addr : Nat) (detail : W64) :
    (s.feedFault id l bay key ctx n a code win addr detail).memories = s.memories := by simp [State.feedFault]

@[simp] theorem State.askScale_memories (s : State) (id : Nat) (l : Loan) (bay key ctx : Nat) (isB : Bool) (n : Nat) (a : Lane) :
    (s.askScale id l bay key ctx isB n a).memories = s.memories := by
  unfold State.askScale
  dsimp only
  (repeat' split) <;> simp

@[simp] theorem State.askBeat_memories (s : State) (id : Nat) (l : Loan) (bay key ctx : Nat) (isB : Bool) (blk : Nat) (n : Nat) (a : Lane) :
    (s.askBeat id l bay key ctx isB blk n a).memories = s.memories := by
  unfold State.askBeat
  dsimp only
  (repeat' split) <;> simp

@[simp] theorem State.feedParity_memories (s : State) (id : Nat) (l : Loan) (bay key ctx tile n : Nat) (a : Lane) (win addr : Nat) :
    (s.feedParity id l bay key ctx tile n a win addr).memories = s.memories := by simp [State.feedParity]

@[simp] theorem State.performScale_memories (s : State) (id index ctx : Nat) (isB : Bool) (n : Nat) :
    (s.performScale id index ctx isB n).memories = s.memories := by
  unfold State.performScale
  (repeat' split) <;> simp

@[simp] theorem State.performBeat_memories (s : State) (id index ctx : Nat) (isB : Bool) (n : Nat) :
    (s.performBeat id index ctx isB n).memories = s.memories := by
  unfold State.performBeat
  (repeat' split) <;> simp

@[simp] theorem State.feedCycle_memories (s : State) (id : Nat) (l : Loan) (bay key ctx : Nat) (isB : Bool) (blk : Nat) :
    (s.feedCycle id l bay key ctx isB blk).memories = s.memories := by
  refine foldl_memories (fun u n => ?_) _ _
  dsimp only
  split <;> split <;> simp

@[simp] theorem State.sideBeat_memories (s : State) (l : Loan) (el ctx : Nat) (isB : Bool) : (s.sideBeat l el ctx isB).memories = s.memories := by
  unfold State.sideBeat
  split <;> simp

@[simp] theorem State.performStep_memories (s : State) (l : Loan) (el ctx : Nat) (r : Run) (p : StepPlan) :
    (s.performStep l el ctx r p).memories = s.memories := by
  unfold State.performStep
  dsimp only
  (repeat' split) <;> simp

@[simp] theorem State.stopFeeds_memories (s : State) (id : Nat) : (s.stopFeeds id).memories = s.memories := by simp [State.stopFeeds]

@[simp] theorem State.goFeeds_memories (s : State) (id : Nat) : (s.goFeeds id).memories = s.memories := by
  unfold State.goFeeds
  split
  · rfl
  · refine foldl_memories (fun u b => foldl_memories (fun v c => foldl_memories (fun w t => foldl_memories (fun x isB => ?_) _ _) _ _) _ _) _ _
    simp

@[simp] theorem State.putScale_memories (s : State) (key : Nat) (isB : Bool) (hs : List (BitVec 16)) :
    (s.putScale key isB hs).memories = s.memories := (rfl)

@[simp] theorem loadScales_memories (h : Hdr) (b : FX) (f : FireCtx) (g : Got) (s : State) : (loadScales h b f g s).memories = s.memories := by
  unfold loadScales
  dsimp only
  split
  · rfl
  · split
    · simp
    · split <;> simp

@[simp] theorem captureDrain_memories (h : Hdr) (b : FX) (f : FireCtx) (g : Got) (s : State) :
    (captureDrain h b f g s).memories = s.memories := by simp [captureDrain]

/-! ### Launches, watches, barriers and stocktakes -/

@[simp] theorem State.bornFlit_memories (s : State) (id : Nat) (f : Option Flit) : (s.bornFlit id f).memories = s.memories := by
  unfold State.bornFlit
  split
  · split <;> simp
  · rfl

@[simp] theorem State.sendLaunch_memories (s : State) (n : Nat) (x : Launching) : (s.sendLaunch n x).memories = s.memories := (rfl)

@[simp] theorem State.beginLaunch_memories (s : State) (x : Launching) : (s.beginLaunch x).memories = s.memories := by simp [State.beginLaunch]

@[simp] theorem State.endLaunch_memories (s : State) (n : Nat) (x : Launching) : (s.endLaunch n x).memories = s.memories := by simp [State.endLaunch]

@[simp] theorem State.goneFlit_memories (s : State) (b : Nat) (f : Option Flit) : (s.goneFlit b f).memories = s.memories := by
  unfold State.goneFlit
  split <;> simp

@[simp] theorem armWatch_memories (b : FY) (f : FireCtx) (g : Got) (s : State) : (armWatch b f g s).memories = s.memories := by
  unfold armWatch
  dsimp only
  (repeat' split) <;> simp

@[simp] theorem State.counter_memories (s : State) (a : W32) : (s.counter a).2.memories = s.memories := by
  unfold State.counter
  dsimp only
  (repeat' split) <;> simp

@[simp] theorem sendArrival_memories (h : Hdr) (b : FY) (f : FireCtx) (g : Got) (s : State) :
    (sendArrival h b f g s).memories = s.memories := by simp [sendArrival]

@[simp] theorem State.setBarrier_memories (s : State) (a : Arrival) (r : Option Barrier) :
    (s.setBarrier a r).memories = s.memories := by simp [State.setBarrier]

@[simp] theorem State.releaseParty_memories (s : State) (wing : Bool) (w : Nat × Nat × Option Flit) :
    (s.releaseParty wing w).memories = s.memories := by
  unfold State.releaseParty
  split <;> simp

@[simp] theorem State.countArrival_memories (s : State) (id : Nat) (a : Arrival) (hkey : Nat) :
    (s.countArrival id a hkey).memories = s.memories := by simp [State.countArrival]

@[simp] theorem State.startStocktake_memories (s : State) (watchdog : Bool) (joined : List (Nat × Nat × Option Flit)) :
    (s.startStocktake watchdog joined).memories = s.memories := by
  unfold State.startStocktake
  split <;> simp

@[simp] theorem State.endStocktake_memories (s : State) (t : Stocktake) : (s.endStocktake t).memories = s.memories := (rfl)

@[simp] theorem State.publishStocktake_memories (s : State) (t : Stocktake) (r : StockResult) : (s.publishStocktake t r).memories = s.memories := by
  unfold State.publishStocktake
  refine (foldl_memories (fun u j => ?_) _ _).trans (by simp)
  split <;> simp

/-! ### Loans -/

@[simp] theorem State.setCtx_memories (s : State) (r : Rect) (c : Nat) (f : BayCtx → BayCtx) :
    (s.setCtx r c f).memories = s.memories := by simp [State.setCtx]

@[simp] theorem State.emptyEls_memories (s : State) (bay c : Nat) : (s.emptyEls bay c).memories = s.memories := (rfl)

@[simp] theorem State.emptyCtx_memories (s : State) (bay c : Nat) : (s.emptyCtx bay c).memories = s.memories := (rfl)

@[simp] theorem State.pin_memories (s : State) (die space va n : Nat) : (s.pin die space va n).2.memories = s.memories := (rfl)

@[simp] theorem State.unpin_memories (s : State) (id : Nat) (l : Loan) : (s.unpin id l).memories = s.memories := (rfl)

@[simp] theorem State.claimCtx_memories (s : State) (r : Rect) (c : Nat) : (s.claimCtx r c).memories = s.memories := by
  simp [State.claimCtx]

@[simp] theorem State.wakeRect_memories (s : State) (r : Rect) : (s.wakeRect r).memories = s.memories := by simp [State.wakeRect]

@[simp] theorem State.askImage_memories (s : State) (die bay loan space addr : Nat) (note : BitVec 2) (body : CellBody) (step : Instr) :
    (s.askImage die bay loan space addr note body step).memories = s.memories := by
  unfold State.askImage
  split <;> simp

@[simp] theorem State.fetchFor_memories (s : State) (id : Nat) (l : Loan) (addr : Nat) :
    (s.fetchFor id l addr).memories = s.memories := by simp [State.fetchFor]

@[simp] theorem State.place_memories (s : State) (x : Released) (k : Nat) (r : Rect) (c : Nat) (n : Need) :
    (s.place x k r c n).memories = s.memories := by
  unfold State.place
  dsimp only
  (repeat' split) <;> simp

@[simp] theorem State.holdSlip_memories (s : State) (x : Released) : (s.holdSlip x).memories = s.memories := (rfl)

@[simp] theorem State.resetBayCtx_memories (s : State) (bay c : Nat) : (s.resetBayCtx bay c).memories = s.memories := (rfl)

@[simp] theorem State.writeContext_memories (s : State) (id : Nat) (l : Loan) (c : Nat) (img : Image) (hit : Bool) :
    (s.writeContext id l c img hit).memories = s.memories := by
  simp [State.writeContext]

theorem State.givePlanes_memories {s t : State} {id act c : Nat} (given : s.givePlanes id act c = some t) : t.memories = s.memories := by
  unfold State.givePlanes at given
  dsimp only at given
  split at given
  · cases given
  · obtain rfl := Option.some.inj given
    refine foldl_memories (fun u p => ?_) _ _
    split <;> simp

@[simp] theorem State.putToken_memories (s : State) (id c index port hnd : Nat) (q : QEntry) :
    (s.putToken id c index port hnd q).memories = s.memories := by
  unfold State.putToken
  split <;> simp

@[simp] theorem State.putPrimes_memories (s : State) (id c : Nat) (img : Image) (t : Tag) :
    (s.putPrimes id c img t).memories = s.memories := by simp [State.putPrimes]

@[simp] theorem State.putArgs_memories (s : State) (id c : Nat) (img : Image) (t : Tag) (args : List W32) (prior : List Nat) :
    (s.putArgs id c img t args prior).memories = s.memories := by
  unfold State.putArgs
  refine foldl_memories (fun u x => ?_) _ _
  (repeat' split) <;> simp

theorem State.startFirst_memories {s t : State} {id : Nat} (started : s.startFirst id = some t) : t.memories = s.memories := by
  unfold State.startFirst at started
  split at started
  · cases started
  · dsimp only at started
    split at started
    · cases started
    · split at started
      · cases started
      next u given =>
        obtain rfl := Option.some.inj started
        simp [State.givePlanes_memories given]

@[simp] theorem State.postCommit_memories (s : State) (id : Nat) (l : Loan) (t : Store) (ts : List Store) :
    (s.postCommit id l t ts).memories = s.memories := (rfl)

@[simp] theorem State.sendStores_memories (s : State) (id : Nat) (l : Loan) (g : List Store) : (s.sendStores id l g).memories = s.memories := by
  unfold State.sendStores
  split <;> simp

@[simp] theorem State.releaseStores_memories (s : State) (id fuel n : Nat) : (s.releaseStores id fuel n).memories = s.memories := by
  induction fuel generalizing s n with
  | zero => rfl
  | succ fuel ih =>
    unfold State.releaseStores
    split
    · rfl
    · dsimp only
      split
      · split
        · rfl
        · simp [ih]
      · rfl

@[simp] theorem State.giveParkStores_memories (s : State) (id : Nat) (l : Loan) :
    (s.giveParkStores id l).memories = s.memories := by simp [State.giveParkStores]

@[simp] theorem State.answerScans_memories (s : State) (ws : List (Nat × Nat × Option Flit)) (v : W32) :
    (s.answerScans ws v).memories = s.memories := by
  unfold State.answerScans
  refine foldl_memories (fun u x => ?_) _ _
  (repeat' split) <;> simp

@[simp] theorem State.goDecanters_memories (s : State) (id : Nat) (l : Loan) :
    (s.goDecanters id l).memories = s.memories := by simp [State.goDecanters]

@[simp] theorem State.beginExit_memories (s : State) (id : Nat) (l : Loan) : (s.beginExit id l).memories = s.memories := by
  simp [State.beginExit]

@[simp] theorem State.beginSuccessor_memories (s : State) (id : Nat) (l : Loan) (addr : Nat) :
    (s.beginSuccessor id l addr).memories = s.memories := by simp [State.beginSuccessor]

@[simp] theorem State.releaseLoan_memories (s : State) (id : Nat) (l : Loan) (cmpd sat : Bool) :
    (s.releaseLoan id l cmpd sat).memories = s.memories := by simp [State.releaseLoan]

/-! ### Traps and parked frames -/

@[simp] theorem State.parkOwn_memories (s : State) (f : FireCtx) (g : Got) (h : Hdr) (b : FY) {stop : List Kept → State → State}
    (same : ∀ ks u, (stop ks u).memories = u.memories) : (s.parkOwn f g h b stop).memories = s.memories := by
  simp [State.parkOwn, same]

@[simp] theorem State.flush_memories (s : State) (r : Rect) (all : Bool) : (s.flush r all).memories = s.memories := by simp [State.flush]

@[simp] theorem State.bornOps_memories (s : State) (id ctx hkey : Nat) (l : Loan) (ops : List (Nat × QEntry)) :
    (s.bornOps id ctx hkey l ops).memories = s.memories := by simp [State.bornOps]

@[simp] theorem State.goneOps_memories (s : State) (id ctx hkey : Nat) (l : Loan) (ops : List (Nat × QEntry)) :
    (s.goneOps id ctx hkey l ops).memories = s.memories := by simp [State.goneOps]

@[simp] theorem State.withdrawRequest_memories (s : State) (n : Nat) (a : Access) :
    (s.withdrawRequest n a).memories = s.memories := by simp [State.withdrawRequest]

@[simp] theorem State.discardParked_memories (s : State) (id : Nat) (l : Loan) (p : Parked) : (s.discardParked id l p).memories = s.memories := by
  unfold State.discardParked
  refine (foldl_memories (fun u k => ?_) _ _).trans (by simp)
  split
  · simp
  · simp
  · simp
  · simp
  · simp
  · split <;> simp

@[simp] theorem State.goOn_memories (s : State) (id act : Nat) (l : Loan) (k : Kept) : (s.goOn id act l k).memories = s.memories := by
  cases k with
  | trigger | refire | emit => simp [State.goOn]
  | reissue | skip | launch =>
    unfold State.goOn
    dsimp only
    split <;> simp

@[simp] theorem State.reenter_memories (s : State) (id ctx d hkey : Nat) (l : Loan) (q : QEntry) :
    (s.reenter id ctx d hkey l q).memories = s.memories := by
  unfold State.reenter
  dsimp only
  (repeat' split) <;> simp

@[simp] theorem State.rerun_memories (s : State) (id f ctx : Nat) (x : List Nat × Nat) : (s.rerun id f ctx x).memories = s.memories := by
  unfold State.rerun
  split <;> simp

@[simp] theorem State.unpark_memories (s : State) (id f : Nat) : (s.unpark id f).memories = s.memories := by simp [State.unpark]

@[simp] theorem State.runFrame_memories (s : State) (id f : Nat) (l : Loan) (fr : Frame) (p : Parked) :
    (s.runFrame id f l fr p).memories = s.memories := by simp [State.runFrame]

/-! ### Calls -/

@[simp] theorem State.cancelCall_memories (s : State) (id : Nat) (l : Loan) (c : Calling) :
    (s.cancelCall id l c).memories = s.memories := by simp [State.cancelCall]

@[simp] theorem State.beginCall_memories (s : State) (f : FireCtx) (g : Got) (h : Hdr) (b : FY) : (s.beginCall f g h b).memories = s.memories := by
  unfold State.beginCall
  (repeat' split) <;> simp

@[simp] theorem State.failCall_memories (s : State) (id : Nat) (l : Loan) (c : Calling) :
    (s.failCall id l c).memories = s.memories := by simp [State.failCall]

@[simp] theorem State.refuseImage_memories (s : State) (id : Nat) (by' : Image) (exit : Nat) (bad : CfgBad) :
    (s.refuseImage id by' exit bad).memories = s.memories := (rfl)

theorem State.spillPlane_memories {s t : State} {id key i : Nat} (spilled : s.spillPlane id key i = some t) : t.memories = s.memories := by
  unfold State.spillPlane at spilled
  split at spilled
  · cases spilled
  · split at spilled
    · cases spilled
    · obtain rfl := Option.some.inj spilled
      simp

@[simp] theorem State.stopCall_memories (s : State) (id : Nat) (l : Loan) (c : Calling) :
    (s.stopCall id l c).memories = s.memories := by simp [State.stopCall]

@[simp] theorem State.sendMarkers_memories (s : State) (id : Nat) (l : Loan) (c : Calling) :
    (s.sendMarkers id l c).memories = s.memories := by simp [State.sendMarkers]

@[simp] theorem State.claimCall_memories (s : State) (id : Nat) (l : Loan) (c : Calling) (k : Nat) (self : Bool) :
    (s.claimCall id l c k self).memories = s.memories := by
  unfold State.claimCall
  split <;> simp

theorem State.spillFor_memories {s t : State} {id n : Nat} {l : Loan} {keys : List Nat} (spilled : s.spillFor id l keys = some (t, n)) :
    t.memories = s.memories := by
  obtain ⟨u, planes, same⟩ := Option.map_eq_some_iff.mp spilled
  obtain ⟨rfl, -⟩ := Prod.mk.inj same
  exact foldl_bind_memories (fun _ _ _ h => State.spillPlane_memories h) planes

@[simp] theorem State.secureCall_memories (s : State) (id : Nat) (l : Loan) (c : Calling) : (s.secureCall id l c).memories = s.memories := by
  unfold State.secureCall
  dsimp only
  split
  · simp
  · split
    · simp
    · split
      · simp
      · split
        next => simp
        next spilled => simp [State.spillFor_memories spilled]

@[simp] theorem State.calleeFetched_memories (s : State) (id : Nat) (l : Loan) (c : Calling) : (s.calleeFetched id l c).memories = s.memories := by
  unfold State.calleeFetched
  (repeat' split) <;> simp

@[simp] theorem State.calleeFetch_memories (s : State) (id : Nat) (l : Loan) (c : Calling) : (s.calleeFetch id l c).memories = s.memories := by
  unfold State.calleeFetch
  split <;> simp

@[simp] theorem State.rewriteContext_memories (s : State) (id : Nat) (l : Loan) (c : Nat) (img : Image) (share hit : Bool) :
    (s.rewriteContext id l c img share hit).memories = s.memories := by simp [State.rewriteContext]

@[simp] theorem State.writeBackEl_memories (s : State) (id ctx act key b : Nat) (l : Loan) :
    (s.writeBackEl id ctx act key b l).memories = s.memories := by
  unfold State.writeBackEl
  refine foldl_memories (fun u x => ?_) _ _
  (repeat' split) <;> simp

@[simp] theorem State.writeBackReady_memories (s : State) (id ctx act : Nat) (l : Loan) (bays : List Nat) :
    (s.writeBackReady id ctx act l bays).memories = s.memories := by simp [State.writeBackReady]

@[simp] theorem State.returnLatches_memories (s : State) (id ctx : Nat) (l : Loan) (bays : List Nat) :
    (s.returnLatches id ctx l bays).memories = s.memories := by simp [State.returnLatches]

@[simp] theorem State.freeze_memories (s : State) (id : Nat) (l : Loan) (c : Calling) :
    (s.freeze id l c).memories = s.memories := by simp [State.freeze]

@[simp] theorem State.pollFreeze_memories (s : State) (id : Nat) (l : Loan) (c : Calling) :
    (s.pollFreeze id l c).memories = s.memories := by simp [State.pollFreeze]

@[simp] theorem State.enterCallee_memories (s : State) (id : Nat) (l : Loan) (c : Calling) : (s.enterCallee id l c).memories = s.memories := by
  unfold State.enterCallee
  split <;> simp

@[simp] theorem State.stripActivation_memories (s : State) (id act : Nat) (l : Loan) (mine : Tag → Bool) :
    (s.stripActivation id act l mine).memories = s.memories := by simp [State.stripActivation]

@[simp] theorem State.stripBays_memories (s : State) (id : Nat) (l : Loan) (mine : Tag → Bool) :
    (s.stripBays id l mine).memories = s.memories := by simp [State.stripBays]

@[simp] theorem State.endActivation_memories (s : State) (id act b : Nat) (l : Loan) (a : Activation) :
    (s.endActivation id act b l a).memories = s.memories := by
  unfold State.endActivation
  dsimp only
  simp only [State.wakeWaves_memories]
  refine (foldl_memories (fun u f => by simp) _ _).trans ?_
  simp only [State.updLoan_memories, State.stripBays_memories, State.stripActivation_memories]
  refine (foldl_memories (fun u p => by simp) _ _).trans ((foldl_memories (fun u x => by simp) _ _).trans ?_)
  refine (State.updHub_memories _ _).trans (foldl_memories (fun u f => ?_) _ _)
  split <;> simp

@[simp] theorem State.leaveContext_memories (s : State) (id : Nat) (l : Loan) (act c : Nat) : (s.leaveContext id l act c).memories = s.memories := by
  simp [State.leaveContext]

@[simp] theorem State.beginReturn_memories (s : State) (id act b : Nat) (results : List (W32 × Bool)) (prior : List Nat) :
    (s.beginReturn id act b results prior).memories = s.memories := by
  unfold State.beginReturn
  split
  · rfl
  · split
    · rfl
    · split
      · rfl
      · simp

@[simp] theorem returnFrom_memories (b : FY) (f : FireCtx) (g : Got) (s : State) : (returnFrom b f g s).memories = s.memories := by
  unfold returnFrom
  split <;> simp

theorem State.popBay_memories {s t : State} {id act ctx b : Nat} (popped : s.popBay id act ctx b = some t) : t.memories = s.memories := by
  refine foldl_bind_memories (fun u p v h => ?_) popped
  dsimp only at h
  split at h
  · cases h; rfl
  · split at h
    · cases h; simp
    · split at h
      · cases h
      · cases h; simp

@[simp] theorem State.finishReturn_memories (s : State) (id : Nat) (l : Loan) (h : Thaw) (r : CallRec) :
    (s.finishReturn id l h r).memories = s.memories := by simp [State.finishReturn]

@[simp] theorem State.enterLanded_memories (s : State) (id act : Nat) : (s.enterLanded id act).memories = s.memories := by
  unfold State.enterLanded
  dsimp only
  (repeat' split) <;> simp

@[simp] theorem State.resend_memories (s : State) (id : Nat) (l : Loan) (h : Thaw) (r : CallRec) (a : Activation) :
    (s.resend id l h r a).memories = s.memories := by simp [State.resend]

@[simp] theorem State.endDeeper_memories (s : State) (id act b : Nat) (l : Loan) : (s.endDeeper id act b l).memories = s.memories := by
  unfold State.endDeeper
  dsimp only
  refine (foldl_memories (fun u n => ?_) _ _).trans ?_
  · split
    · rfl
    · split
      · rfl
      · split
        · rfl
        · simp
  · split <;> simp

@[simp] theorem State.abandonFrame_memories (s : State) (id f : Nat) (l : Loan) (fr : Frame) (p : Parked) :
    (s.abandonFrame id f l fr p).memories = s.memories := by
  unfold State.abandonFrame
  (repeat' split) <;> simp

theorem State.resumeFrame_memories {s t : State} {id f : Nat} {ab : Bool} (resumed : s.resumeFrame id f ab = some t) : t.memories = s.memories := by
  unfold State.resumeFrame at resumed
  split at resumed
  · cases resumed
  · obtain ⟨p, -, rfl⟩ := Option.map_eq_some_iff.mp resumed
    split <;> simp

/-! ### Switches and restores -/

@[simp] theorem State.saveFault_memories (s : State) (id : Nat) (l : Loan) : (s.saveFault id l).memories = s.memories := by
  simp [State.saveFault]

@[simp] theorem State.switchOut_memories (s : State) (id : Nat) (l : Loan) : (s.switchOut id l).memories = s.memories := by simp [State.switchOut]

@[simp] theorem State.mapCtx_memories (s : State) (g at_ : Nat → Nat) (id : Nat) :
    (s.mapCtx g at_ id).memories = s.memories := by simp [State.mapCtx]

theorem State.restorePlanes_memories {s : State} {id key b : Nat} {x : ElSnap} {bs : List Byte} :
    ∀ r, s.restorePlanes id key b x bs = some r → r.2.memories = s.memories := by
  unfold State.restorePlanes
  dsimp only
  refine List.foldlRecOn (motive := fun o => ∀ r : AMap Nat × State, o = some r → r.2.memories = s.memories) _ _ ?_ fun o kept n _ r put => ?_
  · refine List.foldlRecOn (motive := fun o => ∀ r : AMap Nat × State, o = some r → r.2.memories = s.memories) _ _ ?_ fun o kept n _ r put => ?_
    · rintro r ⟨⟩
      rfl
    · obtain ⟨q, rfl, step⟩ := Option.bind_eq_some_iff.mp put
      cases free : (q.2.el key).freePlane with
      | none => rw [free] at step; cases step
      | some m =>
        rw [free] at step
        cases step
        exact (State.updEl_memories _ _ _).trans (kept q rfl)
  · obtain ⟨q, rfl, step⟩ := Option.bind_eq_some_iff.mp put
    by_cases annexed : 8 ≤ n
    · rw [if_pos annexed] at step
      cases step
      exact (State.updEl_memories _ _ _).trans (kept q rfl)
    · rw [if_neg annexed] at step
      cases free : (q.2.el key).freePlane with
      | some m =>
        rw [free] at step
        cases step
        exact (State.updEl_memories _ _ _).trans (kept q rfl)
      | none =>
        rw [free] at step
        cases there : AMap.find q.2.loans id with
        | none => simp only [there] at step; cases step
        | some l =>
          simp only [there] at step
          obtain ⟨p, -, rfl⟩ := Option.map_eq_some_iff.mp step
          exact (State.updEl_memories _ _ _).trans (kept q rfl)

theorem State.restoreEl_memories {s t : State} {id i : Nat} {l : Loan} {m : AMap Nat} {x : ElSnap} (restored : s.restoreEl id l m i x = some t) :
    t.memories = s.memories := by
  obtain ⟨r, planes, rfl⟩ := Option.map_eq_some_iff.mp restored
  exact (State.updEl_memories _ _ _).trans (State.restorePlanes_memories r planes)

@[simp] theorem State.restoreBay_memories (s : State) (l : Loan) (m : AMap Nat) (at_ : Nat → Nat) (b : Nat) (x : BaySnap) :
    (s.restoreBay l m at_ b x).memories = s.memories := (rfl)

theorem State.beginRestore_memories {s t : State} {id : Nat} {old : Loan} {x : Snapshot} (begun : s.beginRestore id old x = some t) :
    t.memories = s.memories := by
  unfold State.beginRestore at begun
  dsimp only at begun
  split at begun
  · exact absurd begun nofun
  · split at begun
    · exact absurd begun nofun
    · split at begun
      · rw [← Option.some.inj begun]
        exact (State.updLoan_memories _ _ _).trans (State.updHub_memories _ _)
      · obtain ⟨u, elements, same⟩ := Option.map_eq_some_iff.mp begun
        have restored := foldl_bind_memories (fun _ _ _ h => State.restoreEl_memories h) elements
        rw [← same]
        simp [restored]

@[simp] theorem State.registerWait_memories (s : State) (n : Nat) (w : TlWait) :
    (s.registerWait n w).memories = s.memories := by simp [State.registerWait]

@[simp] theorem State.endRestore_memories (s : State) (id : Nat) (l : Loan) : (s.endRestore id l).memories = s.memories := by simp [State.endRestore]

@[simp] theorem State.redeliver_memories (s : State) (id : Nat) (l : Loan) : (s.redeliver id l).memories = s.memories := by
  unfold State.redeliver
  split <;> simp

@[simp] theorem askSwitch_memories (h : Hdr) (b : FY) (f : FireCtx) (g : Got) (s : State) : (askSwitch h b f g s).memories = s.memories := by
  unfold askSwitch
  dsimp only
  split
  · rfl
  · split <;> simp

@[simp] theorem askRestore_memories (h : Hdr) (b : FY) (f : FireCtx) (g : Got) (s : State) : (askRestore h b f g s).memories = s.memories := by
  unfold askRestore
  dsimp only
  split
  · rfl
  · split <;> simp

/-! ### Placement and images -/

@[simp] theorem State.acceptWaiting_memories (s : State) : s.acceptWaiting.memories = s.memories := by
  refine foldl_memories (fun u w => ?_) _ _
  split
  next accepted => exact (State.updHub_memories _ _).trans (State.accept_memories accepted)
  next => rfl

theorem State.tryPlace_memories {s t : State} {x : Released} (placed : s.tryPlace x = some t) : t.memories = s.memories := by
  unfold State.tryPlace at placed
  split at placed
  · cases placed
  · split at placed
    · split at placed
      · split at placed
        · cases placed; simp
        · cases placed
      · cases placed
    · split at placed
      · cases placed
      · dsimp only at placed
        split at placed
        · cases placed
        · split at placed <;> rw [← Option.some.inj placed] <;> simp

@[simp] theorem State.goHome_memories (s : State) (id : Nat) : (s.goHome id).memories = s.memories := by simp [State.goHome]

@[simp] theorem State.rejectLoan_memories (s : State) (id : Nat) (detail : W64) : (s.rejectLoan id detail).memories = s.memories :=
  State.updHub_memories _ _

@[simp] theorem State.firstFetched_memories (s : State) (id : Nat) (l : Loan) : (s.firstFetched id l).memories = s.memories := by
  unfold State.firstFetched
  extract_lets read
  clear_value read
  cases read with
  | error e => simp
  | ok img =>
    dsimp only
    split
    · simp
    · split <;> simp

@[simp] theorem State.successorFetched_memories (s : State) (id : Nat) (l : Loan) (x : Nat) (e : ExitEntry) :
    (s.successorFetched id l x e).memories = s.memories := by
  unfold State.successorFetched
  dsimp only
  (repeat' split) <;> simp

@[simp] theorem State.lookup_memories (s : State) (id : Nat) (l : Loan) : (s.lookup id l).memories = s.memories := by
  unfold State.lookup
  dsimp only
  (repeat' split) <;> simp

/-! ### The boot and the tiers of memory -/

@[simp] theorem State.drawBools_memories (s : State) (n : Nat) : (s.drawBools n).2.memories = s.memories := (rfl)

@[simp] theorem State.verifyImage_memories (s : State) : (s.verifyImage).2.memories = s.memories := (rfl)

@[simp] theorem State.bringUpDie_memories (s : State) (d : Nat) : (s.bringUpDie d).2.memories = s.memories := by
  unfold State.bringUpDie
  dsimp only
  (repeat' split) <;> simp

@[simp] theorem State.bringUp_memories (s : State) : s.bringUp.memories = s.memories := by
  have tested : ((List.range 4).foldl (fun (r : List Bool × State) d => let (x, s) := r.2.bringUpDie d; (r.1 ++ [x], s)) ([], s)).2.memories =
      s.memories := by
    refine List.foldlRecOn (motive := fun (r : List Bool × State) => r.2.memories = s.memories) _ _ rfl fun r same d _ => ?_
    exact (State.bringUpDie_memories r.2 d).trans same
  unfold State.bringUp
  generalize (List.range 4).foldl _ _ = r at tested ⊢
  simp [tested]

@[simp] theorem State.recoveryGo_memories (s : State) (value : W64) : (s.recoveryGo value).memories = s.memories := by
  simp [State.recoveryGo, Boot.reject]

@[simp] theorem State.beginMove_memories (s : State) (die c : Nat) : (s.beginMove die c).memories = s.memories := (rfl)

/-! ### The Colophon, the registers of the hub and the kernel -/

@[simp] theorem State.withCol_memories (s : State) (c : Colophon) : (s.withCol c).memories = s.memories := (rfl)

@[simp] theorem State.writeQueue_memories (s : State) (n : Nat) (f : HostQueue → HostQueue) :
    (s.writeQueue n f).memories = s.memories := by simp [State.writeQueue]

@[simp] theorem State.answerAgent_memories (s : State) (agent : Nat) (v : W64) : (s.answerAgent agent v).memories = s.memories := (rfl)

@[simp] theorem State.countAgent_memories (s : State) (addr n : Nat) : (s.countAgent addr n).memories = s.memories := by simp [State.countAgent]

@[simp] theorem State.agentProtect_memories (s : State) (addr : Nat) : (s.agentProtect addr).memories = s.memories := (rfl)

@[simp] theorem State.writeHub_memories (s : State) (f : Hub → Hub) : (s.writeHub f).memories = s.memories := by simp [State.writeHub]

@[simp] theorem State.releaseHandler_memories (s : State) (r : FaultRec) : (s.releaseHandler r).memories = s.memories := by
  unfold State.releaseHandler
  (repeat' split) <;> simp

@[simp] theorem State.barRead_memories (s : State) (off size : Nat) : (s.barRead off size).memories = s.memories := by simp [State.barRead]

@[simp] theorem State.arriveCell_memories (s : State) (src loan : Nat) (c : Cell) : (s.arriveCell src loan c).memories = s.memories := (rfl)

@[simp] theorem State.writePrio_memories (s : State) (id : Nat) (prio : BitVec 2) (lock : Bool) :
    (s.writePrio id prio lock).memories = s.memories := by simp [State.writePrio]

/-! ### The commands of glaed -/

theorem State.onLoan_memories {s : State} {id : Nat} {f : Loan → State} (same : ∀ l, (f l).memories = s.memories) :
    (s.onLoan id f).memories = s.memories := by
  unfold State.onLoan
  split
  · exact same _
  · simp

@[simp] theorem State.startSession_memories (s : State) (src : GlaedSource) : (s.startSession src).memories = s.memories := (rfl)

@[simp] theorem State.stopBefore_memories (s : State) (key ctx hnd : Nat) : (s.stopBefore key ctx hnd).memories = s.memories := (rfl)

@[simp] theorem State.glaedCycle_memories (s : State) : (s.glaedCycle).memories = s.memories := by simp [State.glaedCycle]

theorem State.onHandler_memories {s : State} {id index hnd : Nat} {f : Loan → Nat → State} (same : ∀ l c, (f l c).memories = s.memories) :
    (s.onHandler id index hnd f).memories = s.memories := by
  unfold State.onHandler
  refine State.onLoan_memories fun l => ?_
  split
  · exact same _ _
  · simp

/-! ### The choice and the end of a cycle -/

@[simp] theorem prepareFiring_memories (s : State) (x : Choice) : (prepareFiring s x).memories = s.memories := by simp [prepareFiring]

@[simp] theorem State.startWakes_memories (s : State) : (s.startWakes).memories = s.memories := by simp [State.startWakes]

@[simp] theorem State.lookups_memories (s : State) : s.lookups.memories = s.memories := by
  simp [State.lookups]

@[simp] theorem tick_memories (s : State) : (tick s).memories = s.memories := by
  simp [tick]

end Sys2Proof.Machine
end

section
/-! PROOFS. O55: the events that write no memory. -/
namespace Sys2Proof.Machine

/-! ### Canonical memories -/

/-- The memories of a state are in canonical form. -/
structure Canonical (s : State) : Prop where
  mem : Memory.wf s.mem = true
  tmem : Memory.wf s.tmem = true
  staging : Memory.wf s.boot.staging = true

theorem Canonical.same {s t : State} (h : Canonical s) (k : t.memories = s.memories) : Canonical t := by
  obtain ⟨mem, rest⟩ := Prod.mk.inj k
  obtain ⟨tmem, staging⟩ := Prod.mk.inj rest
  exact ⟨mem ▸ h.mem, tmem ▸ h.tmem, staging ▸ h.staging⟩

theorem foldl_canonical {β : Type} {f : State → β → State} (h : ∀ s b, Canonical s → Canonical (f s b)) (bs : List β) {s : State}
    (start : Canonical s) : Canonical (bs.foldl f s) := List.foldlRecOn (motive := Canonical) _ _ start fun u canonical b _ => h u b canonical

/-- Where an outcome is a next state, that state has canonical memories if the one before it had. -/
def KeepsCanonical (s : State) (o : Host.Outcome State Fault Refusal) : Prop := Canonical s → ∀ t, o = .next t → Canonical t

theorem KeepsCanonical.next {s t : State} (h : Canonical s → Canonical t) : KeepsCanonical s (.next t) := fun start u next => by
  cases next
  exact h start

theorem KeepsCanonical.same {s t : State} (h : t.memories = s.memories) : KeepsCanonical s (.next t) := .next fun start => start.same h

theorem KeepsCanonical.fault {s : State} (f : Fault) : KeepsCanonical s (.fault f) := fun _ _ next => by cases next

theorem KeepsCanonical.ite {s : State} {a b : Host.Outcome State Fault Refusal} {c : Prop} [Decidable c] (yes : KeepsCanonical s a)
    (no : KeepsCanonical s b) : KeepsCanonical s (if c then a else b) := by
  split <;> assumption

/-! ### The fabric -/

theorem execFiringResultWrite_keeps (el id : Nat) (s : State) : KeepsCanonical s (execFiringResultWrite el id s) := by
  unfold execFiringResultWrite
  dsimp only
  (repeat' split) <;> exact .same (by simp)

theorem execTokenHop_keeps (el : Nat) (src : HopSrc) (s : State) : KeepsCanonical s (execTokenHop el src s) := by
  unfold execTokenHop
  dsimp only
  (repeat' split) <;> exact .same (by simp)

theorem execTokenArrive_keeps (el : Nat) (side : Side) (s : State) : KeepsCanonical s (execTokenArrive el side s) := by
  unfold execTokenArrive
  dsimp only
  (repeat' split) <;> exact .same (by simp)

theorem execWeightRecompute_keeps (el : Nat) (s : State) : KeepsCanonical s (execWeightRecompute el s) :=
  .same (by simp)

theorem execMatchToken_keeps (el : Nat) (s : State) : KeepsCanonical s (execMatchToken el s) := by
  unfold execMatchToken
  dsimp only
  (repeat' split) <;> exact .same (by simp)

theorem execMatchDone_keeps (el : Nat) (s : State) : KeepsCanonical s (execMatchDone el s) := by
  unfold execMatchDone
  dsimp only
  refine .same ((foldl_memories (fun u x => ?_) _ _).trans (State.updEl_memories _ _ _))
  (repeat' split) <;> simp

theorem execFrameSlotWrite_keeps (el : Nat) (s : State) : KeepsCanonical s (execFrameSlotWrite el s) := by
  unfold execFrameSlotWrite
  dsimp only
  (repeat' split) <;> exact .same (by simp)

theorem execFrameSpill_keeps (loan : Nat) (s : State) : KeepsCanonical s (execFrameSpill loan s) := by
  unfold execFrameSpill
  dsimp only
  (repeat' split) <;> exact .same (by simp)

theorem execFrameRefill_keeps (loan frame : Nat) (s : State) : KeepsCanonical s (execFrameRefill loan frame s) := by
  unfold execFrameRefill
  dsimp only
  (repeat' split) <;> exact .same (by simp)

/-! ### Sync queues, accesses and cells -/

theorem execSqClaimArrive_keeps (loan index hnd : Nat) (s : State) : KeepsCanonical s (execSqClaimArrive loan index hnd s) := by
  unfold execSqClaimArrive
  dsimp only
  (repeat' split) <;> exact .same (by simp)

theorem execSqGrantArrive_keeps (loan index hnd : Nat) (s : State) : KeepsCanonical s (execSqGrantArrive loan index hnd s) := by
  unfold execSqGrantArrive
  dsimp only
  (repeat' split) <;> exact .same (by simp)

theorem execSqPostArrive_keeps (loan : Nat) (post : SqPost) (s : State) : KeepsCanonical s (execSqPostArrive loan post s) := by
  unfold execSqPostArrive
  dsimp only
  (repeat' split) <;> exact .same (by simp)

theorem execRetireAck_keeps (loan : Nat) (deltas : List AckDelta) (s : State) : KeepsCanonical s (execRetireAck loan deltas s) :=
  .same (by simp)

theorem execLayoutRecordApply_keeps (bay tile ctx : Nat) (isB : Bool) (s : State) : KeepsCanonical s (execLayoutRecordApply bay tile ctx isB s) :=
  .same (by simp)

theorem execTlbWalkDone_keeps (id : Nat) (s : State) : KeepsCanonical s (execTlbWalkDone id s) := by
  unfold execTlbWalkDone
  split <;> exact .same (by simp)

theorem execWaveAccessArrive_keeps (id : Nat) (s : State) : KeepsCanonical s (execWaveAccessArrive id s) := by
  unfold execWaveAccessArrive
  dsimp only
  (repeat' split) <;> exact .same (by simp)

theorem execAccessPerform_keeps (id : Nat) (s : State) : KeepsCanonical s (execAccessPerform id s) := by
  unfold execAccessPerform
  split
  · exact .same rfl
  split
  · exact .same rfl
  split
  · exact .same rfl
  refine .ite (.same (by simp)) <| .ite (.same (by simp)) <| .ite (.same rfl) <| .ite (.same rfl) <| .ite (.same (by simp)) <|
    .ite (.same (by simp)) <| .ite (.same (by simp)) ?_
  split
  · exact .same (by simp)
  · (repeat' split) <;> exact .same (by simp)

theorem execCellEnqueue_keeps (id : Nat) (s : State) : KeepsCanonical s (execCellEnqueue id s) := by
  unfold execCellEnqueue
  dsimp only
  (repeat' split) <;> exact .same (by simp)

theorem execExchangeSlot_keeps (die : Nat) (s : State) : KeepsCanonical s (execExchangeSlot die s) := by
  unfold execExchangeSlot
  dsimp only
  exact .same (by simp)

theorem execLagDrop_keeps (die port id : Nat) (s : State) : KeepsCanonical s (execLagDrop die port id s) := by
  unfold execLagDrop
  dsimp only
  (repeat' split) <;> exact .same (by simp)

/-! ### Decanters and arrays -/

theorem execDecantBlockDone_keeps (bay decanter : Nat) (s : State) : KeepsCanonical s (execDecantBlockDone bay decanter s) := by
  unfold execDecantBlockDone
  dsimp only
  (repeat' split) <;> exact .same (by simp)

theorem execDecantTrigger_keeps (el : Nat) (s : State) : KeepsCanonical s (execDecantTrigger el s) := by
  unfold execDecantTrigger
  dsimp only
  (repeat' split) <;> exact .same (by simp)

theorem execDecantArmApply_keeps (id : Nat) (s : State) : KeepsCanonical s (execDecantArmApply id s) := by
  unfold execDecantArmApply
  dsimp only
  (repeat' split) <;> exact .same (by simp)

theorem execRampTurnEnd_keeps (loan : Nat) (s : State) : KeepsCanonical s (execRampTurnEnd loan s) := by
  unfold execRampTurnEnd
  dsimp only
  (repeat' split) <;> exact .same (by simp)

theorem execRunEnd_keeps (el ctx : Nat) (s : State) : KeepsCanonical s (execRunEnd el ctx s) := by
  unfold execRunEnd
  dsimp only
  (repeat' split) <;> exact .same (by simp)

theorem execFeedBeat_keeps (loan index : Nat) (isB : Bool) (s : State) : KeepsCanonical s (execFeedBeat loan index isB s) := by
  unfold execFeedBeat
  dsimp only
  (repeat' split) <;> exact .same (by simp)

theorem execMatrixStep_keeps (el ctx : Nat) (s : State) : KeepsCanonical s (execMatrixStep el ctx s) := by
  unfold execMatrixStep
  dsimp only
  (repeat' split) <;> exact .same (by simp)

/-! ### Timelines, launches, watches and barriers -/

theorem execTlwaitMet_keeps (id : Nat) (s : State) : KeepsCanonical s (execTlwaitMet id s) := by
  unfold execTlwaitMet
  dsimp only
  (repeat' split) <;> exact .same (by simp)

theorem getD_memories {o : Option State} {s : State} (same : ∀ t, o = some t → t.memories = s.memories) : (o.getD s).memories = s.memories := by
  cases o with
  | none => rfl
  | some t => exact same t rfl

theorem State.accept_getD_memories (s : State) (slip : Slip) (rank : Nat) (reserved : Bool) :
    ((s.accept slip rank reserved).getD s).memories = s.memories := getD_memories fun _ accepted => State.accept_memories accepted

theorem execLaunchAccept_keeps (id : Nat) (s : State) : KeepsCanonical s (execLaunchAccept id s) := by
  unfold execLaunchAccept
  dsimp only
  (repeat' split) <;> exact .same (by simp [State.accept_getD_memories])

theorem execWatchSample_keeps (watch : Nat) (s : State) : KeepsCanonical s (execWatchSample watch s) := by
  unfold execWatchSample
  dsimp only
  (repeat' split) <;> exact .same (by simp)

theorem execBarrierArrive_keeps (id : Nat) (s : State) : KeepsCanonical s (execBarrierArrive id s) := by
  unfold execBarrierArrive
  dsimp only
  (repeat' split) <;> exact .same (by simp)

theorem execStocktakeSnapshot_keeps (s : State) : KeepsCanonical s (execStocktakeSnapshot s) := by
  unfold execStocktakeSnapshot
  dsimp only
  (repeat' split) <;> exact .same (by simp)

theorem execWatchdogExpire_keeps (loan : Nat) (s : State) : KeepsCanonical s (execWatchdogExpire loan s) := by
  unfold execWatchdogExpire
  (repeat' split) <;> exact .same (by simp)

theorem execIterationRetire_keeps (loan : Nat) (s : State) : KeepsCanonical s (execIterationRetire loan s) := by
  unfold execIterationRetire
  dsimp only
  (repeat' split) <;> exact .same (by simp)

/-! ### Loans, calls and switches -/

theorem execExitTaken_keeps (loan : Nat) (s : State) : KeepsCanonical s (execExitTaken loan s) := by
  unfold execExitTaken
  dsimp only
  (repeat' split) <;> exact .same (by simp)

theorem execExitDrainDone_keeps (loan : Nat) (s : State) : KeepsCanonical s (execExitDrainDone loan s) := by
  unfold execExitDrainDone
  dsimp only
  (repeat' split) <;> exact .same (by simp)

theorem execPlaneSpillDone_keeps (loan : Nat) (s : State) : KeepsCanonical s (execPlaneSpillDone loan s) := by
  unfold execPlaneSpillDone
  (repeat' split) <;> exact .same (by simp)

theorem execFreezeMarkerArrive_keeps (loan bay : Nat) (s : State) : KeepsCanonical s (execFreezeMarkerArrive loan bay s) := by
  unfold execFreezeMarkerArrive
  dsimp only
  (repeat' split) <;> exact .same (by simp)

theorem execFreezePoint_keeps (loan : Nat) (s : State) : KeepsCanonical s (execFreezePoint loan s) := by
  unfold execFreezePoint
  (repeat' split) <;> exact .same (by simp)

theorem execThawPop_keeps (loan : Nat) (s : State) : KeepsCanonical s (execThawPop loan s) := by
  unfold execThawPop
  split
  · exact .same rfl
  split
  · exact .same rfl
  split
  · exact .same rfl
  split
  · exact .same rfl
  split
  · split <;> exact .same (by simp)
  extract_lets due popped go
  have same : popped.memories = s.memories := foldl_memories (fun u b => by
    split
    · split
      next v pops => exact (State.updLoan_memories _ _ _).trans (State.popBay_memories pops)
      · rfl
    · rfl) _ _
  have fed : go.memories = s.memories := (State.goFeeds_memories _ _).trans same
  clear_value go popped
  split
  · split
    · split <;> exact .same (by simp [fed])
    · exact .same (by simp [same])
  · exact .same same

theorem execKernelResume_keeps (loan frame : Nat) (abandon : Bool) (s : State) : KeepsCanonical s (execKernelResume loan frame abandon s) :=
  .same (getD_memories fun _ resumed => State.resumeFrame_memories resumed)

theorem execSwitchRequest_keeps (loan : Nat) (s : State) : KeepsCanonical s (execSwitchRequest loan s) := by
  unfold execSwitchRequest
  dsimp only
  (repeat' split) <;> exact .same (by simp)

theorem State.beginRestore_getD_memories (s : State) (id : Nat) (old : Loan) (x : Snapshot) :
    ((s.beginRestore id old x).getD s).memories = s.memories := getD_memories fun _ begun => State.beginRestore_memories begun

theorem execRestore_keeps (loan : Nat) (s : State) : KeepsCanonical s (execRestore loan s) := by
  unfold execRestore
  (repeat' split) <;> exact .same (by simp [State.beginRestore_getD_memories])

/-! ### Placement and images -/

theorem execSlipRead_keeps (s : State) : KeepsCanonical s (execSlipRead s) := by
  unfold execSlipRead
  dsimp only
  split
  · exact .same (by simp)
  split
  · exact .same (by simp)
  split
  · split <;> exact .same (by simp)
  split
  · exact .same (by simp)
  split
  · exact .same (by simp)
  split
  next t accepted => exact .same (by simp [State.accept_memories accepted])
  · exact .same (by simp)

theorem execPlacementDecision_keeps (s : State) : KeepsCanonical s (execPlacementDecision s) := by
  unfold execPlacementDecision
  dsimp only
  split
  · exact .same (by simp)
  · refine .same ((getD_memories fun t placed => ?_).trans (State.updHub_memories s _))
    obtain ⟨x, -, here⟩ := List.exists_of_findSome?_eq_some placed
    exact State.tryPlace_memories here

theorem execPlacementReservation_keeps (s : State) : KeepsCanonical s (execPlacementReservation s) := by
  refine .same (foldl_memories (fun u x => ?_) _ _)
  (repeat' split) <;> simp

theorem execImageFetchDone_keeps (loan : Nat) (s : State) : KeepsCanonical s (execImageFetchDone loan s) := by
  unfold execImageFetchDone
  (repeat' split) <;> exact .same (by simp)

theorem execPrefetchDone_keeps (id : Nat) (s : State) : KeepsCanonical s (execPrefetchDone id s) := by
  unfold execPrefetchDone
  dsimp only
  (repeat' split) <;> exact .same (by simp)

/-! ### The boot and the tiers of memory -/

theorem execWakeSequencerTick_keeps (die : Nat) (s : State) : KeepsCanonical s (execWakeSequencerTick die s) := by
  unfold execWakeSequencerTick
  dsimp only
  (repeat' split) <;> exact .same (by simp)

theorem execHostLinkTrained_keeps (s : State) : KeepsCanonical s (execHostLinkTrained s) := by
  unfold execHostLinkTrained
  split <;> exact .same (by simp)

theorem execRcdbGo_keeps (value : W64) (s : State) : KeepsCanonical s (execRcdbGo value s) :=
  .same (by simp)

theorem execRecoveryVerifyDone_keeps (s : State) : KeepsCanonical s (execRecoveryVerifyDone s) := by
  unfold execRecoveryVerifyDone
  split
  · exact .same (by simp)
  · refine .same ?_
    dsimp only
    split <;> simp [Boot.reject]

theorem execAttestationSign_keeps (s : State) : KeepsCanonical s (execAttestationSign s) := by
  unfold execAttestationSign
  dsimp only
  (repeat' split) <;> exact .same (by simp)

theorem execBayGate_keeps (bay : Nat) (s : State) : KeepsCanonical s (execBayGate bay s) := by
  unfold execBayGate
  split <;> exact .same (by simp)

theorem execEpochEnd_keeps (die : Nat) (s : State) : KeepsCanonical s (execEpochEnd die s) :=
  .same (by simp)

/-! ### The Colophon -/

theorem colTyped_keeps (rd : BitVec 4) (t : BitVec 2) (costF : Nat) (f : W32 × Flags) (i : W32) (n : W32) (s : State) :
    KeepsCanonical s (colTyped rd t costF f i n s) := by
  fun_cases colTyped <;> exact .same (by simp)

theorem execEfma_keeps (rd ra rb : BitVec 4) (s : State) : KeepsCanonical s (execEfma rd ra rb s) :=
  .same (by simp)

theorem execEcvt_keeps (rd ra : BitVec 4) (ty : BitVec 4) (rnd : BitVec 3) (sat : Bool) (s : State) :
    KeepsCanonical s (execEcvt rd ra ty rnd sat s) := by
  unfold execEcvt
  dsimp only
  (repeat' split) <;> exact .same (by simp)

theorem execEclmp_keeps (rd ra rb : BitVec 4) (s : State) : KeepsCanonical s (execEclmp rd ra rb s) :=
  .same (by simp)

theorem execEmov_keeps (rd ra : BitVec 4) (s : State) : KeepsCanonical s (execEmov rd ra s) :=
  .same (by simp)

theorem execEand_keeps (rd ra rb : BitVec 4) (s : State) : KeepsCanonical s (execEand rd ra rb s) :=
  .same (by simp)

theorem execEshf_keeps (rd ra : BitVec 4) (n : BitVec 5) (how : BitVec 2) (s : State) : KeepsCanonical s (execEshf rd ra n how s) :=
  .same (by simp)

theorem execEldi_keeps (rd ra : BitVec 4) (v : BitVec 14) (s : State) : KeepsCanonical s (execEldi rd ra v s) :=
  .same (by simp)

theorem execEldr_keeps (rd : BitVec 4) (m : Bool) (s : State) : KeepsCanonical s (execEldr rd m s) := by
  unfold execEldr
  dsimp only
  (repeat' split) <;> exact .same (by simp)

theorem execEstr_keeps (ra rb : BitVec 4) (k : BitVec 14) (s : State) : KeepsCanonical s (execEstr ra rb k s) := by
  unfold execEstr
  dsimp only
  (repeat' split) <;> exact .same (by simp)

theorem execEbnz_keeps (ra : BitVec 4) (off : BitVec 14) (s : State) : KeepsCanonical s (execEbnz ra off s) := by
  unfold execEbnz
  dsimp only
  (repeat' split) <;> exact .same (by simp)

theorem execEjmp_keeps (off : BitVec 14) (s : State) : KeepsCanonical s (execEjmp off s) :=
  .same (by simp)

theorem execEloop_keeps (rd : BitVec 4) (off : BitVec 14) (s : State) : KeepsCanonical s (execEloop rd off s) := by
  unfold execEloop
  dsimp only
  (repeat' split) <;> exact .same (by simp)

theorem execEwait_keeps (n : BitVec 7) (s : State) : KeepsCanonical s (execEwait n s) := by
  unfold execEwait
  dsimp only
  (repeat' split) <;> exact .same (by simp)

theorem execEhalt_keeps (code : BitVec 14) (s : State) : KeepsCanonical s (execEhalt code s) :=
  .same (by simp)

theorem execEsig_keeps (ra : BitVec 4) (el : BitVec 7) (port : BitVec 2) (hnd : BitVec 3) (s : State) :
    KeepsCanonical s (execEsig ra el port hnd s) := by
  unfold execEsig
  dsimp only
  (repeat' split) <;> exact .same (by simp)

theorem execColophonRun_keeps (bay : Nat) (value : W64) (s : State) : KeepsCanonical s (execColophonRun bay value s) :=
  .same (by simp)

theorem execColophonHalt_keeps (bay : Nat) (s : State) : KeepsCanonical s (execColophonHalt bay s) :=
  .same (by simp)

theorem execColophonCapture_keeps (bay : Nat) (value : W64) (s : State) : KeepsCanonical s (execColophonCapture bay value s) :=
  .same (by simp)

/-! ### The registers of the hub -/

theorem execHqTailWrite_keeps (queue : Nat) (value : W64) (s : State) : KeepsCanonical s (execHqTailWrite queue value s) :=
  .same (by simp)

theorem execHqRingSetup_keeps (queue : Nat) (size : Bool) (value : W64) (s : State) : KeepsCanonical s (execHqRingSetup queue size value s) :=
  .same (by simp)

theorem execHqEnable_keeps (queue : Nat) (s : State) : KeepsCanonical s (execHqEnable queue s) :=
  .same (by simp)

theorem execHqDisable_keeps (queue : Nat) (s : State) : KeepsCanonical s (execHqDisable queue s) :=
  .same (by simp)

theorem execFqRingSetup_keeps (size : Bool) (value : W64) (s : State) : KeepsCanonical s (execFqRingSetup size value s) :=
  .same (by simp)

theorem execFqheadWrite_keeps (value : W64) (s : State) : KeepsCanonical s (execFqheadWrite value s) :=
  .same (by simp)

theorem execMbiWrite_keeps (index : Nat) (value : W64) (s : State) : KeepsCanonical s (execMbiWrite index value s) :=
  .same (by simp)

theorem execMailboxRequest_keeps (s : State) : KeepsCanonical s (execMailboxRequest s) :=
  .same (by simp)

theorem execMailboxTake_keeps (s : State) : KeepsCanonical s (execMailboxTake s) :=
  .same (by simp)

theorem execMailboxAnswer_keeps (words : List (Nat × W64)) (s : State) : KeepsCanonical s (execMailboxAnswer words s) := by
  unfold execMailboxAnswer
  split <;> exact .same (by simp)

theorem execMailboxAnswerClear_keeps (s : State) : KeepsCanonical s (execMailboxAnswerClear s) :=
  .same (by simp)

/-! ### The kernel and the commands of glaed -/

theorem execKernelPrioWrite_keeps (loan : Nat) (prio : BitVec 2) (lock : Bool) (s : State) :
    KeepsCanonical s (execKernelPrioWrite loan prio lock s) :=
  .same (by simp)

theorem execGlaedBreak_keeps (b : BreakSpec) (s : State) : KeepsCanonical s (execGlaedBreak b s) :=
  .same (by simp)

theorem execGlaedWatch_keeps (cfg window offset : Nat) (s : State) : KeepsCanonical s (execGlaedWatch cfg window offset s) :=
  .same (by simp)

theorem execGlaedStep_keeps (cycles : Nat) (s : State) : KeepsCanonical s (execGlaedStep cycles s) :=
  .same (by simp)

theorem execGlaedContinue_keeps (s : State) : KeepsCanonical s (execGlaedContinue s) :=
  .same (by simp)

/-- What only shows leaves the memories as they are. -/
theorem exec_shows_keeps (s : State) (a b c : Nat) : ∀ i ∈ ([.glaedShowQueues a b c, .glaedShowFrame a b, .glaedShowAcc a b c,
    .glaedShowPlanes a b, .glaedShowVoq a b, .glaedShowWave a, .glaedShowSillage a b, .glaedShowRetire, .glaedFaults] :
    List Instr), KeepsCanonical s (exec i s) := by
  intro i shows'
  obtain ⟨t, runs, shown⟩ := exec_shows s a b c i shows'
  exact runs ▸ .same shown.same

theorem execGlaedStocktake_keeps (s : State) : KeepsCanonical s (execGlaedStocktake s) :=
  .same (by simp)

theorem execGlaedPreempt_keeps (loan : Nat) (prio : BitVec 2) (s : State) : KeepsCanonical s (execGlaedPreempt loan prio s) :=
  .same (State.onLoan_memories fun l => by simp)

theorem execGlaedSwitch_keeps (loan : Nat) (s : State) : KeepsCanonical s (execGlaedSwitch loan s) :=
  .same (State.onLoan_memories fun l => by (repeat' split) <;> simp)

end Sys2Proof.Machine
end

section
/-! PROOFS. O55: what writes the memories keeps them in canonical form. -/
namespace Sys2Proof.Machine

/-! ### Writes of device memory and of tile memory -/

theorem canonical_ite {s t : State} {c : Prop} [Decidable c] (yes : Canonical s) (no : Canonical t) : Canonical (if c then s else t) := by
  split <;> assumption

theorem Canonical.withMem {s : State} (h : Canonical s) {m : List Host.Cell} (wf : Memory.wf m = true) : Canonical { s with mem := m } :=
  ⟨wf, h.tmem, h.staging⟩

theorem Canonical.withTmem {s : State} (h : Canonical s) {m : List Host.Cell} (wf : Memory.wf m = true) : Canonical { s with tmem := m } :=
  ⟨h.mem, wf, h.staging⟩

theorem State.setMem_canonical {s : State} (h : Canonical s) (virt : Bool) {m : List Host.Cell} (wf : Memory.wf m = true) :
    Canonical (s.setMem virt m) := by
  unfold State.setMem
  split
  · exact h.withMem wf
  · exact h.withTmem wf

theorem State.wf_memOf {s : State} (h : Canonical s) (virt : Bool) : Memory.wf (s.memOf virt) = true := by
  unfold State.memOf
  split
  · exact h.mem
  · exact h.tmem

theorem State.writeVirt_canonical {s t : State} {space va : Nat} {bs : List Byte} (h : Canonical s) (written : s.writeVirt space va bs = some t) :
    Canonical t := by
  obtain ⟨⟨u, rest⟩, all, same⟩ := Option.map_eq_some_iff.mp written
  subst same
  refine List.foldlRecOn (motive := fun (r : Option (State × List Byte)) => ∀ p, r = some p → Canonical p.1) _ _ ?_ ?_ (u, rest) all
  · intro p here
    exact Option.some.inj here ▸ h
  · intro r before piece _ p here
    split at here
    · cases here
    next v rest =>
      split at here
      · split at here
        · rw [← Option.some.inj here]
          exact (before _ rfl).withMem (Memory.wf_writeBytes _ _ (before _ rfl).mem)
        · cases here
      · cases here

theorem State.zeroVirt_canonical {s : State} (h : Canonical s) (space va n : Nat) : Canonical (s.zeroVirt space va n) :=
  h.withMem (Memory.wf_filter _ h.mem)

/-! ### Pools and timelines -/

theorem State.poolLaunch_canonical {s : State} (h : Canonical s) (g e : Nat) : Canonical (s.poolLaunch g e) := by
  unfold State.poolLaunch
  split
  · exact h
  split
  · exact h
  next p _ _ a _ =>
    have written := h.withMem (Memory.wf_writeW32 a (BitVec.ofNat 32 p.bound) h.mem)
    dsimp only
    split <;> exact written.same (by simp)

theorem State.poolRound_canonical (g : Nat) (fuel : Nat) : ∀ {s : State}, Canonical s → Canonical (s.poolRound g fuel) := by
  induction fuel with
  | zero => exact fun h => h
  | succ fuel ih =>
    intro s h
    unfold State.poolRound
    split
    · exact h
    dsimp only
    split
    · split
      · exact ih (State.poolLaunch_canonical h _ _)
      · exact h
    · exact h

theorem State.poolDrain_canonical {s : State} (h : Canonical s) (g : Nat) : Canonical (s.poolDrain g) := by
  unfold State.poolDrain
  split
  · exact h
  next p _ =>
    split
    · exact h
    have launched := foldl_canonical (fun u e (hu : Canonical u) => State.poolLaunch_canonical hu g e) (s.poolHeld p) h
    dsimp only
    split
    · exact launched
    split <;> exact launched.same (by simp)

theorem State.poolsAfter_canonical {s : State} (h : Canonical s) (phys : Nat) : Canonical (s.poolsAfter phys) := by
  refine foldl_canonical (fun u p hu => ?_) _ h
  split
  · exact canonical_ite (State.poolRound_canonical _ _ hu) hu
  · exact hu

theorem State.setTimeline_canonical {s : State} (h : Canonical s) (t : Nat) (v : W64) : Canonical (s.setTimeline t v) :=
  foldl_canonical (fun _ _ hu => canonical_ite (State.poolDrain_canonical hu _) hu) _ (h.same (by simp))

theorem State.incTimeline_canonical {s : State} (h : Canonical s) (t i : Nat) (r : Report) : Canonical (s.incTimeline t i r) := by
  unfold State.incTimeline
  dsimp only
  split
  · exact State.setTimeline_canonical h _ _
  · exact State.setTimeline_canonical (h.same (State.updHub_memories _ _)) _ _

theorem State.writeOutside_canonical {s : State} (h : Canonical s) (t : Nat) (v : W64) (increment : Bool) :
    Canonical (s.writeOutside t v increment) := by
  unfold State.writeOutside
  split
  · exact h
  split
  · exact h.same (State.updHub_memories _ _)
  split
  · exact State.incTimeline_canonical h _ _ _
  · exact State.setTimeline_canonical h _ _

/-! ### Accesses and cells -/

theorem State.performAtomic_canonical {s : State} (h : Canonical s) (id : Nat) (a : Access) (l : Loan) (w : Window) (op : Nat) (ty : Ty) (b c : W32) :
    Canonical (s.performAtomic id a l w op ty b c) := by
  unfold State.performAtomic
  dsimp only
  split
  · exact h.same (by simp)
  next v r _ =>
    have written := State.setMem_canonical h w.virt (Memory.wf_writeWord a l w v (State.wf_memOf h w.virt))
    (repeat' split) <;> exact written.same (by simp)

/-- Where the units read are bad, the access stops in a fault; otherwise a store and an atomic write, and the rest read. -/
theorem State.performTile_canonical {s : State} (h : Canonical s) (id : Nat) : Canonical (s.performTile id) := by
  unfold State.performTile
  split
  · exact h
  split
  · exact h
  split
  · exact h
  next l _ _ w _ =>
    extract_lets +onlyGivenNames a u units fails d failed unc parity
    have start : Canonical u := h.same rfl
    have stops : Canonical parity := start.same (by simp [parity, unc, failed])
    clear_value parity unc failed d fails units u a
    split
    · refine canonical_ite stops ?_
      exact (start.withTmem (Memory.wf_writeAt a l w start.tmem)).same (by simp)
    · refine canonical_ite stops ?_
      exact (start.withTmem (Memory.wf_writeAt a l w start.tmem)).same (by simp)
    next op ty b c _ =>
      refine canonical_ite stops ?_
      have corrected := start.same (State.correct_memories u (a.bayOf l) w.tile units)
      exact (State.performAtomic_canonical corrected id a l w op.toNat ty b c).same (by simp)
    · refine canonical_ite stops ?_
      dsimp only
      split <;> exact start.same (by simp)

theorem State.performEstore_canonical {s : State} (h : Canonical s) (bay : Nat) : Canonical (s.performEstore bay) := by
  unfold State.performEstore
  split
  · exact h
  next x v rest _ =>
    dsimp only
    split
    · exact h.same (by simp)
    · exact (h.withTmem (Memory.wf_writeW32 (tileTr bay x) v h.tmem)).same (by simp)

theorem State.performVirtAtomic_canonical {s : State} (h : Canonical s) (id die port : Nat) : Canonical (s.performVirtAtomic id die port) := by
  unfold State.performVirtAtomic
  split
  · exact h
  split
  · exact h
  split
  · next a _ _ l _ _ _ w op ty b c _ _ =>
    have done := State.performAtomic_canonical h id a l w op.toNat ty b c
    dsimp only
    split
    · split
      · exact done
      · exact done.same (by simp)
    · exact done
  · exact h

theorem State.portRequest_canonical {s : State} (h : Canonical s) (die port id : Nat) : Canonical (s.portRequest die port id) := by
  unfold State.portRequest
  split
  · exact h
  split
  · exact h
  split
  · exact h
  next l _ _ w _ =>
    extract_lets +onlyGivenNames a counted u
    have start : Canonical u := h.same (by simp [u, counted])
    clear_value u counted a
    split
    · exact (start.withMem (Memory.wf_writeAt a l w start.mem)).same (by simp)
    · exact (start.withMem (Memory.wf_writeAt a l w start.mem)).same (by simp)
    · split
      · exact start.same (by simp)
      · exact State.performVirtAtomic_canonical start _ _ _
    · dsimp only
      (repeat' split) <;> exact start.same (by simp)

theorem Store.wf_apply {m : List Host.Cell} (wf : Memory.wf m = true) (t : Store) : Memory.wf (t.apply m) = true := by
  unfold Store.apply
  split
  · exact wf
  · exact Memory.wf_writeLineWord _ _ _ _ _ _ _ _ wf

theorem State.commitWords_canonical {s : State} (h : Canonical s) (loan : Nat) (ws : List Store) : Canonical (s.commitWords loan ws) := by
  refine foldl_canonical (fun u t hu => ?_) _ ?_
  · have written := State.setMem_canonical hu t.win.virt (Store.wf_apply (State.wf_memOf hu t.win.virt) t)
    dsimp only
    split <;> split <;> exact written.same (by simp)
  · split
    · split
      · exact h.same (by simp)
      · exact h
    · exact h

theorem State.portPayload_canonical {s : State} (h : Canonical s) (q : QCell) : Canonical (s.portPayload q) := by
  unfold State.portPayload
  split
  next a _ =>
    split
    · have counted := h.same (State.countChunk_memories s a.phys)
      refine Canonical.same (counted.withMem ?_) (State.later_memories _ _ _)
      refine List.foldlRecOn (motive := fun m => Memory.wf m = true) _ _ counted.mem fun m wf p _ => ?_
      split
      · exact Memory.wf_writeW32 _ _ wf
      · exact wf
    · exact h
  · exact h

/-- What another device answers, as a memory. -/
theorem Memory.wf_ofCells (bytes : List Host.Cell) : Memory.wf (bytes.foldl (fun m (c : Host.Cell) => writeByte m c.1 c.2) []) = true :=
  List.foldlRecOn (motive := fun m => Memory.wf m = true) _ _ rfl fun _ wf _ _ => Memory.wf_writeByte _ _ wf

/-- The answer stands in for device memory while the request is served, and the device's own memory comes back after it. -/
theorem State.remoteReply_canonical {s : State} (h : Canonical s) (id : Nat) (bytes : List Host.Cell) : Canonical (s.remoteReply id bytes) := by
  have there := h.withMem (Memory.wf_ofCells bytes)
  unfold State.remoteReply
  split
  · exact h
  dsimp only
  split
  · split
    · exact h.same (by simp)
    · exact (State.portRequest_canonical there _ _ _).withMem h.mem
  · exact (State.performVirtAtomic_canonical there _ _ _).withMem h.mem
  · exact (State.portRequest_canonical there _ _ _).withMem h.mem

theorem State.remoteCommitted_canonical {s : State} (h : Canonical s) (loan access : Nat) : Canonical (s.remoteCommitted loan access) := by
  unfold State.remoteCommitted
  split
  · exact h
  · exact (State.commitWords_canonical h _ _).withMem h.mem

theorem State.payloadWritten_canonical {s : State} (h : Canonical s) (bay : Nat) (q : QCell) : Canonical (s.payloadWritten bay q) := by
  unfold State.payloadWritten
  dsimp only
  split
  · exact h
  split
  next l _ _ _ b w _ _ =>
    have written := h.withTmem (Memory.wf_writePayload bay w l.firstLine q.cell h.tmem)
    (repeat' split) <;> exact written.same (by simp)
  · exact h

theorem State.writeBlock_canonical {s : State} (h : Canonical s) (bay dec : Nat) : Canonical (s.writeBlock bay dec) := by
  unfold State.writeBlock
  split
  · exact h
  next a _ =>
    split
    · exact h
    next l _ =>
      split
      · exact h
      next dw u b _ =>
        extract_lets places units
        exact (h.withTmem (Memory.wf_writePlaces (tileTr bay) dw l.firstLine false (places.zip a.words) h.tmem)).same (by simp)

theorem State.performJob_canonical {s : State} (h : Canonical s) (bay : Nat) (e : BankEntry) : Canonical (s.performJob bay e) := by
  unfold State.performJob
  split
  · exact State.performTile_canonical h _
  · exact State.performEstore_canonical h _
  · exact h.same (by simp)
  · exact h.same (by simp)
  · exact State.payloadWritten_canonical h _ _
  · exact State.writeBlock_canonical h _ _
  · exact State.commitWords_canonical h _ _

/-! ### Images, saves and the kernel's pages -/

theorem State.clearWindows_canonical {s : State} (h : Canonical s) (l : Loan) (img : Image) : Canonical (s.clearWindows l img) :=
  ⟨h.mem, Memory.wf_filter _ h.tmem, h.staging⟩

theorem State.writeRecord_canonical {s : State} (h : Canonical s) (l : Loan) (img : Image) (bay : Nat) (d : TileData) :
    Canonical (s.writeRecord l img bay d) := by
  unfold State.writeRecord
  split
  · exact h
  · refine foldl_canonical (fun u p hu => ?_) _ h
    split
    · exact ⟨hu.mem, Memory.wf_writeByte _ _ hu.tmem, hu.staging⟩
    · exact hu

theorem State.writeRecords_canonical {s : State} (h : Canonical s) (l : Loan) (img : Image) : Canonical (s.writeRecords l img) :=
  foldl_canonical (fun _ _ hu => State.writeRecord_canonical hu _ _ _ _) _
    (foldl_canonical (fun _ _ hu => foldl_canonical (fun _ _ hv => State.writeRecord_canonical hv _ _ _ _) _ hu) _ h)

theorem State.calleeLoaded_canonical {s : State} (h : Canonical s) (id : Nat) (l : Loan) (c : Calling) : Canonical (s.calleeLoaded id l c) := by
  unfold State.calleeLoaded
  extract_lets share u
  have loaded : Canonical u := State.writeRecords_canonical (h.same (State.rewriteContext_memories _ _ _ _ _ _ _)) l c.image
  clear_value u
  split <;> exact loaded.same (by simp)

theorem State.beginSave_canonical {s : State} (h : Canonical s) (id : Nat) (l : Loan) : Canonical (s.beginSave id l) := by
  unfold State.beginSave
  dsimp only
  split
  · exact h.same (by simp)
  next t written => exact (State.writeVirt_canonical (h.same (by simp)) written).same (by simp)

theorem State.loanWritten_canonical {s : State} (h : Canonical s) (id : Nat) (l : Loan) : Canonical (s.loanWritten id l) := by
  unfold State.loanWritten
  split
  · exact h.same (by simp)
  extract_lets t u v
  have cleared : Canonical u := h.same (by simp [u, t])
  have recorded : Canonical v := State.writeRecords_canonical (canonical_ite (State.clearWindows_canonical cleared _ _) cleared) _ _
  clear_value v u t
  split
  next w started => exact recorded.same (State.startFirst_memories started)
  · exact h.same (by simp)

theorem State.invalidate_canonical {s : State} (h : Canonical s) (space first n entryAddr : Nat) (entry : W64) :
    Canonical (s.invalidate space first n entryAddr entry) := ⟨Memory.wf_writeBytes _ _ h.mem, h.tmem, h.staging⟩

theorem State.makeTables_canonical (va : Nat) (levels : List Nat) : ∀ {s : State} (table : Nat), Canonical s →
    Canonical (s.makeTables va levels table).2 := by
  induction levels with
  | nil => exact fun _ h => h
  | cons level rest ih =>
    intro s table h
    unfold State.makeTables
    dsimp only
    split
    · exact h
    split
    · exact ih _ h
    · have drawn := h.same (State.drawNat_memories s)
      exact ih _ (drawn.withMem (Memory.wf_writeBytes _ _ (Memory.wf_filter _ drawn.mem)))

theorem State.mapPage_canonical {s : State} (h : Canonical s) (space page : Nat) : Canonical (s.mapPage space page) := by
  have drawn := h.same (State.drawNat_memories s)
  unfold State.mapPage
  dsimp only
  refine State.invalidate_canonical (State.makeTables_canonical (page * 65536) [0, 1, 2, 3] _ ?_) _ _ _ _ _
  exact drawn.withMem (Memory.wf_filter _ drawn.mem)

end Sys2Proof.Machine
end

section
/-! PROOFS. O55: the events that write the memories. -/
namespace Sys2Proof.Machine

/-! ### Agents, registers and the order ring -/

theorem State.agentPerform_canonical {s : State} (h : Canonical s) (agent : Nat) (a : AgentAccess) : Canonical (s.agentPerform agent a) := by
  unfold State.agentPerform
  extract_lets n m u
  have counted : Canonical u := h.same (State.countAgent_memories s _ _)
  clear_value u m n
  split
  · exact counted
  · exact counted.same (by simp)
  next bs _ =>
    refine canonical_ite (counted.same (by simp)) (counted.withMem (Memory.wf_writeBytes _ _ counted.mem))
  · refine canonical_ite (counted.same (by simp)) ?_
    dsimp only
    split
    next v _ => exact (counted.withMem (Memory.wf_writeW32 a.addr v counted.mem)).same (by simp)
    · exact counted.same (by simp)

theorem State.agentAccess_canonical {s : State} (h : Canonical s) (agent : Nat) (a : AgentAccess) : Canonical (s.agentAccess agent a) := by
  unfold State.agentAccess
  split
  · exact h.same (State.updHub_memories _ _)
  · exact State.agentPerform_canonical h agent a

theorem State.agentsGo_canonical {s : State} (h : Canonical s) : Canonical s.agentsGo :=
  foldl_canonical (fun _ _ hu => State.agentAccess_canonical hu _ _) _ (h.same (State.updHub_memories _ _))

theorem State.outsideGoes_canonical {s : State} (h : Canonical s) : Canonical s.outsideGoes :=
  State.agentsGo_canonical (foldl_canonical (fun _ _ hu => State.writeOutside_canonical hu _ _ _) _ (h.same (State.updHub_memories _ _)))

theorem State.passRecord_canonical {s : State} (h : Canonical s) : Canonical s.passRecord := by
  unfold State.passRecord
  split
  · exact h
  next r rest _ =>
    split
    · exact h
    extract_lets at' u
    have written : Canonical u := h.withMem (Memory.wf_writeBytes at' r.bytes h.mem)
    clear_value u
    split
    · exact h.same (State.later_memories _ _ _)
    split
    · exact written.same (State.later_memories _ _ _)
    · exact State.outsideGoes_canonical (written.same (by simp))

theorem State.barStore_canonical {s : State} (h : Canonical s) (off : Nat) (v : W64) : Canonical (s.barStore off v) := by
  unfold State.barStore
  split
  · dsimp only
    split <;> exact h.same (by simp)
  · refine canonical_ite (h.same (by simp)) <| canonical_ite (h.same (by simp)) <| canonical_ite (h.same (by simp)) <|
      canonical_ite (h.same (by simp)) <| canonical_ite (h.same (by simp)) <| canonical_ite (h.same (by simp)) <|
      canonical_ite (State.writeOutside_canonical h _ _ true) h

theorem State.recoveryStore_canonical {s : State} (h : Canonical s) (off size : Nat) (v : W64) : Canonical (s.recoveryStore off size v) := by
  unfold State.recoveryStore
  repeat' split
  · exact h
  · exact h.same (by simp)
  · exact h.same (by simp)
  · exact h
  · exact ⟨h.mem, h.tmem, Memory.wf_writeBytes _ _ h.staging⟩

theorem State.barWrite_canonical {s : State} (h : Canonical s) (off size : Nat) (v : W64) : Canonical (s.barWrite off size v) := by
  unfold State.barWrite
  repeat' split
  · exact h
  · exact State.recoveryStore_canonical h _ _ _
  · exact h.same (State.updHub_memories _ _)
  · exact State.barStore_canonical h _ _

theorem State.ackSave_canonical {s : State} (h : Canonical s) (loan : Nat) : Canonical (s.ackSave loan) := by
  unfold State.ackSave
  repeat' split
  · exact State.beginSave_canonical h _ _
  · exact h
  · exact h

theorem State.ringServe_canonical {s : State} (h : Canonical s) (r : RingWait) : Canonical (s.ringServe r) := by
  unfold State.ringServe
  split
  · exact h
  extract_lets +onlyGivenNames u
  have served : Canonical u := h.same (State.updHub_memories _ _)
  clear_value u
  split
  · exact State.agentPerform_canonical (served.same (State.updHub_memories _ _)) _ _
  · (repeat' split) <;> exact served.same (by simp)

/-! ### glaed's start of a source -/

theorem State.placeWindow_canonical {space : Nat} {r t : State × List (Nat × List Byte) × List (Nat × List W32)} {x : Nat × Nat × List W32}
    (h : Canonical r.1) (placed : State.placeWindow space r x = some t) : Canonical t.1 := by
  unfold State.placeWindow at placed
  obtain ⟨y, -, found⟩ := Option.bind_eq_some_iff.mp placed
  obtain ⟨o, -, run⟩ := Option.bind_eq_some_iff.mp found
  obtain ⟨p, -, same⟩ := Option.map_eq_some_iff.mp run
  rw [← same]
  exact foldl_canonical (fun _ _ hu => State.mapPage_canonical hu _ _) _ (h.same (State.drawNat_memories _))

theorem State.armPool_canonical {s t : State} {desc space : Nat} (h : Canonical s) (armed : s.armPool desc space = some t) : Canonical t := by
  unfold State.armPool at armed
  split at armed
  · cases armed
  · extract_lets p fits at armed
    split at armed
    · cases armed
    · obtain ⟨g, -, same⟩ := Option.map_eq_some_iff.mp armed
      rw [← same]
      exact State.poolDrain_canonical (h.same (State.updHub_memories _ _)) g

theorem State.submit_canonical {s t : State} {n : Nat} {bs : List Byte} (h : Canonical s) (submitted : s.submit n bs = some t) : Canonical t := by
  unfold State.submit at submitted
  dsimp only at submitted
  split at submitted
  · rw [← Option.some.inj submitted]
    exact (h.withMem (Memory.wf_writeBytes _ _ h.mem)).same (State.updHub_memories _ _)
  · cases submitted

theorem State.startSource_canonical {s t : State} {src : GlaedSource} (h : Canonical s) (started : s.startSource src = some t) : Canonical t := by
  unfold State.startSource at started
  obtain ⟨⟨s1, images, data⟩, placed, started⟩ := Option.bind_eq_some_iff.mp started
  obtain ⟨linked, -, placed⟩ := Option.bind_eq_some_iff.mp placed
  obtain ⟨s2, wrote, started⟩ := Option.bind_eq_some_iff.mp started
  obtain ⟨s3, templates, started⟩ := Option.bind_eq_some_iff.mp started
  obtain ⟨s4, saves, started⟩ := Option.bind_eq_some_iff.mp started
  obtain ⟨s5, datas, started⟩ := Option.bind_eq_some_iff.mp started
  obtain ⟨s6, pools, slips⟩ := Option.bind_eq_some_iff.mp started
  have writes : ∀ (space : Nat) (u : State) (x : Nat × List Byte) (v : State), Canonical u →
      u.writeVirt space x.1 x.2 = some v → Canonical v :=
    fun _ _ _ _ hu written => State.writeVirt_canonical hu written
  have h1 : Canonical s1 := foldl_bind_keeps (P := fun r => Canonical r.1) (fun _ _ _ hu placed => State.placeWindow_canonical hu placed) h placed
  have zeroed := foldl_canonical (fun _ w hu => State.zeroVirt_canonical hu (s.hub.queue 0).space w.1 w.2)
    (images.flatMap fun x => virtWindows x.2) h1
  have h2 : Canonical s2 := foldl_bind_keeps (writes _) zeroed wrote
  have h3 : Canonical s3 := foldl_bind_keeps (writes _) h2 templates
  have h4 : Canonical s4 := foldl_bind_keeps (fun u x v hu saved => writes _ u (x.1, List.replicate x.2 0) v hu saved) h3 saves
  have set := foldl_canonical (fun _ t hu => State.setTimeline_canonical hu t.1 t.2) src.timelines h4
  have h5 : Canonical s5 := foldl_bind_keeps (fun u x v hu stored => writes _ u (x.1, wordsBytes x.2) v hu stored) set datas
  have h6 : Canonical s6 := by
    refine foldl_bind_keeps (fun _ _ _ hu armed => State.armPool_canonical hu armed) ?_ pools
    exact h5.same rfl
  exact foldl_bind_keeps (fun _ _ _ hu submitted => State.submit_canonical hu submitted) h6 slips

/-! ### Events that write the memories -/

theorem execAincbRoundEnd_keeps (place : Nat) (s : State) : KeepsCanonical s (execAincbRoundEnd place s) := by
  unfold execAincbRoundEnd
  dsimp only
  split
  · exact .next fun h => foldl_canonical (fun _ _ hu => State.performTile_canonical hu _) _ (h.same (by simp))
  · exact .next fun h => foldl_canonical (fun _ _ hu => State.poolsAfter_canonical hu _) _
      (foldl_canonical (fun _ _ hu => State.performVirtAtomic_canonical hu _ _ _) _ (h.same rfl))

theorem execMemoryPortCell_keeps (die port : Nat) (s : State) : KeepsCanonical s (execMemoryPortCell die port s) := by
  unfold execMemoryPortCell
  split
  · exact .same rfl
  refine .ite (.same (by simp)) <| .ite (.same (by simp)) ?_
  extract_lets +onlyGivenNames gone
  have taken : gone.memories = s.memories := State.updXch_memories _ _ _
  clear_value gone
  split
  · dsimp only
    refine .ite (.same (by simp)) <| .ite (.same (by simp)) <| .ite (.same (by simp)) <| .next fun h => ?_
    exact State.portRequest_canonical (h.same taken) _ _ _
  · exact .next fun h => State.commitWords_canonical (h.same taken) _ _
  · exact .next fun h => State.portPayload_canonical (h.same taken) _
  · exact .same (by simp [taken])
  · exact .same (by simp [taken])
  · exact .same taken
  · exact .same taken

theorem execIngressCell_keeps (bay : Nat) (s : State) : KeepsCanonical s (execIngressCell bay s) := by
  unfold execIngressCell
  split
  · exact .same rfl
  dsimp only
  refine .ite (.same (by simp)) <| .ite (.same (by simp)) <| .ite (.same (by simp)) <| .ite (.same (by simp)) <| .next fun h => ?_
  split
  · exact h.same (by simp)
  · exact h.same (by simp)
  · exact State.commitWords_canonical (h.same (by simp)) _ _
  all_goals exact h.same (by simp)

theorem execBankAccess_keeps (bay tile bank : Nat) (s : State) : KeepsCanonical s (execBankAccess bay tile bank s) := by
  unfold execBankAccess
  extract_lets +onlyGivenNames k live b busy here
  have alive : live.memories = s.memories := State.updBay_memories _ _ _
  clear_value here busy b live k
  refine .ite (.same alive) <| .ite (.same (by simp [alive])) <| .ite (.same (by simp [alive])) ?_
  split
  · exact .same (by simp [alive])
  · extract_lets group claim u v
    have taken : u.memories = s.memories := (State.updBay_memories _ _ _).trans alive
    have done (h : Canonical s) : Canonical v := by
      unfold v
      clear_value claim
      cases claim
      · exact foldl_canonical (fun _ _ hv => State.performJob_canonical hv _ _) _ (h.same taken)
      · exact h.same ((State.later_memories _ _ _).trans taken)
    clear_value v u
    exact .next fun h => canonical_ite (done h) ((done h).same (State.later_memories _ _ _))

theorem execLoanReturn_keeps (loan : Nat) (s : State) : KeepsCanonical s (execLoanReturn loan s) := by
  unfold execLoanReturn
  split
  · exact .same rfl
  next l _ =>
    dsimp only
    refine .ite (.same (by simp)) <| .next fun h => Canonical.same ?_ (State.releaseLoan_memories _ _ _ _ _)
    exact canonical_ite (State.incTimeline_canonical h _ _ _) h

theorem execSwitchDrainDone_keeps (loan : Nat) (s : State) : KeepsCanonical s (execSwitchDrainDone loan s) := by
  unfold execSwitchDrainDone
  split
  · exact .same rfl
  · exact .ite (.same rfl) <| .ite (.same (by simp)) <| .next fun h => State.beginSave_canonical h _ _

theorem execScanOutDone_keeps (loan : Nat) (s : State) : KeepsCanonical s (execScanOutDone loan s) := by
  unfold execScanOutDone
  split
  · exact .same rfl
  refine .ite (.same rfl) ?_
  extract_lets body
  split
  · exact .same (by simp)
  next t written =>
    obtain ⟨u, body, header⟩ := Option.bind_eq_some_iff.mp written
    extract_lets counted out
    refine .next fun h => ?_
    have saved : Canonical t := State.writeVirt_canonical (State.writeVirt_canonical h body) header
    have same : counted.memories = t.memories := (State.memories_mk ..)
    clear_value counted
    exact (saved.same same).same (by simp [out])

theorem execConfigWriteDone_keeps (loan : Nat) (s : State) : KeepsCanonical s (execConfigWriteDone loan s) := by
  unfold execConfigWriteDone
  split
  · exact .same rfl
  refine .ite (.same (by simp)) <| .ite (.next fun h => State.loanWritten_canonical h _ _) <| .ite ?_ (.same rfl)
  split
  · exact .next fun h => canonical_ite (State.calleeLoaded_canonical h _ _ _) h
  · exact .same rfl

theorem State.reset_canonical : Canonical State.reset := ⟨rfl, rfl, rfl⟩

theorem execReset_keeps (s : State) : KeepsCanonical s (execReset s) := by
  unfold execReset
  extract_lets +onlyGivenNames blank boot u
  have start : Canonical u := State.reset_canonical.same rfl
  clear_value u
  have verified := start.same (State.verifyImage_memories u)
  exact .next fun _ => canonical_ite (verified.same (State.bringUp_memories _)) ⟨verified.mem, verified.tmem, verified.staging⟩

theorem execHostTimelineIncrement_keeps (timeline : Nat) (value : W64) (s : State) : KeepsCanonical s (execHostTimelineIncrement timeline value s) :=
  .next fun h => canonical_ite (State.writeOutside_canonical h _ _ _) h

theorem execKernelTimelineWrite_keeps (timeline : Nat) (value : W64) (increment : Bool) (s : State) :
    KeepsCanonical s (execKernelTimelineWrite timeline value increment s) := .next fun h => State.writeOutside_canonical h _ _ _

theorem execFaultRecordDeliver_keeps (s : State) : KeepsCanonical s (execFaultRecordDeliver s) := by
  unfold execFaultRecordDeliver
  split
  · exact .same (by simp)
  · exact .next State.passRecord_canonical

theorem execRegisterWrite_keeps (w : RegAccess) (s : State) : KeepsCanonical s (execRegisterWrite w s) := by
  refine .next fun h => ?_
  cases w with
  | barWrite off size v => exact State.barWrite_canonical h _ _ _
  | ackSaveFault loan => exact State.ackSave_canonical h _
  | badNode bay entry v => exact canonical_ite (h.same (by simp)) h
  | colRegister bay reg v => exact canonical_ite h (h.same (by simp))
  | _ => exact h.same (by simp)

theorem execHostMemoryAccess_keeps (a : AgentAccess) (s : State) : KeepsCanonical s (execHostMemoryAccess a s) :=
  .ite (.fault _) <| .next fun h => canonical_ite (State.agentAccess_canonical h _ _) h

theorem execCuratorMemoryAccess_keeps (a : AgentAccess) (s : State) : KeepsCanonical s (execCuratorMemoryAccess a s) :=
  .ite (.fault _) <| .ite (.next fun h => State.agentAccess_canonical h _ _) (.same (by simp))

theorem execThrumArrival_keeps (msg : ThrumMsg) (s : State) : KeepsCanonical s (execThrumArrival msg s) := by
  cases msg with
  | domainToken => exact .same (State.updHub_memories _ _)
  | access a =>
    have performed (h : Canonical s) := State.agentAccess_canonical h 2 a
    exact .ite (.fault _) <| .ite (.next performed) (.next fun h => (performed h).same (by simp))
  | reply access bytes => exact .next fun h => State.remoteReply_canonical h _ _
  | committed loan access => exact .next fun h => State.remoteCommitted_canonical h _ _
  | cell c => exact .same (by simp)

theorem execOrderRingTick_keeps (s : State) : KeepsCanonical s (execOrderRingTick s) :=
  .next fun h => foldl_canonical (fun _ _ hu => State.ringServe_canonical hu _) _ (h.same (State.updHub_memories _ _))

theorem execChunkMoveDone_keeps (die chunk : Nat) (s : State) : KeepsCanonical s (execChunkMoveDone die chunk s) := by
  unfold execChunkMoveDone
  split
  · exact .same rfl
  · refine .next fun h => foldl_canonical (fun _ _ hu => hu.same (State.later_memories _ _ _)) _ (State.agentsGo_canonical ?_)
    exact h.same rfl

theorem execKernelPageInvalidate_keeps (space va entryAddr : Nat) (entry : W64) (s : State) :
    KeepsCanonical s (execKernelPageInvalidate space va entryAddr entry s) :=
  .ite (.fault _) <| .ite (.same (by simp)) <| .next fun h => State.invalidate_canonical h _ _ _ _ _

theorem execDemandPageMap_keeps (space page : Nat) (s : State) : KeepsCanonical s (execDemandPageMap space page s) := by
  unfold execDemandPageMap
  refine .ite (.same rfl) ?_
  extract_lets mapped pages u parked
  refine .next fun h => ?_
  have done : Canonical mapped := State.mapPage_canonical h space page
  clear_value mapped
  refine foldl_canonical (fun v f hv => hv.same (getD_memories fun _ resumed => State.resumeFrame_memories resumed)) parked ?_
  exact ⟨done.mem, done.tmem, done.staging⟩

theorem execGlaedRun_keeps (src : GlaedSource) (s : State) : KeepsCanonical s (execGlaedRun src s) := by
  refine .next fun h => ?_
  split
  next t started => exact (State.startSource_canonical h started).same (by simp)
  · exact h.same (by simp)

end Sys2Proof.Machine
end

section
/-! PROOFS. O55: firings keep the memories in canonical form. -/
namespace Sys2Proof.Machine

/-! ### A firing -/

theorem firePerform_canonical {s : State} (h : Canonical s) (f : FireCtx) (sh : Shape) (g : Got) (eff : Eff)
    {after : FireCtx → Got → State → State} (keeps : ∀ u, Canonical u → Canonical (after f g u)) :
    Canonical (firePerform s f sh g eff after) := by
  have poisoned (e : Eff) (r : Report) := h.same (firePoison_within s f sh g e r).same
  have committed (u : State) (start : Canonical u) (ems : List Emission) := start.same (commit_within u f sh g eff ems).same
  unfold firePerform
  split
  · exact poisoned _ _
  · refine canonical_ite (poisoned _ _) ?_
    cases eff.req with
    | none =>
      dsimp only
      refine canonical_ite h (canonical_ite ?_ ?_)
      · exact (keeps _ (committed s h _)).same (State.raise_memories _ _ _ _)
      · exact keeps _ (committed s h _)
    | some a =>
      have added := h.same (State.addAccess_memories s a)
      dsimp only
      refine canonical_ite h (canonical_ite ?_ ?_)
      · exact (keeps _ ((committed _ added _).same (State.born_memories _ _ _ _))).same (State.raise_memories _ _ _ _)
      · exact keeps _ ((committed _ added _).same (State.born_memories _ _ _ _))

/-- A FIRING keeps the memories in canonical form on every way that it may take, when what it does beyond its element does. -/
theorem fire_keeps (sh : Shape) (perform : FireCtx → Got → Option Eff) {after : FireCtx → Got → State → State}
    (keeps : ∀ f g u, Canonical u → Canonical (after f g u)) (s : State) : KeepsCanonical s (fire sh perform after s) := by
  unfold fire fireFrom
  split
  · exact .same rfl
  next f _ =>
    refine .ite (.same rfl) ?_
    extract_lets +onlyGivenNames blank fired
    have done (h : Canonical s) : Canonical fired := by
      unfold fired
      split
      · exact h
      · exact h.same (fireEos_within _ _ _ _ _).same
      · dsimp only
        split
        · exact h.same (firePoison_within _ _ _ _ _ _).same
        · split
          · exact h
          · exact firePerform_canonical h _ _ _ _ (keeps f _)
    clear_value fired
    refine .ite (.next fun h => canonical_ite h ?_) (.next done)
    exact h.same (sendClaim_within s f).same

theorem fire_same_keeps (sh : Shape) (perform : FireCtx → Got → Option Eff) {after : FireCtx → Got → State → State}
    (same : ∀ f g u, (after f g u).memories = u.memories) (s : State) : KeepsCanonical s (fire sh perform after s) :=
  fire_keeps sh perform (fun f g u h => h.same (same f g u)) s

theorem fireMem_keeps (sh : Shape) (h : Hdr) (b : FM) (kind : AccKind) (o : Bool) (ask : FireCtx → Got → Window → MemAsk) (s : State) :
    KeepsCanonical s (fireMem sh h b kind o ask s) := by
  refine fire_same_keeps _ _ (fun f g u => ?_) s
  (repeat' split) <;> simp

theorem fireAtomic_keeps (op : BitVec 8) (h : Hdr) (b : FM) (s : State) : KeepsCanonical s (fireAtomic op h b s) := fireMem_keeps _ _ _ _ _ _ s

theorem fireCommand_keeps (h : Hdr) (b : FY) (op : DOp) (s : State) : KeepsCanonical s (fireCommand h b op s) :=
  fire_same_keeps _ _ (fun f g u => by split <;> simp) s

theorem fireTrap_keeps (h : Hdr) (b : FY) (code : Nat) (s : State) : KeepsCanonical s (fireTrap h b code s) :=
  fire_same_keeps _ _ (fun f g u => by simp) s

/-! ### The instructions that reach beyond their element -/

theorem execMxcfg_keeps (h : Hdr) (b : FI) (s : State) : KeepsCanonical s (execMxcfg h b s) :=
  fire_same_keeps _ _ (fun f g u => by simp) s

theorem execMxscl_keeps (h : Hdr) (b : FX) (s : State) : KeepsCanonical s (execMxscl h b s) :=
  fire_same_keeps _ _ (fun f g u => by simp) s

theorem execMxdrn_keeps (h : Hdr) (b : FX) (s : State) : KeepsCanonical s (execMxdrn h b s) :=
  fire_same_keeps _ _ (fun f g u => by simp) s

theorem execBarr_keeps (h : Hdr) (b : FY) (s : State) : KeepsCanonical s (execBarr h b s) :=
  fire_same_keeps _ _ (fun f g u => by simp) s

theorem execEvwatch_keeps (h : Hdr) (b : FY) (s : State) : KeepsCanonical s (execEvwatch h b s) :=
  fire_same_keeps _ _ (fun f g u => by simp) s

theorem execCret_keeps (h : Hdr) (b : FY) (s : State) : KeepsCanonical s (execCret h b s) :=
  fire_same_keeps _ _ (fun f g u => by simp) s

theorem execScanout_keeps (h : Hdr) (b : FY) (s : State) : KeepsCanonical s (execScanout h b s) :=
  fire_same_keeps _ _ (fun f g u => by simp) s

theorem execScanin_keeps (h : Hdr) (b : FY) (s : State) : KeepsCanonical s (execScanin h b s) :=
  fire_same_keeps _ _ (fun f g u => by simp) s

theorem execMxstep_keeps (h : Hdr) (b : FX) (s : State) : KeepsCanonical s (execMxstep h b s) :=
  fire_same_keeps _ _ (fun f g u => by
    split <;> simp) s

theorem execMxfade_keeps (h : Hdr) (b : FI) (s : State) : KeepsCanonical s (execMxfade h b s) :=
  fire_same_keeps _ _ (fun f g u => by
    split <;> simp) s

theorem execMxpass_keeps (h : Hdr) (b : FI) (s : State) : KeepsCanonical s (execMxpass h b s) :=
  fire_same_keeps _ _ (fun f g u => by
    split <;> simp) s

theorem keepsCanonical_execDarm (h : Hdr) (b : FY) (s : State) : KeepsCanonical s (execDarm h b s) :=
  fire_same_keeps _ _ (fun f g u => by
    split <;> simp) s

theorem execLaunch_keeps (h : Hdr) (b : FY) (s : State) : KeepsCanonical s (execLaunch h b s) :=
  fire_same_keeps _ _ (fun f g u => by
    dsimp only
    split <;> simp) s

theorem execStock_keeps (h : Hdr) (b : FY) (s : State) : KeepsCanonical s (execStock h b s) :=
  fire_same_keeps _ _ (fun f g u => by
    dsimp only
    split <;> simp) s

theorem execPrio_keeps (h : Hdr) (b : FY) (s : State) : KeepsCanonical s (execPrio h b s) :=
  fire_same_keeps _ _ (fun f g u => by
    split <;> simp) s

theorem execCcall_keeps (h : Hdr) (b : FY) (s : State) : KeepsCanonical s (execCcall h b s) :=
  fire_same_keeps _ _ (fun f g u => by
    split <;> simp) s

theorem execFltrd_keeps (h : Hdr) (b : FY) (s : State) : KeepsCanonical s (execFltrd h b s) :=
  fire_same_keeps _ _ (fun f g u => by
    split <;> simp) s

theorem execCflush_keeps (h : Hdr) (b : FY) (s : State) : KeepsCanonical s (execCflush h b s) :=
  fire_same_keeps _ _ (fun f g u => by
    split <;> simp) s

theorem execTlwait_keeps (h : Hdr) (b : FY) (s : State) : KeepsCanonical s (execTlwait h b s) :=
  fire_same_keeps _ _ (fun f g u => by
    dsimp only
    split <;> simp) s

theorem execFence_keeps (h : Hdr) (b : FY) (s : State) : KeepsCanonical s (execFence h b s) :=
  fire_same_keeps _ _ (fun f g u => by
    (repeat' split) <;> simp) s

theorem execDfire_keeps (h : Hdr) (b : FY) (s : State) : KeepsCanonical s (execDfire h b s) :=
  fire_same_keeps _ _ (fun f g u => by
    dsimp only
    (repeat' split) <;> simp) s

theorem execTlrd_keeps (h : Hdr) (b : FY) (s : State) : KeepsCanonical s (execTlrd h b s) :=
  fire_same_keeps _ _ (fun f g u => by
    (repeat' split) <;> simp) s

theorem execPark_keeps (h : Hdr) (b : FY) (s : State) : KeepsCanonical s (execPark h b s) :=
  fire_same_keeps _ _ (fun f g u => State.parkOwn_memories _ _ _ _ _ fun kept v => by
    split <;> simp) s

theorem execResume_keeps (h : Hdr) (b : FY) (s : State) : KeepsCanonical s (execResume h b s) :=
  fire_same_keeps _ _ (fun f g u => by
    split
    · split
      · exact getD_memories fun _ resumed => State.resumeFrame_memories resumed
      · rfl
    · rfl) s

theorem execCgrp_keeps (h : Hdr) (b : FY) (s : State) : KeepsCanonical s (execCgrp h b s) :=
  fire_same_keeps _ _ (fun _ _ _ => rfl) s

theorem execPerfrd_keeps (h : Hdr) (b : FY) (s : State) : KeepsCanonical s (execPerfrd h b s) :=
  fire_same_keeps _ _ (fun _ _ _ => rfl) s

theorem execTimerd_keeps (h : Hdr) (b : FY) (s : State) : KeepsCanonical s (execTimerd h b s) :=
  fire_same_keeps _ _ (fun _ _ _ => rfl) s

theorem execTlinc_keeps (h : Hdr) (b : FY) (s : State) : KeepsCanonical s (execTlinc h b s) :=
  fire_keeps _ _ (fun f g u canonical => by
    split
    · split
      · exact State.incTimeline_canonical canonical _ _ _
      · exact canonical
    · exact canonical) s

theorem execTlset_keeps (h : Hdr) (b : FY) (s : State) : KeepsCanonical s (execTlset h b s) :=
  fire_keeps _ _ (fun _ _ _ canonical => canonical_ite (State.setTimeline_canonical canonical _ _) canonical) s

/-! ### Every instruction -/

theorem exec_handler_keeps {i : Instr} {v : Handler} (view : handlerView i = some v) (s : State) : KeepsCanonical s (exec i s) := by
  by_cases low : v.op.toNat < 0x6A
  · exact fun h t runs => h.same (exec_handler_staysWithin view low s t runs).same
  cases i <;> simp only [handlerView, reduceCtorEq] at view <;> obtain rfl := Option.some.inj view <;> dsimp only [exec] at low ⊢
  case slog | sread | mxldacc | ld | st | lds | sts | ldq | stq | pref | sendc | sendm | creq | dlay =>
    exact fireMem_keeps _ _ _ _ _ _ s
  case aadd | afadd | amin | amax | axchg | acas | abit | aincb =>
    exact fireAtomic_keeps _ _ _ s
  case dstat | dcan =>
    exact fireCommand_keeps _ _ _ s
  case trap | brk =>
    exact fireTrap_keeps _ _ _ s
  case mxcfg => exact execMxcfg_keeps _ _ s
  case mxstep => exact execMxstep_keeps _ _ s
  case mxfade => exact execMxfade_keeps _ _ s
  case mxscl => exact execMxscl_keeps _ _ s
  case mxdrn => exact execMxdrn_keeps _ _ s
  case mxpass => exact execMxpass_keeps _ _ s
  case fence => exact execFence_keeps _ _ s
  case cgrp => exact execCgrp_keeps _ _ s
  case darm => exact keepsCanonical_execDarm _ _ s
  case dfire => exact execDfire_keeps _ _ s
  case tlinc => exact execTlinc_keeps _ _ s
  case tlwait => exact execTlwait_keeps _ _ s
  case tlrd => exact execTlrd_keeps _ _ s
  case barr => exact execBarr_keeps _ _ s
  case launch => exact execLaunch_keeps _ _ s
  case tlset => exact execTlset_keeps _ _ s
  case stock => exact execStock_keeps _ _ s
  case evwatch => exact execEvwatch_keeps _ _ s
  case prio => exact execPrio_keeps _ _ s
  case ccall => exact execCcall_keeps _ _ s
  case cret => exact execCret_keeps _ _ s
  case resume => exact execResume_keeps _ _ s
  case park => exact execPark_keeps _ _ s
  case fltrd => exact execFltrd_keeps _ _ s
  case perfrd => exact execPerfrd_keeps _ _ s
  case timerd => exact execTimerd_keeps _ _ s
  case scanout => exact execScanout_keeps _ _ s
  case scanin => exact execScanin_keeps _ _ s
  case cflush => exact execCflush_keeps _ _ s
  all_goals exact absurd (by decide) low

/-- What has no handler word is an event. -/
theorem exec_event_keeps {i : Instr} (view : handlerView i = none) (s : State) : KeepsCanonical s (exec i s) := by
  cases i <;> simp only [handlerView, reduceCtorEq] at view <;> dsimp only [exec]
  case eadd | esub | emul | emax | emin => exact colTyped_keeps _ _ _ _ _ _ s
  case kernelPageInvalidate => exact execKernelPageInvalidate_keeps _ _ _ _ s
  case mailboxAnswer => exact execMailboxAnswer_keeps _ s
  case demandPageMap => exact execDemandPageMap_keeps _ _ s
  case wakeSequencerTick => exact execWakeSequencerTick_keeps _ s
  case bayGate => exact execBayGate_keeps _ s
  case hqDisable => exact execHqDisable_keeps _ s
  case fqRingSetup => exact execFqRingSetup_keeps _ _ s
  case fqheadWrite => exact execFqheadWrite_keeps _ s
  case hostTimelineIncrement => exact execHostTimelineIncrement_keeps _ _ s
  case imageFetchDone => exact execImageFetchDone_keeps _ s
  case configWriteDone => exact execConfigWriteDone_keeps _ s
  case prefetchDone => exact execPrefetchDone_keeps _ s
  case epochEnd => exact execEpochEnd_keeps _ s
  case chunkMoveDone => exact execChunkMoveDone_keeps _ _ s
  case tokenHop => exact execTokenHop_keeps _ _ s
  case tokenArrive => exact execTokenArrive_keeps _ _ s
  case firingResultWrite => exact execFiringResultWrite_keeps _ _ s
  case weightRecompute => exact execWeightRecompute_keeps _ s
  case matchToken => exact execMatchToken_keeps _ s
  case matchDone => exact execMatchDone_keeps _ s
  case frameSlotWrite => exact execFrameSlotWrite_keeps _ s
  case frameSpill => exact execFrameSpill_keeps _ s
  case frameRefill => exact execFrameRefill_keeps _ _ s
  case rampTurnEnd => exact execRampTurnEnd_keeps _ s
  case feedBeat => exact execFeedBeat_keeps _ _ _ s
  case matrixStep => exact execMatrixStep_keeps _ _ s
  case runEnd => exact execRunEnd_keeps _ _ s
  case layoutRecordApply => exact execLayoutRecordApply_keeps _ _ _ _ s
  case tlbWalkDone => exact execTlbWalkDone_keeps _ s
  case waveAccessArrive => exact execWaveAccessArrive_keeps _ s
  case accessPerform => exact execAccessPerform_keeps _ s
  case bankAccess => exact execBankAccess_keeps _ _ _ s
  case aincbRoundEnd => exact execAincbRoundEnd_keeps _ s
  case decantTrigger => exact execDecantTrigger_keeps _ s
  case decantBlockDone => exact execDecantBlockDone_keeps _ _ s
  case decantArmApply => exact execDecantArmApply_keeps _ s
  case cellEnqueue => exact execCellEnqueue_keeps _ s
  case exchangeSlot => exact execExchangeSlot_keeps _ s
  case ingressCell => exact execIngressCell_keeps _ s
  case memoryPortCell => exact execMemoryPortCell_keeps _ _ s
  case lagDrop => exact execLagDrop_keeps _ _ _ s
  case tlwaitMet => exact execTlwaitMet_keeps _ s
  case launchAccept => exact execLaunchAccept_keeps _ s
  case watchSample => exact execWatchSample_keeps _ s
  case sqClaimArrive => exact execSqClaimArrive_keeps _ _ _ s
  case sqGrantArrive => exact execSqGrantArrive_keeps _ _ _ s
  case sqPostArrive => exact execSqPostArrive_keeps _ _ s
  case barrierArrive => exact execBarrierArrive_keeps _ s
  case watchdogExpire => exact execWatchdogExpire_keeps _ s
  case retireAck => exact execRetireAck_keeps _ _ s
  case iterationRetire => exact execIterationRetire_keeps _ s
  case exitTaken => exact execExitTaken_keeps _ s
  case exitDrainDone => exact execExitDrainDone_keeps _ s
  case loanReturn => exact execLoanReturn_keeps _ s
  case kernelResume => exact execKernelResume_keeps _ _ _ s
  case switchRequest => exact execSwitchRequest_keeps _ s
  case switchDrainDone => exact execSwitchDrainDone_keeps _ s
  case scanOutDone => exact execScanOutDone_keeps _ s
  case restore => exact execRestore_keeps _ s
  case freezeMarkerArrive => exact execFreezeMarkerArrive_keeps _ _ s
  case freezePoint => exact execFreezePoint_keeps _ s
  case planeSpillDone => exact execPlaneSpillDone_keeps _ s
  case thawPop => exact execThawPop_keeps _ s
  case colophonRun => exact execColophonRun_keeps _ _ s
  case colophonHalt => exact execColophonHalt_keeps _ s
  case colophonCapture => exact execColophonCapture_keeps _ _ s
  case efma => exact execEfma_keeps _ _ _ s
  case ecvt => exact execEcvt_keeps _ _ _ _ _ s
  case eclmp => exact execEclmp_keeps _ _ _ s
  case eldr => exact execEldr_keeps _ _ s
  case estr => exact execEstr_keeps _ _ _ s
  case eldi => exact execEldi_keeps _ _ _ s
  case emov => exact execEmov_keeps _ _ s
  case eand => exact execEand_keeps _ _ _ s
  case eshf => exact execEshf_keeps _ _ _ _ s
  case ebnz => exact execEbnz_keeps _ _ s
  case ejmp => exact execEjmp_keeps _ s
  case eloop => exact execEloop_keeps _ _ s
  case ewait => exact execEwait_keeps _ s
  case ehalt => exact execEhalt_keeps _ s
  case esig => exact execEsig_keeps _ _ _ _ s
  case rcdbGo => exact execRcdbGo_keeps _ s
  case registerWrite => exact execRegisterWrite_keeps _ s
  case hqTailWrite => exact execHqTailWrite_keeps _ _ s
  case hqRingSetup => exact execHqRingSetup_keeps _ _ _ s
  case hqEnable => exact execHqEnable_keeps _ s
  case glaedRun => exact execGlaedRun_keeps _ s
  case thrumArrival => exact execThrumArrival_keeps _ s
  case mbiWrite => exact execMbiWrite_keeps _ _ s
  case kernelPrioWrite => exact execKernelPrioWrite_keeps _ _ _ s
  case glaedBreak => exact execGlaedBreak_keeps _ s
  case glaedWatch => exact execGlaedWatch_keeps _ _ _ s
  case glaedStep => exact execGlaedStep_keeps _ s
  case hostMemoryAccess => exact execHostMemoryAccess_keeps _ s
  case curatorMemoryAccess => exact execCuratorMemoryAccess_keeps _ s
  case hostLinkTrained => exact execHostLinkTrained_keeps s
  case recoveryVerifyDone => exact execRecoveryVerifyDone_keeps s
  case attestationSign => exact execAttestationSign_keeps s
  case faultRecordDeliver => exact execFaultRecordDeliver_keeps s
  case slipRead => exact execSlipRead_keeps s
  case placementDecision => exact execPlacementDecision_keeps s
  case stocktakeSnapshot => exact execStocktakeSnapshot_keeps s
  case glaedPreempt => exact execGlaedPreempt_keeps _ _ s
  case glaedSwitch => exact execGlaedSwitch_keeps _ s
  case kernelTimelineWrite => exact execKernelTimelineWrite_keeps _ _ _ s
  case reset => exact execReset_keeps s
  case mailboxRequest => exact execMailboxRequest_keeps s
  case mailboxTake => exact execMailboxTake_keeps s
  case mailboxAnswerClear => exact execMailboxAnswerClear_keeps s
  case placementReservation => exact execPlacementReservation_keeps s
  case glaedContinue => exact execGlaedContinue_keeps s
  case glaedStocktake => exact execGlaedStocktake_keeps s
  case orderRingTick => exact execOrderRingTick_keeps s
  case glaedShowQueues a b c => exact exec_shows_keeps s a b c (.glaedShowQueues a b c) (by simp)
  case glaedShowFrame a b => exact exec_shows_keeps s a b 0 (.glaedShowFrame a b) (by simp)
  case glaedShowAcc a b c => exact exec_shows_keeps s a b c (.glaedShowAcc a b c) (by simp)
  case glaedShowPlanes a b => exact exec_shows_keeps s a b 0 (.glaedShowPlanes a b) (by simp)
  case glaedShowVoq a b => exact exec_shows_keeps s a b 0 (.glaedShowVoq a b) (by simp)
  case glaedShowWave a => exact exec_shows_keeps s a 0 0 (.glaedShowWave a) (by simp)
  case glaedShowSillage a b => exact exec_shows_keeps s a b 0 (.glaedShowSillage a b) (by simp)
  case glaedShowRetire => exact exec_shows_keeps s 0 0 0 (.glaedShowRetire) (by simp)
  case glaedFaults => exact exec_shows_keeps s 0 0 0 (.glaedFaults) (by simp)

theorem exec_keeps (i : Instr) (s : State) : KeepsCanonical s (exec i s) := by
  cases view : handlerView i with
  | some v => exact exec_handler_keeps view s
  | none => exact exec_event_keeps view s

/-! ### A step -/

theorem KeepsCanonical.after {s u : State} {o : Host.Outcome State Fault Refusal} (keeps : KeepsCanonical u o)
    (before : Canonical s → Canonical u) : KeepsCanonical s o := fun h => keeps (before h)

/-- What an instruction leaves from a state whose memories are those of another. -/
theorem exec_keeps_from (i : Instr) {s u : State} (same : u.memories = s.memories) : KeepsCanonical s (exec i u) :=
  (exec_keeps i u).after fun h => h.same same

theorem sendClaims_canonical {s : State} (h : Canonical s) : Canonical (sendClaims exec s) := by
  refine foldl_canonical (fun u p hu => foldl_canonical (fun v n hv => ?_) _ hu) _ h
  refine canonical_ite hv ?_
  split
  · exact hv
  next i _ =>
    refine canonical_ite ?_ hv
    split
    next t runs =>
      exact canonical_ite (exec_keeps_from i (State.focusOn_memories v _ _ _) hv t runs) hv
    · exact hv

theorem State.choosing_canonical {s : State} (h : Canonical s) : Canonical (s.choosing exec).1 := by
  unfold State.choosing
  split
  · exact h
  · exact (sendClaims_canonical h).same rfl

theorem fireOrTick_keeps (s : State) : KeepsCanonical s (fireOrTick exec s) := by
  have chosen := State.choosing_canonical (s := s)
  unfold fireOrTick
  generalize s.choosing exec = r at chosen
  obtain ⟨u, cs⟩ := r
  refine KeepsCanonical.after ?_ chosen
  dsimp only
  split
  next x rest =>
    split
    next i _ => exact .ite (.same rfl) (exec_keeps_from i (prepareFiring_memories _ _))
    · exact .same rfl
  · exact .same (tick_memories u)

theorem colophonStep_keeps (b : Nat) (s : State) : KeepsCanonical s (colophonStep exec b s) := by
  unfold colophonStep
  dsimp only
  split
  next i _ => exact exec_keeps_from i rfl
  · exact .same (State.updBay_memories _ _ _)

/-- Each way a step may go: an input, a stop, the Colophon, an event that is due, a firing or the clock. -/
theorem step_keeps (s : State) : KeepsCanonical s (step s) := by
  unfold step stepWith
  split
  next i rest _ => exact exec_keeps_from _ rfl
  refine .ite (.same rfl) ?_
  split
  next b _ => exact colophonStep_keeps b s
  split
  next time i rest _ => exact .ite (exec_keeps_from i rfl) (fireOrTick_keeps s)
  · exact fireOrTick_keeps s

/-- Settles O55: each instruction keeps the memories canonical (`exec_keeps`), and so does every way a step may go. -/
theorem memoryInvariant : Obligations.MemoryInvariant := by
  intro s t mem tmem staging next
  have canonical := step_keeps s ⟨mem, tmem, staging⟩ t next
  exact ⟨canonical.mem, canonical.tmem, canonical.staging⟩

end Sys2Proof.Machine
end
